-- ==== Sys2Proof/Word.lean ====
section
/-! DEFINITION. The machine word of the Ubsele and its plainest arithmetic (R3, R121). -/

namespace Sys2Proof

/-- A 32-bit word: a register, or an instruction word. -/
abbrev Word := BitVec 32

/-- A byte of memory. -/
abbrev Byte := BitVec 8

/-- A 64-bit value: an address, a program counter, a register pair. -/
abbrev DWord := BitVec 64

/-- The field of `len` bits of `f` whose lowest bit is bit `lo` (R3). -/
def fld (f lo len : Nat) : Nat := f / 2 ^ lo % 2 ^ len

/-- The number `n` as a register number below `k`, taken modulo `k`. -/
def finAt (k : Nat) [NeZero k] (n : Nat) : Fin k := Fin.ofNat k n

@[simp] theorem finAt_val (k : Nat) [NeZero k] (a : Fin k) : finAt k a.val = a := by
  apply Fin.ext
  simp [finAt, Fin.ofNat, Nat.mod_eq_of_lt a.isLt]

end Sys2Proof
end

