-- ==== Sys2Proof/Syntax.lean ====
section
/-! DEFINITION. The syntax: operands, codes and one constructor for each row of the operations table (06; 11; 95). -/

namespace Sys2Proof

/-- An 8-bit source operand of the lane set (R124, Table 6.14). -/
inductive Src where
  | v (n : Fin 128)
  | s (n : Fin 64)
  | zero
  | lane
  | sq
  | tid
  deriving DecidableEq, Repr, Inhabited

/-- The base operand of an LR memory form: an s pair or zero (R164). -/
inductive Base where
  | s (n : Fin 64)
  | zero
  deriving DecidableEq, Repr, Inhabited

/-- Integer conditions of ICMP and UCMP (Table 6.17). -/
inductive ICond where
  | eq | ne | lt | le | gt | ge | ltu | leu | gtu | geu
  deriving DecidableEq, Repr, Inhabited

/-- Floating conditions of FCMP (Table 6.17). -/
inductive FCond where
  | eq | ne | lt | le | gt | ge | un | ord
  deriving DecidableEq, Repr, Inhabited

/-- Rounding modes (Table 5.2). -/
inductive RMode where
  | rne | rtz | rdn | rup
  deriving DecidableEq, Repr, Inhabited

/-- Conversions of CVT (Table 6.19). -/
inductive Conv where
  | f2i | f2u | i2f | u2f | f2h | h2f | f2b | b2f | f2e4 | e42f | f2e5 | e52f | q4d
  deriving DecidableEq, Repr, Inhabited

/-- Fold operations of SRED and SSCAN (Table 6.18). -/
inductive RedOp where
  | add | imin | imax | umin | umax | and | or | xor | fadd | fmin | fmax
  deriving DecidableEq, Repr, Inhabited

/-- Scopes (R6, Table 0.2). -/
inductive Scope where
  | thread | squad | block | cluster | device | domain | system
  deriving DecidableEq, Repr, Inhabited

/-- The ordering operands of form UE (R127). -/
structure Ord where
  scope : Scope
  acq : Bool
  rel : Bool
  deriving DecidableEq, Repr, Inhabited

/-- Weight formats of MXLDS (Table 6.21). -/
inductive WFmt where
  | e4m3 | e5m2 | i8 | bf16 | nq4
  deriving DecidableEq, Repr, Inhabited

/-- Element sizes of CPFILL (Table 6.21). -/
inductive ElemSize where
  | b1 | b2 | b4 | b16
  deriving DecidableEq, Repr, Inhabited

/-- Codes of Table 6.17. -/
def ICond.code : ICond → Nat
  | .eq => 0
  | .ne => 1
  | .lt => 2
  | .le => 3
  | .gt => 4
  | .ge => 5
  | .ltu => 6
  | .leu => 7
  | .gtu => 8
  | .geu => 9

/-- The ICond of a code; none where the code is reserved (R130). -/
def ICond.ofCode? : Nat → Option ICond
  | 0 => some .eq
  | 1 => some .ne
  | 2 => some .lt
  | 3 => some .le
  | 4 => some .gt
  | 5 => some .ge
  | 6 => some .ltu
  | 7 => some .leu
  | 8 => some .gtu
  | 9 => some .geu
  | _ => none

theorem ICond.code_lt (x : ICond) : x.code < 16 := by cases x <;> decide

@[simp] theorem ICond.ofCode?_code (x : ICond) : ICond.ofCode? x.code = some x := by cases x <;> rfl

/-- Codes of Table 6.17. -/
def FCond.code : FCond → Nat
  | .eq => 0
  | .ne => 1
  | .lt => 2
  | .le => 3
  | .gt => 4
  | .ge => 5
  | .un => 6
  | .ord => 7

/-- The FCond of a code; none where the code is reserved (R130). -/
def FCond.ofCode? : Nat → Option FCond
  | 0 => some .eq
  | 1 => some .ne
  | 2 => some .lt
  | 3 => some .le
  | 4 => some .gt
  | 5 => some .ge
  | 6 => some .un
  | 7 => some .ord
  | _ => none

theorem FCond.code_lt (x : FCond) : x.code < 16 := by cases x <;> decide

@[simp] theorem FCond.ofCode?_code (x : FCond) : FCond.ofCode? x.code = some x := by cases x <;> rfl

/-- Codes of Table 5.2. -/
def RMode.code : RMode → Nat
  | .rne => 0
  | .rtz => 1
  | .rdn => 2
  | .rup => 3

/-- The RMode of a code; none where the code is reserved (R130). -/
def RMode.ofCode? : Nat → Option RMode
  | 0 => some .rne
  | 1 => some .rtz
  | 2 => some .rdn
  | 3 => some .rup
  | _ => none

theorem RMode.code_lt (x : RMode) : x.code < 4 := by cases x <;> decide

@[simp] theorem RMode.ofCode?_code (x : RMode) : RMode.ofCode? x.code = some x := by cases x <;> rfl

/-- Codes of Table 6.19. -/
def Conv.code : Conv → Nat
  | .f2i => 0
  | .f2u => 1
  | .i2f => 2
  | .u2f => 3
  | .f2h => 4
  | .h2f => 5
  | .f2b => 6
  | .b2f => 7
  | .f2e4 => 8
  | .e42f => 9
  | .f2e5 => 10
  | .e52f => 11
  | .q4d => 12

/-- The Conv of a code; none where the code is reserved (R130). -/
def Conv.ofCode? : Nat → Option Conv
  | 0 => some .f2i
  | 1 => some .f2u
  | 2 => some .i2f
  | 3 => some .u2f
  | 4 => some .f2h
  | 5 => some .h2f
  | 6 => some .f2b
  | 7 => some .b2f
  | 8 => some .f2e4
  | 9 => some .e42f
  | 10 => some .f2e5
  | 11 => some .e52f
  | 12 => some .q4d
  | _ => none

theorem Conv.code_lt (x : Conv) : x.code < 16 := by cases x <;> decide

@[simp] theorem Conv.ofCode?_code (x : Conv) : Conv.ofCode? x.code = some x := by cases x <;> rfl

/-- Codes of Table 6.18. -/
def RedOp.code : RedOp → Nat
  | .add => 0
  | .imin => 1
  | .imax => 2
  | .umin => 3
  | .umax => 4
  | .and => 5
  | .or => 6
  | .xor => 7
  | .fadd => 8
  | .fmin => 9
  | .fmax => 10

/-- The RedOp of a code; none where the code is reserved (R130). -/
def RedOp.ofCode? : Nat → Option RedOp
  | 0 => some .add
  | 1 => some .imin
  | 2 => some .imax
  | 3 => some .umin
  | 4 => some .umax
  | 5 => some .and
  | 6 => some .or
  | 7 => some .xor
  | 8 => some .fadd
  | 9 => some .fmin
  | 10 => some .fmax
  | _ => none

theorem RedOp.code_lt (x : RedOp) : x.code < 16 := by cases x <;> decide

@[simp] theorem RedOp.ofCode?_code (x : RedOp) : RedOp.ofCode? x.code = some x := by cases x <;> rfl

/-- Codes of Table 0.2. -/
def Scope.code : Scope → Nat
  | .thread => 0
  | .squad => 1
  | .block => 2
  | .cluster => 3
  | .device => 4
  | .domain => 5
  | .system => 6

/-- The Scope of a code; none where the code is reserved (R130). -/
def Scope.ofCode? : Nat → Option Scope
  | 0 => some .thread
  | 1 => some .squad
  | 2 => some .block
  | 3 => some .cluster
  | 4 => some .device
  | 5 => some .domain
  | 6 => some .system
  | _ => none

theorem Scope.code_lt (x : Scope) : x.code < 8 := by cases x <;> decide

@[simp] theorem Scope.ofCode?_code (x : Scope) : Scope.ofCode? x.code = some x := by cases x <;> rfl

/-- Codes of Table 6.21. -/
def WFmt.code : WFmt → Nat
  | .e4m3 => 0
  | .e5m2 => 1
  | .i8 => 2
  | .bf16 => 3
  | .nq4 => 4

/-- The WFmt of a code; none where the code is reserved (R130). -/
def WFmt.ofCode? : Nat → Option WFmt
  | 0 => some .e4m3
  | 1 => some .e5m2
  | 2 => some .i8
  | 3 => some .bf16
  | 4 => some .nq4
  | _ => none

theorem WFmt.code_lt (x : WFmt) : x.code < 8 := by cases x <;> decide

@[simp] theorem WFmt.ofCode?_code (x : WFmt) : WFmt.ofCode? x.code = some x := by cases x <;> rfl

/-- Codes of Table 6.21. -/
def ElemSize.code : ElemSize → Nat
  | .b1 => 0
  | .b2 => 1
  | .b4 => 2
  | .b16 => 3

/-- The ElemSize of a code; none where the code is reserved (R130). -/
def ElemSize.ofCode? : Nat → Option ElemSize
  | 0 => some .b1
  | 1 => some .b2
  | 2 => some .b4
  | 3 => some .b16
  | _ => none

theorem ElemSize.code_lt (x : ElemSize) : x.code < 4 := by cases x <;> decide

@[simp] theorem ElemSize.ofCode?_code (x : ElemSize) : ElemSize.ofCode? x.code = some x := by cases x <;> rfl

/-- Codes of Table 6.14. -/
def Src.code : Src → Nat
  | .v n => n.val
  | .s n => 0x80 + n.val
  | .zero => 0xC0
  | .lane => 0xC1
  | .sq => 0xC2
  | .tid => 0xC3

/-- The operand of a source code; none for 0xC4 to 0xFF (R124). -/
def Src.ofCode? (x : Nat) : Option Src :=
  if h : x < 0x80 then some (.v ⟨x, h⟩)
  else if h : x - 0x80 < 64 then some (.s ⟨x - 0x80, h⟩)
  else if x = 0xC0 then some .zero
  else if x = 0xC1 then some .lane
  else if x = 0xC2 then some .sq
  else if x = 0xC3 then some .tid
  else none

theorem Src.code_lt (x : Src) : x.code < 256 := by
  cases x <;> simp only [Src.code] <;> omega

@[simp] theorem Src.ofCode?_code (x : Src) : Src.ofCode? x.code = some x := by
  cases x with
  | v n => simp [Src.code, Src.ofCode?]
  | s n => simp [Src.code, Src.ofCode?]
  | _ => rfl

/-- Descriptors of a chain as the driver lays them out: address, length, flags (R242). -/
abbrev Descriptors := List (DWord × Nat × Nat)

/-- Bytes that the host writes to its own memory: host address and bytes. -/
abbrev HostStores := List (Nat × List Byte)

/-- What the driver gives for a queue it enables (R242, R261): the number of entries, and where its event suppression structure
lies. -/
structure QueueSetup where
  size : Nat
  area : Nat
  deriving DecidableEq, Repr

/-- Codes of the base operand: an s code or 0xC0 (R164). -/
def Base.code : Base → Nat
  | .s n => 0x80 + n.val
  | .zero => 0xC0

/-- The base of a source code; none where R164 reserves it. -/
def Base.ofCode? (x : Nat) : Option Base :=
  if x < 0x80 then none
  else if h : x - 0x80 < 64 then some (.s ⟨x - 0x80, h⟩)
  else if x = 0xC0 then some .zero
  else none

theorem Base.code_lt (x : Base) : x.code < 256 := by
  cases x <;> simp only [Base.code] <;> omega

@[simp] theorem Base.ofCode?_code (x : Base) : Base.ofCode? x.code = some x := by
  cases x with
  | s n => simp [Base.code, Base.ofCode?]
  | zero => rfl

/-- The conversions that take a rounding mode (Table 6.19). -/
def Conv.takesMode : Conv → Bool
  | .f2i | .f2u | .i2f | .u2f | .f2h | .f2b => true
  | .h2f | .b2f | .f2e4 | .e42f | .f2e5 | .e52f | .q4d => false

/-- Bit 17 of an MXLDS word: the high bit of the format code (Table 6.20). -/
def WFmt.hi (x : WFmt) : Nat := x.code / 4

/-- The variant of an MXLDS word: the low bits of the format code (Table 6.20). -/
def WFmt.lo (x : WFmt) : Nat := x.code % 4

theorem WFmt.hi_lt (x : WFmt) : x.hi < 2 := by cases x <;> decide

theorem WFmt.lo_lt (x : WFmt) : x.lo < 4 := by cases x <;> decide

@[simp] theorem WFmt.ofCode?_hi_lo (x : WFmt) : WFmt.ofCode? (x.hi * 4 + x.lo) = some x := by cases x <;> rfl


/-- The instructions and the steps of the part, one constructor per row of the operations table. -/
inductive Instr where
  /-- NOP (R121). Lane-set no-operation that changes only the program counter. -/
  | nop (e : Bool)
  /-- IADD (R141). Writes the 32-bit wrapped sum of two sources to vd. -/
  | iadd (e : Bool) (vd : Fin 128) (xa xb : Src)
  /-- ISUB (R141). Writes the 32-bit wrapped difference of two sources to vd. -/
  | isub (e : Bool) (vd : Fin 128) (xa xb : Src)
  /-- IMUL (R141). Writes the low 32 bits of the product to vd. -/
  | imul (e : Bool) (vd : Fin 128) (xa xb : Src)
  /-- IMULH (R141). Writes the high word of the signed 64-bit product to vd. -/
  | imulh (e : Bool) (vd : Fin 128) (xa xb : Src)
  /-- IMULHU (R141). Writes the high word of the unsigned 64-bit product to vd. -/
  | imulhu (e : Bool) (vd : Fin 128) (xa xb : Src)
  /-- IMAD (R141). Adds the wrapped product of two sources to vd. -/
  | imad (e : Bool) (vd : Fin 128) (xa xb : Src)
  /-- IMIN (R141). Writes the signed minimum of two sources to vd. -/
  | imin (e : Bool) (vd : Fin 128) (xa xb : Src)
  /-- IMAX (R141). Writes the signed maximum of two sources to vd. -/
  | imax (e : Bool) (vd : Fin 128) (xa xb : Src)
  /-- UMIN (R141). Writes the unsigned minimum of two sources to vd. -/
  | umin (e : Bool) (vd : Fin 128) (xa xb : Src)
  /-- UMAX (R141). Writes the unsigned maximum of two sources to vd. -/
  | umax (e : Bool) (vd : Fin 128) (xa xb : Src)
  /-- IDIV (R142). Writes the signed truncated quotient, with defined results for zero divisor and overflow. -/
  | idiv (e : Bool) (vd : Fin 128) (xa xb : Src)
  /-- UDIV (R142). Writes the unsigned quotient, all ones for a zero divisor. -/
  | udiv (e : Bool) (vd : Fin 128) (xa xb : Src)
  /-- IREM (R142). Writes the signed remainder with the dividend's sign. -/
  | irem (e : Bool) (vd : Fin 128) (xa xb : Src)
  /-- UREM (R142). Writes the unsigned remainder, the dividend for a zero divisor. -/
  | urem (e : Bool) (vd : Fin 128) (xa xb : Src)
  /-- QPUSHV (R191). Pushes vd of each active lane into queue qN in home-lane order, waiting while full. -/
  | qpushv (q : Fin 16) (vd : Fin 128)
  /-- AND (R143). Writes the bitwise AND of two sources. -/
  | and (e : Bool) (vd : Fin 128) (xa xb : Src)
  /-- OR (R143). Writes the bitwise OR of two sources. -/
  | or (e : Bool) (vd : Fin 128) (xa xb : Src)
  /-- XOR (R143). Writes the bitwise XOR of two sources. -/
  | xor (e : Bool) (vd : Fin 128) (xa xb : Src)
  /-- ANDN (R143). Writes a AND NOT b. -/
  | andn (e : Bool) (vd : Fin 128) (xa xb : Src)
  /-- SHL (R143). Shifts left by the full 32-bit amount, 0 from 32 upward. -/
  | shl (e : Bool) (vd : Fin 128) (xa xb : Src)
  /-- SHR (R143). Shifts right with zero fill. -/
  | shr (e : Bool) (vd : Fin 128) (xa xb : Src)
  /-- SAR (R143). Shifts right with sign fill. -/
  | sar (e : Bool) (vd : Fin 128) (xa xb : Src)
  /-- POPC (R143). Writes the count of one bits. -/
  | popc (e : Bool) (vd : Fin 128) (xa : Src)
  /-- CLZ (R143). Writes the count of leading zero bits. -/
  | clz (e : Bool) (vd : Fin 128) (xa : Src)
  /-- BREV (R143). Writes the bit-reversed source. -/
  | brev (e : Bool) (vd : Fin 128) (xa : Src)
  /-- BFE (R144). Extracts a bit field described by a control word, optionally sign-extended. -/
  | bfe (e : Bool) (vd : Fin 128) (xa xb : Src)
  /-- BFI (R144). Inserts a bit field into vd under a control word. -/
  | bfi (e : Bool) (vd : Fin 128) (xa xb : Src)
  /-- IADDI (R145). Adds a sign-extended 8-bit immediate. -/
  | iaddi (e : Bool) (vd : Fin 128) (xa : Src) (imm : BitVec 8)
  /-- ANDI (R145). ANDs with a sign-extended immediate. -/
  | andi (e : Bool) (vd : Fin 128) (xa : Src) (imm : BitVec 8)
  /-- ORI (R145). ORs with a sign-extended immediate. -/
  | ori (e : Bool) (vd : Fin 128) (xa : Src) (imm : BitVec 8)
  /-- XORI (R145). XORs with a sign-extended immediate. -/
  | xori (e : Bool) (vd : Fin 128) (xa : Src) (imm : BitVec 8)
  /-- SHLI (R145). Shifts left by an unsigned immediate. -/
  | shli (e : Bool) (vd : Fin 128) (xa : Src) (imm : BitVec 8)
  /-- SHRI (R145). Shifts right logically by an unsigned immediate. -/
  | shri (e : Bool) (vd : Fin 128) (xa : Src) (imm : BitVec 8)
  /-- SARI (R145). Shifts right arithmetically by an unsigned immediate. -/
  | sari (e : Bool) (vd : Fin 128) (xa : Src) (imm : BitVec 8)
  /-- MOVI (R146). Writes a sign-extended 16-bit immediate to vd. -/
  | movi (e : Bool) (vd : Fin 128) (imm : BitVec 16)
  /-- MOVHI (R146). Replaces the high half of vd with a 16-bit immediate. -/
  | movhi (e : Bool) (vd : Fin 128) (imm : BitVec 16)
  /-- MOV (R146). Copies a source operand to vd. -/
  | mov (e : Bool) (vd : Fin 128) (xa : Src)
  /-- SEL (R146). Selects xa when k0 is 1, else xb. -/
  | sel (e : Bool) (vd : Fin 128) (xa xb : Src)
  /-- MOVS (R147). Reads a special register into vd. -/
  | movs (e : Bool) (vd : Fin 128) (idx : BitVec 8)
  /-- ICMP (R148). Sets kd from an integer comparison under condition cc. -/
  | icmp (e : Bool) (cc : ICond) (kd : Fin 8) (xa xb : Src)
  /-- FCMP (R149). Sets kd from an FP32 comparison under condition cc. -/
  | fcmp (e : Bool) (cc : FCond) (kd : Fin 8) (xa xb : Src)
  /-- KAND (R150). Sets kd to ka AND kb. -/
  | kand (e : Bool) (kd ka kb : Fin 8)
  /-- KOR (R150). Sets kd to ka OR kb. -/
  | kor (e : Bool) (kd ka kb : Fin 8)
  /-- KXOR (R150). Sets kd to ka XOR kb. -/
  | kxor (e : Bool) (kd ka kb : Fin 8)
  /-- KANDN (R150). Sets kd to ka AND NOT kb. -/
  | kandn (e : Bool) (kd ka kb : Fin 8)
  /-- KNOT (R150). Sets kd to NOT ka. -/
  | knot (e : Bool) (kd ka : Fin 8)
  /-- KTOV (R150). Writes 1 or 0 to vd from predicate ka. -/
  | ktov (e : Bool) (vd : Fin 128) (ka : Fin 8)
  /-- VTOK (R150). Sets kd to 1 when the source is non-zero. -/
  | vtok (e : Bool) (kd : Fin 8) (xa : Src)
  /-- IADD64 (R151). Writes the wrapped 64-bit sum of two 64-bit sources to a register pair. -/
  | iadd64 (e : Bool) (vd : Fin 128) (xa xb : Src)
  /-- IMULW (R151). Writes the full 64-bit signed product to a register pair. -/
  | imulw (e : Bool) (vd : Fin 128) (xa xb : Src)
  /-- FADD (R152). Writes the RNE-rounded FP32 sum. -/
  | fadd (e : Bool) (vd : Fin 128) (xa xb : Src)
  /-- FSUB (R152). Writes the RNE-rounded FP32 difference. -/
  | fsub (e : Bool) (vd : Fin 128) (xa xb : Src)
  /-- FMUL (R152). Writes the RNE-rounded FP32 product. -/
  | fmul (e : Bool) (vd : Fin 128) (xa xb : Src)
  /-- FFMA (R152). Writes vd plus a times b with one rounding. -/
  | ffma (e : Bool) (vd : Fin 128) (xa xb : Src)
  /-- FMIN (R153). Writes the numeric FP32 minimum with NaN rules. -/
  | fmin (e : Bool) (vd : Fin 128) (xa xb : Src)
  /-- FMAX (R153). Writes the numeric FP32 maximum with NaN rules. -/
  | fmax (e : Bool) (vd : Fin 128) (xa xb : Src)
  /-- FDIV (R152). Writes the correctly rounded FP32 quotient. -/
  | fdiv (e : Bool) (vd : Fin 128) (xa xb : Src)
  /-- FABS (R154). Clears the sign of an FP32 value. -/
  | fabs (e : Bool) (vd : Fin 128) (xa : Src)
  /-- FNEG (R154). Inverts the sign of an FP32 value. -/
  | fneg (e : Bool) (vd : Fin 128) (xa : Src)
  /-- FFLOOR (R154). Rounds an FP32 value down to an integer value. -/
  | ffloor (e : Bool) (vd : Fin 128) (xa : Src)
  /-- FCEIL (R154). Rounds an FP32 value up to an integer value. -/
  | fceil (e : Bool) (vd : Fin 128) (xa : Src)
  /-- FTRUNC (R154). Rounds an FP32 value toward zero to an integer value. -/
  | ftrunc (e : Bool) (vd : Fin 128) (xa : Src)
  /-- FRINT (R154). Rounds an FP32 value to the nearest even integer value. -/
  | frint (e : Bool) (vd : Fin 128) (xa : Src)
  /-- FRCP (R155). Approximates the reciprocal within 1 ulp. -/
  | frcp (e : Bool) (vd : Fin 128) (xa : Src)
  /-- FRSQ (R155). Approximates the reciprocal square root within 1 ulp. -/
  | frsq (e : Bool) (vd : Fin 128) (xa : Src)
  /-- FSQRT (R154). Writes the correctly rounded square root. -/
  | fsqrt (e : Bool) (vd : Fin 128) (xa : Src)
  /-- FEXP2 (R155). Approximates 2 to the power a. -/
  | fexp2 (e : Bool) (vd : Fin 128) (xa : Src)
  /-- FLOG2 (R155). Approximates log base 2 of a. -/
  | flog2 (e : Bool) (vd : Fin 128) (xa : Src)
  /-- FSIN (R155). Approximates sin of a turns. -/
  | fsin (e : Bool) (vd : Fin 128) (xa : Src)
  /-- FCOS (R155). Approximates cos of a turns. -/
  | fcos (e : Bool) (vd : Fin 128) (xa : Src)
  /-- FCLASS (R156). Writes a one-hot class mask of an FP32 value. -/
  | fclass (e : Bool) (vd : Fin 128) (xa : Src)
  /-- FSCALE (R152). Scales an FP32 value by a power of two with one rounding. -/
  | fscale (e : Bool) (vd : Fin 128) (xa xb : Src)
  /-- QPOPV (R191). Pops the head of qN into vd for each active lane in home-lane order, waiting while empty. -/
  | qpopv (vd : Fin 128) (q : Fin 16)
  /-- MXSTR (R196). Pushes a stream command feeding each lane's activation row through the active plane into accumulator rows. -/
  | mxstr (tile : Fin 8) (xa : Src) (vd : Fin 128) (bsel : BitVec 2) (q8 zf : Bool)
  /-- HADD2 (R157). Adds packed FP16 pairs. -/
  | hadd2 (e : Bool) (vd : Fin 128) (xa xb : Src)
  /-- HMUL2 (R157). Multiplies packed FP16 pairs. -/
  | hmul2 (e : Bool) (vd : Fin 128) (xa xb : Src)
  /-- HFMA2 (R157). Fused multiply-adds packed FP16 pairs into vd. -/
  | hfma2 (e : Bool) (vd : Fin 128) (xa xb : Src)
  /-- BADD2 (R157). Adds packed BF16 pairs. -/
  | badd2 (e : Bool) (vd : Fin 128) (xa xb : Src)
  /-- BMUL2 (R157). Multiplies packed BF16 pairs. -/
  | bmul2 (e : Bool) (vd : Fin 128) (xa xb : Src)
  /-- BFMA2 (R157). Fused multiply-adds packed BF16 pairs into vd. -/
  | bfma2 (e : Bool) (vd : Fin 128) (xa xb : Src)
  /-- IADD2 (R157). Adds packed I16 pairs with wrap. -/
  | iadd2 (e : Bool) (vd : Fin 128) (xa xb : Src)
  /-- ISUB2 (R157). Subtracts packed I16 pairs with wrap. -/
  | isub2 (e : Bool) (vd : Fin 128) (xa xb : Src)
  /-- IADDS2 (R157). Adds packed I16 pairs with saturation. -/
  | iadds2 (e : Bool) (vd : Fin 128) (xa xb : Src)
  /-- ISUBS2 (R157). Subtracts packed I16 pairs with saturation. -/
  | isubs2 (e : Bool) (vd : Fin 128) (xa xb : Src)
  /-- IMAX2 (R157). Writes the packed I16 maxima. -/
  | imax2 (e : Bool) (vd : Fin 128) (xa xb : Src)
  /-- IMIN2 (R157). Writes the packed I16 minima. -/
  | imin2 (e : Bool) (vd : Fin 128) (xa xb : Src)
  /-- IDP4 (R158). Adds a signed 4-way byte dot product to vd. -/
  | idp4 (e : Bool) (vd : Fin 128) (xa xb : Src)
  /-- UDP4 (R158). Adds an unsigned 4-way byte dot product to vd. -/
  | udp4 (e : Bool) (vd : Fin 128) (xa xb : Src)
  /-- HDP2 (R158). Adds an FP16 2-way dot product to FP32 vd with one rounding. -/
  | hdp2 (e : Bool) (vd : Fin 128) (xa xb : Src)
  /-- BDP2 (R158). Adds a BF16 2-way dot product to FP32 vd with one rounding. -/
  | bdp2 (e : Bool) (vd : Fin 128) (xa xb : Src)
  /-- CVT (R159). Converts between number formats under a function byte of conversion, mode and overflow. -/
  | cvt (e : Bool) (conv : Conv) (mode : RMode) (inf : Bool) (vd : Fin 128) (xa : Src)
  /-- PACK (R160). Packs the low halves of two sources into one word. -/
  | pack (e : Bool) (vd : Fin 128) (xa xb : Src)
  /-- SHFL (R161). Squad rendezvous returning the operand of a chosen lane. -/
  | shfl (vd : Fin 128) (xa xb : Src)
  /-- SHFLX (R161). Squad rendezvous returning the operand of the XOR-partner lane. -/
  | shflx (vd : Fin 128) (xa xb : Src)
  /-- BALLOT (R161). Squad rendezvous returning the mask of live lanes with non-zero operands. -/
  | ballot (vd : Fin 128) (xa : Src)
  /-- SRED (R163). Squad rendezvous folding all lanes' operands in home-lane order. -/
  | sred (op : RedOp) (vd : Fin 128) (xa : Src)
  /-- SSCAN (R163). Squad rendezvous giving each lane an inclusive or exclusive prefix fold. -/
  | sscan (op : RedOp) (excl : Bool) (vd : Fin 128) (xa : Src)
  /-- MATCH (R161). Squad rendezvous returning the mask of live lanes with equal operands. -/
  | matchLanes (vd : Fin 128) (xa : Src)
  /-- LDB (R166). Loads a zero-extended byte. -/
  | ldb (e : Bool) (vd : Fin 128) (xa : Src) (xb : Base)
  /-- LDH (R166). Loads a zero-extended half-word. -/
  | ldh (e : Bool) (vd : Fin 128) (xa : Src) (xb : Base)
  /-- LDW (R166). Loads a word. -/
  | ldw (e : Bool) (vd : Fin 128) (xa : Src) (xb : Base)
  /-- LDQ (R166). Loads 16 bytes into four registers. -/
  | ldq (e : Bool) (vd : Fin 128) (xa : Src) (xb : Base)
  /-- STB (R167). Stores a byte into the run store buffer. -/
  | stb (e : Bool) (vd : Fin 128) (xa : Src) (xb : Base)
  /-- STH (R167). Stores a half-word into the run store buffer. -/
  | sth (e : Bool) (vd : Fin 128) (xa : Src) (xb : Base)
  /-- STW (R167). Stores a word into the run store buffer. -/
  | stw (e : Bool) (vd : Fin 128) (xa : Src) (xb : Base)
  /-- STQ (R167). Stores 16 bytes from four registers into the run store buffer. -/
  | stq (e : Bool) (vd : Fin 128) (xa : Src) (xb : Base)
  /-- SLDW (R166). Loads a word from the local window. -/
  | sldw (e : Bool) (vd : Fin 128) (xa : Src) (imm : BitVec 8)
  /-- SLDQ (R166). Loads 16 bytes from the local window. -/
  | sldq (e : Bool) (vd : Fin 128) (xa : Src) (imm : BitVec 8)
  /-- SSTW (R166). Stores a word to the local window. -/
  | sstw (e : Bool) (vd : Fin 128) (xa : Src) (imm : BitVec 8)
  /-- SSTQ (R166). Stores 16 bytes to the local window. -/
  | sstq (e : Bool) (vd : Fin 128) (xa : Src) (imm : BitVec 8)
  /-- CLDW (R166). Loads a word from the cluster window. -/
  | cldw (e : Bool) (vd : Fin 128) (xa : Src) (imm : BitVec 8)
  /-- CSTW (R166). Stores a word to the cluster window. -/
  | cstw (e : Bool) (vd : Fin 128) (xa : Src) (imm : BitVec 8)
  /-- LDWP (R166). Loads a word through a 64-bit register-pair pointer. -/
  | ldwp (e : Bool) (vd va : Fin 128) (imm : BitVec 8)
  /-- STWP (R166). Stores a word through a 64-bit register-pair pointer. -/
  | stwp (e : Bool) (vd va : Fin 128) (imm : BitVec 8)
  /-- AXCH (R168). Strict atomic exchange of a word. -/
  | axch (vd : Fin 128) (xa : Src) (xb : Base)
  /-- ACAS (R169). Strict atomic compare-and-swap of a word. -/
  | acas (vd : Fin 128) (xa : Src) (xb : Base)
  /-- AADD (R170). Aggregated atomic add with per-lane old values. -/
  | aadd (vd : Fin 128) (xa : Src) (xb : Base)
  /-- AIMIN (R170). Aggregated atomic signed minimum. -/
  | aimin (vd : Fin 128) (xa : Src) (xb : Base)
  /-- AIMAX (R170). Aggregated atomic signed maximum. -/
  | aimax (vd : Fin 128) (xa : Src) (xb : Base)
  /-- AUMIN (R170). Aggregated atomic unsigned minimum. -/
  | aumin (vd : Fin 128) (xa : Src) (xb : Base)
  /-- AUMAX (R170). Aggregated atomic unsigned maximum. -/
  | aumax (vd : Fin 128) (xa : Src) (xb : Base)
  /-- AAND (R170). Aggregated atomic AND. -/
  | aand (vd : Fin 128) (xa : Src) (xb : Base)
  /-- AOR (R170). Aggregated atomic OR. -/
  | aor (vd : Fin 128) (xa : Src) (xb : Base)
  /-- AXOR (R170). Aggregated atomic XOR. -/
  | axor (vd : Fin 128) (xa : Src) (xb : Base)
  /-- AFADD (R171). Aggregated atomic FP32 add with lane-order folding and rounding. -/
  | afadd (vd : Fin 128) (xa : Src) (xb : Base)
  /-- BR (R181). Per-thread branch taken when kN is 1. -/
  | br (k : Fin 8) (off : BitVec 20)
  /-- BRN (R181). Per-thread branch taken when kN is 0. -/
  | brn (k : Fin 8) (off : BitVec 20)
  /-- JMP (R181). Per-thread unconditional jump. -/
  | jmp (off : BitVec 20)
  /-- CALL (R183). Pushes the return address on the call stack and jumps. -/
  | call (off : BitVec 20)
  /-- RET (R183). Returns to the top call-stack entry, or exits at depth 0. -/
  | ret
  /-- JR (R183). Jumps to a 64-bit register target. -/
  | jr (xa : Src)
  /-- CALLR (R183). Calls a 64-bit register target. -/
  | callr (xa : Src)
  /-- EXIT (R185). Ends the thread; its last live exit moves the squad to DRAINING. -/
  | exit
  /-- YIELD (R186). Ends the run and excludes the thread from the next pick. -/
  | yield
  /-- FRAME (R184). Raises frame budget exceeded when n exceeds the allotment. -/
  | frame (e : Bool) (n : BitVec 8)
  /-- UNOP (R121). Squad-set no-operation. -/
  | unop (e : Bool)
  /-- UADD (R175). Squad register wrapped add. -/
  | uadd (e : Bool) (sd sa sb : Fin 64)
  /-- USUB (R175). Squad register wrapped subtract. -/
  | usub (e : Bool) (sd sa sb : Fin 64)
  /-- UMUL (R175). Squad register low product. -/
  | umul (e : Bool) (sd sa sb : Fin 64)
  /-- UMULH (R175). Squad register signed high product. -/
  | umulh (e : Bool) (sd sa sb : Fin 64)
  /-- UAND (R175). Squad register AND. -/
  | uand (e : Bool) (sd sa sb : Fin 64)
  /-- UOR (R175). Squad register OR. -/
  | uor (e : Bool) (sd sa sb : Fin 64)
  /-- UXOR (R175). Squad register XOR. -/
  | uxor (e : Bool) (sd sa sb : Fin 64)
  /-- USHL (R175). Squad register shift left. -/
  | ushl (e : Bool) (sd sa sb : Fin 64)
  /-- USHR (R175). Squad register logical shift right. -/
  | ushr (e : Bool) (sd sa sb : Fin 64)
  /-- USAR (R175). Squad register arithmetic shift right. -/
  | usar (e : Bool) (sd sa sb : Fin 64)
  /-- UIMIN (R175). Squad register signed minimum. -/
  | uimin (e : Bool) (sd sa sb : Fin 64)
  /-- UIMAX (R175). Squad register signed maximum. -/
  | uimax (e : Bool) (sd sa sb : Fin 64)
  /-- UMINU (R175). Squad register unsigned minimum. -/
  | uminu (e : Bool) (sd sa sb : Fin 64)
  /-- UMAXU (R175). Squad register unsigned maximum. -/
  | umaxu (e : Bool) (sd sa sb : Fin 64)
  /-- UADDI (R176). Squad register add of an 11-bit signed immediate. -/
  | uaddi (e : Bool) (sd sa : Fin 64) (imm : BitVec 11)
  /-- UANDI (R176). Squad register AND with a sign-extended immediate. -/
  | uandi (e : Bool) (sd sa : Fin 64) (imm : BitVec 11)
  /-- USHLI (R176). Squad register shift left by an immediate. -/
  | ushli (e : Bool) (sd sa : Fin 64) (imm : BitVec 11)
  /-- USHRI (R176). Squad register logical shift right by an immediate. -/
  | ushri (e : Bool) (sd sa : Fin 64) (imm : BitVec 11)
  /-- UMOVI (R176). Writes a sign-extended 16-bit immediate to a squad register. -/
  | umovi (e : Bool) (sd : Fin 64) (imm : BitVec 16)
  /-- UMOVHI (R176). Replaces the high half of a squad register. -/
  | umovhi (e : Bool) (sd : Fin 64) (imm : BitVec 16)
  /-- UMOV (R176). Copies a squad register. -/
  | umov (e : Bool) (sd sa : Fin 64)
  /-- URDS (R178). Reads a squad-or-wider special register into a squad register. -/
  | urds (e : Bool) (sd : Fin 64) (idx : BitVec 8)
  /-- UADD64 (R176). Adds two 64-bit squad register pairs. -/
  | uadd64 (e : Bool) (sd sa sb : Fin 64)
  /-- UADDI64 (R176). Adds an immediate to a 64-bit squad register pair. -/
  | uaddi64 (e : Bool) (sd sa : Fin 64) (imm : BitVec 11)
  /-- UCMP (R177). Sets a squad predicate from an integer comparison. -/
  | ucmp (e : Bool) (cc : ICond) (jd : Fin 8) (sa sb : Fin 64)
  /-- JAND (R177). Sets jd to ja AND jb. -/
  | jand (e : Bool) (jd ja jb : Fin 8)
  /-- JOR (R177). Sets jd to ja OR jb. -/
  | jor (e : Bool) (jd ja jb : Fin 8)
  /-- JXOR (R177). Sets jd to ja XOR jb. -/
  | jxor (e : Bool) (jd ja jb : Fin 8)
  /-- JANDN (R177). Sets jd to ja AND NOT jb. -/
  | jandn (e : Bool) (jd ja jb : Fin 8)
  /-- JNOT (R177). Sets jd to NOT ja. -/
  | jnot (e : Bool) (jd ja : Fin 8)
  /-- UBR (R187). Squad branch taken per squad when jN is 1. -/
  | ubr (k : Fin 8) (off : BitVec 20)
  /-- UBRN (R187). Squad branch taken per squad when jN is 0. -/
  | ubrn (k : Fin 8) (off : BitVec 20)
  /-- ULDW (R179). Squad-set word load by the lowest lane of the squad in the wave. -/
  | uldw (e : Bool) (sd sa : Fin 64) (imm : BitVec 11)
  /-- ULDD (R179). Squad-set doubleword load into a register pair. -/
  | uldd (e : Bool) (sd sa : Fin 64) (imm : BitVec 11)
  /-- USTW (R179). Squad-set word store. -/
  | ustw (e : Bool) (sd sa : Fin 64) (imm : BitVec 11)
  /-- UFENCE (R174). Fence with acquire, release or both parts at a scope, once per squad. -/
  | ufence (ord : Ord)
  /-- QPUSH (R180). Pushes a squad register into a queue, waiting while full. -/
  | qpush (q : Fin 16) (sa : Fin 64)
  /-- QPOP (R180). Pops a queue into a squad register, waiting while empty. -/
  | qpop (sd : Fin 64) (q : Fin 16)
  /-- QTRY (R180). Pops a queue if non-empty and reports success in a predicate. -/
  | qtry (sd : Fin 64) (jd : Fin 8) (q : Fin 16)
  /-- MXLDS (R194). Pushes a command loading a weight plane, scale record and tile into the shadow plane. -/
  | mxlds (sa : Fin 64) (fmt : WFmt) (g : Fin 16) (ord : Ord)
  /-- MXSWAP (R195). Pushes a command exchanging active and shadow planes after the load completes. -/
  | mxswap (g : Fin 16)
  /-- MXDRN (R198). Pushes a command draining an accumulator tile to memory with two roundings. -/
  | mxdrn (sd sa : Fin 64) (g : Fin 16) (ord : Ord)
  /-- MXZERO (R199). Pushes a command setting an accumulator tile to +0.0. -/
  | mxzero (tile : Fin 8) (g : Fin 16)
  /-- CPCOPY (R201). Pushes a strided row copy command to q2. -/
  | cpcopy (sd sa : Fin 64) (g : Fin 16) (ord : Ord)
  /-- CPGATH (R201). Pushes an indexed gather command into a window. -/
  | cpgath (sd sa : Fin 64) (g : Fin 16) (ord : Ord)
  /-- CPSCAT (R201). Pushes an indexed scatter command from a window. -/
  | cpscat (sd sa : Fin 64) (g : Fin 16) (ord : Ord)
  /-- CPFILL (R201). Pushes a pattern fill command with element size from the variant. -/
  | cpfill (sd sa : Fin 64) (size : ElemSize) (g : Fin 16) (ord : Ord)
  /-- ALLOC (R202). Requests a heap object from the Storekeeper and waits for the reply. -/
  | alloc (sd sa : Fin 64)
  /-- FREE (R203). Releases a held object to the Storekeeper with a device-scope release. -/
  | free (sa : Fin 64)
  /-- FETCH (R204). Pops a tile index from q6, completing the previous tile. -/
  | fetch (sd : Fin 64)
  /-- BARS (R205). Arrives at a block barrier and waits for the phase. -/
  | bars (n : Fin 16)
  /-- BARA (R205). Arrives at a block barrier and continues. -/
  | bara (n : Fin 16)
  /-- BARW (R205). Waits for the phase of the thread's last arrival. -/
  | barw (n : Fin 16)
  /-- GBAR (R206). Arrives at and waits on the gang barrier at cluster scope. -/
  | gbar
  /-- CHINIT (R207). Initialises a channel's ring, capacity and allowance. -/
  | chinit (ch : Fin 16) (sa sb : Fin 64)
  /-- CHPUSH (R208). Releases and pushes a value into a channel, waiting without allowance. -/
  | chpush (ch : Fin 16) (sa : Fin 64)
  /-- CHPOP (R208). Pops a channel entry with an acquire, waiting while empty. -/
  | chpop (sd : Fin 64) (ch : Fin 16)
  /-- GARM (R209). Arms a guard slot so later guarded pushes bind to it. -/
  | garm (g : Fin 16)
  /-- GRES (R209). Resolves an armed guard slot OPEN or SHUT from a squad predicate. -/
  | gres (g : Fin 16) (jd : Fin 8)
  /-- LKACQ (R211). Acquires a lock word or queues the squad as a waiter. -/
  | lkacq (sa : Fin 64) (ord : Ord)
  /-- LKTRY (R211). Tries once to acquire a lock, reporting in a predicate. -/
  | lktry (jd : Fin 8) (sa : Fin 64) (ord : Ord)
  /-- LKREL (R211). Releases a held lock, handing it to the oldest unsuspended waiter. -/
  | lkrel (sa : Fin 64) (ord : Ord)
  /-- PRMAKE (R213). Makes a promise cell held by the squad. -/
  | prmake (sa : Fin 64)
  /-- PRSET (R213). Fulfils a held promise and completes its waiters. -/
  | prset (sa sd : Fin 64) (ord : Ord)
  /-- PRWAIT (R213). Waits until a promise is full, then reads value and bereaved bit. -/
  | prwait (sd : Fin 64) (jd : Fin 8) (sa : Fin 64) (ord : Ord)
  /-- SETHEIR (R215). Sets the squad's heir for its holdings. -/
  | setheir (sa : Fin 64)
  /-- INHERIT (R217). Pops an estate notice from q7, waiting while empty. -/
  | inherit (sd : Fin 64)
  /-- INHERIT_NB (R217). Pops an estate notice if present without waiting. -/
  | inheritNb (sd : Fin 64) (jd : Fin 8)
  /-- WAITSIG (R218). Waits until a 64-bit signal reaches a value. -/
  | waitsig (sa sd : Fin 64) (ord : Ord)
  /-- SIGADD (R218). Adds saturating to a signal and re-tests its waiters. -/
  | sigadd (sa sd : Fin 64) (ord : Ord)
  /-- PUBLISH (R219). Releases at system scope and starts a publication of a window. -/
  | publish (sa : Fin 64)
  /-- TRAP (R220). Enters the role's handler with cause 0x10. -/
  | trap (imm : BitVec 11)
  /-- HRET (R221). Returns each thread from the handler to its sr.hpc. -/
  | hret
  /-- BKPT (R220). Enters the handler with cause 0x11, or stops for a claiming debugger. -/
  | bkpt (imm : BitVec 11)
  /-- SRW (R222). Writes a writable special register from a squad register. -/
  | srw (idx : BitVec 8) (sa : Fin 64)
  /-- RFETCH (R261). Porter copies the next available descriptor chain of a local queue into its fetch area. -/
  | rfetch (rd rs : Fin 32)
  /-- RPOST (R261). Porter posts a used element for a fetched chain. -/
  | rpost (rs rt : Fin 32)
  /-- BFX (R261). Porter bit-field extract. -/
  | bfx (rd rs pos len : Fin 32) (hi : Fin 4)
  /-- BFI_PORTER (R261). Porter bit-field insert. -/
  | bfiPorter (rd rs pos len : Fin 32) (hi : Fin 4)
  /-- SWAIT (R261). Porter waits until an armed source in a mask fires. -/
  | swait (rd rs : Fin 32)
  /-- SARM (R261). Porter arms a doorbell or signal-watch source. -/
  | sarm (rs rt : Fin 32)
  /-- DISP (R261). Porter hands a checked launch header to the dispatcher FIFO. -/
  | disp (rd rs rt : Fin 32)
  /-- DSTAT (R261). Porter reads a launch's state and completed-tile count. -/
  | dstat (rd rs : Fin 32)
  /-- UNIMPLEMENTED_ENCODING (R299). A word with a reserved major opcode or reserved function code is issued, is not executed and raises cause 0x01. -/
  | unimplementedEncoding (w : Word)
  /-- PORTER_EXCEPTION (R348). A Porter extension exception is taken, and a double or unhandled one halts and reloads the Porter. -/
  | porterException (p : Nat)
  /-- LAUNCH (R248). Work-queue command that starts a launch through the stages of Table 2.1. -/
  | launch (queue buf : Nat)
  /-- LAUNCH_MEASURED (R41). Stage 3 ends when the Assayer knows the digests and the launch link is taken. -/
  | launchMeasured (lid : Nat)
  /-- HOLD_EXPIRE (R62). A latency-tolerance hold ends after T ticks and passes the partition's held launches to stage 6. -/
  | holdExpire (lid : Nat)
  /-- LAUNCH_BIND (R48). The dispatcher binds the head launch of the highest FIFO to open clusters. -/
  | launchBind
  /-- ROW_LOAD (R35). The loader fills a free lease-table row with the next waiting or returning squad. -/
  | rowLoad (core row : Nat)
  /-- ROW_LOAD_COMPLETE (R34). A LOADING row becomes RESIDENT once the initial state is written. -/
  | rowLoadComplete (squad : Nat)
  /-- PICK (R26). A wave is formed for a free slot from ready threads by launch rule, age and count. -/
  | pick (core slot : Nat) (resume : Option Nat)
  /-- RUN_FAULT (R309). A class R cause in a wave restores every thread's entry state and starts slow gear. -/
  | runFault (core slot : Nat)
  /-- SLOW_GEAR_WORD (R310). Slow gear executes one word of a faulted run for one thread. -/
  | slowGearWord (core slot : Nat)
  /-- HANDLER_ENTRY (R315). Once the squad's other threads stop, handler registers are written and threads start at sr.hvec. -/
  | handlerEntry (squad : Nat)
  /-- ESCALATION_KILL (R358). After an unclaimed escalation the Porter halts, finalises the dump, kills and completes the launch. -/
  | escalationKill (lid : Nat)
  /-- CONVEY (R216). A dead squad's holdings pass along the heir chain as a device-scope release, after every ALLOC reply. -/
  | convey (squad : Nat)
  /-- ROW_DRAIN_COMPLETE (R34). A DRAINING row becomes FREE once stores, engine commands and conveyance are done. -/
  | rowDrainComplete (squad : Nat)
  /-- EVICT_SAVE_COMPLETE (R51). A SAVING squad's state is saved and its row is freed. -/
  | evictSaveComplete (squad : Nat)
  /-- ROTATION (R55). After 1,024 picks with a saved squad waiting, the longest-waiting saved squad is restored. -/
  | rotation (core : Nat)
  /-- RESTORE_COMPLETE (R34). A RESTORING squad's saved state is written back and it becomes RESIDENT. -/
  | restoreComplete (squad : Nat)
  /-- FOREGROUND_SWAP (R68). The core moves 320 KiB windows when the foreground block context changes. -/
  | foregroundSwap (core : Nat)
  /-- LAUNCH_END (R60). When every gang has ended and stores reach the system point, seals, publishes, posts and the used element follow. -/
  | launchEnd (lid : Nat)
  /-- LAUNCH_COMMIT (R328). A rollback-eligible launch commits and frees its snapshots. -/
  | launchCommit (lid : Nat)
  /-- SNAPSHOT_COPY (R328). The hub copies a 64 KiB piece to the Garret before the launch's first write to it. -/
  | snapshotCopy (lid piece : Nat)
  /-- ROLLBACK_KILL (R330). A rollback-eligible launch is stopped, restored from snapshots and requeued for replay. -/
  | rollbackKill (lid resource : Nat)
  /-- HBM_PATROL_READ (R325). The HBM base die checks one granule per refresh command. -/
  | hbmPatrolRead (stack : Nat) (flaw corrected : Bool)
  /-- CELLAR_REFRESH_WINDOW_START (R71). The Cellar phase counter reaches a bank's refresh window, in which the bank is patrolled. -/
  | cellarRefreshWindowStart (die off found : Nat)
  /-- CELLAR_REFRESH_WINDOW_END (R72). A refresh window ends and waiting Cellar reads are performed. -/
  | cellarRefreshWindowEnd (die : Nat)
  /-- STORE_LEAVE (R89). A store or marker leaves its SO FIFO or pool and is performed at its first stop. -/
  | storeLeave (agent sid : Nat)
  /-- RELEASE_PERFORM (R91). A release marker leaves once its covered stores reach the scope point. -/
  | releasePerform (rel : Nat)
  /-- STORE_CARRY (R89). The oldest pending store at a core point is carried to its home point. -/
  | storeCarry (core agent sid addr : Nat)
  /-- COPY_DROP (R89). A core copy of a location with nothing pending is dropped. -/
  | copyDrop (core key : Nat)
  /-- LOAD_PERFORM (R89). A load is performed, taking each byte from own stores, core copy or home point. -/
  | loadPerform (agent seq : Nat)
  /-- ATOMIC_PERFORM (R173). An atomic or aggregated group performs its read-modify-write at its home point. -/
  | atomicPerform (agent sid : Nat)
  /-- PAGE_WALK_COMPLETE (R82). A hub walker finishes a page-table walk and installs or refuses a translation. -/
  | pageWalkComplete (core ctx va : Nat)
  /-- ATS_TRANSLATION_COMPLETION (R83). A host ATS completion arrives and is installed, discarded or triggers a Page Request. -/
  | atsTranslationCompletion (fn n hpa size : Nat) (r w x : Bool)
  /-- PRI_RESPONSE_SUCCESS (R83). A Success group response readies waiting threads and issues a fresh ATS request. -/
  | priResponseSuccess (fn n : Nat)
  /-- PRI_RESPONSE_INVALID (R303). An Invalid Request response sends the thread to a direct slow-gear re-run. -/
  | priResponseInvalid (fn n : Nat)
  /-- PRI_RESPONSE_FAILURE (R303). A Response Failure invalidates outstanding requests and stops page requests until re-enabled. -/
  | priResponseFailure (fn n : Nat)
  /-- ATS_INVALIDATE_REQUEST (R84). A host ATS invalidation is delivered to TLBs and walkers and accepted. -/
  | atsInvalidateRequest (ctx va n : Nat)
  /-- INVALIDATION_COMPLETE (R84). The invalidation completes once accesses using the old translation are performed or discarded. -/
  | invalidationComplete (k : Nat)
  /-- MXLDS_COMMAND_RUN (R194). The matrix engine loads a plane, record and scale tile into the shadow plane. -/
  | mxldsCommandRun (core : Nat)
  /-- MXSWAP_COMMAND_RUN (R195). The matrix engine exchanges the planes after the shadow load. -/
  | mxswapCommandRun (core : Nat)
  /-- STREAM_ROW_FEED (R196). A stream command feeds one lane's row through the active plane into the accumulator. -/
  | streamRowFeed (core : Nat) (mismatch : Option Nat)
  /-- MXDRN_COMMAND_RUN (R198). The matrix engine drains a tile to memory and writes its token. -/
  | mxdrnCommandRun (core : Nat)
  /-- MXZERO_COMMAND_RUN (R199). The matrix engine zeroes a tile. -/
  | mxzeroCommandRun (core : Nat)
  /-- COPY_COMMAND_COMPLETE (R200). A copy command finishes its bytes, performs its release and writes its token. -/
  | copyCommandComplete (cmd : Nat)
  /-- STOREKEEPER_REPLY (R202). The Storekeeper replies to an ALLOC with an address or 0. -/
  | storekeeperReply (block addr : Nat)
  /-- STOREKEEPER_FREE (R203). The Storekeeper returns a freed object to its free lists. -/
  | storekeeperFree (block : Nat)
  /-- DISPENSER_REFILL (R58). The dispenser serves a block's q6 refill with the next tile or the exhausted value. -/
  | dispenserRefill (block : Nat)
  /-- PUBLICATION_PERFORM (R219). The counter is written odd, dirty lines go to the host window and the counter is written even. -/
  | publicationPerform (win : Nat)
  /-- CELLAR_FILL (R248). Copies bytes into a partition's Cellar grant once no launch on the named dies runs. -/
  | cellarFill (queue buf : Nat)
  /-- CELLAR_FILL_END (R74). The fill ends as a device-scope release, takes its fill link and lets launches bind. -/
  | cellarFillEnd (k : Nat)
  /-- COPY (R248). Copies bytes between device and host memory of a context. -/
  | copy (queue buf : Nat)
  /-- SIGNAL_SET (R249). Writes max of old and value to a signal as a system-scope release. -/
  | signalSet (queue buf : Nat)
  /-- SIGNAL_WAIT (R249). Completes once a signal reaches a value. -/
  | signalWait (queue buf : Nat)
  /-- PUB_CREATE (R250). Joins a device side and host side into a publish window. -/
  | pubCreate (queue buf : Nat)
  /-- PUB_DESTROY (R250). Ends a publish window after its publications. -/
  | pubDestroy (queue buf : Nat)
  /-- RECEIPT_SEAL (R266). Opens or reopens a context's measurement chain at M0. -/
  | receiptSeal (queue buf : Nat)
  /-- RECEIPT_REQUEST (R270). Reads the chain and writes a signed receipt message, optionally after draining. -/
  | receiptRequest (queue buf : Nat) (written : Bool)
  /-- WINDOW_EXPORT (R254). The target owner records an exported window with generation 1. -/
  | windowExport (queue buf : Nat)
  /-- WINDOW_GRANT (R254). The importer installs a fabric-window entry after its Strongroom checks the export. -/
  | windowGrant (queue buf : Nat) (ok : Bool) (base size part gen : Nat) (write : Bool)
  /-- WINDOW_REVOKE (R257). The export's generation is incremented and the command completes when old requests finish. -/
  | windowRevoke (queue buf : Nat)
  /-- KEY_INSTALL (R255). The Strongroom unwraps and installs an owner key in the ports of its windows. -/
  | keyInstall (queue buf : Nat)
  /-- STORAGE_BIND (R252). Designates a storage queue pair for a context. -/
  | storageBind (queue buf : Nat)
  /-- STORAGE_REQUEST_SERVE (R253). The Porter reads a posted storage request and returns it to the host queue. -/
  | storageRequestServe (pair : Nat)
  /-- STORAGE_DONE (R253). Completes a storage request, writing its completion and adding to the completion signal. -/
  | storageDone (queue buf : Nat)
  /-- DEBUG_HALT (R357). Stops named squads' threads at their next run starts. -/
  | debugHalt (queue buf : Nat)
  /-- DEBUG_RESUME (R357). Readies the threads a debugger stopped. -/
  | debugResume (queue buf : Nat)
  /-- DEBUG_STEP (R321). Advances each debugger-stopped thread by one word in slow gear. -/
  | debugStep (queue buf : Nat)
  /-- DEBUG_CLAIM (R357). Makes claimed causes stop the squad for the debugger. -/
  | debugClaim (queue buf : Nat)
  /-- DEBUG_READ (R362). Writes named squads' state in the dump format. -/
  | debugRead (queue buf : Nat)
  /-- DEBUG_KILL (R357). Kills named squads and makes the launch a killed launch. -/
  | debugKill (queue buf : Nat)
  /-- DEBUG_SET_DUMP (R357). Names the dump buffer for later launches of a context. -/
  | debugSetDump (queue buf : Nat)
  /-- CONTEXT_CREATE (R78). Creates a translation context with root table and PASID. -/
  | contextCreate (queue buf : Nat)
  /-- CONTEXT_DESTROY (R266). Destroys a context, ending its chain after outstanding storage requests. -/
  | contextDestroy (queue buf : Nat)
  /-- TLB_INVALIDATE (R84). Management invalidation of a context's translations. -/
  | tlbInvalidate (queue buf : Nat)
  /-- SET_REGIONS (R54). Sets the partition's save region and heap region. -/
  | setRegions (queue buf : Nat)
  /-- SET_TOLERANCE (R62). Sets a queue's latency tolerance T. -/
  | setTolerance (queue buf : Nat)
  /-- CELLAR_GRANT (R69). Grants a partition a Cellar range on one or all dies. -/
  | cellarGrant (queue buf : Nat)
  /-- PARTITION (R242). Assigns clusters and queue groups to a partition. -/
  | partition (queue buf : Nat)
  /-- EVENT_ROUTE (R263). Changes the owner of an event class. -/
  | eventRoute (queue buf : Nat)
  /-- PORTER_IMAGE (R259). Verifies and loads a Porter image into named groups once idle. -/
  | porterImage (queue buf : Nat)
  /-- INJECT (R342). Sets a Ternath port's fault injector. -/
  | inject (queue buf : Nat)
  /-- INJECTOR_FIRE (R343). An injector's flit count reaches N and it acts on that flit. -/
  | injectorFire (port : Nat)
  /-- QUEUE_NOTIFY (R349). A driver notification reaches a queue's doorbell, latched or shadowed if unmapped. -/
  | queueNotify (queue data buf : Nat) (descs : Descriptors) (stores : HostStores) (bad : Nat)
  /-- FEATURES_OK (R244). The device accepts the driver's feature set only when the negotiation conditions hold. -/
  | featuresOk (fn accepted : Nat)
  /-- FUNCTION_RESET (R347). A function reset kills its live launches and clears its negotiation. -/
  | functionReset (fn : Nat)
  /-- QUEUE_RESET (R347). A driver queue reset abandons in-flight commands. -/
  | queueReset (queue : Nat)
  /-- QUEUE_REMAP (R349). An unmapped queue is remapped and its shadowed doorbell fires. -/
  | queueRemap (queue : Nat)
  /-- PARTITION_FREEZE (R350). A migrating partition is frozen and its incoming window requests held. -/
  | partitionFreeze (p : Nat)
  /-- PARTITION_RESUME (R350). A migrated partition resumes, forwarding held requests and re-testing waits. -/
  | partitionResume (p : Nat)
  /-- FABRIC_REQUEST_RECEIVE (R257). A target performs a window request, or completes it as revoked for an old generation. -/
  | fabricRequestReceive (x gen kind op off len data : Nat)
  /-- FLIT_CRC_FAIL (R339). A refused flit is resent from the retry buffer, retraining after 8 failures. -/
  | flitCrcFail (port : Nat) (again : Bool)
  /-- PORT_RETRAIN (R339). A Ternath port retrains its lanes, going down after 3 failures. -/
  | portRetrain (port : Nat) (ok : Bool)
  /-- PORT_UP (R339). A Ternath port comes up after training. -/
  | portUp (port : Nat)
  /-- FLIT_GROUP_TAG_FAIL (R340). A group failing its tag is resent; four consecutive failures suspend the key index. -/
  | flitGroupTagFail (port part key : Nat) (again : Bool)
  /-- PCIE_LINK_TRAIN (R292). The PCI Express link trains or retrains at the highest common rate. -/
  | pcieLinkTrain (gen width : Nat)
  /-- PCIE_ERROR_LOGGED (R365). An AER correctable or uncorrectable error is logged and reported. -/
  | pcieErrorLogged (fn : Nat) (correctable : Bool) (bits : Nat)
  /-- POISONED_TLP_RECEIVED (R324). A poisoned TLP or completion from the host poisons the granules it fills. -/
  | poisonedTlpReceived (fn addr len : Nat)
  /-- OPERATING_POINT_CHANGE (R293). An island changes operating point once no wave holds a slot. -/
  | operatingPointChange (island point : Nat)
  /-- POWER_ABOVE_DESIGN (R295). Input power above design lowers islands and raises class 7. -/
  | powerAboveDesign (watts point : Nat)
  /-- THROTTLE_TEMPERATURE (R295). A die reaching 105 °C lowers islands and raises class 7. -/
  | throttleTemperature (die temp point : Nat)
  /-- THROTTLE_END (R365). Every die below throttle and power within design ends throttling. -/
  | throttleEnd
  /-- SHUTDOWN_TEMPERATURE (R295). A die at 115 °C removes every rail except the Strongroom's. -/
  | shutdownTemperature (die temp : Nat)
  /-- POWER_INPUT_VALID (R286). The 54 V input enters its range and stage 1 brings up the fixed rails. -/
  | powerInputValid
  /-- STRONGROOM_BOOT (R286). Stage 2 verifies the configuration record and the Strongroom image. -/
  | strongroomBoot
  /-- STRONGROOM_INIT (R286). Stage 3 derives identity, reads the counter, record and map-out log. -/
  | strongroomInit
  /-- HOST_CLASS_START (R286). Stage 4 verifies the host-class image and starts its cores. -/
  | hostClassStart
  /-- HBM_TRAIN (R291). Stage 5 trains HBM, applies trims, powers islands and loads spare maps. -/
  | hbmTrain
  /-- PORTER_START (R286). Stage 6 verifies Porter images and starts the Porters. -/
  | porterStart
  /-- TERNATH_TRAIN (R292). Stage 7 trains the Ternath ports. -/
  | ternathTrain (dev ups : Nat)
  /-- PCIE_ENABLE (R286). Stage 8 enables the PCI Express function configuration spaces. -/
  | pcieEnable
  /-- TLB_ENTRY_DROP (R374). An L1 or L2 TLB entry is dropped at any moment, and a later lookup walks again. -/
  | tlbEntryDrop (core n : Nat) (l2 : Bool)
  /-- PRI_REENABLE (R303). The host re-enables the function's PRI capability after a Response Failure, and page requests may be sent again. -/
  | priReenable (fn : Nat)
  /-- QUEUE_ENABLE (R262). The driver enables a virtqueue, so RFETCH and RPOST may serve it and TILES distances count from it. -/
  | queueEnable (queue : Nat) (setup : QueueSetup)
  /-- POWER_LOSS (R274). The module input is lost, leaving reserved but unused leaf indices that are skipped at the next power-up. -/
  | powerLoss
  /-- CONFIGURATION_REQUEST (R286). The host sends a PCI Express configuration request, answered with Configuration Request Retry Status until stage 8 ends. -/
  | configurationRequest (fn : Nat) (ats pri : Bool) (alloc : Nat)
  /-- STRONGROOM_MANAGEMENT_REQUEST (R254). The target's Strongroom receives a management flit from an importer's Strongroom to check a grant or to revoke with side 0, and increments the generation. -/
  | strongroomManagementRequest (x : Nat) (revoke : Bool)
  deriving DecidableEq, Repr

end Sys2Proof
end

