-- ==== Sys2Proof/Machine/Numbers.lean ====
section
/-! DEFINITION. Number formats, exact values and rounding (05 R101 to R116; 07 R152 to R154, R159). -/

namespace Sys2Proof.Machine

/-- A floating format of Table 5.1: exponent and fraction widths, bias, the code of the largest finite magnitude, the
infinity's code if it has one, and the canonical NaN. -/
structure Fmt where
  eb : Nat
  fb : Nat
  bias : Nat
  maxCode : Nat
  infCode : Option Nat
  nanCode : Nat
  deriving DecidableEq, Repr

def fp32 : Fmt := ⟨8, 23, 127, 0x7F7FFFFF, some 0x7F800000, 0x7FC00000⟩
def fp16 : Fmt := ⟨5, 10, 15, 0x7BFF, some 0x7C00, 0x7E00⟩
def bf16 : Fmt := ⟨8, 7, 127, 0x7F7F, some 0x7F80, 0x7FC0⟩
def e4m3 : Fmt := ⟨4, 3, 7, 0x7E, none, 0x7F⟩
def e5m2 : Fmt := ⟨5, 2, 15, 0x7B, some 0x7C, 0x7E⟩

/-- The exponent of the smallest subnormal. -/
def Fmt.emin (F : Fmt) : Int := 1 - (F.bias : Int) - F.fb

/-- The sign bit's weight. -/
def Fmt.signBit (F : Fmt) : Nat := 2 ^ (F.eb + F.fb)

/-- An exact value: NaN, an infinity, or plus or minus `n * 2 ^ e`. -/
inductive Num where
  | nan
  | inf (neg : Bool)
  | fin (neg : Bool) (n : Nat) (e : Int)
  deriving DecidableEq, Repr

/-- The exact value of `bits` in format `F` (R102, R116). -/
def decodeFP (F : Fmt) (bits : Nat) : Num :=
  let neg := bits / F.signBit % 2 == 1
  let m := bits % F.signBit
  if m ≤ F.maxCode then
    let ef := m / 2 ^ F.fb
    let fr := m % 2 ^ F.fb
    if ef = 0 then .fin neg fr F.emin else .fin neg (2 ^ F.fb + fr) (F.emin + (ef : Int) - 1)
  else if some m = F.infCode then .inf neg
  else .nan

/-- `m` with the sign `neg` in format `F`. -/
def signed (F : Fmt) (neg : Bool) (m : Nat) : Nat := if neg then F.signBit + m else m

/-- Whether a remainder `r` over `d` rounds a magnitude up (Table 5.2). -/
def roundsUp (mode : RMode) (neg odd : Bool) (r d : Nat) : Bool :=
  match mode with
  | .rne => decide (d < 2 * r) || (decide (2 * r = d) && odd)
  | .rtz => false
  | .rdn => neg && decide (r ≠ 0)
  | .rup => !neg && decide (r ≠ 0)

/-- The integer nearest `n / d` under `mode`, as a magnitude (R104). -/
def roundDiv (mode : RMode) (neg : Bool) (n d : Nat) : Nat :=
  let q := n / d
  if roundsUp mode neg (q % 2 == 1) (n % d) d then q + 1 else q

/-- The floor of the base 2 logarithm of `n / d`, both positive. -/
def floorLog (n d : Nat) : Int :=
  let l : Int := (Nat.log2 n : Int) - (Nat.log2 d : Int)
  let below := if 0 ≤ l then n < d * 2 ^ l.toNat else n * 2 ^ (-l).toNat < d
  if below then l - 1 else l

/-- The code of the magnitude `n / d * 2 ^ e` rounded under `mode`: the extended value one ulp above the largest finite
value is `maxCode + 1` (R104). -/
def roundMag (F : Fmt) (mode : RMode) (neg : Bool) (n d : Nat) (e : Int) : Nat :=
  if n = 0 then 0 else
  let u := max (floorLog n d + e - F.fb) F.emin
  let k := e - u
  let q := if 0 ≤ k then roundDiv mode neg (n * 2 ^ k.toNat) d else roundDiv mode neg n (d * 2 ^ (-k).toNat)
  (u - F.emin).toNat * 2 ^ F.fb + q

/-- The overflow result of a mode (Table 5.2). -/
def overflowCode (F : Fmt) (mode : RMode) (neg : Bool) : Nat :=
  let i := match F.infCode with
    | some i => i
    | none => F.maxCode
  match mode, neg with
  | .rne, _ => i
  | .rtz, _ => F.maxCode
  | .rdn, true => i
  | .rdn, false => F.maxCode
  | .rup, true => F.maxCode
  | .rup, false => i

/-- RoundFP of plus or minus `n / d * 2 ^ e` (R104). -/
def roundQ (F : Fmt) (mode : RMode) (neg : Bool) (n d : Nat) (e : Int) : Nat :=
  let m := roundMag F mode neg n d e
  signed F neg (if m ≤ F.maxCode then m else overflowCode F mode neg)

/-- RoundFP of Table 5.6. -/
def roundFP (F : Fmt) (mode : RMode) : Num → Nat
  | .nan => F.nanCode
  | .inf neg => signed F neg (match F.infCode with | some i => i | none => F.maxCode)
  | .fin neg n e => roundQ F mode neg n 1 e

/-- Encode of Table 5.6: RNE; E4M3 and E5M2 saturate unless `ieee` selects IEEE overflow (R105). -/
def encodeFP (F : Fmt) (ieee : Bool) (x : Num) : Nat :=
  if F.eb + F.fb = 7 && !ieee then
    match x with
    | .nan => F.nanCode
    | .inf neg => signed F neg F.maxCode
    | .fin neg n e =>
      let m := roundMag F .rne neg n 1 e
      signed F neg (min m F.maxCode)
  else roundFP F .rne x

/-- The exact negation. -/
def Num.neg : Num → Num
  | .nan => .nan
  | .inf s => .inf (!s)
  | .fin s n e => .fin (!s) n e

/-- The signed mantissa of a finite value at exponent `e'`, which is at most its own. -/
def mantAt (neg : Bool) (n : Nat) (e e' : Int) : Int :=
  let m : Int := (n : Int) * 2 ^ (e - e').toNat
  if neg then -m else m

/-- The exact sum; an exact zero is +0 unless both addends are −0 (R152). -/
def Num.add : Num → Num → Num
  | .nan, _ => .nan
  | _, .nan => .nan
  | .inf a, .inf b => if a = b then .inf a else .nan
  | .inf a, .fin .. => .inf a
  | .fin .., .inf b => .inf b
  | .fin sa na ea, .fin sb nb eb =>
    let e := min ea eb
    let m := mantAt sa na ea e + mantAt sb nb eb e
    .fin (if m = 0 then (sa && sb) else decide (m < 0)) m.natAbs e

/-- The exact product (R152). -/
def Num.mul : Num → Num → Num
  | .nan, _ => .nan
  | _, .nan => .nan
  | .inf a, .inf b => .inf (a != b)
  | .inf a, .fin b n _ => if n = 0 then .nan else .inf (a != b)
  | .fin a n _, .inf b => if n = 0 then .nan else .inf (a != b)
  | .fin a na ea, .fin b nb eb => .fin (a != b) (na * nb) (ea + eb)

/-- The value times `2 ^ k`. -/
def Num.scale (x : Num) (k : Int) : Num :=
  match x with
  | .nan => .nan
  | .inf s => .inf s
  | .fin s n e => .fin s n (e + k)

def Num.isNan : Num → Bool
  | .nan => true
  | .inf _ => false
  | .fin .. => false

def Num.isZero : Num → Bool
  | .fin _ 0 _ => true
  | _ => false

/-- Numeric order of two values that are not NaN, with equal zeros: −1, 0 or 1. -/
def Num.cmp : Num → Num → Int
  | .inf a, .inf b => if a = b then 0 else if a then -1 else 1
  | .inf a, _ => if a then -1 else 1
  | _, .inf b => if b then 1 else -1
  | .fin sa na ea, .fin sb nb eb =>
    let e := min ea eb
    (mantAt sa na ea e - mantAt sb nb eb e).sign
  | _, _ => 0

/-- Decode in FP32. -/
def f32 (w : Word) : Num := decodeFP fp32 w.toNat

/-- RoundFP to FP32 with RNE. -/
def toF32 (x : Num) : Word := BitVec.ofNat 32 (roundFP fp32 .rne x)

def canonNan : Word := 0x7FC00000

/-- Table 7.8. -/
def fAdd (a b : Word) : Word := toF32 ((f32 a).add (f32 b))
def fSub (a b : Word) : Word := toF32 ((f32 a).add (f32 b).neg)
def fMul (a b : Word) : Word := toF32 ((f32 a).mul (f32 b))
def fFma (d a b : Word) : Word := toF32 (((f32 a).mul (f32 b)).add (f32 d))

/-- FDIV: correctly rounded (R152). -/
def fDiv (a b : Word) : Word :=
  match f32 a, f32 b with
  | .nan, _ => canonNan
  | _, .nan => canonNan
  | .inf _, .inf _ => canonNan
  | .inf s, .fin t _ _ => toF32 (.inf (s != t))
  | .fin s _ _, .inf t => toF32 (.fin (s != t) 0 0)
  | .fin s n e, .fin t d f =>
    if d = 0 then (if n = 0 then canonNan else toF32 (.inf (s != t)))
    else BitVec.ofNat 32 (roundQ fp32 .rne (s != t) n d (e - f))

/-- FSCALE: scaled exactly, rounded once. A power beyond ±400 takes any finite value out of range as ±400 does. -/
def fScale (a b : Word) : Word := toF32 ((f32 a).scale (max (-400) (min 400 b.toInt)))

/-- The order of FMIN and FMAX: numeric, with −0 below +0 (R153). -/
def fLess (a b : Word) : Bool :=
  let c := (f32 a).cmp (f32 b)
  decide (c < 0) || (decide (c = 0) && a.msb && !b.msb)

/-- R153. -/
def fMin (a b : Word) : Word :=
  match (f32 a).isNan, (f32 b).isNan with
  | true, true => canonNan
  | true, false => b
  | false, true => a
  | false, false => if fLess b a then b else a

/-- R153. -/
def fMax (a b : Word) : Word :=
  match (f32 a).isNan, (f32 b).isNan with
  | true, true => canonNan
  | true, false => b
  | false, true => a
  | false, false => if fLess a b then b else a

/-- FABS (R154). -/
def fAbs (a : Word) : Word := if (f32 a).isNan then canonNan else a &&& 0x7FFFFFFF

/-- FNEG (R154). -/
def fNeg (a : Word) : Word := if (f32 a).isNan then canonNan else a ^^^ 0x80000000

/-- The integer value of a finite `n * 2 ^ e` under a mode, as a magnitude (R104, R159). -/
def roundIntMag (mode : RMode) (neg : Bool) (n : Nat) (e : Int) : Nat :=
  if 0 ≤ e then n * 2 ^ e.toNat else roundDiv mode neg n (2 ^ (-e).toNat)

/-- FFLOOR, FCEIL, FTRUNC, FRINT (R154). -/
def fInt (mode : RMode) (a : Word) : Word :=
  match f32 a with
  | .nan => canonNan
  | .inf _ => a
  | .fin s n e => toF32 (.fin s (roundIntMag mode s n e) 0)

/-- F2I and F2U before saturation: the integer, or the sign of an infinity. -/
def toInteger (mode : RMode) (lo hi : Int) (a : Word) : Int :=
  match f32 a with
  | .nan => 0
  | .inf s => if s then lo else hi
  | .fin s n e =>
    let m : Int := roundIntMag mode s n e
    max lo (min hi (if s then -m else m))

/-- The integer square root, by `k` bits from the top. -/
def sqrtBits : Nat → Nat → Nat → Nat
  | 0, _, r => r
  | k + 1, n, r =>
    let t := r + 2 ^ k
    sqrtBits k n (if t * t ≤ n then t else r)

/-- The integer square root of a number below `2 ^ 160`. -/
def isqrt (n : Nat) : Nat := sqrtBits 80 n 0

/-- FSQRT: correctly rounded with RNE (R154). The root is taken of the mantissa with 80 or 81 bits below it; a remainder
leaves a sticky bit below the root. -/
def fSqrt (a : Word) : Word :=
  match f32 a with
  | .nan => canonNan
  | .inf s => if s then canonNan else a
  | .fin s n e =>
    if n = 0 then a else if s then canonNan else
    let o := e % 2
    let m := n * 2 ^ (80 + o.toNat)
    let r := isqrt m
    let sticky := if r * r = m then 0 else 1
    toF32 (.fin false (2 * r + sticky) ((e - o - 80) / 2 - 1))

/-- FCLASS (R156). -/
def fClass (a : Word) : Word :=
  match f32 a with
  | .nan => if a.getLsbD 22 then 0x200 else 0x100
  | .inf s => if s then 0x001 else 0x080
  | .fin s n _ =>
    if n = 0 then (if s then 0x008 else 0x010)
    else if n < 2 ^ 23 then (if s then 0x004 else 0x020)
    else (if s then 0x002 else 0x040)

/-- The magnitudes of the NQ4 codebook in 1024ths (Table 5.4). -/
def nq4Mag : List Nat := [43, 130, 221, 318, 427, 555, 725, 1024]

/-- NQ4Level (R107). -/
def nq4Level (c : Nat) : Num := .fin (c / 8 % 2 == 1) (nq4Mag.getD (c % 8) 0) (-10)

/-- CVT (R159, Table 7.12). -/
def cvt (c : Conv) (mode : RMode) (inf : Bool) (a : Word) : Word :=
  match c with
  | .f2i => BitVec.ofInt 32 (toInteger mode (-(2 ^ 31)) (2 ^ 31 - 1) a)
  | .f2u => BitVec.ofInt 32 (toInteger mode 0 (2 ^ 32 - 1) a)
  | .i2f => BitVec.ofNat 32 (roundQ fp32 mode (decide (a.toInt < 0)) a.toInt.natAbs 1 0)
  | .u2f => BitVec.ofNat 32 (roundQ fp32 mode false a.toNat 1 0)
  | .f2h => BitVec.ofNat 32 (roundFP fp16 mode (f32 a))
  | .h2f => toF32 (decodeFP fp16 (a.toNat % 2 ^ 16))
  | .f2b => BitVec.ofNat 32 (roundFP bf16 mode (f32 a))
  | .b2f => toF32 (decodeFP bf16 (a.toNat % 2 ^ 16))
  | .f2e4 => BitVec.ofNat 32 (encodeFP e4m3 false (f32 a))
  | .e42f => toF32 (decodeFP e4m3 (a.toNat % 2 ^ 8))
  | .f2e5 => BitVec.ofNat 32 (encodeFP e5m2 inf (f32 a))
  | .e52f => toF32 (decodeFP e5m2 (a.toNat % 2 ^ 8))
  | .q4d => toF32 (nq4Level (a.toNat % 16))

/-- Element `i` of `b` bits of a word (R106). -/
def elem (b i : Nat) (w : Word) : Nat := fld w.toNat (b * i) b

/-- Both 16-bit elements of a result. -/
def pack2 (f : Nat → Nat) : Word := BitVec.ofNat 32 (f 1 % 2 ^ 16 * 2 ^ 16 + f 0 % 2 ^ 16)

/-- HADD2 and BADD2 (R157). -/
def padd (F : Fmt) (a b : Word) : Word :=
  pack2 fun i => roundFP F .rne ((decodeFP F (elem 16 i a)).add (decodeFP F (elem 16 i b)))

/-- HMUL2 and BMUL2 (R157). -/
def pmul (F : Fmt) (a b : Word) : Word :=
  pack2 fun i => roundFP F .rne ((decodeFP F (elem 16 i a)).mul (decodeFP F (elem 16 i b)))

/-- HFMA2 and BFMA2 (R157). -/
def pfma (F : Fmt) (d a b : Word) : Word :=
  pack2 fun i => roundFP F .rne
    (((decodeFP F (elem 16 i a)).mul (decodeFP F (elem 16 i b))).add (decodeFP F (elem 16 i d)))

/-- HDP2 and BDP2: one rounding of the exact sum of the accumulator and two products (R158). -/
def fdp2 (F : Fmt) (d a b : Word) : Word :=
  toF32 (((f32 d).add ((decodeFP F (elem 16 0 a)).mul (decodeFP F (elem 16 0 b)))).add
    ((decodeFP F (elem 16 1 a)).mul (decodeFP F (elem 16 1 b))))

end Sys2Proof.Machine
end

