-- ==== Sys2Proof/Machine/Arith.lean ====
section
/-! DEFINITION. The integer values of the lane and squad sets: arithmetic, shifts, bit fields, packed forms and folds (05 R101; 07 R141 to R145, R157, R158, R160, R163). -/

namespace Sys2Proof.Machine

/-- SignExtend of the low `n` bits of an immediate to 32 bits. -/
def sext {n : Nat} (x : BitVec n) : Word := x.signExtend 32

/-- ZeroExtend to 32 bits. -/
def zext {n : Nat} (x : BitVec n) : Word := x.zeroExtend 32

/-- Bits [63:32] of the signed product (R141). -/
def mulHigh (a b : Word) : Word := BitVec.ofInt 32 (a.toInt * b.toInt / 2 ^ 32)

/-- Bits [63:32] of the unsigned product (R141). -/
def mulHighU (a b : Word) : Word := BitVec.ofNat 32 (a.toNat * b.toNat / 2 ^ 32)

def minS (a b : Word) : Word := if BitVec.slt b a then b else a
def maxS (a b : Word) : Word := if BitVec.slt a b then b else a
def minU (a b : Word) : Word := if BitVec.ult b a then b else a
def maxU (a b : Word) : Word := if BitVec.ult a b then b else a

/-- IDIV with the corners of R142: the quotient truncated towards zero. -/
def divS (a b : Word) : Word := if b = 0 then 0xFFFFFFFF else BitVec.ofInt 32 (a.toInt.tdiv b.toInt)

/-- UDIV (R142). -/
def divU (a b : Word) : Word := if b = 0 then 0xFFFFFFFF else BitVec.ofNat 32 (a.toNat / b.toNat)

/-- IREM (R142). -/
def remS (a b : Word) : Word := if b = 0 then a else BitVec.ofInt 32 (a.toInt.tmod b.toInt)

/-- UREM (R142). -/
def remU (a b : Word) : Word := if b = 0 then a else BitVec.ofNat 32 (a.toNat % b.toNat)

/-- SHL by a full 32-bit amount (R143). -/
def shl (a n : Word) : Word := if n.toNat < 32 then a <<< n.toNat else 0

/-- SHR (R143). -/
def shr (a n : Word) : Word := if n.toNat < 32 then a >>> n.toNat else 0

/-- SAR (R143). -/
def sar (a n : Word) : Word := a.sshiftRight (min n.toNat 31)

/-- POPC (R143). -/
def popCount (a : Word) : Word := BitVec.ofNat 32 ((List.range 32).countP fun i => a.getLsbD i)

/-- CLZ (R143). -/
def leadingZeros (a : Word) : Word := if a = 0 then 32 else BitVec.ofNat 32 (31 - Nat.log2 a.toNat)

/-- BREV (R143). -/
def bitReverse (a : Word) : Word := a.reverse

/-- The field width of BFE and BFI, cut at bit 31 (R144, Table 7.5). -/
def fieldWidth (b : Word) : Nat := min (fld b.toNat 8 6) (32 - fld b.toNat 0 5)

/-- BFE (R144). -/
def bitExtract (a b : Word) : Word :=
  let w := fieldWidth b
  let f := fld a.toNat (fld b.toNat 0 5) w
  if w = 0 then 0
  else if b.getLsbD 15 && decide (2 ^ (w - 1) ≤ f) then BitVec.ofInt 32 ((f : Int) - 2 ^ w)
  else BitVec.ofNat 32 f

/-- BFI (R144). -/
def bitInsert (d a b : Word) : Word :=
  let pos := fld b.toNat 0 5
  let m : Word := BitVec.ofNat 32 ((2 ^ fieldWidth b - 1) * 2 ^ pos)
  (d &&& ~~~m) ||| (a <<< pos &&& m)

/-- MOVHI and UMOVHI (R146, R176). -/
def moveHigh (d : Word) (imm : BitVec 16) : Word := zext imm <<< 16 ||| (d &&& 0xFFFF)

/-- The low and the high word of a 64-bit value (R101). -/
def lowWord (x : DWord) : Word := x.setWidth 32
def highWord (x : DWord) : Word := (x >>> 32).setWidth 32

/-- A 64-bit value from its words, the low word first (R101). -/
def join64 (lo hi : Word) : DWord := hi ++ lo

/-- IMULW (R151). -/
def mulWide (a b : Word) : DWord := BitVec.ofInt 64 (a.toInt * b.toInt)

/-- An element of `b` bits read as a signed integer (R101). -/
def elemS (b i : Nat) (w : Word) : Int :=
  let x := elem b i w
  if 2 ^ (b - 1) ≤ x then (x : Int) - 2 ^ b else x

/-- SatS (Table 5.6). -/
def satS (x : Int) (n : Nat) : Int := max (-(2 ^ (n - 1))) (min (2 ^ (n - 1) - 1) x)

/-- SatU (Table 5.6). -/
def satU (x : Int) (n : Nat) : Int := max 0 (min (2 ^ n - 1) x)

/-- Both elements of a packed I16 result, wrapped (R157). -/
def packed16 (f : Int → Int → Int) (a b : Word) : Word :=
  pack2 fun i => (f (elemS 16 i a) (elemS 16 i b) % 2 ^ 16).toNat

def iadd2 : Word → Word → Word := packed16 fun x y => x + y
def isub2 : Word → Word → Word := packed16 fun x y => x - y
def iadds2 : Word → Word → Word := packed16 fun x y => satS (x + y) 16
def isubs2 : Word → Word → Word := packed16 fun x y => satS (x - y) 16
def imax2 : Word → Word → Word := packed16 max
def imin2 : Word → Word → Word := packed16 min

/-- IDP4 (R158). -/
def idp4 (d a b : Word) : Word :=
  d + BitVec.ofInt 32 (((List.range 4).map fun i => elemS 8 i a * elemS 8 i b).sum)

/-- UDP4 (R158). -/
def udp4 (d a b : Word) : Word :=
  d + BitVec.ofNat 32 (((List.range 4).map fun i => elem 8 i a * elem 8 i b).sum)

/-- PACK (R160). -/
def packHalves (a b : Word) : Word := b <<< 16 ||| (a &&& 0xFFFF)

/-- Combine of Table 7.15. -/
def combineOp (op : RedOp) (t x : Word) : Word :=
  match op with
  | .add => t + x
  | .imin => minS t x
  | .imax => maxS t x
  | .umin => minU t x
  | .umax => maxU t x
  | .and => t &&& x
  | .or => t ||| x
  | .xor => t ^^^ x
  | .fadd => fAdd t x
  | .fmin => fMin t x
  | .fmax => fMax t x

/-- Identity of Table 7.15. -/
def identityOp : RedOp → Word
  | .add | .umax | .or | .xor | .fadd => 0
  | .imin => 0x7FFFFFFF
  | .imax => 0x80000000
  | .umin | .and => 0xFFFFFFFF
  | .fmin => 0x7F800000
  | .fmax => 0xFF800000

/-- The fold of R163 over operands already in ascending home-lane order. -/
def fold (op : RedOp) : List Word → Word
  | [] => identityOp op
  | x :: xs => xs.foldl (combineOp op) x

end Sys2Proof.Machine
end

