-- ==== Sys2Proof/Config.lean ====
section
/-! DEFINITION. What the manual leaves open: free values, as constants without a body. Nothing can evaluate them or prove a value of them. -/

namespace Sys2Proof

/-- The six functions whose result bits are a property of the implementation (R139, R155). -/
inductive ApproxFn where
  | rcp | rsq | exp2 | log2 | sin | cos
  deriving DecidableEq, Repr

/-- An error of a storage that its check code does not correct (R322), or an undetected change of one copy of a protected
launch (R336). -/
inductive Upset where
  | v (thread n : Nat) | k (thread n : Nat) | s (squad n : Nat) | j (squad n : Nat) | acc (squad n : Nat)
  | entry (squad : Nat) | mem (key : Nat)
  /-- An error that the check code corrects, at a resource of Table 20.3, and the memory key where it was found (R323, R341). -/
  | corrected (resource key : Nat)
  | flipV (thread n : Nat) (shadow : Bool) (mask : Word)
  | flipS (squad n : Nat) (shadow : Bool) (mask : Word) | flipJ (squad n : Nat) (shadow : Bool)
  /-- Bits of the word that a thread of a wave is about to execute, in its shadow copy (R337). -/
  | flipWord (thread : Nat) (mask : Word)
  deriving DecidableEq, Repr, Inhabited

/-- Who takes the next step: an issue slot of a core, a Porter, or a step with no encoding (log 2). -/
inductive Move where
  /-- The next word of the wave in an issue slot. -/
  | issue (core slot : Nat)
  /-- The next word of a Porter. -/
  | porter (p : Nat)
  /-- The next word of the Strongroom, and of a host-class core. -/
  | strongroom
  | hostCore (n : Nat)
  /-- A step of the device, the host or a peer. -/
  | event (i : Instr)
  /-- An error of a storage. -/
  | upset (u : Upset)
  deriving DecidableEq, Repr, Inhabited

/-- The move the machine takes next when its agenda is empty, by the count of free choices so far (log 2). -/
opaque Config.freeMove : Nat → Move

/-- The bits an implementation gives for an approximate function (R139, R155; log 9). -/
opaque Config.approx : ApproxFn → Word → Word

/-- A free number: every use reads it at a fresh count (log 2). -/
opaque Config.freeNat : Nat → Nat

/-- A free 64-bit value (log 2). -/
opaque Config.freeWord : Nat → DWord

/-- A free byte string of 64 bytes, for values only the keys fix (log 10). -/
opaque Config.freeBytes : Nat → List Byte

/-- The images in module flash: 0 Strongroom, 1 host-class, 2 the default Porter image (R286; log 10). -/
opaque Config.flashImage : Nat → List Byte

/-- Krovhar's public key of 68 bytes, in the Strongroom's boot code (R286, R288; log 10). -/
opaque Config.bootKey : List Byte

/-- Krovhar's signature of the configuration record that the module holds at reset (R289; log 6, log 10). -/
opaque Config.recordSignature : List Byte

/-- The configuration record that was written to module flash before a power-up, if a new one was (R289; log 6). -/
opaque Config.newRecord : Nat → Option (List Byte)

/-- Whether the map-out log verifies at stage 3 (R286, R289; log 10). -/
opaque Config.logValid : Bool

/-- The pseudo-channel of its stack that holds a frame of 64 KiB of device memory (R291, Table 20.3; log 87). -/
opaque Config.pseudoChannel : Nat → Nat

/-- Where on each stack the Garret begins, in pieces of 64 KiB (R327; log 87). -/
opaque Config.garretBase : Nat → Nat

/-- The granule of each stack that its patrol reads first (R325; log 87). -/
opaque Config.patrolStart : Nat → Nat

/-- Whether requests to a device need a link (R340; log 17). -/
opaque Config.needsLink : Nat → Nat → Bool

/-- When the owner of a target on another device revokes the export behind a window, as a number of serials given; none where it never
does (R257; log 82). The arguments are the device, the export and its generation. -/
opaque Config.farRevoked : Nat → Nat → Nat → Option Nat

/-- The two seeds of the Strongroom's encapsulation key, and the signature that it publishes the key with (R255; log 10). -/
opaque Config.encapSeed : Bool → List Byte
opaque Config.encapSignature : List Byte

end Sys2Proof
end

