-- ==== Sys2Proof/Machine/Table.lean ====
section
/-! DEFINITION. Sparse tables: what State holds per thread, squad, core and so on is a list of numbered entries. -/

namespace Sys2Proof.Machine

/-- A table by number: entries in rising order of their keys. An absent key reads as the owner's default. -/
abbrev Tbl (α : Type) := List (Nat × α)

namespace Tbl

variable {α : Type}

/-- The entry of key `k`. -/
def get? (t : Tbl α) (k : Nat) : Option α :=
  match t with
  | [] => none
  | (j, a) :: r => if j = k then some a else get? r k

/-- The entry of key `k`, or `d` where there is none. -/
def getD (t : Tbl α) (k : Nat) (d : α) : α :=
  match get? t k with
  | some a => a
  | none => d

/-- The table with `a` at key `k`. -/
def put (t : Tbl α) (k : Nat) (a : α) : Tbl α :=
  match t with
  | [] => [(k, a)]
  | (j, b) :: r => if k < j then (k, a) :: (j, b) :: r else if j = k then (k, a) :: r else (j, b) :: put r k a

/-- The table with `f` applied at key `k`, if it is present. -/
def adj (t : Tbl α) (k : Nat) (f : α → α) : Tbl α :=
  match t with
  | [] => []
  | (j, b) :: r => if j = k then (j, f b) :: r else (j, b) :: adj r k f

/-- The table without key `k`. -/
def del (t : Tbl α) (k : Nat) : Tbl α := t.filter fun e => e.1 ≠ k

/-- The keys, in rising order. -/
def keys (t : Tbl α) : List Nat := t.map (·.1)

end Tbl

end Sys2Proof.Machine
end

