-- ==== Sys2Proof/Machine/State.lean ====
section
/-! DEFINITION. The state of the machine as plain data, and the state after reset (01 to 21; INVENTORY.md lists every field with its rule). -/

namespace Sys2Proof.Machine

/-- Why the machine stops. -/
inductive Fault where
  /-- Raised by a Porter's step when its program counter lies outside its 256 KiB SRAM: the spec lays out the SRAM and
  gives no memory beyond it (R258, R259). Safe: no run goes on. -/
  | porterFetch
  deriving DecidableEq, Repr

/-- Why the model gives a step no meaning. -/
inductive Refusal where
  /-- Raised by an arm of the dispatch whose instruction has no meaning yet. Safe: no run goes on. -/
  | notModelled (mnemonic : String)
  deriving DecidableEq, Repr

/-! ### Small records -/

/-- The ordering kind of a page (R80). -/
inductive OrdKind where
  | rc | so | uo
  deriving DecidableEq, Repr, Inhabited

/-- A store of the ordering machine: its agent and its number among that agent's stores. -/
abbrev StoreId := Nat × Nat

/-- Where a result goes: nowhere, v registers of a thread from `n`, or s registers of a squad from `n`. -/
inductive Dst where
  | none
  | v (t n : Nat)
  | s (q n : Nat)
  deriving DecidableEq, Repr, Inhabited

/-- A fabric window as an access names it: the partition, the index, and of the grant that stood there when the access was made the serial
number and STRICT (R81, R257, R340). -/
structure WinRef where
  part : Nat
  idx : Nat
  serial : Nat
  strict : Bool
  deriving DecidableEq, Repr, Inhabited

/-- The part of an access that lies in one page: its memory key, length and ordering kind (R65). -/
structure Piece where
  addr : Nat
  len : Nat
  ord : OrdKind
  /-- The fabric window it goes through (R81, R257). -/
  win : Option WinRef
  deriving DecidableEq, Repr, Inhabited

/-- Bytes that a copy command has yet to move: where they come from, none for a fill; where they go; how many; and the bytes
themselves, once they have been read (R96, R200, R201). -/
structure Chunk where
  src : Option Nat
  dst : Nat
  len : Nat
  bs : Option (List Byte)
  deriving DecidableEq, Repr, Inhabited

/-- The translation of 4 KiB of virtual memory that an engine command made when it first touched them, to read or to write (R82). -/
structure CmdPage where
  va : Nat
  write : Bool
  piece : Piece
  deriving DecidableEq, Repr, Inhabited

/-- What a started copy command still has to move, in the order of its rows, and whether it has met a revoked window (R200, R257). -/
structure Held where
  chunks : List Chunk
  revoked : Bool
  deriving DecidableEq, Repr, Inhabited

/-- One byte of a load: its value, its poison, and the store and releases it was read from (Table 4.2, R92). -/
structure ReadByte where
  val : Byte
  poison : Bool
  sid : Option StoreId
  rels : List Nat
  /-- Read at the home point, so that the core copy becomes the value read. -/
  fills : Bool
  /-- Read through a STRICT window that completed it as revoked (R340). -/
  dead : Bool
  deriving DecidableEq, Repr, Inhabited

/-- A load issued and not yet performed (R89, R167). -/
structure Load where
  seq : Nat
  /-- The place of its word in the core's issue order (R30). -/
  issue : Nat
  /-- The word that issued it, for a report of class R (R326). -/
  pc : DWord
  word : Word
  ea : DWord
  width : Nat
  words : Nat
  dst : Dst
  pieces : List Piece
  /-- The bytes of the pieces already performed, by place: each piece is a load of its own (R65, R100). -/
  got : Tbl (List ReadByte)
  deriving DecidableEq, Repr, Inhabited

/-- The atomic operations of Table 8.3. -/
inductive AtomOp where
  | xch | cas | add | imin | imax | umin | umax | and | or | xor | fadd
  deriving DecidableEq, Repr, Inhabited

/-- An entry of an outbound structure (Table 4.1). -/
inductive EntryKind where
  /-- Bytes to write at a memory key. -/
  | store (addr : Nat) (bytes : List Byte) (ord : OrdKind)
  /-- An atomic on the word at `addr`: operands `x` and `y`, the group it moves with, its home lane (R170, R173). -/
  | atomic (op : AtomOp) (addr : Nat) (x y : Word) (dst : Dst) (group lane : Nat) (ord : OrdKind)
  /-- The atomic move of synchronisation `sync` on `len` bytes of an object, or its write to a channel's ring (R208, R211, R213,
  R218). -/
  | object (sync addr len : Nat) (ord : OrdKind)
  /-- A release marker (R91). -/
  | marker (rel : Nat)
  deriving DecidableEq, Repr, Inhabited

structure Entry where
  seq : Nat
  sid : Nat
  kind : EntryKind
  /-- The releases that hold this entry back, which its value carries (R92). -/
  rels : List Nat
  /-- The data came from poison (R324). -/
  poison : Bool
  win : Option WinRef
  /-- Its address and the word that issued it with that word's place, for a report (R306, R326, R340). -/
  va : DWord
  word : Word
  pc : DWord
  /-- The store instruction it is a lane of, by its wave and address, and the home lane (R90). -/
  group : Option (Nat × DWord × Nat)
  /-- The place in program order before which the loads of its run stand (R93). -/
  bound : Nat
  deriving DecidableEq, Repr, Inhabited

/-- A store performed at a core point and not yet carried to its home (Table 4.1). -/
structure Pending where
  sid : StoreId
  addr : Nat
  bytes : List Byte
  uo : Bool
  rels : List Nat
  poison : Bool
  /-- The address and the word it was issued with, and the window it goes through (R84, R257, R340). -/
  va : DWord
  word : Word
  win : Option WinRef
  deriving DecidableEq, Repr, Inhabited

/-- The byte of a core copy and the store it came from (Table 4.1). -/
structure Copy where
  val : Byte
  sid : StoreId
  /-- To be dropped once its pending stores have been carried (R92). -/
  drop : Bool
  rels : List Nat
  poison : Bool
  deriving DecidableEq, Repr, Inhabited

/-- A location's coherence order at its home point (R88): the last store, whose value memory holds, with the releases that value
carries (R92), and the stores before it with their values, latest first. -/
structure Writer where
  sid : StoreId
  rels : List Nat
  past : List (StoreId × Byte)
  /-- Every release that a store of the order has carried: a read-modify-write at its end synchronises with all of them (R92). -/
  all : List Nat
  deriving DecidableEq, Repr, Inhabited

/-- An acquire or full fence not yet performed (R92, R95). -/
structure Hold where
  seq : Nat
  scope : Scope
  /-- The acquire part has been performed. -/
  acqDone : Bool
  /-- A fence with both parts: later loads also wait until the agent's stores below this number have reached the scope point
  (R95). -/
  own : Option Nat
  /-- A fence synchronises with the releases that its agent's loads have read (R95). -/
  fence : Bool
  /-- The acquire of a synchronisation instruction: it is performed at that synchronisation's move (R92, R97). -/
  move : Option Nat
  deriving DecidableEq, Repr, Inhabited

/-- Members of an observed set: an agent's stores below a number, with or without its UO stores, or one store (R91, R92). -/
inductive Obs where
  | upTo (agent bound : Nat) (uo : Bool)
  | one (sid : StoreId)
  deriving DecidableEq, Repr, Inhabited

/-- Who an agent is, for the sharing of scopes (R86). -/
structure Place where
  /-- The agent is a thread or an engine command of a squad; otherwise a unit of the device or the host. -/
  onCore : Bool
  host : Bool
  lid : Nat
  squad : Nat
  core : Nat
  deriving DecidableEq, Repr, Inhabited

/-- What is held per agent of the ordering machine (Table 4.1). -/
structure Agent where
  place : Place
  /-- The partition of its launch (R202). -/
  part : Nat
  runBuf : List Entry
  so : List Entry
  rc : List Entry
  uo : List Entry
  loads : List Load
  observed : List Obs
  /-- Releases that earlier loads have read, each with the store it was read from (R92, R95). -/
  readRels : List (Nat × Option StoreId)
  /-- The same at the start of the run in progress (R309, R314). -/
  entryRels : List (Nat × Option StoreId)
  holds : List Hold
  /-- The agent's releases that store nothing, in program order, with whether a fence made them: their markers hold back later
  entries, whose values they write (R92, R94). -/
  past : List (Nat × Bool)
  nextSeq : Nat
  nextSid : Nat
  deriving DecidableEq, Repr, Inhabited

/-! ### Synchronisation still to take effect -/

/-- A word of memory that an instruction names: its key and its address. -/
structure Ref where
  key : Nat
  va : DWord
  ord : OrdKind
  /-- The fabric window it is reached through (R218, R257). -/
  win : Option WinRef
  deriving DecidableEq, Repr, Inhabited

/-- The kinds of holding (R214, Table 9.9). -/
inductive HoldKind where
  | object | lock | promise
  deriving DecidableEq, Repr, Inhabited

/-- A holding of an estate (R214). -/
structure Holding where
  kind : HoldKind
  handle : DWord
  /-- The memory key of a lock word, a cell or an object. -/
  key : Nat
  order : Nat
  bereaved : Bool
  deriving DecidableEq, Repr, Inhabited

/-- The effect that a release holds back until it has been performed (R91, R96, R97). A release of a lock and the value of a promise keep the
holding that has ended, for the case that they have no effect (R326). -/
inductive SyncOp where
  | fence
  | barArrive (block n : Nat) (threads : List Nat)
  | gbarArrive (gang : Nat) (threads : List Nat)
  | chEnter (block n : Nat) (x : Word)
  /-- A wait whose first test its release precedes. -/
  | arm (wait : Nat)
  | lkTry (squad jd : Nat) (lock : Ref) (acq : Option Scope) (threads : List Nat) (issue : Nat)
  | lkRel (squad addr : Nat) (held : Option Holding)
  | prMake (squad addr : Nat)
  | prSet (squad addr : Nat) (value : DWord) (held : Option Holding)
  | sigAdd (squad addr : Nat) (inc : DWord)
  /-- The publication numbered `id` of a window (R219). -/
  | publish (window id : Nat)
  | free (cmd : Nat)
  | cmdStart (cmd : Nat)
  /-- The end of a command with a release flag: its token (R96). -/
  | cmdDone (cmd : Nat)
  deriving DecidableEq, Repr, Inhabited

/-- A release not yet performed: its agent, scope, place in the agent's program order, whether it covers stores of every kind, and
the synchronisation it belongs to. -/
structure PendRel where
  agent : Nat
  scope : Scope
  seq : Nat
  sid : Nat
  fence : Bool
  sync : Nat
  deriving DecidableEq, Repr, Inhabited

/-- An effect waiting for releases: the markers still standing, and all releases it makes. -/
structure Sync where
  left : List Nat
  rels : List Nat
  op : SyncOp
  /-- Its effect is a move of its own, which entries of its agents stand for (Table 4.2). -/
  moves : Bool
  /-- The scope of the acquire that its agents perform at that move (R92, R97). -/
  acq : Option Scope
  deriving DecidableEq, Repr, Inhabited

/-- A performed release: agent, scope and the stores it covers (R91). -/
structure Release where
  place : Place
  scope : Scope
  covered : List Obs
  deriving DecidableEq, Repr, Inhabited

/-! ### Waits (R21) -/

/-- The cross-lane operations of Table 7.14. -/
inductive RdvOp where
  | shfl | shflx | ballot
  | sred (op : RedOp)
  | sscan (op : RedOp) (excl : Bool)
  | matchLanes
  deriving DecidableEq, Repr, Inhabited

/-- What a waiting instruction waits for, with its operands as read at issue. -/
inductive WaitKind where
  /-- A rendezvous at the word's address, with its destination (R32). -/
  | rendezvous (op : RdvOp) (vd : Nat)
  | bar (block n : Nat)
  | gbar (gang : Nat)
  | pushV (block q : Nat) (x : Word)
  | popV (block q vd : Nat)
  | push (block q : Nat) (x : Word)
  | pop (block q sd : Nat)
  | command (block q cmd : Nat)
  | fetch (block sd : Nat)
  | chPush (block n : Nat) (x : Word)
  | chPop (block n sd : Nat)
  | lkAcq (lock : Ref) (acq : Option Scope)
  | prWait (addr sd jd : Nat) (acq : Option Scope)
  | inherit (sd : Nat)
  | alloc (cmd sd : Nat)
  | waitSig (signal : Ref) (value : DWord) (acq : Option Scope)
  /-- Over for the threads that waited; each suspended one completes at its HRET, with the acquire given (R316). -/
  | over (acq : Option Scope) (read : List (Nat × Option StoreId))
  deriving DecidableEq, Repr, Inhabited

/-- A wait under R21: its threads, its squad, and the waiting word with its address. -/
structure Wait where
  threads : List Nat
  squad : Nat
  kind : WaitKind
  word : Word
  pc : DWord
  /-- Its request has arrived at the object: the release before its first test has been performed (R97). -/
  armed : Bool
  /-- Its place among the executions that wait, by issue or by arrival (R208, R211). -/
  turn : Nat
  /-- The place of its word in the core's issue order (R30). -/
  issue : Nat
  /-- The releases that a store of its agents at its completion carries (R92). -/
  rels : List Nat
  deriving DecidableEq, Repr, Inhabited

/-! ### Threads and squads -/

/-- A run whose next attempt is a direct slow-gear re-run, as a handler entry sets it aside: where it starts, and what the attempt then
goes by (R303, R315). -/
structure Retry where
  pc : DWord
  deny : Option (Nat × Nat)
  badPage : Option Nat
  deriving DecidableEq, Repr, Inhabited

/-- A thread (R8, R13). -/
structure Thread where
  v : Vector Word 128
  k : Vector Bool 8
  shV : Vector Word 128
  shK : Vector Bool 8
  pc : DWord
  age : Nat
  stk : DWord
  depth : Nat
  rcache : List (Nat × DWord)
  hpc : DWord
  mark : Bool
  wait : Option Nat
  /-- The wait suspended by a handler entry (R315, R316). -/
  susp : Option Nat
  /-- A wait of its handler that an escalation has suspended while that one stays suspended (R317). -/
  frozen : Option Nat
  /-- Its lane was clear in sr.amask at HRET: it completes its run alone (R318). -/
  alone : Bool
  /-- Entered the handler and has executed no HRET since (R315). -/
  inHandler : Bool
  live : Bool
  inWave : Bool
  yielded : Bool
  dbg : Bool
  /-- Stopped for a pending handler entry or by an escalation (R315, R317). -/
  stopped : Bool
  /-- Stands inside a run (R312). -/
  inRun : Bool
  /-- Waits for a Page Request's response at its run start (R83). -/
  pri : Bool
  /-- The next attempt is a direct slow-gear re-run (R303). -/
  direct : Bool
  /-- Its run has ended in a re-run, whose wave it stays in until that is over (R366). -/
  slowEnd : Bool
  /-- A page whose translation the host refused for good, with the cause the access reports (R303). -/
  deny : Option (Nat × Nat)
  /-- That refusal followed a response to a Page Request (R303, R365). -/
  answered : Bool
  /-- The page of an Invalid Request that the direct re-run asks for afresh (R303). -/
  badPage : Option Nat
  /-- The direct re-run that waits for the return from the handler (R303). -/
  retry : Option Retry
  /-- By barrier, the thread's arrivals not yet counted and the phase of the last one counted; and the same at its gang barrier
  (R205, R206). -/
  arrivals : Tbl (Nat × Nat)
  gbarPhase : Option (Nat × Nat)
  /-- By wait, the operands recorded at a rendezvous, of the primary and the shadow (R161, R316, R336). -/
  rdv : Tbl ((Word × Word) × (Word × Word))
  /-- The bits in which the shadow's command word differs from the primary's in the run in progress (R337). -/
  shWord : Word
  pendV : List Nat
  tokSeen : List Nat
  poisonV : List Nat
  poisonK : List Nat
  agent : Nat
  /-- The entry state of the run in progress: v, k and the run start (R309). -/
  entryV : Vector Word 128
  entryK : Vector Bool 8
  entryShV : Vector Word 128
  entryShK : Vector Bool 8
  entryPoison : List Nat × List Nat
  deriving DecidableEq, Repr, Inhabited

/-- Table 1.7. -/
inductive RowState where
  | free | loading | resident | draining | saving | evicted | restoring
  deriving DecidableEq, Repr, Inhabited

/-- A notice of q7 with the release of the conveyance that pushed it (R217). -/
structure Notice where
  val : DWord
  rels : List Nat
  deriving DecidableEq, Repr, Inhabited

/-- What a squad that is not loaded yet has inherited (R216, R284). -/
structure Legacy where
  estate : List Holding
  q7 : List Notice
  deriving DecidableEq, Repr, Inhabited

/-- What a handler entry writes (Table 19.1). -/
structure Report where
  cause : Nat
  fmask : Word
  amask : Word
  faddr : DWord
  /-- The poison that it blames, by memory key (R333). -/
  key : Option Nat
  word : Word
  /-- The decoded-field registers hold fields only when there is a word (R301). -/
  hasWord : Bool
  /-- A deferred record, and one that a matrix command raised (R306). -/
  deferred : Bool
  matrix : Bool
  deriving DecidableEq, Repr, Inhabited

/-- The state of a squad's handler entry (R315, R317). -/
inductive EntryState where
  | none
  | pending (r : Report)
  | inProgress
  | escalated (r : Report)
  deriving DecidableEq, Repr, Inhabited

/-- A token register whose value a release stands behind (R96). -/
structure TokenRel where
  id : Nat
  reg : Nat
  rels : List Nat
  scope : Scope
  deriving DecidableEq, Repr, Inhabited

/-- A weight plane of the matrix array (R192, R193). -/
structure Plane where
  fmt : WFmt
  bytes : List Byte
  scale : List Byte
  super : Word
  act : Nat
  loader : Option (Nat × Nat)
  poison : Bool
  deriving DecidableEq, Repr, Inhabited

/-- Bytes of a dump with their poison (R363). -/
abbrev DumpBytes := List (Byte × Bool)

/-- A squad, with the fields of its lease-table row (R8, R13, Table 1.6). -/
structure Squad where
  lid : Nat
  block : Nat
  core : Nat
  row : Nat
  state : RowState
  role : Nat
  idx : Nat
  gsq : Nat
  allot : Nat
  present : List Nat
  groups : Tbl (List Nat)
  tiles : List Nat
  ctx : Nat
  s : Vector Word 64
  j : Vector Bool 8
  shS : Vector Word 64
  shJ : Vector Bool 8
  seqS : Tbl Nat
  seqJ : Tbl Nat
  pendS : List Nat
  pendJ : List Nat
  tokens : List TokenRel
  vanish : Word
  wrev : Word
  hvec : DWord
  handler : Bool
  amask : Word
  fmask : Word
  cause : Nat
  faddr : DWord
  xword : Word
  xd : Word
  xa : Word
  xb : Word
  ximm : Word
  /-- Accumulator elements by tile × 2048 + row × 64 + column; absent ones are +0.0 (R113). -/
  acc : Tbl Word
  estate : List Holding
  heir : Nat
  q7 : List Notice
  deferred : List Report
  entry : EntryState
  fed : Nat
  /-- The tiles it has fetched that are not complete, oldest first (R59). -/
  tile : List Nat
  ended : Bool
  killed : Bool
  /-- Its holdings and notices have been conveyed (R216). -/
  conveyed : Bool
  /-- Rotations waited through while saved, and chosen at one (R55). -/
  rotations : Nat
  returning : Bool
  /-- The core's planes saved with the squad: active and shadow (R52). -/
  planes : Option (Option Plane × Option Plane)
  saveArea : Nat
  poisonS : List Nat
  poisonJ : List Nat
  poisonAcc : List Nat
  /-- Later matrix commands are discarded until the handler entry for a deferred record (R306). -/
  dropMx : Bool
  /-- The stream of the squad that was in flight when it entered SAVING (R52). -/
  drained : Option Nat
  deriving DecidableEq, Repr, Inhabited

/-! ### Waves and cores -/

/-- A class R cause found in a wave (R308). -/
structure RunFault where
  thread : Nat
  squad : Nat
  cause : Nat
  addr : DWord
  /-- The poison that it blames, by memory key (R333). -/
  key : Option Nat
  word : Word
  hasWord : Bool
  pc : DWord
  deriving DecidableEq, Repr, Inhabited

/-- A squad-register or predicate write of a run: squad, j or s, number, values of the primary and shadow copies, issue
sequence (R30). -/
structure SWrite where
  squad : Nat
  pc : DWord
  isJ : Bool
  n : Nat
  val : Word
  sh : Word
  seq : Nat
  deriving DecidableEq, Repr, Inhabited

/-- Slow gear of a wave (R310, R311). -/
structure Slow where
  /-- Threads still to take, the first being the one in progress. -/
  todo : List Nat
  pc : DWord
  /-- Squad-set words executed, and those that raised a cause, by squad. -/
  done : List (Nat × DWord)
  caused : List (Nat × DWord)
  /-- Threads that reached a last squad-set word and wait in the wave, and its address. -/
  atEnd : List Nat
  endPc : DWord
  /-- Threads that raised a class R cause in the first attempt, and those stopped in the re-run. -/
  first : List Nat
  stopped : List RunFault
  /-- A debugger's step, of one word a thread, with its command (R321). -/
  one : Option (Nat × Nat)
  deriving DecidableEq, Repr, Inhabited

/-- The squad registers and predicates of a squad at a re-run's entry: both copies and the poison (R311). -/
structure SquadEntry where
  s : Vector Word 64
  j : Vector Bool 8
  shS : Vector Word 64
  shJ : Vector Bool 8
  poisonS : List Nat
  poisonJ : List Nat
  /-- Registers and predicates that an earlier instruction had yet to write: a read waits for it and finds its value (R138). -/
  pendS : List Nat
  pendJ : List Nat
  deriving DecidableEq, Repr, Inhabited

/-- A wave in an issue slot (R22). -/
structure Wave where
  id : Nat
  start : DWord
  pc : DWord
  /-- The threads the wave was formed with, and those still in it. -/
  all : List Nat
  threads : List Nat
  faults : List RunFault
  writes : List SWrite
  /-- Values read by the last word, written when the run ends (R297, R308). -/
  got : List (Dst × List Word)
  /-- The threads whose last word has been executed and whose runs end once its loads are performed (R308). -/
  ending : List Nat
  slow : Option Slow
  /-- By squad, the registers that slow gear reads where its re-run has written none (R311). -/
  entry : Tbl SquadEntry
  deriving DecidableEq, Repr, Inhabited

/-- A leaf as a TLB holds it (R78, R79, R83). -/
structure TlbEntry where
  ctx : Nat
  va : Nat
  /-- Base 2 logarithm of the page size. -/
  size : Nat
  leaf : DWord
  /-- The host physical page and permissions an ATS completion gave (R83). -/
  host : Option (Nat × Bool × Bool × Bool)
  deriving DecidableEq, Repr, Inhabited

/-- A core. -/
structure Core where
  /-- The squad of each lease-table row. -/
  rows : Tbl Nat
  /-- The block of each block context. -/
  ctx : Tbl Nat
  slots : Tbl Wave
  picks : Nat
  sinceRotation : Nat
  /-- Per launch, the picks gone through without one (R26). -/
  without : Tbl Nat
  issue : Nat
  active : Option Plane
  shadow : Option Plane
  tlb : List TlbEntry
  copies : Tbl Copy
  /-- The lines of 128 bytes that have core copies, with the loads each has served since it was filled (R75). -/
  lines : Tbl Nat
  pending : List Pending
  foreground : Option Nat
  /-- The backing area of the core's background context (R68). -/
  backing : Option Nat
  mappedOut : Bool
  /-- The spare rows of the array in force: what logical row each of physical rows 64 to 67 carries (R115, R290, R333). -/
  spares : List (Option Nat)
  deriving DecidableEq, Repr, Inhabited

/-! ### Blocks, gangs and engine commands -/

structure Barrier where
  count : Nat
  arrivals : Nat
  phase : Nat
  /-- Releases of the arrivals of the current phase, and of each completed phase. -/
  rels : List Nat
  doneRels : Tbl (List Nat)
  deriving DecidableEq, Repr, Inhabited

structure Channel where
  base : Word
  cap : Nat
  head : Nat
  count : Nat
  allow : Nat
  /-- By ring slot, the releases of its entry and the store that wrote it (R92, R97). -/
  rels : Tbl (List Nat × StoreId)
  deriving DecidableEq, Repr, Inhabited

/-- A guard slot with the number of its current arming (R135). -/
inductive Guard where
  | opened | armed (n : Nat) | shut
  deriving DecidableEq, Repr, Inhabited

/-- A claim of a stream command on q8: words claimed, none until its size is fixed; a dropped claim takes its words as
they enter (R196). -/
structure Claim where
  cmd : Nat
  left : Option Nat
  dropped : Bool
  deriving DecidableEq, Repr, Inhabited

/-- A completion or reply record on its way into squad registers: the register, the words, the place of the pushing word in the
issue order, and the releases it stands behind with their scope (R96, R133). -/
structure Done where
  squad : Nat
  reg : Nat
  words : List Word
  issue : Nat
  rels : List Nat
  scope : Scope
  deriving DecidableEq, Repr, Inhabited

structure Block where
  lid : Nat
  core : Nat
  ctx : Nat
  gang : Nat
  order : Nat
  bars : Tbl Barrier
  chans : Tbl Channel
  guards : Tbl Guard
  armings : Nat
  /-- Resolved armings: the slot state each resolved to. -/
  resolved : Tbl Bool
  q0 : List Nat
  /-- Completion and reply records, which the token writer and the reply writer take (Table 6.22). -/
  q1 : List Done
  q2 : List Nat
  q3 : List Done
  q4 : List Nat
  q5 : List Done
  q6 : List DWord
  data : Tbl (List Word)
  claims : List Claim
  exhausted : Bool
  /-- By squad index, what has been conveyed to squads not loaded yet (R216, R284). -/
  legacies : Tbl Legacy
  /-- The area of the saved block context, and the backing area of its cluster contribution (R54, R68). -/
  saveArea : Option Nat
  backing : Option Nat
  deriving DecidableEq, Repr, Inhabited

structure Gang where
  lid : Nat
  cluster : Nat
  bar : Barrier
  deriving DecidableEq, Repr, Inhabited

inductive CmdKind where
  | mxlds (fmt : WFmt)
  | mxswap
  /-- Its rows: home lane, row reference, scale byte, place in the thread's program order (R196). -/
  | mxstr (tile : Nat) (rows : List (Nat × Word × Nat × Nat)) (q8 zf : Bool)
  | mxdrn
  | mxzero (tile : Nat)
  | cpcopy | cpgath | cpscat
  | cpfill (z : Nat)
  | alloc (size : Nat)
  | free (handle : Nat)
  deriving DecidableEq, Repr, Inhabited

/-- An engine command (R85, R133). -/
structure Cmd where
  squad : Nat
  lid : Nat
  block : Nat
  core : Nat
  kind : CmdKind
  desc : List Word
  /-- Bound to a SHUT slot at its push: discarded at its queue's head. -/
  shut : Bool
  ord : Ord
  /-- The register that receives the token or reply. -/
  token : Option Nat
  agent : Nat
  word : Word
  /-- The place of its word in the core's issue order (R30). -/
  issue : Nat
  /-- Its acquire, if any, has the pushing threads' releases performed. -/
  ready : Bool
  acqRels : List Nat
  /-- Its reads and writes have been made; what is left is its release and its token. -/
  started : Bool
  /-- Rows of a stream already fed. -/
  fed : Nat
  /-- It writes token 0 and does nothing else (R135, R306). -/
  discarded : Bool
  /-- The token that waits for the command's release (R96), or the reply of an ALLOC. -/
  result : Option DWord
  /-- The arming of its guard slot that it is bound to. -/
  arming : Option Nat
  /-- A page whose translation the host refused for good, with the cause, and whether that followed a response to a Page Request (R303, R365). -/
  deny : Option (Nat × Nat)
  answered : Bool
  /-- A copy command that has started, with what it still has to move (R200). -/
  held : Option Held
  /-- The pages it has touched (R82), and the parts of the list, record, tile or plane that it reads whole: where each comes from, its
  place, and its bytes once they have been read (R96, R194, R201). -/
  pages : List CmdPage
  parts : List Chunk
  /-- Some of those parts came through a revoked window (R257). -/
  revoked : Bool
  deriving DecidableEq, Repr, Inhabited

/-- A squad with what a dump shows of its block, as they stood when the squad stopped (R363). -/
structure Capture where
  /-- Its place among the captures. -/
  turn : Nat
  squad : Squad
  threads : Tbl Thread
  block : Block
  gang : Gang
  waits : Tbl Wait
  mem : List Host.Cell
  poison : List Nat
  deriving DecidableEq, Repr, Inhabited

/-! ### Launches -/

structure Role where
  entry : DWord
  handler : DWord
  allot : Nat
  squads : Nat
  threads : Nat
  tiles : Nat
  flags : Nat
  deriving DecidableEq, Repr, Inhabited

structure WaitEntry where
  kind : Nat
  dist : Nat
  addr : DWord
  value : DWord
  deriving DecidableEq, Repr, Inhabited

/-- The launch header (R43). -/
structure Header where
  flags : Nat
  code : DWord
  digest : List Byte
  args : DWord
  argsize : Nat
  features : Nat
  clusters : Nat
  prio : Nat
  localUnits : Nat
  gbar : Nat
  set : Nat
  dimx : Nat
  dimy : Nat
  dimz : Nat
  order : Nat
  bars : List Nat
  chans : List Nat
  roles : List Role
  waits : List WaitEntry
  posts : List (DWord × DWord)
  seals : DWord
  nseals : Nat
  windows : List Nat
  deriving DecidableEq, Repr, Inhabited

/-- A 64 KiB piece as the Garret holds it: its address in pieces, its bytes, its poisoned granules, and the place of the copy in the
Garret, in 64 KiB units (R322, R327, R328). -/
structure Snapshot where
  piece : Nat
  cells : List Host.Cell
  poison : List Nat
  slot : Nat
  deriving DecidableEq, Repr, Inhabited

/-- What a restore under R330 is for, once the launch's squads have stopped and its writes are home: a kill on poison or on a disagreement of
copies; a launch that cannot be restored, at a core ordinal (R354); one that an escalation kills, with its status detail (R358). -/
inductive RollKind where
  | killed
  | unrestorable (ord : Nat)
  | escalated (detail : Nat)
  deriving DecidableEq, Repr, Inhabited

/-- A kill under R330 still to be carried out: its cause, the resource it blames, the address it reports, and the key of the poison, if any
(R330, R333). -/
structure Roll where
  kind : RollKind
  cause : Nat
  resource : Nat
  addr : Nat
  key : Option Nat
  deriving DecidableEq, Repr, Inhabited

/-- A launch, live from stage 1 (R41, R376). -/
structure Launch where
  hdr : Header
  hdrAddr : DWord
  /-- The 512 bytes of the header as fetched (Table 12.2). -/
  raw : List Byte
  stage : Nat
  /-- The queue and the buffer ID of its LAUNCH command. -/
  queue : Nat
  buf : Nat
  part : Nat
  ctx : Nat
  /-- The count of launches its queue held before it (R46). -/
  nth : Nat
  /-- Wait entries not yet satisfied. -/
  waitsLeft : List WaitEntry
  /-- Releases its last satisfied wait entry, a restore or a fill synchronises with, and the stores read (R46, R74, R330). -/
  acqRels : List (Nat × Option StoreId)
  clusters : List Nat
  blocks : List Nat
  gangs : List Nat
  /-- Order of binding. -/
  boundAt : Nat
  /-- Position in the dispenser's sequence, tiles handed back, complete tiles, and the completed-tile count (R56 to R59). -/
  nextPos : Nat
  handedBack : List Nat
  doneTiles : List Nat
  completed : Nat
  killed : Bool
  /-- Killed as a whole: no further squad of it is loaded. -/
  whole : Bool
  /-- Status detail of a killed launch (Table 21.1). -/
  killDetail : Nat
  /-- The kill under R330 has stopped its squads. -/
  rolling : Bool
  /-- The status code with which a killed launch completes: 0x08, or 0x0A when it is unrestorable (R354, R377). -/
  killCode : Nat
  /-- Its queue or function was reset: no used element is posted (R347). -/
  abandoned : Bool
  /-- Steps 2 and 3 of R60 have been performed. -/
  sealed : Bool
  /-- The valid length of its dump, once reported, and whether the dump is TRUNCATED (R364). -/
  dumpLen : Nat
  dumpCut : Bool
  /-- The windows of its publications that step 3 of R60 will let go, in issue order (R219). -/
  heldPublish : List Nat
  eligible : Bool
  roll : Option Roll
  replays : Nat
  /-- The 64 KiB pieces of device memory it has written (R328, R329). -/
  written : List Nat
  /-- The pieces in the Garret (R328). -/
  snapshots : List Snapshot
  /-- Resources of earlier kills (R331). -/
  resources : List Nat
  /-- The generation of its binding (R351). -/
  generation : Nat
  dump : Option (DWord × Nat)
  /-- The chain counter after its launch link, the status detail of its LAUNCH (R269). -/
  counter : Nat
  /-- The first address that step 2 or 4 of R60 could not reach. -/
  badAddr : Option Nat
  /-- A squad of it has escalated and no claim covers it (R358): squad, cause, why, fault mask and address. -/
  escalation : Option (Nat × Nat × Nat × Nat × Nat)
  /-- The Porter has killed it for that escalation; its events follow the completion (R358). -/
  proceeded : Bool
  /-- Squads halted, and squads killed, by the debugger before they were loaded, by global number (R357). -/
  halted : List Nat
  dead : List Nat
  ended : Bool
  deriving DecidableEq, Repr, Inhabited

/-! ### Partitions, functions, contexts -/

structure Context where
  root : Nat
  pasid : Nat
  part : Nat
  /-- Dump buffer of the context's later launches (R357). -/
  dump : Option (DWord × Nat)
  deriving DecidableEq, Repr, Inhabited

/-- An open measurement chain of a context (R266 to R271). -/
structure Chain where
  m : List Byte
  counter : Nat
  key : Nat
  /-- Address and entries of the journal ring. -/
  journal : DWord × Nat
  launches : Nat
  replays : Nat
  ends : Nat
  /-- Requests that have started and not read the chain: queue and buffer (R270). -/
  drains : List (Nat × Nat)
  /-- Launches (0, lid, 0) and fills (1, queue, buffer) that have come meanwhile and wait for their links, oldest first (R270). -/
  waiting : List (Nat × Nat × Nat)
  deriving DecidableEq, Repr, Inhabited

/-- A window-table entry (Table 3.5). -/
structure FabWin where
  tbase : DWord
  tsize : DWord
  tdev : Nat
  tpart : Nat
  valid : Bool
  write : Bool
  strict : Bool
  keyidx : Nat
  gen : Nat
  exportId : Nat
  /-- Its generation has been revoked at a target on another device (R257). -/
  revoked : Bool
  /-- The number of the grant that made the entry. -/
  serial : Nat
  deriving DecidableEq, Repr, Inhabited

/-- An exported window (R254). -/
structure Export where
  base : DWord
  size : DWord
  impDev : Nat
  impPart : Nat
  write : Bool
  ctx : Nat
  part : Nat
  gen : Nat
  deriving DecidableEq, Repr, Inhabited

/-- A publication of a launch: its number, whether its release has been performed, and whether it is held until step 3 of R60
(R219). -/
structure Publication where
  lid : Nat
  id : Nat
  released : Bool
  held : Bool
  deriving DecidableEq, Repr, Inhabited

structure PubWin where
  base : DWord
  host : DWord
  size : Nat
  counter : DWord
  ctx : Nat
  part : Nat
  /-- Publications issued and not performed, oldest first, and the step of the first (R219). -/
  pending : List Publication
  step : Nat
  /-- Lines of 128 bytes written since the last publication. -/
  dirty : List Nat
  deriving DecidableEq, Repr, Inhabited

/-- A storage request passed to the host (R253). -/
structure StorageReq where
  slot : Nat
  tag : Nat
  gen : Nat
  lid : Nat
  buffer : Nat
  len : Nat
  deriving DecidableEq, Repr, Inhabited

structure StoragePair where
  subRing : Nat
  compRing : Nat
  subSig : Nat
  compSig : Nat
  entries : Nat
  hostQueue : Nat
  ctx : Nat
  served : Nat
  /-- Squads whose SIGADD made requests visible, with the signal after it, oldest first (R307). -/
  posters : List (Nat × Nat)
  /-- Requests at the host. -/
  out : List StorageReq
  deriving DecidableEq, Repr, Inhabited

structure Partition where
  clusters : List Nat
  save : DWord
  saveSize : DWord
  heap : DWord
  heapSize : DWord
  cellar : Tbl (Nat × Nat)
  fabric : Tbl FabWin
  /-- Window-table entries that a later grant has replaced: requests made through them carry what they held (R257). -/
  replaced : List FabWin
  /-- The owner keys installed, by index (R255). -/
  keys : Tbl (List Byte)
  /-- Keys suspended on a link, by the number of their triple, with the link's identifier (R255, R340). -/
  suspended : List (Nat × Nat)
  /-- Live objects: address, class size, launch. -/
  objects : List (Nat × Nat × Nat)
  /-- Freed objects held for storage I/O (R203). -/
  heldObjects : List (Nat × Nat × List Nat)
  /-- The 64-byte units of the heap that were last given to this partition (R202). -/
  used : List Nat
  /-- The releases of the FREE that last returned the 64 bytes at an address (R202). -/
  freedRels : Tbl (List Nat)
  /-- The releases that ends of Cellar fills made, which the next bindings acquire (R74). -/
  fillRels : List Nat
  areas : List (Nat × Nat)
  frozen : Bool
  deriving DecidableEq, Repr, Inhabited

/-- An event delivered to the owner of its class (R263, R344, R356). -/
structure Event where
  cls : Nat
  code : Nat
  lid : Nat
  part : Option Nat
  /-- Bit 0 TRUNCATED, bit 1 LASTING. -/
  flags : Nat
  detail : Nat
  addr : Nat
  deriving DecidableEq, Repr, Inhabited

/-- Who asked for a host translation (R82, R83). -/
inductive Asker where
  | thread (t : Nat)
  | cmd (c : Nat)
  | hub
  deriving DecidableEq, Repr, Inhabited

/-- An access that waits on a translation: where it was made, who made it, and whether it needs to write (R83, R281). -/
structure Asking where
  core : Nat
  who : Asker
  write : Bool
  read : Bool
  deriving DecidableEq, Repr, Inhabited

/-- An ATS Translation Request sent and not answered (R83, R84). -/
structure AtsReq where
  ctx : Nat
  page : Nat
  askers : List Asking
  /-- Sent after a Success, or after an Invalid Request, with the cause a refusal then gives (R303). -/
  final : Option Nat
  /-- An invalidation accepted since it was sent covers it (R84). -/
  overtaken : Bool
  deriving DecidableEq, Repr, Inhabited

/-- A Page Request, with every access that waits on it (R83, R281). -/
structure PageReq where
  ctx : Nat
  page : Nat
  write : Bool
  read : Bool
  /-- Last in group: set in every request of this device (R83). -/
  last : Bool
  askers : List Asking
  /-- Its Page Request Group Index, once it has been sent (R281). -/
  group : Nat
  deriving DecidableEq, Repr, Inhabited

structure Function where
  groups : List Nat
  features : Nat
  status : Nat
  needsReset : Bool
  /-- Configuration-change notifications sent (R245, R347). -/
  notified : Nat
  ats : Bool
  pri : Bool
  priAlloc : Nat
  priOut : List PageReq
  priWaiting : List PageReq
  stopPri : Bool
  /-- Host status records waiting for a buffer, oldest first (R264). -/
  records : List Event
  seqNo : Nat
  /-- Mapped-out pseudo-channels, stack and number, that its driver has been told of through the management queue (R291). -/
  told : List (Nat × Nat)
  deriving DecidableEq, Repr, Inhabited

structure Queue where
  enabled : Bool
  mapped : Bool
  shadow : Bool
  note : Nat
  tol : Nat
  /-- Chains the driver has made available, oldest first: buffer ID and descriptors (address, length, flags). -/
  avail : List (Nat × List (DWord × Nat × Nat))
  fetched : List (Nat × List (DWord × Nat × Nat))
  /-- Used elements posted: buffer ID and used length. -/
  used : List (Nat × Nat)
  /-- Entries of the packed ring, the place of the next used element, and the wrap counter (R242, R261). -/
  size : Nat
  usedAt : Nat
  wrap : Bool
  launches : Nat
  /-- The launches it had held when it was last enabled (R46). -/
  base : Nat
  inFlight : List Nat
  /-- Commands of its fetched chains that have started (R247). -/
  started : List Nat
  /-- Where the driver's event suppression structure lies in host memory, and the used-buffer notifications sent (R261). -/
  driverArea : Nat
  sent : Nat
  /-- Chains with a buffer that cannot be reached: buffer ID and address (R347). -/
  unreached : List (Nat × Nat)
  /-- Used elements can be written to its ring no more (R347). -/
  lost : Bool
  /-- Its function has been reset, or its group moved, since it was last enabled (R349). -/
  away : Bool
  deriving DecidableEq, Repr, Inhabited

structure Porter where
  x : Vector Word 32
  pc : Word
  mepc : Word
  mcause : Word
  mtvec : Word
  inException : Bool
  /-- The exception in hand has been reported (R348). -/
  reported : Bool
  halted : Bool
  armed : List Nat
  latched : List Nat
  fired : List Nat
  watches : Tbl (DWord × DWord)
  image : List Byte
  deriving DecidableEq, Repr, Inhabited

/-- A host-class core (Table 11.8): RV64. -/
structure HostCore where
  x : Vector DWord 32
  pc : DWord
  running : Bool
  image : List Byte
  deriving DecidableEq, Repr, Inhabited

/-- The Strongroom (Table 11.8): two RV32 cores in lock step, which hold one state between them. Its 1 MiB of private SRAM is a range of
memory keys (log 11). -/
structure Strongroom where
  x : Vector Word 32
  pc : Word
  running : Bool
  image : List Byte
  deriving DecidableEq, Repr, Inhabited

/-! ### Package -/

/-- The configuration record in module flash (Table 17.3). -/
structure ConfigRecord where
  /-- Its signature (R287, R289). -/
  sig : List Byte
  features : Nat
  /-- Minimum svn of each image kind. -/
  svnmin : List Nat
  operator : List Byte
  disabled : List Nat
  /-- The four spare-row bytes of a core, where any is used (R290). -/
  spares : Tbl (List Nat)
  /-- Mapped-out pseudo-channels: stack and number. -/
  hbm : List (Nat × Nat)
  /-- Garret pieces of each stack; 0 selects the default. -/
  garret : Nat
  /-- Voltage offsets of an island, where not 0. -/
  trims : Tbl (List Byte)
  deriving DecidableEq, Repr, Inhabited

/-- An armed injector: its INJECT body, the flits its port has sent since it was armed or last fired, and the firings so far (R342,
R343). -/
structure Injector where
  lane : Nat
  action : Nat
  trigger : Nat
  rep : Nat
  mask : Nat
  delay : Nat
  count : Nat
  firings : Nat
  deriving DecidableEq, Repr, Inhabited

/-- A Ternath port (R339, R340, R342). -/
structure Port where
  up : Bool
  /-- Failed retries of the flit in hand; retrainings, and failed ones in succession. -/
  failed : Nat
  retrains : Nat
  lost : Nat
  inj : Option Injector
  /-- Consecutive tag failures by the number of the key triple (R255, R340). -/
  tagFails : Tbl Nat
  deriving DecidableEq, Repr, Inhabited

structure Island where
  point : Nat
  target : Option Nat
  retention : Bool
  /-- Its voltage in mV, and the offsets of its eight points that stage 5 applied (R293, R294). -/
  volt : Int
  trims : List Byte
  deriving DecidableEq, Repr, Inhabited

/-- A map-out log entry: kind and number of the resource (R333). -/
structure MapOut where
  kind : Nat
  num : Nat
  deriving DecidableEq, Repr, Inhabited

/-- An EVENT_ROUTE that has claimed a class and not completed (R263, R352). -/
structure Claimant where
  cls : Nat
  owner : Nat
  queue : Nat
  buf : Nat
  deriving DecidableEq, Repr, Inhabited

/-- A command's completion (R246). -/
structure Completion where
  queue : Nat
  tag : Nat
  buf : Nat
  status : Nat
  detail : Nat
  value : Nat
  deriving DecidableEq, Repr, Inhabited

/-- A Cellar fill in progress (R74). -/
structure Fill where
  part : Nat
  dies : List Nat
  off : Nat
  len : Nat
  queue : Nat
  buf : Nat
  ctx : Nat
  digest : List Byte
  deriving DecidableEq, Repr, Inhabited

/-- An ATS invalidation delivered and not complete (R84). -/
structure Inval where
  ctx : Nat
  va : Nat
  size : Nat
  /-- It came from the host; otherwise from the management queue. -/
  host : Bool
  /-- Loads and stores that used the old translation, by agent and number. -/
  loads : List (Nat × Nat)
  stores : List StoreId
  /-- Engine commands that hold the old translation. -/
  cmds : List Nat
  /-- The management command to complete, if that is its origin. -/
  cmd : Option (Nat × Nat)
  deriving DecidableEq, Repr, Inhabited

/-- A WINDOW_REVOKE that waits until no request with the old generation is left: its command, its value, and the grants it revoked (R257). -/
structure Revoking where
  queue : Nat
  buf : Nat
  value : Nat
  serials : List Nat
  deriving DecidableEq, Repr, Inhabited

/-- A COPY under way: its command, the parts of its source not read yet, by offset and length, and the bytes read and not written yet, by
offset, with their poison (R248, R324; log 34). -/
structure HubCopy where
  queue : Nat
  buf : Nat
  todo : List (Nat × Nat)
  got : Tbl DumpBytes
  deriving DecidableEq, Repr, Inhabited

/-- The word being executed (log 2). -/
structure Cursor where
  core : Nat
  slot : Nat
  threads : List Nat
  pc : DWord
  word : Word
  slow : Bool
  deriving DecidableEq, Repr, Inhabited

/-! ### The state -/

structure State where
  fresh : Nat
  agenda : List Move
  cur : Cursor
  mem : List Host.Cell
  poison : List Nat
  corrected : Tbl Nat
  writers : Tbl Writer
  threads : Tbl Thread
  squads : Tbl Squad
  /-- The squads that have stopped (R363). -/
  captures : Tbl Capture
  blocks : Tbl Block
  gangs : Tbl Gang
  cores : Tbl Core
  l2tlb : Tbl (List TlbEntry)
  agents : Tbl Agent
  pendRels : Tbl PendRel
  syncs : Tbl Sync
  releases : Tbl Release
  waits : Tbl Wait
  cmds : Tbl Cmd
  launches : Tbl Launch
  fifos : Tbl (List Nat)
  holds : List (Nat × Nat)
  contexts : Tbl Context
  chains : Tbl Chain
  partitions : Tbl Partition
  functions : Tbl Function
  queues : Tbl Queue
  porters : Tbl Porter
  exports : Tbl Export
  revokes : List Revoking
  pubs : Tbl PubWin
  storage : Tbl StoragePair
  claims : List (Nat × Nat)
  ats : List AtsReq
  /-- Pages of a context whose translation the host refused to the hub (R303). -/
  hubDeny : List (Nat × Nat)
  invals : List Inval
  fills : List Fill
  hubCopies : List HubCopy
  /-- Event owners by class, where changed from the default (R263). -/
  routes : Tbl Nat
  /-- Claims on event classes whose EVENT_ROUTE has not completed (R263). -/
  claimants : List Claimant
  events : List Event
  completions : List Completion
  stage : Nat
  /-- The record in module flash, and what of it the last bring-up has read (R289). -/
  flash : ConfigRecord
  config : ConfigRecord
  mapOuts : List MapOut
  cellPhase : Tbl Nat
  /-- 4 KiB ranges of a Cellar that have been poisoned, by die × 65,536 + range, with whether a fill has written them since
  (R335). -/
  cellBad : Tbl Bool
  /-- Spare rows of a bank in use, by die × 16 + bank (R335). -/
  cellSpares : Tbl Nat
  /-- Granules that each stack's patrol has read since it began (R325). -/
  patrol : Tbl Nat
  /-- Requests of peers held for a frozen partition, oldest first (R350). -/
  heldReqs : List (List Nat)
  islands : Tbl Island
  ports : Tbl Port
  counterMono : Nat
  leafNext : Nat
  leafLimit : Nat
  /-- The firmware measurement of bring-up (R286). -/
  firmware : List Byte
  devnum : Nat
  throttled : Bool
  /-- The sensor and temperature of a shutdown that the Strongroom has recorded (R365). -/
  shutDown : Option Nat
  pcieGen : Nat
  /-- What the endpoint last answered to a configuration request of a function: the function's identity and its device configuration
  structure, or none for Configuration Request Retry Status (R241, R245, R286). -/
  cfgReply : Tbl (Option (List Byte))
  hostCores : Tbl HostCore
  strongroom : Strongroom
  /-- What the Strongroom publishes: its encapsulation key and the signature of it under its identity (R255). -/
  published : List Byte
  /-- AER Correctable and Uncorrectable Error Status of each function. -/
  aer : Tbl (Nat × Nat)
  nextId : Nat
  deriving DecidableEq, Repr, Inhabited

/-- The configuration record a module holds at reset: every feature offered, nothing disabled, no operator key (log 6). -/
def ConfigRecord.reset : ConfigRecord :=
  { sig := Config.recordSignature, features := 2 ^ 14 - 1, svnmin := [0, 0, 0], operator := List.replicate 68 0, disabled := [], spares := [], hbm := []
    garret := 0, trims := [] }

/-- Function 0 at reset: it holds group 0 (R242). -/
def Function.reset : Function :=
  { groups := [0], features := 0, status := 0, needsReset := false, notified := 0, ats := false, pri := false, priAlloc := 0
    priOut := [], priWaiting := [], stopPri := false, records := [], seqNo := 0, told := [] }

/-- The Strongroom before stage 2 (log 5). -/
def Strongroom.reset : Strongroom := { x := Vector.replicate 32 0, pc := 0, running := false, image := [] }

/-- A host-class core before stage 4 (log 5). -/
def HostCore.reset : HostCore := { x := Vector.replicate 32 0, pc := 0, running := false, image := [] }

/-- The cursor before the first word. -/
def Cursor.reset : Cursor := { core := 0, slot := 0, threads := [], pc := 0, word := 0, slow := false }

/-- The machine right after reset: no partition, context, launch or squad, no queue enabled, bring-up not begun (R286;
log 4). -/
def State.reset : State :=
  { fresh := 0, agenda := [], cur := Cursor.reset, mem := [], poison := [], corrected := [], writers := [], threads := []
    squads := [], captures := [], blocks := [], gangs := [], cores := [], l2tlb := [], agents := [], pendRels := [], syncs := [], releases := []
    waits := [], cmds := [], launches := [], fifos := [], holds := [], contexts := [], chains := []
    partitions := [], functions := [(0, Function.reset)], queues := [], porters := [], exports := [], revokes := [], pubs := []
    storage := [], claims := [], ats := [], hubDeny := [], invals := [], fills := [], hubCopies := [], routes := [], claimants := []
    events := [], completions := [], stage := 0, flash := ConfigRecord.reset
    config := ConfigRecord.reset, mapOuts := [], cellPhase := [], cellBad := [], cellSpares := [], patrol := [], heldReqs := [], islands := [], ports := [], counterMono := 0, leafNext := 0
    leafLimit := 0, firmware := [], devnum := 0xFFFF, throttled := false, shutDown := none, pcieGen := 0, cfgReply := [], hostCores := []
    strongroom := Strongroom.reset, published := [], aer := [], nextId := 1 }

end Sys2Proof.Machine
end

