-- ==== Sys2Proof/Machine/Memory.lean ====
section
/-! DEFINITION. Memory: one canonical list of bytes over every address space of the part (03 R66, R69, R76, R77; 11 R258; log 1, log 11). -/

namespace Sys2Proof.Machine

/-- What a byte that nothing has written reads as (log 1). -/
def unwritten : Byte := 0

/-- The byte at a memory key. -/
def cellGet (m : List Host.Cell) (a : Nat) : Byte :=
  match m with
  | [] => unwritten
  | (x, v) :: r => if x = a then v else cellGet r a

/-- The memory with byte `b` at key `a`, in canonical form. -/
def cellSet (m : List Host.Cell) (a : Nat) (b : Byte) : List Host.Cell :=
  match m with
  | [] => if b = unwritten then [] else [(a, b)]
  | (x, v) :: r =>
    if a < x then (if b = unwritten then (x, v) :: r else (a, b) :: (x, v) :: r)
    else if a = x then (if b = unwritten then r else (a, b) :: r)
    else (x, v) :: cellSet r a b

/-- The canonical form: keys strictly rising, no entry equal to what an unlisted key reads as. -/
abbrev Memory.wf (m : List Host.Cell) : Prop :=
  m.Pairwise (fun a b => a.1 < b.1) ∧ ∀ c ∈ m, c.2 ≠ unwritten

/-- The bytes from key `a`. -/
def cellsGet (m : List Host.Cell) (a n : Nat) : List Byte := (List.range n).map fun i => cellGet m (a + i)

/-- The memory with `bs` from key `a`. -/
def cellsSet (m : List Host.Cell) (a : Nat) (bs : List Byte) : List Host.Cell :=
  match bs with
  | [] => m
  | b :: r => cellsSet (cellSet m a b) (a + 1) r

/-- A little-endian number (R3). -/
def leNat : List Byte → Nat
  | [] => 0
  | b :: r => b.toNat + 256 * leNat r

/-- The `n` bytes of a number, little-endian (R3). -/
def natLe : Nat → Nat → List Byte
  | 0, _ => []
  | n + 1, x => BitVec.ofNat 8 (x % 256) :: natLe n (x / 256)

/-! ### Keys of the address spaces (log 11) -/

/-- Bytes of a core's scratchpad (R66). -/
def scratchBytes : Nat := 320 * 1024

/-- Cores of the part (Table 0.1). -/
def coreCount : Nat := 1536

/-- The local window of a block on a core (R66, R68). -/
def localKey (block core off : Nat) : Nat := 2 ^ 100 + (block * coreCount + core) * 2 ^ 20 + off

/-- A block's contribution to the cluster window of its gang (R66, R67). -/
def clusterKey (block core off : Nat) : Nat := localKey block core off + 2 ^ 19

/-- The Cellar of a die (R69). -/
def cellarKey (die off : Nat) : Nat := 2 ^ 44 + die * 2 ^ 28 + off

/-- The SRAM of a Porter (R258). -/
def sramKey (p off : Nat) : Nat := 2 ^ 45 + p * 2 ^ 18 + off

/-- The private SRAM of the Strongroom (R258). -/
def strongKey (off : Nat) : Nat := 2 ^ 46 + off

/-- The memory of the host-class cores (R258; log 77). -/
def hostClassKey (off : Nat) : Nat := 2 ^ 66 + off

/-- Host memory at a host address (R83). -/
def hostKey (a : Nat) : Nat := 2 ^ 64 + a

/-- Memory behind a fabric window: the target's device, partition and virtual address (R81). -/
def fabricKey (dev part va : Nat) : Nat := 2 ^ 80 + (dev * 8 + part) * 2 ^ 64 + va

/-- The home point of a location (R86). -/
inductive Home where
  | core (c : Nat)
  | cluster
  | device
  | domain
  | system
  deriving DecidableEq, Repr

/-- H of a memory key (R86). -/
def homeOf (key : Nat) : Home :=
  if 2 ^ 100 ≤ key then
    (if key % 2 ^ 20 < 2 ^ 19 then .core ((key - 2 ^ 100) / 2 ^ 20 % coreCount) else .cluster)
  else if key < 2 ^ 64 then .device
  else if key < 2 ^ 80 then .system
  else .domain

/-- A device physical address of R76. -/
def deviceAddrOk (a : Nat) : Bool := a < 2 ^ 40 && a % 2 ^ 37 < 0x1800000000

/-- The home die of a device physical address (R76). -/
def homeDie (a : Nat) : Nat := a / 2 ^ 37 % 8

/-- The cluster of a core and the die of a cluster: 8 cores a cluster, 24 clusters a die (R1, Table 0.1). -/
def clusterOf (core : Nat) : Nat := core / 8
def dieOf (core : Nat) : Nat := core / 192

/-- The byte at a memory key of the state. -/
def readByte (s : State) (a : Nat) : Byte := cellGet s.mem a

/-- The bytes from a memory key of the state. -/
def readBytes (s : State) (a n : Nat) : List Byte := cellsGet s.mem a n

/-- The little-endian number of `n` bytes at a key. -/
def readNat (s : State) (a n : Nat) : Nat := leNat (readBytes s a n)

/-- The signal that a Porter's watch names by a device physical address, all that Table 11.8 lets it reach beside its own: 0 elsewhere
(R258, R261; log 14). -/
def watchValue (s : State) (a : Nat) : Nat := if deviceAddrOk a && deviceAddrOk (a + 7) then readNat s a 8 else 0

/-- The state with bytes written from a memory key. Every change of memory goes through here. -/
def writeBytes (a : Nat) (bs : List Byte) (s : State) : State := { s with mem := cellsSet s.mem a bs }

/-- The state with the `n` bytes of a number at a key. -/
def writeNat (a n x : Nat) (s : State) : State := writeBytes a (natLe n x) s

/-- Bytes of a granule: 8 in a scratchpad, 64 in a Cellar, otherwise 32 (Table 20.1). -/
def granuleSize (a : Nat) : Nat :=
  if 2 ^ 100 ≤ a then 8 else if 2 ^ 44 ≤ a ∧ a < 2 ^ 45 then 64 else 32

/-- The first key of the granule of a memory key (R322). -/
def granule (a : Nat) : Nat := a / granuleSize a * granuleSize a

/-- Whether any granule of the bytes is poisoned (R322). -/
def isPoisoned (s : State) (a n : Nat) : Bool :=
  (List.range n).any fun i => s.poison.contains (granule (a + i))

/-- The state with the granules of the bytes poisoned (R322, R324). -/
def setPoison (a n : Nat) (s : State) : State :=
  { s with poison := (List.range n).foldl (fun p i => if p.contains (granule (a + i)) then p else granule (a + i) :: p) s.poison }

/-- A write of a whole granule clears the granule's poison (R324). -/
def clearPoison (a n : Nat) (s : State) : State :=
  { s with poison := s.poison.filter fun g => !(a ≤ g && g + granuleSize g ≤ a + n) }

end Sys2Proof.Machine
end

