-- ==== Sys2Proof/Machine/Operands.lean ====
section
/-! DEFINITION. Operands: which registers a word names, and how lanes and squads read and write them (06 R117 to R128; 01 R29, R30; 20 R326, R336). -/

namespace Sys2Proof.Machine

/-- The registers a word reads and writes: v, k, s and j. -/
structure Uses where
  vr : List Nat := []
  vw : List Nat := []
  kr : List Nat := []
  kw : List Nat := []
  sr : List Nat := []
  sw : List Nat := []
  jr : List Nat := []
  jw : List Nat := []
  deriving DecidableEq, Repr

/-- Register `n` and the `k - 1` that follow it (R118). -/
def group (n k : Nat) : List Nat := (List.range k).map (n + ·)

/-- Registers of a source read as `k` words (R124, R125). -/
def srcV (k : Nat) : Src → List Nat
  | .v n => group n.val k
  | .s _ | .zero | .lane | .sq | .tid => []

def srcS (k : Nat) : Src → List Nat
  | .s n => group n.val k
  | .v _ | .zero | .lane | .sq | .tid => []

def baseS : Base → List Nat
  | .s n => group n.val 2
  | .zero => []

/-! ### Threads, squads and cores by key -/

/-- A thread's key holds its squad and its home lane. -/
def threadKey (q lane : Nat) : Nat := q * 32 + lane
def laneOf (t : Nat) : Nat := t % 32
def squadOf (t : Nat) : Nat := t / 32

def thr (s : State) (t : Nat) : Thread := s.threads.getD t default
def sqd (s : State) (q : Nat) : Squad := s.squads.getD q default
def blk (s : State) (b : Nat) : Block := s.blocks.getD b default

/-- A core after reset: nothing loaded, nothing issued (log 4). -/
def Core.reset : Core := default

def cor (s : State) (c : Nat) : Core := s.cores.getD c Core.reset

def modThread (t : Nat) (f : Thread → Thread) (s : State) : State := { s with threads := s.threads.adj t f }
def modSquad (q : Nat) (f : Squad → Squad) (s : State) : State := { s with squads := s.squads.adj q f }
def modBlock (b : Nat) (f : Block → Block) (s : State) : State := { s with blocks := s.blocks.adj b f }
def modCore (c : Nat) (f : Core → Core) (s : State) : State := { s with cores := s.cores.put c (f (cor s c)) }
def modAgent (a : Nat) (f : Agent → Agent) (s : State) : State := { s with agents := s.agents.adj a f }
def modLaunch (l : Nat) (f : Launch → Launch) (s : State) : State := { s with launches := s.launches.adj l f }

/-- `f` applied to each thread of `ts`. -/
def mapThreads (ts : List Nat) (f : Nat → Thread → Thread) (s : State) : State :=
  { s with threads := s.threads.map fun e => if ts.contains e.1 then (e.1, f e.1 e.2) else e }

/-- The threads of a squad, in home-lane order. -/
def threadsOf (s : State) (q : Nat) : List Nat := (sqd s q).present.map (threadKey q)

/-- The live threads of a squad (R32). -/
def liveOf (s : State) (q : Nat) : List Nat := (threadsOf s q).filter fun t => (thr s t).live

/-- A list put in order by insertion. -/
def insertBy {α : Type} (le : α → α → Bool) (a : α) : List α → List α
  | [] => [a]
  | b :: r => if le a b then a :: b :: r else b :: insertBy le a r

def sortBy {α : Type} (le : α → α → Bool) (l : List α) : List α := l.foldr (insertBy le) []

/-- The squads of `ts` in squad order (R29): the launch whose block began loading earlier first, then the global number. -/
def squadsIn (s : State) (ts : List Nat) : List Nat :=
  let key (q : Nat) : Nat × Nat := ((blk s (sqd s q).block).order, (sqd s q).gsq)
  let le (a b : Nat) : Bool := (key a).1 < (key b).1 || ((key a).1 == (key b).1 && (key a).2 ≤ (key b).2)
  sortBy le (ts.map squadOf).eraseDups

/-- The threads of `ts` that belong to squad `q`. -/
def ofSquad (q : Nat) (ts : List Nat) : List Nat := ts.filter fun t => squadOf t == q

/-- A mask of home lanes. -/
def laneMask (ts : List Nat) : Word := ts.foldl (fun m t => m ||| BitVec.ofNat 32 (2 ^ laneOf t)) 0

/-! ### Reading -/

/-- The wave of the word being executed. -/
def curWave (s : State) : Wave := (cor s s.cur.core).slots.getD s.cur.slot default

/-- The last write of the run to an s register or j predicate before the word being executed (R30, R311). -/
def runWrite? (s : State) (q : Nat) (isJ : Bool) (n : Nat) : Option SWrite :=
  ((curWave s).writes.filter fun w => w.squad == q && w.isJ == isJ && w.n == n && w.pc.toNat < s.cur.pc.toNat).getLast?

/-- The registers that a squad had at the entry of the re-run that the word belongs to; none at full speed (R311). -/
def entryOf? (s : State) (q : Nat) : Option SquadEntry := if s.cur.slow then (curWave s).entry.get? q else none

/-- An s register as the run finds it: the architectural value, or in slow gear the entry value (R30, R311). -/
def baseS? (s : State) (sh : Bool) (q n : Nat) : Word :=
  match entryOf? s q with
  | some e => (if sh then e.shS else e.s).getD n 0
  | none => (if sh then (sqd s q).shS else (sqd s q).s).getD n 0

def baseJ? (s : State) (sh : Bool) (q n : Nat) : Bool :=
  match entryOf? s q with
  | some e => (if sh then e.shJ else e.j).getD n false
  | none => (if sh then (sqd s q).shJ else (sqd s q).j).getD n false

/-- S(q, n): the run's own earlier write, else the value the run finds (R30, R311). `sh` reads the shadow copy (R336). -/
def readS (s : State) (sh : Bool) (q n : Nat) : Word :=
  match runWrite? s q false n with
  | some w => if sh then w.sh else w.val
  | none => baseS? s sh q n

/-- J(q, n) (R30). -/
def readJ (s : State) (sh : Bool) (q n : Nat) : Bool :=
  match runWrite? s q true n with
  | some w => (if sh then w.sh else w.val) != 0
  | none => baseJ? s sh q n

/-- V(L, n) and K(L, n) (R128). -/
def readV (s : State) (sh : Bool) (t n : Nat) : Word := (if sh then (thr s t).shV else (thr s t).v).getD n 0
def readK (s : State) (sh : Bool) (t n : Nat) : Bool := (if sh then (thr s t).shK else (thr s t).k).getD n false

/-- S64(q, n) (R128). -/
def readS64 (s : State) (sh : Bool) (q n : Nat) : DWord := join64 (readS s sh q n) (readS s sh q (n + 1))

/-- Src(L, x) (R124, R128). -/
def src (s : State) (sh : Bool) (t : Nat) : Src → Word
  | .v n => readV s sh t n.val
  | .s n => readS s sh (squadOf t) n.val
  | .zero => 0
  | .lane => BitVec.ofNat 32 (laneOf t)
  | .sq => BitVec.ofNat 32 (sqd s (squadOf t)).idx
  | .tid => BitVec.ofNat 32 ((sqd s (squadOf t)).idx * 32 + laneOf t)

/-- Src64(L, x) (R125). -/
def src64 (s : State) (sh : Bool) (t : Nat) (x : Src) : DWord :=
  match x with
  | .v n => join64 (readV s sh t n.val) (readV s sh t (n.val + 1))
  | .s n => readS64 s sh (squadOf t) n.val
  | .zero | .lane | .sq | .tid => join64 (src s sh t x) 0

/-- The base of an LR memory form (R164). -/
def baseVal (s : State) (sh : Bool) (t : Nat) : Base → DWord
  | .s n => readS64 s sh (squadOf t) n.val
  | .zero => 0

/-! ### Writing -/

/-- A whole-register write of both copies: it clears the register's poison (R324, R336). -/
def Thread.setV (n : Nat) (x y : Word) (th : Thread) : Thread :=
  { th with v := th.v.setIfInBounds n x, shV := th.shV.setIfInBounds n y, poisonV := th.poisonV.filter (· != n) }

/-- WriteV64 (R128). -/
def Thread.setV64 (n : Nat) (x y : DWord) (th : Thread) : Thread :=
  (th.setV n (lowWord x) (lowWord y)).setV (n + 1) (highWord x) (highWord y)

def Thread.setK (n : Nat) (x y : Bool) (th : Thread) : Thread :=
  { th with k := th.k.setIfInBounds n x, shK := th.shK.setIfInBounds n y, poisonK := th.poisonK.filter (· != n) }

def Squad.setS (n : Nat) (x y : Word) (sq : Squad) : Squad :=
  { sq with s := sq.s.setIfInBounds n x, shS := sq.shS.setIfInBounds n y, poisonS := sq.poisonS.filter (· != n) }

def Squad.setJ (n : Nat) (x y : Bool) (sq : Squad) : Squad :=
  { sq with j := sq.j.setIfInBounds n x, shJ := sq.shJ.setIfInBounds n y, poisonJ := sq.poisonJ.filter (· != n) }

/-- The wave of the word being executed, changed. -/
def modWave (f : Wave → Wave) (s : State) : State :=
  modCore s.cur.core (fun c => { c with slots := c.slots.adj s.cur.slot f }) s

/-- A write of the run to an s register: it waits in the wave for the run's end and takes its place in issue order (R30). -/
def writeS (q n : Nat) (x y : Word) (s : State) : State :=
  modWave (fun w => { w with writes := w.writes ++ [⟨q, s.cur.pc, false, n, x, y, (cor s s.cur.core).issue⟩] }) s

def writeJ (q n : Nat) (x y : Bool) (s : State) : State :=
  modWave (fun w => { w with writes := w.writes ++
    [⟨q, s.cur.pc, true, n, if x then 1 else 0, if y then 1 else 0, (cor s s.cur.core).issue⟩] }) s

/-- WriteS64 (R128). -/
def writeS64 (q n : Nat) (x y : DWord) (s : State) : State :=
  writeS q (n + 1) (highWord x) (highWord y) (writeS q n (lowWord x) (lowWord y) s)

/-- A value written to an s register outside a run, for the word at place `i` of the issue order: a token, a reply, a popped word
(R138, R180). A value that a later-issued write has left stands (R30). -/
def Squad.takeS (n : Nat) (x : Word) (i : Nat) (sq : Squad) : Squad :=
  let sq := if sq.seqS.getD n 0 ≤ i then
      { sq.setS n x x with seqS := sq.seqS.put n i, tokens := sq.tokens.filter fun t => t.reg != n }
    else sq
  { sq with pendS := sq.pendS.filter (· != n) }

def Squad.takeJ (n : Nat) (x : Bool) (i : Nat) (sq : Squad) : Squad :=
  let sq := if sq.seqJ.getD n 0 ≤ i then { sq.setJ n x x with seqJ := sq.seqJ.put n i } else sq
  { sq with pendJ := sq.pendJ.filter (· != n) }

/-- What was pending at the entry of a re-run reaches its entry state: a read waits for it and finds its value (R138, R311). -/
def SquadEntry.takeS (n : Nat) (x : Word) (e : SquadEntry) : SquadEntry :=
  if e.pendS.contains n then
    { e with s := e.s.setIfInBounds n x, shS := e.shS.setIfInBounds n x, pendS := e.pendS.filter (· != n)
             poisonS := e.poisonS.filter (· != n) }
  else e

def SquadEntry.takeJ (n : Nat) (x : Bool) (e : SquadEntry) : SquadEntry :=
  if e.pendJ.contains n then
    { e with j := e.j.setIfInBounds n x, shJ := e.shJ.setIfInBounds n x, pendJ := e.pendJ.filter (· != n)
             poisonJ := e.poisonJ.filter (· != n) }
  else e

/-- The entry states of a squad in the re-runs of its core, changed. -/
def modEntries (q : Nat) (f : SquadEntry → SquadEntry) (s : State) : State :=
  modCore (sqd s q).core (fun c => { c with slots := c.slots.map fun e => (e.1, { e.2 with entry := e.2.entry.adj q f }) }) s

def deliverS (q n : Nat) (x : Word) (i : Nat) (s : State) : State :=
  modEntries q (SquadEntry.takeS n x) (modSquad q (Squad.takeS n x i) s)

def deliverS64 (q n : Nat) (x : DWord) (i : Nat) (s : State) : State :=
  deliverS q (n + 1) (highWord x) i (deliverS q n (lowWord x) i s)

def deliverJ (q n : Nat) (x : Bool) (i : Nat) (s : State) : State :=
  modEntries q (SquadEntry.takeJ n x) (modSquad q (Squad.takeJ n x i) s)

/-- A value written to a v register outside the word that asked for it (R138). What comes for a thread that has exited is discarded
(R185). -/
def deliverV (t n : Nat) (x : Word) (s : State) : State :=
  modThread t (fun th => if th.live then { th.setV n x x with pendV := th.pendV.filter (· != n) } else th) s

/-- The words of a v destination delivered from its register on. -/
def deliver (d : Dst) (xs : List Word) (s : State) : State :=
  match d with
  | .none | .s _ _ => s
  | .v t n => (xs.zipIdx).foldl (fun s x => deliverV t (n + x.2) x.1 s) s

end Sys2Proof.Machine
end

