-- ==== Sys2Proof/Machine/Translate.lean ====
section
/-! DEFINITION. Addresses: windows, page tables, host and fabric leaves, TLBs, and the address causes (03 R63 to R84, R374, R375; 18 R301, R302). -/

namespace Sys2Proof.Machine

/-- Where an access is made from: a core, the block whose windows it reaches, its translation context and partition.
Agents that are no thread and no engine command of a block have none (R375). -/
structure View where
  core : Nat
  block : Option Nat
  ctx : Nat
  part : Nat
  deriving DecidableEq, Repr

/-- What an access is, for permission and placement (Table 18.5). -/
inductive Access where
  | load
  | store
  | atomic (op : AtomOp)
  | fetch
  /-- A lock word or promise cell (R210, R212). -/
  | cell (write : Bool)
  /-- A signal (R218). -/
  | signal (write : Bool)
  deriving DecidableEq, Repr

def Access.writes : Access → Bool
  | .store | .atomic _ => true
  | .cell w | .signal w => w
  | .load | .fetch => false

def Access.reads : Access → Bool
  | .store => false
  | .load | .atomic _ | .fetch | .cell _ | .signal _ => true

/-- The translation of an address within one page: its key with the bytes that follow in the page, a cause, or a page
whose host translation is needed. -/
inductive PageRes where
  | ok (key left : Nat) (ord : OrdKind) (win : Option WinRef)
  | bad (cause : Nat)
  | miss (page : Nat)
  deriving DecidableEq, Repr

/-- The translation of an access (R65, R301). -/
inductive Trans where
  | ok (ps : List Piece)
  | bad (cause : Nat)
  | miss (pages : List Nat)
  deriving DecidableEq, Repr

/-- R63. -/
def canonical (va : Nat) : Bool := va / 2 ^ 56 % 256 == 0 || va / 2 ^ 56 % 256 == 255

/-! ### Windows (Table 3.1) -/

def localBase : Nat := 0xFFFFF00000000000
def clusterBase : Nat := 0xFFFFF10000000000
def cellarBase : Nat := 0xFFFFF20000000000

/-- R64. -/
def inWindows (va : Nat) : Bool := localBase ≤ va

def inLocal (va : Nat) : Bool := localBase ≤ va && va < clusterBase
def inCluster (va : Nat) : Bool := clusterBase ≤ va && va < cellarBase
def inCellar (va : Nat) : Bool := cellarBase ≤ va && va < cellarBase + 2 ^ 40

/-- The address lies in one of the three windows' ranges (Table 3.1). -/
def inSomeWindow (va : Nat) : Bool := inLocal va || inCluster va || inCellar va

def launchOf (s : State) (l : Nat) : Launch := s.launches.getD l default
def blockHeader (s : State) (b : Nat) : Header := (launchOf s (blk s b).lid).hdr

/-- The size of a block's local window (Table 3.1). -/
def localSize (s : State) (b : Nat) : Nat := (blockHeader s b).localUnits * 4096

/-- A core's contribution to the cluster window, and the size of that window (Table 3.1). -/
def contribution (s : State) (b : Nat) : Nat := scratchBytes - localSize s b
def clusterSize (s : State) (b : Nat) : Nat := 8 * contribution s b

/-- The partition's Cellar grant on a die: base and size (R69). -/
def cellarGrant (s : State) (p d : Nat) : Nat × Nat := (s.partitions.getD p default).cellar.getD d (0, 0)

/-- The block of a gang on a core (R8). -/
def blockOn (s : State) (gang core : Nat) : Option Nat :=
  (s.blocks.find? fun e => e.2.gang == gang && e.2.core == core).map (·.1)

/-- The key of offset `o` of the cluster window (R67). -/
def clusterPlace (s : State) (b o : Nat) : Option Nat :=
  let core := clusterOf (blk s b).core * 8 + o / 128 % 8
  (blockOn s (blk s b).gang core).map fun m => clusterKey m core (o / 1024 * 128 + o % 128)

/-- A byte of a window: its key, the bytes that follow at it, and whether it lies in the Cellar window; none beyond the window (R64,
R66, R69, R73). -/
def windowByte (s : State) (part b va : Nat) : Option (Nat × Nat) :=
  if inLocal va then
    let o := va - localBase
    if o < localSize s b then some (localKey b (blk s b).core o, localSize s b - o) else none
  else if inCluster va then
    let o := va - clusterBase
    if o < clusterSize s b then (clusterPlace s b o).map fun k => (k, 128 - o % 128) else none
  else if inCellar va then
    let die := dieOf (blk s b).core
    let (base, size) := cellarGrant s part die
    let o := va - cellarBase
    if o < size then some (cellarKey die (base + o), size - o) else none
  else none

/-- A window access: beyond its window it addresses nothing, but for a write, whose cause in the Cellar window is always 0x12; no word is
fetched from a window, and no lock word, cell or signal lies in one (R66, R73, R80, R298, R302, R375). -/
def windowPage (s : State) (v : View) (a : Access) (va : Nat) : PageRes :=
  match v.block with
  | none => .bad 0x04
  | some b =>
    let plainWrite := match a with
      | .store | .atomic _ => true
      | .load | .fetch | .cell _ | .signal _ => false
    if inCellar va && plainWrite then .bad 0x12
    else match windowByte s v.part b va with
      | none => .bad 0x04
      | some (k, left) => match a with
        | .fetch | .cell _ | .signal _ => .bad 0x05
        | .load | .store | .atomic _ => .ok k left .rc none

/-! ### Page tables (Tables 3.3a and 3.4) -/

inductive LeafKind where
  | device | host | fabric
  deriving DecidableEq, Repr

structure Leaf where
  kind : LeafKind
  x : Bool
  w : Bool
  ord : OrdKind
  pub : Bool
  addr : Nat
  win : Nat
  deriving DecidableEq, Repr

/-- A leaf entry that maps a page of 2 ^ `size` bytes; none where the entry maps nothing (R79, R80). An ADDR that is not aligned to the
page, a WIN without FAB, and an ADDR of a host leaf make such an entry too (log 99). -/
def leafOf (e size : Nat) : Option Leaf :=
  let fab := fld e 61 1 == 1
  let host := fld e 60 1 == 1
  let pub := fld e 57 1 == 1
  let addr := fld e 16 36 * 2 ^ 16
  let win := fld e 4 12
  if fld e 52 5 ≠ 0 || fld e 2 2 ≠ 0 || (fab && host) || fld e 58 2 == 3 || (pub && (fab || host)) then none
  else if addr % 2 ^ size ≠ 0 || (!fab && win ≠ 0) then none
  else if fab && 2 ^ 48 ≤ addr then none
  else if host && addr ≠ 0 then none
  else if !fab && !host && !deviceAddrOk addr then none
  else some {
    kind := if fab then .fabric else if host then .host else .device
    x := fld e 63 1 == 1
    w := fld e 62 1 == 1
    ord := if fld e 58 2 == 0 then .rc else if fld e 58 2 == 1 then .so else .uo
    pub := pub, addr := addr, win := win }

/-- The lowest address bit that a level indexes, and its number of index bits (Table 3.3a). -/
def levelShift (n : Nat) : Nat := if n = 0 then 48 else if n = 1 then 39 else if n = 2 then 30 else if n = 3 then 21 else 16
def levelBits (n : Nat) : Nat := if n = 4 then 5 else 9

/-- The walk from a table of level `n` with `k` levels left: the leaf entry and the size of its page (R78). LEAF = 1 at level 0 or 1 and
LEAF = 0 at level 4 map nothing (log 99). -/
def walkFrom (s : State) (va : Nat) : Nat → Nat → Nat → Option (Nat × Nat)
  | 0, _, _ => none
  | k + 1, n, table =>
    let e := readNat s (table + 8 * fld va (levelShift n) (levelBits n)) 8
    if fld e 0 1 = 0 then none
    else if fld e 1 1 = 1 then (if 2 ≤ n then some (e, levelShift n) else none)
    else
      let next := fld e 8 44 * 256
      let align := if n = 3 then 256 else 4096
      if e ≠ next + 1 || next % align ≠ 0 || !deviceAddrOk next || n = 4 then none
      else walkFrom s va k (n + 1) next

/-- A walk of a context's tables (R78). -/
def walk (s : State) (ctx va : Nat) : Option (Nat × Nat) :=
  match s.contexts.get? ctx with
  | some c => walkFrom s va 5 0 c.root
  | none => none

/-- The TLB entry that a lookup finds: the core's L1, then its cluster's L2 (R82). -/
def tlbFind (s : State) (core ctx va : Nat) (p : TlbEntry → Bool) : Option TlbEntry :=
  let hit (e : TlbEntry) : Bool := e.ctx == ctx && e.va == va / 2 ^ e.size * 2 ^ e.size && p e
  match (cor s core).tlb.find? hit with
  | some e => some e
  | none => (s.l2tlb.getD (clusterOf core) []).find? hit

/-- The leaf for an address: from the TLBs, or by a walk made now, which leaves no entry where it finds none (R82, R367, R374). -/
def leafFor (s : State) (core ctx va : Nat) : Option (Nat × Nat) :=
  match tlbFind s core ctx va (fun e => e.host.isNone) with
  | some e => some (e.leaf.toNat, e.size)
  | none => walk s ctx va

/-! ### Fabric windows (R81, R257) -/

def fabWin (s : State) (w : Nat × Nat) : FabWin := (s.partitions.getD w.1 default).fabric.getD w.2 default

/-- The number of an importer: its device × 8 + its partition; and of a key triple (R255). -/
def importerOf (dev part : Nat) : Nat := dev * 8 + part
def tripleOf (importer key : Nat) : Nat := importer * 4096 + key

/-- The window-table entry as it stood when an access was made through it. -/
def winOf (s : State) (w : WinRef) : FabWin :=
  let e := fabWin s (w.part, w.idx)
  if e.serial = w.serial then e else ((s.partitions.getD w.part default).replaced.find? fun e => e.serial == w.serial).getD default

/-- Requests through the window complete as revoked: its generation has ended; its key is suspended, or no port is up (R257, R339,
R340). -/
def winDead (s : State) (w : Option WinRef) : Bool :=
  match w with
  | none => false
  | some w =>
    let e := winOf s w
    !e.valid || e.revoked || ((s.partitions.getD w.part default).suspended.any fun k => k.1 == tripleOf (importerOf s.devnum w.part) e.keyidx &&
      Config.needsLink e.tdev k.2) ||
    (if e.tdev == s.devnum then
      (match s.exports.get? e.exportId with
       | some x => x.gen != e.gen
       | none => true)
     else !(s.ports.any fun p => p.2.up) ||
      match Config.farRevoked e.tdev e.exportId e.gen with
      | some n => decide (n ≤ s.nextId)
      | none => false)

/-- The window is STRICT and its requests complete as revoked (R340). -/
def strictDead (s : State) (w : Option WinRef) : Bool :=
  match w with
  | some k => winDead s w && k.strict
  | none => false

/-- The key of an address behind a fabric window: this device's own memory, or a peer's (R81). The target address is canonical and in no
window, which only threads and engine commands reach (R63, R64, R375). On this device the target context must have a device leaf there, whose W
is not tested (log 99). -/
def fabricPlace (s : State) (e : FabWin) (va : Nat) : Option Nat :=
  if !canonical va || inWindows va then none
  else if e.tdev == s.devnum then
    match s.exports.get? e.exportId with
    | none => some (fabricKey e.tdev e.tpart va)
    | some x =>
      match walk s x.ctx va with
      | some (l, size) =>
        match leafOf l size with
        | some f => if f.kind = .device then some (f.addr + va % 2 ^ size) else none
        | none => none
      | none => none
  else some (fabricKey e.tdev e.tpart va)

/-- Where an access of each kind is allowed by placement (Table 18.5). -/
def placeCause (a : Access) (k : LeafKind) : Option Nat :=
  match a, k with
  | .cell _, .host => some 0x05
  | .cell _, .fabric => some 0x05
  | .signal _, .host => some 0x05
  | .atomic op, .host => if op = .xch || op = .cas || op = .add then none else some 0x05
  | _, _ => none

/-- The size of the host page a request asks for: 4 KiB (log 11). -/
def hostPage (va : Nat) : Nat := va / 4096 * 4096

/-- A frame lies in a partition's save region, whose call-stack and save areas no load, store or engine command of a program reaches (R54,
R182; log 80). -/
def inSaveRegion (s : State) (part addr : Nat) : Bool :=
  let p := s.partitions.getD part default
  p.save.toNat ≤ addr && addr < p.save.toNat + p.saveSize.toNat

/-- A key of device memory that lies in a save region, of whichever partition. -/
def barred (s : State) (key : Nat) : Bool := s.partitions.any fun e => inSaveRegion s e.1 key

/-- What a leaf reaches at byte `off` of its page, before permissions: nothing, memory at a key, or a page of the host. -/
inductive Reach where
  | nothing
  | memory (key left : Nat) (win : Option WinRef)
  | host
  deriving DecidableEq, Repr

/-- R79, R81, R182. -/
def reach (s : State) (v : View) (f : Leaf) (size off : Nat) : Reach :=
  match f.kind with
  | .device =>
    if v.block.isSome && barred s (f.addr + off) then .nothing else .memory (f.addr + off) (2 ^ size - off) none
  | .fabric =>
    let w := fabWin s (v.part, f.win)
    if !w.valid || w.tsize.toNat ≤ f.addr + off then .nothing
    else match fabricPlace s w (w.tbase.toNat + f.addr + off) with
      | some k => if v.block.isSome && barred s k then .nothing else .memory k (2 ^ 16 - off % 2 ^ 16) (some ⟨v.part, f.win, w.serial, w.strict⟩)
      | none => .nothing
  | .host => .host

/-- The access is not permitted by its leaf or its window (R80, R81, R302). -/
def forbidden (s : State) (v : View) (a : Access) (f : Leaf) : Bool :=
  (a.writes && !f.w) || (a = .fetch && !f.x) || (placeCause a f.kind).isSome ||
    (f.kind == .fabric && a.writes && !(fabWin s (v.part, f.win)).write)

/-- The function whose capabilities a context's requests go by (R83, R241). -/
def atsEnabled (s : State) (part : Nat) : Bool := (s.functions.getD (if part < 8 then part + 1 else 0) default).ats

/-- A host page: from the TLBs, or asked for. Where the function's ATS is disabled nothing can be asked for, and the page is not mapped
(R82, R83, R303; log 58). `deny` is a refusal already given. -/
def hostPageOf (s : State) (v : View) (deny : Option (Nat × Nat)) (a : Access) (va : Nat) (ord : OrdKind) : PageRes :=
  let need (e : TlbEntry) : Bool :=
    match e.host with
    | some (_, r, w, x) => (!a.writes || w) && (!a.reads || r) && (a ≠ .fetch || x)
    | none => false
  match tlbFind s v.core v.ctx va need with
  | some e =>
    (match e.host with
     | some (h, _, _, _) => .ok (hostKey (h + va % 2 ^ e.size)) (2 ^ e.size - va % 2 ^ e.size) ord none
     | none => .bad 0x04)
  | none =>
    -- a read that the completion allows, without execution
    if a = .fetch && (tlbFind s v.core v.ctx va fun e => match e.host with
        | some (_, r, _, _) => r
        | none => false).isSome then .bad 0x05
    else if !atsEnabled s v.part then .bad 0x04
    else match deny with
    | some (p, c) => if p = hostPage va then .bad c else .miss (hostPage va)
    | none => if v.block.isNone && s.hubDeny.contains (v.ctx, hostPage va) then .bad 0x04 else .miss (hostPage va)

/-- The translation of an address within its page, with the lowest cause: nothing there before what is not permitted (R82, R83, R298,
R302). -/
def pageOf (s : State) (v : View) (deny : Option (Nat × Nat)) (a : Access) (va : Nat) : PageRes :=
  if !canonical va then .bad 0x04
  else if inWindows va then windowPage s v a va
  else
    match leafFor s v.core v.ctx va with
    | none => .bad 0x04
    | some (e, size) =>
      match leafOf e size with
      | none => .bad 0x04
      | some f =>
        match reach s v f size (va % 2 ^ size) with
        | .nothing => .bad 0x04
        | .memory key left win => if forbidden s v a f then .bad 0x05 else .ok key left f.ord win
        | .host => if forbidden s v a f then .bad 0x05 else hostPageOf s v deny a va f.ord

/-- Natural alignment is asked of window accesses, atomics, lock words, cells and signals (R65). -/
def alignCause (a : Access) (va len : Nat) : Bool :=
  let strictly := match a with
    | .atomic _ | .cell _ | .signal _ => true
    | .load | .store | .fetch => inWindows va
  strictly && va % len ≠ 0

/-- The translation of the bytes from `va`, page by page, for at most `k` pages (R65). -/
def splitPages (s : State) (v : View) (deny : Option (Nat × Nat)) (a : Access) : Nat → Nat → Nat → Trans
  | 0, _, _ => .ok []
  | k + 1, va, len =>
    if len = 0 then .ok [] else
    match pageOf s v deny a (va % 2 ^ 64) with
    | .bad c =>
      match splitPages s v deny a k (va + (4096 - va % 4096)) (len - (4096 - va % 4096)) with
      | .bad d => .bad (min c d)
      | .ok _ | .miss _ => .bad c
    | .miss p =>
      match splitPages s v deny a k (va + (4096 - va % 4096)) (len - (4096 - va % 4096)) with
      | .bad c => .bad c
      | .miss ps => .miss (p :: ps)
      | .ok _ => .miss [p]
    | .ok key left ord win =>
      if len ≤ left then .ok [⟨key, len, ord, win⟩]
      else
        match splitPages s v deny a k (va + left) (len - left) with
        | .bad c => .bad c
        | .miss ps => .miss ps
        | .ok ps => .ok (⟨key, left, ord, win⟩ :: ps)

/-- The translation of an access of `len` bytes, with the lowest address cause (R298, R301, R302). -/
def translate (s : State) (v : View) (deny : Option (Nat × Nat)) (a : Access) (va len : Nat) : Trans :=
  if alignCause a va len then .bad 0x03 else splitPages s v deny a 4 va len

/-! ### Views -/

/-- The view of a squad's threads and of its engine commands. -/
def viewOf (s : State) (q : Nat) : View :=
  let sq := sqd s q
  let l := launchOf s sq.lid
  ⟨sq.core, some sq.block, l.ctx, l.part⟩

/-- The view of an agent outside the cores: the Porters, the hub and the host (R375). -/
def hubView (s : State) (ctx : Nat) : View := ⟨coreCount, none, ctx, (s.contexts.getD ctx default).part⟩

/-- The state with an ATS request for each page, unless one of the same page, need and asker is outstanding (R83). `final` is the
cause that a refusal of a page gives without a page request (R303). -/
def sendAts (v : View) (write : Bool) (who : Asker) (final : Nat → Option Nat) (pages : List Nat) (s : State)
    (read : Bool := !write) : State :=
  pages.foldl (fun s p =>
    if s.ats.any fun r => r.ctx == v.ctx && r.page == p && r.askers.contains ⟨v.core, who, write, read⟩ then s
    else { s with ats := s.ats ++ [⟨v.ctx, p, [⟨v.core, who, write, read⟩], final p, false⟩] }) s

/-- The pieces of an access that is not aligned to its size: it is single-copy atomic only per byte (R65; log 81). -/
def tear (va len : Nat) (r : Trans) : Trans :=
  match r with
  | .ok ps => if va % len = 0 then .ok ps
    else .ok (ps.flatMap fun p => (List.range p.len).map fun i => { p with addr := p.addr + i, len := 1 })
  | .bad c => .bad c
  | .miss g => .miss g

end Sys2Proof.Machine
end

