-- ==== Sys2Proof/Machine/Ordering.lean ====
section
/-! DEFINITION. The ordering machine: agents, moves, releases and acquires (04 R85 to R100; 08 R167, R170 to R173). -/

namespace Sys2Proof.Machine

def agt (s : State) (a : Nat) : Agent := s.agents.getD a default

/-- A fresh serial number, for an agent, a command, a wait and so on. -/
def newId (s : State) : Nat × State := (s.nextId, { s with nextId := s.nextId + 1 })

/-- An identifier whose value the spec leaves open: of 32 bits, at least `low`, and none of those in use (log 20). -/
def freeId (low : Nat) (used : List Nat) (s : State) : Nat × State :=
  let f := Config.freeNat s.fresh % 2 ^ 32
  let unused := ((List.range (used.length + 1)).map (low + ·)).find? fun n => !used.contains n
  (if f < low || used.contains f then unused.getD low else f, { s with fresh := s.fresh + 1 })

/-! ### Scopes (R86) -/

/-- Two agents share a scope. -/
def shares (x : Scope) (a b : Place) : Bool :=
  let inLaunch := a.onCore && b.onCore && a.lid == b.lid
  match x with
  | .thread => false
  | .squad => inLaunch && a.squad == b.squad
  | .block => inLaunch && a.core == b.core
  | .cluster => inLaunch && clusterOf a.core == clusterOf b.core
  | .device | .domain => !a.host && !b.host
  | .system => true

/-- The narrower of two scopes (R92). -/
def narrower (x y : Scope) : Scope := if x.code ≤ y.code then x else y

/-- Cluster scope or wider (R92). -/
def wide (x : Scope) : Bool := 3 ≤ x.code

/-! ### Entries -/

def entryOrd : EntryKind → OrdKind
  | .store _ _ o => o
  | .atomic _ _ _ _ _ _ _ o => o
  | .object _ _ _ o => o
  | .marker _ => .rc

def isMarker : EntryKind → Bool
  | .marker _ => true
  | .store .. | .atomic .. | .object .. => false

/-- An entry that leaves by an atomic move. -/
def isAtomic : EntryKind → Bool
  | .atomic .. | .object .. => true
  | .store .. | .marker _ => false

/-- The synchronisation that an entry stands for. -/
def objectSync : EntryKind → Option Nat
  | .object y _ _ _ => some y
  | .store .. | .atomic .. | .marker _ => none

/-- The bytes an entry covers: first key and length. -/
def entrySpan : EntryKind → Nat × Nat
  | .store a bs _ => (a, bs.length)
  | .atomic _ a _ _ _ _ _ _ => (a, 4)
  | .object _ a n _ => (a, n)
  | .marker _ => (0, 0)

def overlaps (a n b m : Nat) : Bool := a < b + m && b < a + n

def spanOverlaps (k l : EntryKind) : Bool :=
  overlaps (entrySpan k).1 (entrySpan k).2 (entrySpan l).1 (entrySpan l).2

/-- The entries of an agent that have not left. -/
def Agent.out (a : Agent) : List Entry := a.so ++ a.rc ++ a.uo

def Agent.all (a : Agent) : List Entry := a.runBuf ++ a.out

/-- The releases whose markers hold an entry back: every kind behind a fence, RC entries behind any (R94, R95). -/
def heldBy (a : Agent) (o : OrdKind) : List Nat :=
  (a.past.filter fun p => p.2 || o == .rc).map (·.1)

/-- A store or atomic put in the agent's run store buffer, in program order (R20, R167). `group` names the store instruction and the
lane. -/
def bufferEntry (a : Nat) (k : EntryKind) (poison : Bool) (win : Option WinRef) (va : DWord) (group : Option (Nat × DWord × Nat))
    (s : State) : State :=
  modAgent a (fun g => { g with
    runBuf := g.runBuf ++ [⟨g.nextSeq, g.nextSid, k, heldBy g (entryOrd k), poison, win, va, s.cur.word, s.cur.pc, group, g.nextSeq⟩]
    nextSeq := g.nextSeq + 1
    nextSid := g.nextSid + 1 }) s

/-- The end move: the run store buffer enters the SO FIFO, the RC pool and the UO pool, in program order (Table 4.2), behind the
loads of its run (R93). -/
def endMove (a : Nat) (s : State) : State :=
  modAgent a (fun g =>
    let of (o : OrdKind) : List Entry := (g.runBuf.filter fun e => entryOrd e.kind == o).map fun e => { e with bound := g.nextSeq }
    { g with runBuf := [], so := g.so ++ of .so, rc := g.rc ++ of .rc, uo := g.uo ++ of .uo }) s

/-- PUBLISH, the release of an engine command and FREE, whose object any store may have written, cover stores of every kind, though they
are no fence (R96, R99, R203). -/
def coversAll (s : State) (sync : Nat) : Bool :=
  match s.syncs.get? sync with
  | some y => (match y.op with
    | .publish .. | .cmdDone _ | .free _ => true
    | _ => false)
  | none => false

/-- The releases that store something write their own store alone, and no later entry of their agent (R92). -/
def storesOwn (s : State) (sync : Nat) : Bool :=
  match s.syncs.get? sync with
  | some y => (match y.op with
    | .chEnter .. | .lkRel .. | .prSet .. | .sigAdd .. | .publish .. | .cmdDone _ => true
    | .fence | .barArrive .. | .gbarArrive .. | .arm _ | .lkTry .. | .prMake .. | .free _ | .cmdStart _ => false)
  | none => false

/-- A release of the agent: its marker enters the RC pool behind the run's earlier stores (Table 4.2). -/
def addRelease (a : Nat) (x : Scope) (fence : Bool) (sync : Nat) (s : State) : Nat × State :=
  let (r, s) := newId s
  let g := agt s a
  let s := { s with
    pendRels := s.pendRels.put r ⟨a, x, g.nextSeq, g.nextSid, fence || coversAll s sync, sync⟩
    syncs := s.syncs.adj sync fun y => { y with left := y.left ++ [r], rels := y.rels ++ [r] } }
  (r, modAgent a (fun g => { g with
    rc := g.rc ++ [⟨g.nextSeq, g.nextSid, .marker r, heldBy g .rc, false, none, 0, 0, 0, none, g.nextSeq⟩]
    past := if storesOwn s sync then g.past else g.past ++ [(r, fence)]
    nextSeq := g.nextSeq + 1 }) s)

/-- Entries of an agent for the atomic move of synchronisation `y` on the given spans (Table 4.2). -/
def addObject (y : Nat) (spans : List (Nat × Nat)) (o : OrdKind) (va : DWord) (win : Option WinRef) (a : Nat) (s : State) : State :=
  modAgent a (fun g =>
    let es := spans.map fun x =>
      (⟨g.nextSeq, g.nextSid, .object y x.1 x.2 o, heldBy g o, false, win, va, s.cur.word, s.cur.pc, none, g.nextSeq⟩ : Entry)
    { g with
      so := if o = .so then g.so ++ es else g.so
      rc := if o = .rc then g.rc ++ es else g.rc
      uo := if o = .uo then g.uo ++ es else g.uo
      nextSeq := g.nextSeq + 1
      nextSid := g.nextSid + 1 }) s

/-! ### Scope points (R86, R90, R91) -/

/-- Whether a store with number `n` of agent `b` is a member of an observed item, by its number and kind. -/
def Obs.has (o : Obs) (b n : Nat) (uo : Bool) : Bool :=
  match o with
  | .upTo a k u => a == b && n < k && (u || !uo)
  | .one sid => sid == (b, n)

def Obs.agent : Obs → Nat
  | .upTo a _ _ => a
  | .one sid => sid.1

/-- Every store of the item has left its agent's structures. -/
def obsLeft (s : State) (o : Obs) : Bool :=
  (agt s o.agent).all.all fun e => isMarker e.kind || !o.has o.agent e.sid (entryOrd e.kind == .uo)

/-- No store of the item is pending at a core other than `c`. -/
def obsCarried (s : State) (o : Obs) (c : Option Nat) : Bool :=
  s.cores.all fun e => some e.1 == c || e.2.pending.all fun p => !o.has p.sid.1 p.sid.2 p.uo

/-- Every store of the item has reached the X point of an agent at `p` (R90). -/
def obsReached (s : State) (p : Place) (x : Scope) (o : Obs) : Bool :=
  match x with
  | .thread => true
  | .squad | .block => obsLeft s o && obsCarried s o (if p.onCore then some p.core else none)
  | .cluster | .device | .domain | .system => obsLeft s o && obsCarried s o none

/-- What a release covers (R91). -/
def coveredBy (g : Agent) (r : PendRel) : List Obs := .upTo r.agent r.sid r.fence :: g.observed

/-- Whether a release may be performed: its covered stores have reached the scope point, its agent's earlier loads and
atomics are performed, and no marker stands before its own (R91, Table 4.2). -/
def releaseReady (s : State) (rid : Nat) (r : PendRel) : Bool :=
  let g := agt s r.agent
  (r.scope == .thread ||
    ((g.loads.all fun l => r.seq ≤ l.seq) &&
     (g.all.all fun e => !isAtomic e.kind || r.seq ≤ e.seq) &&
     (coveredBy g r).all fun o => obsReached s g.place r.scope o)) &&
  ((g.rc.takeWhile fun e => e.kind != .marker rid).all fun e => !isMarker e.kind)

/-- The effect of a performed release on the machine: its marker leaves, and it is recorded with what it covers. -/
def recordRelease (rid : Nat) (r : PendRel) (s : State) : State :=
  let g := agt s r.agent
  let s := { s with
    releases := s.releases.put rid ⟨g.place, r.scope, coveredBy g r⟩
    pendRels := s.pendRels.del rid
    syncs := s.syncs.adj r.sync fun y => { y with left := y.left.filter (· != rid) } }
  modAgent r.agent (fun g => { g with rc := g.rc.filter fun e => e.kind != .marker rid }) s

/-! ### Acquires (R92) -/

/-- A release that an acquire reads, with the store it reads it from, where there is one (R92). -/
abbrev ReadRel := Nat × Option StoreId

/-- Releases read from no store of memory: a barrier's, a token's, a notice's. -/
def unstored (rels : List Nat) : List ReadRel := rels.map fun r => (r, none)

/-- The releases that the values of `n` bytes carry, with the stores that wrote them (R92, R97). -/
def relsAt (s : State) (key n : Nat) : List ReadRel :=
  ((List.range n).flatMap fun i => match s.writers.get? (key + i) with
    | some w => w.rels.map fun r => (r, some w.sid)
    | none => []).eraseDups

/-- Every release carried by a store in the coherence orders of `n` bytes: what a read-modify-write at their end goes on carrying (R92). -/
def allRels (s : State) (key n : Nat) : List Nat :=
  ((List.range n).flatMap fun i => match s.writers.get? (key + i) with
    | some w => w.all
    | none => []).eraseDups

/-- What an acquire at scope X of an agent at `p` gains from the releases it reads: where the two synchronise, the release's covered
stores and the store read (R92). -/
def gains (s : State) (p : Place) (x : Scope) (read : List ReadRel) : List Obs :=
  read.flatMap fun r =>
    match s.releases.get? r.1 with
    | some y => if shares (narrower x y.scope) y.place p then y.covered ++ (match r.2 with
      | some i => [Obs.one i]
      | none => []) else []
    | none => []

/-- A store to the byte is pending at the core. -/
def Core.busy (k : Core) (a : Nat) : Bool := k.pending.any fun p => overlaps p.addr p.bytes.length a 1

/-- The lines that still have copies. -/
def Core.trim (k : Core) : Core := { k with lines := k.lines.filter fun l => k.copies.any fun e => e.1 / 128 == l.1 }

/-- The copies of a line dropped: those with nothing pending; the others once carried (Table 4.2, R75). -/
def Core.dropLine (l : Nat) (k : Core) : Core :=
  Core.trim { k with
    copies := (k.copies.filter fun e => e.1 / 128 != l || k.busy e.1).map fun e =>
      if e.1 / 128 == l then (e.1, { e.2 with drop := true }) else e }

/-- The copies of a core dropped at an acquire: those with nothing pending; the others once carried. -/
def dropCopies (c : Nat) (s : State) : State :=
  modCore c (fun k => Core.trim
    { k with copies := (k.copies.filter fun e => k.busy e.1).map fun e => (e.1, { e.2 with drop := true }) }) s

/-- An acquire performed: it synchronises with the releases it reads, and at cluster scope or wider its core's copies are
dropped (R92). -/
def acquire (a : Nat) (x : Scope) (read : List ReadRel) (s : State) : State :=
  let g := agt s a
  let s := modAgent a (fun g => { g with observed := (g.observed ++ gains s g.place x read).eraseDups }) s
  if wide x && g.place.onCore then dropCopies g.place.core s else s

/-- Earlier loads and atomics of the agent stand before program-order place `q`. -/
def readsBefore (g : Agent) (q : Nat) : Bool :=
  g.loads.any (fun l => l.seq < q) || g.all.any fun e => isAtomic e.kind && e.seq < q

/-- The stores that a fence with both parts makes later loads wait for have reached its scope point (R95). -/
def ownReached (s : State) (a : Nat) (h : Hold) : Bool :=
  match h.own with
  | some n => obsReached s (agt s a).place h.scope (.upTo a n true)
  | none => true

/-- The acquire of synchronisation `y` has been performed by an agent (R92, R97). -/
def Agent.acquired (y : Nat) (g : Agent) : Agent :=
  { g with holds := g.holds.map fun h => if h.move = some y then { h with acqDone := true } else h }

/-- The acquire parts of fences whose earlier loads and atomics are all performed take effect; holds that hold nothing back any more are
gone (R92, R95). -/
def settleHolds (a : Nat) (s : State) : State :=
  let g := agt s a
  let s := g.holds.foldl (fun s h =>
    if h.acqDone || h.move.isSome || readsBefore g h.seq then s else
    let s := acquire a h.scope (if h.fence then g.readRels else []) s
    modAgent a (fun g => { g with holds := g.holds.map fun k => if k.seq == h.seq then { k with acqDone := true } else k }) s) s
  let gone := (agt s a).holds.filter fun h => h.acqDone && ownReached s a h
  modAgent a (fun g => { g with holds := g.holds.filter fun h => !gone.contains h }) s

/-! ### Performing stores -/

/-- A publication window with the 128-byte lines of the bytes marked as written (R219). -/
def PubWin.touch (a n : Nat) (w : PubWin) : PubWin :=
  { w with dirty := (w.dirty ++ (List.range n).map fun i => (a + i) / 128).eraseDups }

/-- A location's coherence order with one more store at its end; `b` is the value the store before it left (R88). -/
def Writer.after (sid : StoreId) (rels : List Nat) (b : Byte) (w : Option Writer) : Writer :=
  match w with
  | some w => ⟨sid, rels, (w.sid, b) :: w.past, (w.all ++ rels).eraseDups⟩
  | none => ⟨sid, rels, [], rels⟩

/-- A store appended to memory at its home point (Table 4.2): the bytes, their coherence order, and the granules' poison. -/
def appendStore (sid : StoreId) (rels : List Nat) (poison : Bool) (a : Nat) (bs : List Byte) (s : State) : State :=
  let order := (List.range bs.length).foldl (fun w i =>
    w.put (a + i) (Writer.after sid rels (readByte s (a + i)) (w.get? (a + i)))) s.writers
  let s := writeBytes a bs s
  let s := if poison then setPoison a bs.length s else clearPoison a bs.length s
  { s with
    writers := order
    pubs := s.pubs.map fun e => (e.1, e.2.touch a bs.length) }

/-- The agents that are no thread and no engine command, numbered beyond every serial number: the host, the Strongroom, a host-class core, a
Porter, and what stands for the devices behind the Ternath ports (R85; log 83). -/
def hostAgent : Nat := 2 ^ 65
def strongAgent : Nat := 2 ^ 65 + 1
def hostCoreAgent (k : Nat) : Nat := 2 ^ 65 + 2 + k
def porterAgent (p : Nat) : Nat := 2 ^ 65 + 64 + p
def peerAgent : Nat := 2 ^ 65 + 63

/-- The Porter that serves a queue (R242). -/
def queueAgent (q : Nat) : Nat := porterAgent (q / 16)

/-- Such an agent, from its first store on. -/
def ensureUnit (a : Nat) (s : State) : State :=
  if (s.agents.get? a).isSome then s
  else { s with agents := s.agents.put a { (default : Agent) with place := ⟨false, a == hostAgent, 0, 0, 0⟩ } }

/-- A store of such an agent performed at its home point at once: its FIFO and pools stay empty (Table 4.2; log 83). -/
def unitWrite (a key : Nat) (bs : List Byte) (poison : Bool) (rels : List Nat) (s : State) : State :=
  let s := ensureUnit a s
  appendStore (a, (agt s a).nextSid) rels poison key bs (modAgent a (fun g => { g with nextSeq := g.nextSeq + 1, nextSid := g.nextSid + 1 }) s)

/-- The core copies of a location stand for as long as the machine likes; those of the cluster window and of the Cellar are not
allocated, and only stand for the stores pending there (R75). -/
def allocates (key : Nat) : Bool :=
  match homeOf key with
  | .device => !(2 ^ 44 ≤ key && key < 2 ^ 45)
  | .domain | .system => true
  | .core _ | .cluster => false

/-- Whether an agent's path towards a key has a core stop (R86, R93). -/
def coreStop (p : Place) (o : OrdKind) (key : Nat) : Bool :=
  p.onCore && o != .so && (match homeOf key with | .core _ => false | .cluster | .device | .domain | .system => true)

/-- Lines of a core's L1 (R75). -/
def lineLimit : Nat := 512

/-- A line that copies come to: 64 KiB of them stand at most, and one in a free place makes room (R75). -/
def Core.addLine (l : Nat) (k : Core) : Core :=
  if (k.lines.get? l).isSome then k
  else
    let k := if k.lines.length < lineLimit then k else k.dropLine ((k.lines.keys).getD (Config.freeNat l % lineLimit) 0)
    { k with lines := k.lines.put l 0 }

/-- The core copy of each byte becomes the store (Table 4.2). -/
def setCopies (c : Nat) (sid : StoreId) (rels : List Nat) (poison : Bool) (a : Nat) (bs : List Byte) (s : State) : State :=
  let put (t : Tbl Copy) (x : Byte × Nat) : Tbl Copy := t.put (a + x.2) ⟨x.1, sid, !allocates (a + x.2), rels, poison⟩
  let lines := ((((List.range bs.length).map (a + ·)).filter allocates).map (· / 128)).eraseDups
  modCore c (fun k => let k := lines.foldl (fun k l => k.addLine l) k; { k with copies := bs.zipIdx.foldl put k.copies }) s

/-- The lanes of one store instruction that name the same bytes leave in home-lane order (R90, R167). -/
def lanesBefore (s : State) (a : Nat) (e : Entry) : Bool :=
  match e.group with
  | none => true
  | some (w, pc, l) => s.agents.all fun x => x.1 == a || x.2.out.all fun f => match f.group with
    | some (w', pc', l') => !(w' == w && pc' == pc && l' < l && spanOverlaps f.kind e.kind)
    | none => true

/-- The pieces of a load not yet performed. -/
def Load.left (l : Load) : List (Nat × Piece) :=
  (l.pieces.zipIdx.filter fun x => (l.got.get? x.2).isNone).map fun x => (x.2, x.1)

/-- Whether entry `e` of an agent may leave its structure (Table 4.2, R90, R92 to R95, R173). -/
def mayLeave (g : Agent) (e : Entry) : Bool :=
  let before := g.out.filter fun f => f.seq < e.seq
  let o := entryOrd e.kind
  (g.holds.all fun h => h.acqDone || e.seq < h.seq) &&
  (g.rc.all fun f => match f.kind with
    | .marker r => e.seq ≤ f.seq || (o != .rc && !(g.past.contains (r, true)))
    | .store .. | .atomic .. | .object .. => true) &&
  (before.all fun f => !((isAtomic f.kind || isAtomic e.kind) && spanOverlaps f.kind e.kind)) &&
  (match o with
    | .so => (g.so.all fun f => e.seq ≤ f.seq) && g.loads.all fun l => e.bound ≤ l.seq || l.left.all fun p => p.2.ord != .so
    | .rc => before.all fun f => !(entryOrd f.kind == .rc && spanOverlaps f.kind e.kind)
    | .uo => before.all fun f => !(entryOrd f.kind == .uo && spanOverlaps f.kind e.kind))

/-- The agent without the entry with store number `n`. -/
def dropEntry (n : Nat) (g : Agent) : Agent :=
  let keep (l : List Entry) := l.filter fun e => isMarker e.kind || e.sid != n
  { g with so := keep g.so, rc := keep g.rc, uo := keep g.uo }

/-! ### Loads -/

/-- The youngest of an agent's own stores before `seq` that covers a byte (Table 4.2). A pending atomic gives no value. -/
def ownByte (g : Agent) (seq key : Nat) : Option (Byte × Bool) :=
  let c := g.all.filter fun e =>
    e.seq < seq && match e.kind with
      | .store a bs _ => a ≤ key && key < a + bs.length
      | .atomic .. | .object .. | .marker _ => false
  let young := c.foldl (fun b e => match b with
    | some (f : Entry) => if f.seq ≤ e.seq then some e else b
    | none => some e) none
  match young with
  | some e => match e.kind with
    | .store a bs _ => some (bs.getD (key - a) 0, e.poison)
    | .atomic .. | .object .. | .marker _ => none
  | none => none

/-- The load move for one byte (Table 4.2). -/
def loadByte (s : State) (a seq key : Nat) (o : OrdKind) : ReadByte :=
  let g := agt s a
  match ownByte g seq key with
  | some (b, p) => ⟨b, p, none, [], false, false⟩
  | none =>
    let home (f : Bool) : ReadByte :=
      let w := s.writers.get? key
      ⟨readByte s key, s.poison.contains (granule key), w.map (·.sid), (match w with | some w => w.rels | none => []), f, false⟩
    if coreStop g.place o key then
      match (cor s g.place.core).copies.get? key with
      | some c => ⟨c.val, c.poison, some c.sid, c.rels, false, false⟩
      | none => home (allocates key)
    else home false

/-- The bytes of a piece; a revoked fabric access reads zero (R257). -/
def loadPiece (s : State) (a seq : Nat) (p : Piece) : List ReadByte :=
  (List.range p.len).map fun i =>
    if winDead s p.win then ⟨0, false, none, [], false, strictDead s p.win⟩ else loadByte s a seq (p.addr + i) p.ord

/-- A load has been served from a line: after 256 of them the line is discarded (R75). -/
def Core.serve (l : Nat) (k : Core) : Core :=
  match k.lines.get? l with
  | some n => if 255 ≤ n then k.dropLine l else { k with lines := k.lines.put l (n + 1) }
  | none => k

/-- What a load leaves at its core: the lines it was served from count it, and a copy stands for each byte it read at a home point
(Table 4.2, R75). -/
def fillCopies (a : Nat) (p : Piece) (bs : List ReadByte) (s : State) : State :=
  let g := agt s a
  let c := g.place.core
  let s := if coreStop g.place p.ord p.addr then
      modCore c (fun k => ((List.range p.len).map fun i => (p.addr + i) / 128).eraseDups.foldl (fun k l => k.serve l) k) s
    else s
  (bs.zipIdx).foldl (fun s x =>
    if x.1.fills then setCopies c (match x.1.sid with | some i => i | none => (0, 0)) x.1.rels x.1.poison (p.addr + x.2) [x.1.val] s
    else s) s

/-- Whether a piece of a load may be performed: holds, program order on overlapping bytes, SO order and pending atomics (R90, R92,
R93, R95, R173). -/
def pieceReady (s : State) (a : Nat) (l : Load) (p : Piece) : Bool :=
  let g := agt s a
  (g.holds.all fun h => l.seq < h.seq || h.acqDone && ownReached s a h) &&
  (g.loads.all fun m => l.seq ≤ m.seq || m.left.all fun q =>
    !overlaps p.addr p.len q.2.addr q.2.len && !(p.ord == .so && q.2.ord == .so)) &&
  (p.ord != .so || g.so.all fun e => l.seq < e.bound) &&
  g.all.all fun e => !(isAtomic e.kind && e.seq < l.seq && overlaps (entrySpan e.kind).1 (entrySpan e.kind).2 p.addr p.len)

/-- The words a load of `width` bytes writes: zero-extended, or one word for each 4 bytes (R166). -/
def loadWords (width : Nat) (bs : List Byte) : List Word :=
  (List.range ((width + 3) / 4)).map fun i => BitVec.ofNat 32 (leNat ((bs.drop (4 * i)).take 4))

/-! ### Atomics -/

/-- The new value of Table 8.3; none where a failed ACAS stores nothing. -/
def atomNew (op : AtomOp) (t x y : Word) : Option Word :=
  match op with
  | .xch => some x
  | .cas => if t = x then some y else none
  | .add => some (t + x)
  | .imin => some (minS t x)
  | .imax => some (maxS t x)
  | .umin => some (minU t x)
  | .umax => some (maxU t x)
  | .and => some (t &&& x)
  | .or => some (t ||| x)
  | .xor => some (t ^^^ x)
  | .fadd => some (fAdd t x)

/-- The old values of a group in home-lane order and the word it leaves (R170). -/
def groupFold (op : AtomOp) : Word → List (Word × Word) → List Word × Option Word
  | _, [] => ([], none)
  | t, (x, y) :: r =>
    let n := atomNew op t x y
    let (os, m) := groupFold op (n.getD t) r
    (t :: os, match m with | some v => some v | none => n)

/-- Every NaN that an AFADD writes is the one NaN (R171). -/
def oneNan (t : Word) : Word := if f32 t = .nan then canonNan else t

/-- AFADD over a group: operands folded in home-lane order, added once (R171). -/
def faddFold (t r : Word) : List Word → List Word × Word
  | [] => ([], fAdd t r)
  | x :: xs =>
    let (os, m) := faddFold t (fAdd r x) xs
    (fAdd t r :: os, m)

/-- The old value of each member and the word a group leaves (R170, R171). -/
def groupResult (op : AtomOp) (t : Word) (xs : List (Word × Word)) : List Word × Option Word :=
  match op, xs with
  | .fadd, (x, _) :: r =>
    let (os, m) := faddFold t x (r.map (·.1))
    (oneNan t :: os, some m)
  | _, _ => groupFold op t xs

end Sys2Proof.Machine
end

