-- ==== Sys2Proof/Machine/Runs.lean ====
section
/-! DEFINITION. Runs: entry states, the end of a run, its restoration, and the squad writes it makes architectural (01 R16 to R30; 19 R309 to R312). -/

namespace Sys2Proof.Machine

/-- The threads of a wave that act: those without a class R cause in this run (R308). -/
def Wave.active (w : Wave) : List Nat := w.threads.filter fun t => !(w.faults.any fun f => f.thread == t)

/-- A thread joins a wave: its age becomes 0 and its entry state is kept (R25, R309). `inRun` stands as it was, since a discarded
run leaves the thread where it began. -/
def Thread.enter (th : Thread) : Thread :=
  { th with
    age := 0, inWave := true, yielded := false, slowEnd := false
    entryV := th.v, entryK := th.k, entryShV := th.shV, entryShK := th.shK, entryPoison := (th.poisonV, th.poisonK) }

/-- Threads join a wave. What their earlier runs' loads have read is kept, to be found again if the run is discarded (R309, R314). -/
def enterWave (ts : List Nat) (f : Thread → Thread) (s : State) : State :=
  let s := ts.foldl (fun s t => modAgent (thr s t).agent (fun g => { g with entryRels := g.readRels }) s) s
  mapThreads ts (fun _ th => f th) s

/-- A squad-register write becomes architectural, unless a later-issued write stands (R30). -/
def commitWrite (sq : Squad) (w : SWrite) : Squad :=
  if w.isJ then
    (if sq.seqJ.getD w.n 0 < w.seq then
      { sq.setJ w.n (w.val != 0) (w.sh != 0) with seqJ := sq.seqJ.put w.n w.seq } else sq)
  else
    (if sq.seqS.getD w.n 0 < w.seq then
      { sq.setS w.n w.val w.sh with
        seqS := sq.seqS.put w.n w.seq, tokens := sq.tokens.filter fun t => t.reg != w.n } else sq)

/-- The squad writes made so far by the word's wave become architectural, in issue order (R30, R311). -/
def commitWrites (s : State) : State :=
  (curWave s).writes.foldl (fun s w => modSquad w.squad (fun q => commitWrite q w) s) s

/-- A thread's run, or the prefix it retires, ends: its stores leave the run store buffer, and it stands at `pc` outside
any wave (R20, R312). -/
def leaveRun (t : Nat) (pc : DWord) (inRun : Bool) (s : State) : State :=
  endMove (thr s t).agent (modThread t (fun th => { th with
    pc := pc, inWave := false, inRun := inRun, direct := false, deny := none, answered := false, badPage := none
    slowEnd := s.cur.slow, shWord := 0 }) s)

/-- The runs of several threads end, each at the address given for it. -/
def leaveRuns (ts : List Nat) (pc : Nat → DWord) (s : State) : State :=
  ts.foldl (fun s t => leaveRun t (pc t) false s) s

/-- The register marks of a dropped load are removed (R309). -/
def unmark (l : Load) (s : State) : State :=
  match l.dst with
  | .none => s
  | .v t n => modThread t (fun th => { th with pendV := th.pendV.filter fun r => !(n ≤ r && r < n + l.words) }) s
  | .s _ _ => s

/-- A thread's run is discarded: entry state restored, run store buffer and loads dropped (R309). -/
def restoreThread (t : Nat) (s : State) : State :=
  let a := (thr s t).agent
  let s := (agt s a).loads.foldl (fun s l => unmark l s) s
  let s := modAgent a (fun g => { g with runBuf := [], loads := [], readRels := g.entryRels }) s
  modThread t (fun th => { th with
    v := th.entryV, k := th.entryK, shV := th.entryShV, shK := th.entryShK, shWord := 0
    poisonV := th.entryPoison.1, poisonK := th.entryPoison.2 }) s

/-- A wave without some threads. -/
def Wave.without (ts : List Nat) (w : Wave) : Wave :=
  { w with
    threads := w.threads.filter fun t => !ts.contains t
    faults := w.faults.filter fun f => !ts.contains f.thread
    ending := w.ending.filter fun t => !ts.contains t
    got := w.got.filter fun g => match g.1 with
      | .v t _ => !ts.contains t
      | .s _ _ | .none => true
    slow := w.slow.map fun k => { k with
      todo := k.todo.filter fun t => !ts.contains t
      atEnd := k.atEnd.filter fun t => !ts.contains t
      pc := if (match k.todo.head? with | some t => ts.contains t | none => false) then w.start else k.pc } }

/-- The slots of a core without the waves that hold no thread (R24). -/
def dropEmpty (c : Nat) (s : State) : State :=
  modCore c (fun k => { k with slots := k.slots.filter fun e => !(e.2.threads.isEmpty && e.2.slow.isNone) }) s

/-- Threads leave the waves of their core with their runs discarded; each stands at its run's start (R309). -/
def discardRuns (ts : List Nat) (s : State) : State :=
  let ts := ts.filter fun t => (thr s t).inWave
  let one (s : State) (t : Nat) : State :=
    let c := (sqd s (squadOf t)).core
    let start := match (cor s c).slots.find? fun e => e.2.threads.contains t with
      | some e => e.2.start
      | none => (thr s t).pc
    let s := restoreThread t s
    let s := modThread t (fun th => { th with
      pc := start, inWave := false, direct := false, deny := none, answered := false, badPage := none }) s
    dropEmpty c (modCore c (fun k => { k with slots := k.slots.map fun e => (e.1, e.2.without [t]) }) s)
  let s := ts.foldl one s
  -- squad writes of a squad with no thread left in the wave are dropped with its runs
  (ts.map fun t => (sqd s (squadOf t)).core).eraseDups.foldl (fun s c =>
    modCore c (fun k => { k with slots := k.slots.map fun e =>
      (e.1, { e.2 with writes := e.2.writes.filter fun w => e.2.threads.any fun t => squadOf t == w.squad }) }) s) s

/-- The next word of the wave, or of the thread that slow gear runs (R310). Neither the 24 words nor the 8 stores of R17 are counted
(log 95). -/
def advance (s : State) : State :=
  modWave (fun w => match w.slow with
    | none => { w with pc := w.pc + 4 }
    | some k => { w with slow := some { k with pc := k.pc + 4 } }) s

/-- The wave's run has ended or left it in every thread (R24). At full speed the slot is free. -/
def closeWave (s : State) : State :=
  modCore s.cur.core (fun c => { c with slots := c.slots.del s.cur.slot }) s

/-- Threads leave the wave of the word: at full speed the slot is freed once none is left; in slow gear the next thread
begins at the run's start (R310). -/
def dropThreads (ts : List Nat) (s : State) : State :=
  let s := modWave (Wave.without ts) s
  if s.cur.slow then s else dropEmpty s.cur.core s

/-- The word `pc + 4` of a control transfer that is not taken. -/
def nextPc (s : State) : DWord := s.cur.pc + 4

/-- A wave's slow-gear state (R310, R311). -/
def Slow.ofThreads (ts first : List Nat) (pc : DWord) : Slow :=
  { todo := ts, pc := pc, done := [], caused := [], atEnd := [], endPc := pc, first := first, stopped := [], one := none }

/-- Threads in ascending home-lane order. -/
def byLane (ts : List Nat) : List Nat := sortBy (fun a b => laneOf a ≤ laneOf b) ts

end Sys2Proof.Machine
end

