-- ==== Sys2Proof/Machine/Reports.lean ====
section
/-! DEFINITION. Reports: events and their owners, host status records, command bodies and status records (11 R241 to R249, R263, R264; 21 R345, R356). -/

namespace Sys2Proof.Machine

/-- The owner kinds in the order of R263: the host, the host-class cores, the Porter of the queue (log 19). -/
def ownerHost : Nat := 0
def ownerHostClass : Nat := 1
def ownerPorter : Nat := 2

/-- Table 11.11. -/
def defaultOwner (cls : Nat) : Nat :=
  if cls = 2 ∨ cls = 3 then ownerHost else if cls = 9 then ownerPorter else ownerHostClass

def ownerOf (s : State) (cls : Nat) : Nat := s.routes.getD cls (defaultOwner cls)

def fnOf (s : State) (f : Nat) : Function := s.functions.getD f default
def queueOf (s : State) (q : Nat) : Queue := s.queues.getD q default
def modQueue (q : Nat) (f : Queue → Queue) (s : State) : State := { s with queues := s.queues.put q (f (queueOf s q)) }
def modFn (n : Nat) (f : Function → Function) (s : State) : State := { s with functions := s.functions.put n (f (fnOf s n)) }
def partOf (s : State) (p : Nat) : Partition := s.partitions.getD p default
def modPart (p : Nat) (f : Partition → Partition) (s : State) : State :=
  { s with partitions := s.partitions.put p (f (partOf s p)) }

/-- The number that stands for no partition, in the contexts of function 0. -/
def noPart : Nat := 8

/-- The function of a partition, and of an event: function 0 for events of no partition (R241, R264). -/
def fnOfPart (p : Option Nat) : Nat := match p with
  | some p => if p < noPart then p + 1 else 0
  | none => 0

/-- A function holds the group of a queue (R242). -/
def queueHeld (s : State) (q : Nat) : Bool := s.functions.any fun e => e.2.groups.contains (q / 16)

/-- The function a queue belongs to, by its group of 16 (R242). -/
def fnOfQueue (s : State) (q : Nat) : Nat :=
  match s.functions.find? fun e => e.2.groups.contains (q / 16) with
  | some e => e.1
  | none => 0

/-- The partition a queue serves: none for function 0 (R241). -/
def partOfQueue (s : State) (q : Nat) : Option Nat := if fnOfQueue s q = 0 then none else some (fnOfQueue s q - 1)

/-- Queue 0 of a function is its management queue; a function with no group has none (R242). -/
def mgmtQueue (s : State) (f : Nat) : Option Nat := (fnOf s f).groups.head?.map (· * 16)

/-- The descriptor flag WRITE: the buffer is device-writable (log 12). -/
def descWritable (d : DWord × Nat × Nat) : Bool := fld d.2.2 1 1 == 1

/-- The host status record (Table 11.12). -/
def statusRecord (e : Event) (seq : Nat) : List Byte :=
  natLe 1 e.cls ++ natLe 1 e.code ++ natLe 1 (match e.part with | some p => if p < noPart then p else 0xFF | none => 0xFF) ++ natLe 1 e.flags ++
  natLe 4 e.lid ++ natLe 8 e.detail ++ natLe 8 e.addr ++ natLe 8 seq

/-- A configuration-change notification (R245, R347). -/
def notifyConfig (f : Nat) (s : State) : State := modFn f (fun k => { k with notified := k.notified + 1 }) s

/-- The function needs a reset: its device status says so, and a configuration-change notification is sent (R347). -/
def needReset (f : Nat) (s : State) : State :=
  notifyConfig f (modFn f (fun k => { k with needsReset := true, status := k.status ||| 64 }) s)

/-- Entries of the ring that a chain takes: one for an indirect table (R242). -/
def ringSlots (ds : List (DWord × Nat × Nat)) : Nat := if ds.any fun d => fld d.2.2 2 1 == 1 then 1 else ds.length

/-- The driver asks for a notification of a used element that takes `n` places of the ring: its event suppression structure enables
them, disables them, or names the one place that it waits for (R243, R261; log 91). -/
def asksNotice (s : State) (q n : Nat) : Bool :=
  let k := queueOf s q
  let off := readNat s (hostKey k.driverArea) 2
  let flags := readNat s (hostKey (k.driverArea + 2)) 2 % 4
  let here (i : Nat) : Bool :=
    if k.usedAt + i < k.size then off == k.usedAt + i + (if k.wrap then 2 ^ 15 else 0)
    else off == k.usedAt + i - k.size + (if k.wrap then 0 else 2 ^ 15)
  if flags = 1 then false
  else if flags = 2 && fld (fnOf s (fnOfQueue s q)).features 29 1 == 1 then (List.range n).any here
  else true

/-- A used element posted on a queue; the wrap counter flips as the packed ring requires, and the driver is notified under its event
suppression (R246, R261, R264). Where the ring can be written no more, the function needs a reset in its place (R347). -/
def postUsed (q buf len : Nat) (s : State) : State :=
  if (queueOf s q).lost then needReset (fnOfQueue s q) s else
  let n := match (queueOf s q).fetched.find? fun c => c.1 == buf with
    | some c => ringSlots c.2
    | none => 1
  modQueue q (fun k =>
    let next := k.usedAt + n
    { k with
      used := k.used ++ [(buf, len)]
      inFlight := k.inFlight.filter (· != buf)
      started := k.started.filter (· != buf)
      unreached := k.unreached.filter fun x => x.1 != buf
      fetched := k.fetched.filter fun c => c.1 != buf
      sent := if asksNotice s q n then k.sent + 1 else k.sent
      usedAt := if k.size ≤ next then next - k.size else next
      wrap := if k.size ≤ next then !k.wrap else k.wrap }) s

/-- A chain of more than 16 descriptors, or with a descriptor flag beyond NEXT, WRITE, INDIRECT, AVAIL and USED (R242, R347). -/
def badChain (ds : List (DWord × Nat × Nat)) : Bool :=
  16 < ds.length || ds.any fun d => d.2.2 &&& 0xFFFF7F78 != 0

/-- The address of a chain's buffer that cannot be reached, if it has one (R347). -/
def unreachedOf (s : State) (q buf : Nat) : Option Nat := ((queueOf s q).unreached.find? fun x => x.1 == buf).map (·.2)

/-- Why a chain is returned at its fetch, with the status value: 0x01 as malformed, 0x04 with the address for a buffer out of reach (R347,
Table 21.1). -/
def chainFault (s : State) (q : Nat) (c : Nat × List (DWord × Nat × Nat)) : Option (Nat × Nat) :=
  if badChain c.2 then some (0x01, 0) else (unreachedOf s q c.1).map fun a => (0x04, a)

/-- The descriptors of a chain but for one that cannot be reached. -/
def inReach (s : State) (q : Nat) (c : Nat × List (DWord × Nat × Nat)) : List (DWord × Nat × Nat) :=
  match unreachedOf s q c.1 with
  | some a => c.2.filter fun d => d.1.toNat != a
  | none => c.2

/-- The queue may hand out chains: enabled, mapped, its function not in need of a reset, its partition not frozen (R347,
R349, R350). -/
def queueUp (s : State) (q : Nat) : Bool :=
  let k := queueOf s q
  k.enabled && k.mapped && !(fnOf s (fnOfQueue s q)).needsReset &&
  !(match partOfQueue s q with | some p => (partOf s p).frozen | none => false)

/-- Bytes of the device-writable part of a chain. -/
def writableLen (ds : List (DWord × Nat × Nat)) : Nat := ((ds.filter descWritable).map fun d => d.2.1).sum

/-- Bytes written by agent `a` over the device-writable part of a chain, descriptor after descriptor; what does not fit is not written. -/
def writeChain (a : Nat) : List (DWord × Nat × Nat) → List Byte → State → State
  | [], _, s => s
  | d :: ds, bs, s =>
    if descWritable d then writeChain a ds (bs.drop d.2.1) (unitWrite a (hostKey d.1.toNat) (bs.take d.2.1) false [] s)
    else writeChain a ds bs s

/-- A chain that is a buffer for host status records: all of it is device-writable (R264). -/
def isRecordBuffer (ds : List (DWord × Nat × Nat)) : Bool := !ds.isEmpty && ds.all descWritable

/-- The oldest buffer for records that a queue holds, fetched or not. -/
def recordBuffer (s : State) (q : Nat) : Option (Nat × List (DWord × Nat × Nat)) :=
  let k := queueOf s q
  (k.fetched ++ (if queueUp s q then k.avail.takeWhile fun c => (chainFault s q c).isNone else [])).find? fun c => isRecordBuffer c.2

/-- A chain fetched, with those that stand before it in the ring. -/
def fetchThrough (q buf : Nat) (s : State) : State :=
  modQueue q (fun k =>
    if k.fetched.any fun c => c.1 == buf then k
    else
      let n := (k.avail.takeWhile fun c => c.1 != buf).length + 1
      { k with avail := k.avail.drop n, fetched := k.fetched ++ k.avail.take n }) s

/-- The oldest record of a function, in the oldest buffer of its management queue; a buffer of fewer than 32 bytes takes what fits
(R264; log 91). -/
def deliverRecord (f : Nat) (s : State) : State :=
  match (fnOf s f).records, (mgmtQueue s f).bind fun q => (recordBuffer s q).map fun b => (q, b) with
  | e :: rest, some (q, buf, ds) =>
    let n := (fnOf s f).seqNo + 1
    let s := modFn f (fun k => { k with records := rest, seqNo := n }) (writeChain (queueAgent q) ds (statusRecord e n) (fetchThrough q buf s))
    postUsed q buf 32 s
  | _, _ => s

/-- Records that wait are delivered while there are buffers (R264). -/
def deliverRecords (f : Nat) (s : State) : State := (fnOf s f).records.foldl (fun s _ => deliverRecord f s) s

/-- A host status record for a function: up to 256 wait, and one raised beyond them is dropped (R264; log 104). -/
def hostRecord (f : Nat) (e : Event) (s : State) : State :=
  if (fnOf s f).records.length < 256 then deliverRecord f (modFn f (fun k => { k with records := k.records ++ [e] }) s) else s

/-- An event raised: it goes to its class's owner alone (R263). -/
def raiseEvent (e : Event) (s : State) : State :=
  if ownerOf s e.cls = ownerHost then hostRecord (fnOfPart e.part) e s
  else { s with events := s.events ++ [e] }

/-! ### Ternath ports: retries, tags and injectors (R339, R340, R343) -/

def portCount : Nat := 36

def portOf (s : State) (n : Nat) : Port := s.ports.getD n default
def modPort (n : Nat) (f : Port → Port) (s : State) : State := { s with ports := s.ports.put n (f (portOf s n)) }

/-- A link's identifier: the device's number and the port's (R256). -/
def linkId (s : State) (port : Nat) : Nat := s.devnum * 36 + port

/-- A flit is refused and sent again; `again`: it is the flit that failed last (R339). -/
def crcFailed (port : Nat) (again : Bool) (s : State) : State :=
  modPort port (fun p => { p with failed := if again then min 8 (p.failed + 1) else 0 }) s

/-- The partitions of this device that hold the key of a triple: the importer, or those that export to it (R255). -/
def keyHolders (s : State) (importer key : Nat) : List Nat :=
  (if importer / 8 = s.devnum then [importer % 8]
    else ((s.exports.filter fun e => importerOf e.2.impDev e.2.impPart == importer).map fun e => e.2.part).eraseDups).filter fun p =>
      ((partOf s p).keys.get? key).isSome

/-- The key of a triple suspended on a link for one of its partitions, which is told (R340). -/
def suspendFor (triple l : Nat) (s : State) (p : Nat) : State :=
  if (partOf s p).suspended.contains (triple, l) then s
  else raiseEvent ⟨5, 1, 0, some p, 0, triple % 4096 + l * 2 ^ 32, 0⟩
    (modPart p (fun q => { q with suspended := q.suspended ++ [(triple, l)] }) s)

/-- A key suspended on a link, reported to the partitions that hold it (R340). -/
def suspendKey (port importer key : Nat) (s : State) : State :=
  (keyHolders s importer key).foldl (suspendFor (tripleOf importer key) (linkId s port)) s

/-- A flit group of a key triple is discarded and sent again; `again`: the triple's last group on the link failed too. Four in
succession suspend the key (R340). -/
def tagFailed (port importer key : Nat) (again : Bool) (s : State) : State :=
  let i := tripleOf importer key
  let n := if again then (portOf s port).tagFails.getD i 0 + 1 else 1
  if n < 4 then modPort port (fun p => { p with tagFails := p.tagFails.put i n }) s
  else suspendKey port importer key (modPort port (fun p => { p with tagFails := p.tagFails.del i }) s)

/-- The injector of a port fires: its count starts anew, and it disarms itself after its last firing (R343). -/
def fireInjector (port : Nat) (i : Injector) (s : State) : State :=
  let n := i.firings + 1
  raiseEvent ⟨4, 4, 0, none, 0, port % 64 + n % 2 ^ 16 * 2 ^ 16, 0⟩
    (modPort port (fun p => { p with inj := if i.rep ≤ n then none else some { i with count := 0, firings := n } }) s)

/-- What the injector's action does to the flit it fires on, of the key of an importer: the CRC or the tag refuses it; a delay changes
no delivered byte (R343). -/
def injected (port : Nat) (i : Injector) (owner : Nat × Nat) (again : Bool) (s : State) : State :=
  if i.action = 1 ∨ i.action = 3 then crcFailed port again s
  else if i.action = 2 then tagFailed port owner.1 owner.2 again s
  else s

/-- A flit sent on a port, counted by its injector; one that is refused is sent again, and counted again (R343). `again`: it is such a
flit. -/
def sendFlit (owner : Nat × Nat) (port : Nat) : Nat → Bool → State → State
  | 0, _, s => s
  | k + 1, again, s =>
    match (portOf s port).inj with
    | none => s
    | some i =>
      if i.count + 1 < i.trigger then modPort port (fun p => { p with inj := some { i with count := i.count + 1 } }) s
      else
        let s := injected port i owner again (fireInjector port i s)
        if i.action = 4 then s else sendFlit owner port k true s

/-- The flit that the injector's count has reached, and the flits sent again for it. -/
def fireAt (owner : Nat × Nat) (port : Nat) (s : State) : State :=
  match (portOf s port).inj with
  | none => s
  | some i =>
    let s := injected port i owner false (fireInjector port i s)
    if i.action = 4 then s else sendFlit owner port (2 ^ 16) true s

/-- The flits of a request on the port that it takes. Their number and the port are free (R339, R343; log 101). -/
def requestFlits (w : WinRef) (s : State) : State :=
  let up := (s.ports.filter fun x => x.2.up).map (·.1)
  match up[Config.freeNat s.fresh % up.length]? with
  | none => s
  | some port =>
    let n := 1 + Config.freeNat (s.fresh + 1) % 64
    (List.range n).foldl (fun s _ => sendFlit (importerOf s.devnum w.part, (winOf s w).keyidx) port (2 ^ 16) false s) { s with fresh := s.fresh + 2 }

/-- Requests through windows of other devices are sent. With no port up they complete as revoked and raise class 4 code 0x05 (R339); the
injectors count what the others send (R343). -/
def sendRequests (ea : Nat) (ps : List Piece) (s : State) : State :=
  ps.foldl (fun s p => match p.win with
    | some w =>
      if (winOf s w).tdev = s.devnum then s
      else if !(s.ports.any fun x => x.2.up) then raiseEvent ⟨4, 5, 0, some w.part, 0, w.idx, ea⟩ s
      else if s.ports.any fun x => x.2.inj.isSome then requestFlits w s
      else s
    | none => s) s

/-! ### Commands (R246) -/

/-- A command in hand: its queue and the buffer ID of its fetched chain. -/
abbrev CmdId := Nat × Nat

def chainOf (s : State) (c : CmdId) : List (DWord × Nat × Nat) :=
  match (queueOf s c.1).fetched.find? fun x => x.1 == c.2 with
  | some x => x.2
  | none => []

/-- The driver-readable part of a chain. -/
def readablePart (s : State) (c : CmdId) : List Byte :=
  ((chainOf s c).filter fun d => !descWritable d).flatMap fun d => readBytes s (hostKey d.1.toNat) d.2.1

/-- Field of `n` bytes at `o`. -/
def fieldAt (b : List Byte) (o n : Nat) : Nat := leNat ((b.drop o).take n)

/-- The command body, after the 16-byte header of Table 11.4. -/
def bodyOf (s : State) (c : CmdId) : List Byte := (readablePart s c).drop 16

def cmdTag (s : State) (c : CmdId) : Nat := fieldAt (readablePart s c) 8 8

/-- The chain of a command is still the device's: no reset has taken its queue away (R347). -/
def holdsChain (s : State) (c : CmdId) : Bool := (queueOf s c.1).fetched.any fun x => x.1 == c.2

/-- A command completes: its status record is written, then its used element is posted with length 16 (R246). Each
completion is kept as the device returned it. A chain with no room for the record gets none, and used length 0 (R347; log 91). -/
def complete (c : CmdId) (status detail value : Nat) (s : State) : State :=
  if !holdsChain s c then s else
  let tag := cmdTag s c
  let ds := inReach s c.1 (c.2, chainOf s c)
  let fits := 16 ≤ writableLen ds
  let s := if fits then writeChain (queueAgent c.1) ds (natLe 4 status ++ natLe 4 detail ++ natLe 8 value) s else s
  postUsed c.1 c.2 (if fits then 16 else 0) { s with completions := s.completions ++ [⟨c.1, tag, c.2, status, detail, value⟩] }

/-- Whether a driver negotiated a device feature (R244). -/
def hasFeature (s : State) (f bit : Nat) : Bool := fld (fnOf s f).features bit 1 == 1

/-- What a command must be before its own conditions are looked at: its opcode, the length of its body, the kind of queue
it belongs to, and its feature (R247, Table 21.1). -/
structure CmdRule where
  opcode : Nat
  length : Nat
  mgmt : Bool
  fn0 : Bool
  feature : Option Nat

/-- The status a command of a rule ends with before it starts, and its detail: 0x01 malformed, 0x02 not permitted,
0x03 feature not negotiated (Table 21.1). -/
def refusal (s : State) (c : CmdId) (r : CmdRule) : Option (Nat × Nat) :=
  let b := readablePart s c
  let f := fnOfQueue s c.1
  let flags := fieldAt b 2 2
  if b.length < 16 + r.length then some (0x01, if b.length < 16 then b.length else b.length - 16)
  else if flags ≥ 2 then some (0x01, 2)
  else if fieldAt b 4 4 ≠ r.length then some (0x01, 4)
  else if (some c.1 == mgmtQueue s f) ≠ r.mgmt then some (0x02, 0)
  else if r.fn0 && f ≠ 0 then some (0x02, 0)
  else match r.feature with
    | some n => if hasFeature s f n then none else some (0x03, n)
    | none => none

/-- The command in hand has started, or may start: the earlier commands of its queue have started, and have completed if it has FENCE;
a frozen partition starts none (R246, R247, R350). -/
def mayStart (s : State) (c : CmdId) : Bool :=
  let k := queueOf s c.1
  let earlier := (k.fetched.takeWhile fun x => x.1 != c.2).filter fun x => !isRecordBuffer x.2
  (k.fetched.any fun x => x.1 == c.2) && !k.inFlight.contains c.2 &&
  !(match partOfQueue s c.1 with | some p => (partOf s p).frozen | none => false) &&
  (k.started.contains c.2 ||
    if fieldAt (readablePart s c) 2 2 % 2 = 0 then earlier.all fun x => k.started.contains x.1 else earlier.isEmpty)

/-- It stands so, with the opcode of a rule. -/
def cmdReady (s : State) (c : CmdId) (r : CmdRule) : Bool := mayStart s c && fieldAt (readablePart s c) 0 2 == r.opcode

/-- The command has started. -/
def markStarted (c : CmdId) (s : State) : State :=
  modQueue c.1 (fun k => { k with started := if k.started.contains c.2 then k.started else k.started ++ [c.2] }) s

/-- The opcodes of Table 11.5. -/
def isOpcode (n : Nat) : Bool := (1 ≤ n && n ≤ 0x10) || (0x40 ≤ n && n ≤ 0x49)

/-- A bad chain is returned: with a status where its device-writable part holds a record, otherwise with used length 0 (R347). -/
def rejectChain (q buf code value : Nat) (s : State) : State :=
  if 16 ≤ writableLen (inReach s q (buf, chainOf s (q, buf))) then complete (q, buf) code 0 value s
  else postUsed q buf 0 s

/-- The chain at the head of a ring is fetched. -/
def fetchHead (q : Nat) (s : State) : State :=
  modQueue q (fun k => match k.avail with
    | c :: r => { k with avail := r, fetched := k.fetched ++ [c] }
    | [] => k) s

/-- The Porter's firmware fetches the chain at the head of the ring, if it is the command's (log 13). -/
def takeChain (c : CmdId) (s : State) : State :=
  match (queueOf s c.1).avail with
  | (b, ds) :: _ =>
    if b = c.2 ∧ queueUp s c.1 then
      match chainFault s c.1 (b, ds) with
      | some (code, value) => rejectChain c.1 b code value (fetchHead c.1 s)
      | none => fetchHead c.1 s
    else s
  | [] => s

/-- The chain at the head of the ring is the one named, and is a bad one that the Porter's firmware can fetch (R347). -/
def badHead (s : State) (c : CmdId) : Bool :=
  match (queueOf s c.1).avail with
  | (b, ds) :: _ => b == c.2 && queueUp s c.1 && (chainFault s c.1 (b, ds)).isSome
  | [] => false

/-- A command starts: refused under Table 21.1, or run. A command not in hand is no step; one whose opcode Table 11.5 does not have is
malformed in its first field (log 18). -/
def runCommand (c : CmdId) (r : CmdRule) (run : State → State) (s : State) : State :=
  let s' := takeChain c s
  if cmdReady s' c r then
    match refusal s' c r with
    | some (code, detail) => complete c code detail 0 s'
    | none => run (markStarted c s')
  else if mayStart s' c && !isOpcode (fieldAt (readablePart s' c) 0 2) then complete c 0x01 0 0 s'
  else if badHead s c then s'
  else s

/-- The fields of a command's body in their order, each with its offset and whether it is bad: with the first bad one the
command is malformed (Table 21.1; the offset is that of Table 11.5, log 18). -/
def checkFields (c : CmdId) (bad : List (Nat × Bool)) (run : State → State) (s : State) : State :=
  match bad.find? fun x => x.2 with
  | some x => complete c 0x01 x.1 0 s
  | none => run s

/-- Reserved bytes that must be 0. -/
def reservedAt (s : State) (c : CmdId) (off n : Nat) : Nat × Bool := (off, fieldAt (bodyOf s c) off n != 0)

/-- A context of the command's function (log 33). -/
def ctxOk (s : State) (q ctx : Nat) : Bool :=
  match s.contexts.get? ctx with
  | some c => fnOfPart (some c.part) == fnOfQueue s q
  | none => false

/-- The context field at an offset. -/
def ctxAt (s : State) (c : CmdId) (off : Nat) : Nat × Bool := (off, !ctxOk s c.1 (fieldAt (bodyOf s c) off 4))

/-- The command stands among those in flight until a later step completes it. -/
def markInFlight (c : CmdId) (s : State) : State := modQueue c.1 (fun k => { k with inFlight := k.inFlight ++ [c.2] }) s

/-! ### Virtual memory of a context, as the hub reads and writes it -/

/-- The pieces of a range, cut at 4 KiB. -/
def chunks : Nat → Nat → Nat → List (Nat × Nat)
  | 0, _, _ => []
  | k + 1, va, n => if n = 0 then [] else
    let m := min n (4096 - va % 4096)
    (va, m) :: chunks k (va + m) (n - m)

def chunksOf (va n : Nat) : List (Nat × Nat) := chunks (n / 4096 + 2) va n

/-- The memory keys of a range: all pieces, or the first address that is not mapped or not permitted, or the pages whose
host translation is needed. -/
inductive Range where
  | ok (ps : List Piece)
  | bad (va : Nat)
  | miss (pages : List Nat)
  deriving DecidableEq, Repr

def rangeOf (s : State) (v : View) (write : Bool) (va n : Nat) : Range :=
  (chunksOf va n).foldl (fun r x =>
    match r with
    | .bad a => .bad a
    | .ok ps =>
      (match translate s v none (if write then .store else .load) x.1 x.2 with
       | .ok qs => .ok (ps ++ qs)
       | .bad _ => .bad x.1
       | .miss g => .miss g)
    | .miss g =>
      (match translate s v none (if write then .store else .load) x.1 x.2 with
       | .ok _ => .miss g
       | .bad _ => .bad x.1
       | .miss h => .miss (g ++ h))) (.ok [])

def readPieces (s : State) (ps : List Piece) : List Byte :=
  ps.flatMap fun p => if winDead s p.win then List.replicate p.len 0 else readBytes s p.addr p.len

/-- A page is mapped, with W when asked (R42). A host page counts by its leaf: the host has yet to be asked. -/
def isMapped (s : State) (v : View) (write : Bool) (va n : Nat) : Bool :=
  match rangeOf s v write va n with
  | .bad _ => false
  | .ok _ | .miss _ => true

end Sys2Proof.Machine
end

