-- ==== Sys2Proof/Machine/Resources.lean ====
section
/-! DEFINITION. The resources of Table 20.3, what poison blames, and who owns a resource or a frame (20 R333, R341). -/

namespace Sys2Proof.Machine

/-! ### Resource codes (Table 20.3) -/

/-- A core as a resource. -/
def coreResource (core : Nat) : Nat := 2 ^ 56 + dieOf core * 2 ^ 13 + core / 8 % 24 * 2 ^ 8 + core % 8

def clusterResource (k : Nat) : Nat := 2 * 2 ^ 56 + k / 24 * 2 ^ 13 + k % 24 * 2 ^ 8

/-- A physical row of a core's array. -/
def rowResource (core row : Nat) : Nat := 3 * 2 ^ 56 + coreResource core % 2 ^ 56 + row % 128 * 2 ^ 16

/-- The pseudo-channel of its stack that holds the frame of 64 KiB of an address (log 87). -/
def channelOf (addr : Nat) : Nat := Config.pseudoChannel (addr / 65536) % 512

def hbmResource (addr : Nat) : Nat := 4 * 2 ^ 56 + homeDie addr * 2 ^ 13 + channelOf addr

def cellarResource (die off : Nat) : Nat := 6 * 2 ^ 56 + die * 2 ^ 13 + off / 4096 % 16 * 2 ^ 16 + off / 4096 * 2 ^ 24

def resCode (r : Nat) : Nat := r / 2 ^ 56
def resDie (r : Nat) : Nat := fld r 13 3
def resCluster (r : Nat) : Nat := resDie r * 24 + fld r 8 5
def resCore (r : Nat) : Nat := resCluster r * 8 + fld r 0 3
def resRow (r : Nat) : Nat := fld r 16 7
def resRange (r : Nat) : Nat := fld r 24 24

/-- 4 KiB ranges of a die's Cellar (R69). -/
def cellarRanges : Nat := 192 * 256

/-- A resource of Table 20.3. -/
def isResource (r : Nat) : Bool :=
  let k := resDie r * 24 + fld r 8 5
  let core := k * 8 + fld r 0 3
  let isCluster := fld r 8 5 < 24
  if resCode r = 1 then isCluster && r == coreResource core
  else if resCode r = 2 then isCluster && r == clusterResource k
  else if resCode r = 3 then isCluster && resRow r < 68 && r == coreResource core % 2 ^ 56 + resRow r * 2 ^ 16 + 3 * 2 ^ 56
  else if resCode r = 4 then r == 4 * 2 ^ 56 + resDie r * 2 ^ 13 + fld r 0 9
  else if resCode r = 5 then r == 5 * 2 ^ 56 + resDie r * 2 ^ 13 + fld r 16 15 * 2 ^ 16 + fld r 0 4
  else resCode r = 6 && resRange r < cellarRanges && r == cellarResource (resDie r) (resRange r * 4096)

/-! ### Blame (R333) -/

/-- The first poisoned granule of some pieces. -/
def poisonIn (s : State) (ps : List Piece) : Option Nat :=
  ps.findSome? fun p => (((List.range p.len).map fun i => granule (p.addr + i)).find? fun g => s.poison.contains g)

/-- The core of a key in a local or cluster window. -/
def coreOfKey (key : Nat) : Nat := (key - 2 ^ 100) / 2 ^ 20 % coreCount

/-- What poison at a memory key is blamed on: the pseudo-channel of a device address, a Cellar range, the core of a scratchpad. What lies
elsewhere the core that consumed it bears, as it bears poison of its registers (log 31). -/
def resourceOfKey (own key : Nat) : Nat :=
  if key < 2 ^ 40 then hbmResource key
  else if 2 ^ 44 ≤ key ∧ key < 2 ^ 44 + 8 * 2 ^ 28 then cellarResource ((key - 2 ^ 44) / 2 ^ 28) ((key - 2 ^ 44) % 2 ^ 28)
  else if 2 ^ 100 ≤ key then coreResource (coreOfKey key)
  else coreResource own

/-- The frame of 64 KiB or the Cellar offset that an event about poison names, 0 where there is none. -/
def reportedPlace (key : Option Nat) : Nat :=
  match key with
  | none => 0
  | some k =>
    if k < 2 ^ 40 then k / 2 ^ 16 * 2 ^ 16
    else if 2 ^ 44 ≤ k ∧ k < 2 ^ 45 then (k - 2 ^ 44) % 2 ^ 28 / 4096 * 4096
    else 0

/-- A pseudo-channel that the record or the log maps out: it holds no device frame, and its addresses are given out no more (R291). -/
def channelOut (s : State) (stack pc : Nat) : Bool :=
  s.config.hbm.contains (stack, pc) || s.mapOuts.any fun m => m.kind == 4 && fld m.num 13 3 == stack && fld m.num 0 9 == pc

/-- All of them, stack by stack. -/
def channelsOut (s : State) : List (Nat × Nat) :=
  (List.range 8).flatMap fun k => ((List.range 512).filter fun pc => channelOut s k pc).map fun pc => (k, pc)

/-! ### Owners (R341) -/

/-- Some entry of a table of level `n`, with `k` levels left, leads to a device leaf over an address (R78, R79). -/
def tableMaps (s : State) (addr : Nat) : Nat → Nat → Nat → Bool
  | 0, _, _ => false
  | k + 1, n, table => (List.range (2 ^ levelBits n)).any fun i =>
    let e := readNat s (table + 8 * i) 8
    if fld e 0 1 = 0 then false
    else if fld e 1 1 = 1 then
      2 ≤ n && (leafOf e (levelShift n)).any fun f => f.kind == .device && f.addr ≤ addr && addr < f.addr + 2 ^ levelShift n
    else n < 4 && tableMaps s addr k (n + 1) (fld e 8 44 * 256)

/-- The address lies in the save region or the heap of a partition. -/
def Partition.holds (p : Partition) (addr : Nat) : Bool :=
  (p.save.toNat ≤ addr && addr < p.save.toNat + p.saveSize.toNat) || (p.heap.toNat ≤ addr && addr < p.heap.toNat + p.heapSize.toNat)

/-- The partition that owns a frame of device memory: the one whose save region or heap holds it, else one whose page tables map it. -/
def ownerOfFrame (s : State) (addr : Nat) : Option Nat :=
  match s.partitions.find? fun e => e.2.holds addr with
  | some e => some e.1
  | none => (s.contexts.find? fun e => tableMaps s addr 5 0 e.2.root).map fun e => e.2.part

/-- The partition that a Cellar offset of a die is granted to. -/
def ownerOfCellar (s : State) (die off : Nat) : Option Nat :=
  (s.partitions.find? fun e => let g := e.2.cellar.getD die (0, 0); g.1 ≤ off && off < g.1 + g.2).map (·.1)

/-- The partition that holds a cluster. -/
def ownerOfCluster (s : State) (k : Nat) : Option Nat := (s.partitions.find? fun e => e.2.clusters.contains k).map (·.1)

/-- The partition that owns a resource; of a pseudo-channel or an L2 line, the one that owns the frame concerned. -/
def ownerOfResource (s : State) (r : Nat) (key : Option Nat) : Option Nat :=
  if resCode r ≤ 3 then ownerOfCluster s (resCluster r)
  else if resCode r = 6 then ownerOfCellar s (resDie r) (resRange r * 4096)
  else key.bind fun k => if k < 2 ^ 40 then ownerOfFrame s k else none

end Sys2Proof.Machine
end

