-- ==== Sys2Proof/Machine/Launches.lean ====
section
/-! DEFINITION. Launch headers, the conditions of R42, and the stages of a launch up to the dispatcher's FIFOs (02 R41 to R49, R57 to R62; 10 R229). -/

namespace Sys2Proof.Machine

/-! ### The header (Tables 2.2 to 2.4) -/

def roleOf (b : List Byte) (i : Nat) : Role :=
  let o := 0xD0 + 24 * i
  { entry := BitVec.ofNat 64 (fieldAt b o 8)
    handler := BitVec.ofNat 64 (fieldAt b (o + 8) 8)
    allot := fieldAt b (o + 0x10) 1
    squads := fieldAt b (o + 0x11) 1
    threads := fieldAt b (o + 0x12) 1
    tiles := fieldAt b (o + 0x13) 1
    flags := fieldAt b (o + 0x14) 1 }

def waitEntryOf (b : List Byte) (i : Nat) : WaitEntry :=
  let o := 0x130 + 24 * i
  ⟨fieldAt b o 1, fieldAt b (o + 4) 4, BitVec.ofNat 64 (fieldAt b (o + 8) 8), BitVec.ofNat 64 (fieldAt b (o + 16) 8)⟩

/-- Table 2.2. -/
def headerOf (b : List Byte) : Header :=
  { flags := fieldAt b 4 4
    code := BitVec.ofNat 64 (fieldAt b 8 8)
    digest := (b.drop 0x10).take 32
    args := BitVec.ofNat 64 (fieldAt b 0x30 8)
    argsize := fieldAt b 0x38 4
    features := fieldAt b 0x3C 4
    clusters := fieldAt b 0x40 2
    prio := fieldAt b 0x42 1
    localUnits := fieldAt b 0x44 2
    gbar := fieldAt b 0x46 2
    set := fieldAt b 0x48 24
    dimx := fieldAt b 0x60 4
    dimy := fieldAt b 0x64 4
    dimz := fieldAt b 0x68 4
    order := fieldAt b 0x6C 1
    bars := (List.range 16).map fun i => fieldAt b (0x70 + 2 * i) 2
    chans := (List.range 16).map fun i => fieldAt b (0x90 + 4 * i) 4
    roles := (List.range 4).map (roleOf b)
    waits := (List.range 4).map (waitEntryOf b)
    posts := (List.range 4).map fun i =>
      (BitVec.ofNat 64 (fieldAt b (0x190 + 16 * i) 8), BitVec.ofNat 64 (fieldAt b (0x198 + 16 * i) 8))
    seals := BitVec.ofNat 64 (fieldAt b 0x1D0 8)
    nseals := fieldAt b 0x1D8 4
    windows := (List.range 4).map fun i => fieldAt b (0x1E0 + 4 * i) 4 }

/-- Table 2.3. -/
def Header.isProtected (h : Header) : Bool := fld h.flags 0 1 == 1
def Header.rollback (h : Header) : Bool := fld h.flags 1 1 == 1
def Header.receipt (h : Header) : Bool := fld h.flags 2 1 == 1
def Header.publish (h : Header) : Bool := fld h.flags 3 1 == 1
def Header.vanrep (h : Header) : Bool := fld h.flags 4 1 == 1
def Header.explicit (h : Header) : Bool := fld h.flags 5 1 == 1
def Header.after (h : Header) : Bool := fld h.flags 6 1 == 1

/-- HANDLER and STARTSTOP (Table 1.2). -/
def Role.hasHandler (r : Role) : Bool := fld r.flags 0 1 == 1
def Role.startStop (r : Role) : Bool := fld r.flags 1 1 == 1

/-- Clusters set in a mask (R10). -/
def clustersIn (mask : Nat) : List Nat := (List.range 192).filter fun c => fld mask c 1 == 1

/-- Threads of a block. -/
def Header.threads (h : Header) : Nat := (h.roles.map fun r => r.squads * r.threads).sum

/-- Squads of a block. -/
def Header.squads (h : Header) : Nat := (h.roles.map fun r => r.squads).sum

/-! ### The conditions of R42 -/

def zeroAt (b : List Byte) (o n : Nat) : Bool := fieldAt b o n == 0

def featuresOk (s : State) (f : Nat) (h : Header) : Bool :=
  let need (c : Bool) (n : Nat) : Bool := !c || hasFeature s f n
  (List.range 24).all (fun n => need (fld h.features n 1 == 1) n) &&
  need h.publish 8 && need h.receipt 4 && need h.rollback 5 && need h.isProtected 6 &&
  h.roles.all fun r => r.squads == 0 || need r.startStop 12

def clustersOk (s : State) (p : Nat) (h : Header) : Bool :=
  let own := (partOf s p).clusters
  1 ≤ h.clusters && h.clusters ≤ own.length &&
  (!h.explicit || ((clustersIn h.set).length == h.clusters && (clustersIn h.set).all fun c => own.contains c))

/-- R11, Table 1.2, R336. Lane sums of a protected launch are those of the home lanes, each borne by two physical lanes. -/
def rolesOk (b : List Byte) (h : Header) : Bool :=
  let used := h.roles.filter fun r => r.squads != 0
  ((List.range 4).all fun i => fieldAt b (0xD0 + 24 * i + 0x11) 1 != 0 || (zeroAt b (0xD0 + 24 * i) 24)) &&
  (used.all fun r =>
    16 ≤ r.allot && r.allot ≤ 128 && r.allot % 8 == 0 && r.squads ≤ 16 && 1 ≤ r.threads && r.threads ≤ 32 &&
    r.tiles ≤ 8 && r.flags < 4 && r.entry.toNat % 4 == 0 && r.handler.toNat % 4 == 0 &&
    (r.hasHandler || r.handler == 0) && (!h.isProtected || r.threads ≤ 16)) &&
  h.threads ≤ 512 && h.squads ≤ 16 && (used.map fun r => r.squads * r.tiles).sum ≤ 8 &&
  (List.range 32).all fun L => ((used.filter fun r => L < r.threads).map fun r => r.squads * (r.allot / 8)).sum ≤ 128

/-- Ring base, capacity and reserved bits of a channel default (Table 2.2). -/
def chanBase (c : Nat) : Nat := fld c 16 16 * 8
def chanCap (c : Nat) : Nat := fld c 0 7

def splitOk (h : Header) : Bool :=
  h.localUnits ≤ 80 && h.chans.all fun c =>
    fld c 7 9 == 0 && chanCap c ≤ 64 && (chanCap c == 0 || chanBase c + 4 * chanCap c ≤ h.localUnits * 4096)

/-- The bytes of a code object by its header: text, rodata, data, bss, each at a multiple of 64 (R229). -/
structure CodeObject where
  text : Nat
  rodata : Nat
  data : Nat
  bss : Nat
  deriving DecidableEq, Repr

def roundUp (n k : Nat) : Nat := (n + k - 1) / k * k

def CodeObject.rodataAt (c : CodeObject) : Nat := roundUp (0x40 + c.text) 64
def CodeObject.digested (c : CodeObject) : Nat := c.rodataAt + c.rodata
def CodeObject.dataAt (c : CodeObject) : Nat := roundUp c.digested 64
def CodeObject.bssAt (c : CodeObject) : Nat := roundUp (c.dataAt + c.data) 64
def CodeObject.size (c : CodeObject) : Nat := c.bssAt + c.bss

/-- The code object named by a header, read in its context; none where it cannot be read or lacks the magic of Table 10.2, the one field
of it that is tested (log 96). -/
def codeObject (s : State) (v : View) (h : Header) : Option CodeObject :=
  match rangeOf s v false h.code.toNat 64 with
  | .ok ps =>
    let b := readPieces s ps
    if fieldAt b 0 4 == 0x4F435A44 then some ⟨fieldAt b 0xC 4, fieldAt b 0x10 4, fieldAt b 0x14 4, fieldAt b 0x18 4⟩ else none
  | .bad _ | .miss _ => none

/-- The sealed-buffer list: address and length of each buffer (Table 2.2). -/
def sealList (s : State) (v : View) (h : Header) : Option (List (Nat × Nat)) :=
  match rangeOf s v false h.seals.toNat (16 * h.nseals) with
  | .ok ps =>
    let b := readPieces s ps
    some ((List.range h.nseals).map fun i => (fieldAt b (16 * i) 8, fieldAt b (16 * i + 8) 8))
  | .bad _ | .miss _ => none

def mappedOk (s : State) (v : View) (hdr : Nat) (h : Header) : Bool :=
  isMapped s v false hdr 512 && isMapped s v false h.args.toNat h.argsize &&
  (match codeObject s v h with
   | some c => isMapped s v false h.code.toNat c.size &&
      h.roles.all fun r =>
        let inText (a : DWord) : Bool := h.code.toNat + 0x40 ≤ a.toNat && a.toNat < h.code.toNat + 0x40 + c.text
        r.squads == 0 || (inText r.entry && (!r.hasHandler || inText r.handler))
   | none => false) &&
  (h.waits.all fun w => w.kind != 1 || isMapped s v false w.addr.toNat 8) &&
  (h.posts.all fun p => p.1 == 0 || isMapped s v true p.1.toNat 8) &&
  (!h.receipt || (match sealList s v h with
    | some l => l.all fun x => isMapped s v false x.1 x.2
    | none => false))

def fieldsOk (b : List Byte) (h : Header) : Bool :=
  h.flags < 128 && h.code.toNat % 64 == 0 && h.args.toNat % 8 == 0 && h.argsize ≤ 2 ^ 20 && h.features < 2 ^ 24 &&
  h.prio ≤ 7 && zeroAt b 0x43 1 && h.gbar ≤ 4096 &&
  (h.dimx == 0 || (h.dimx ≤ 2 ^ 20 && 1 ≤ h.dimy && h.dimy ≤ 2 ^ 20 && 1 ≤ h.dimz && h.dimz ≤ 2 ^ 20)) &&
  h.order ≤ 2 && zeroAt b 0x6D 3 && (h.bars.all fun c => c ≤ 512) && h.nseals ≤ 64 &&
  zeroAt b 0x1DC 4 && zeroAt b 0x1F0 16 && (h.posts.all fun p => p.1.toNat % 8 == 0) &&
  (List.range 4).all fun i =>
    let w := waitEntryOf b i
    zeroAt b (0x131 + 24 * i) 3 && zeroAt b (0xE5 + 24 * i) 3 && w.kind ≤ 2 &&
    (w.kind != 1 || w.addr.toNat % 8 == 0) && (w.kind != 2 || (1 ≤ w.dist && w.dist ≤ 255))

/-- The first condition of R42 that fails, numbered as R345 numbers them. -/
def checkHeader (s : State) (f : Nat) (p : Nat) (v : View) (hdr : Nat) (b : List Byte) : Option Nat :=
  let h := headerOf b
  if !(fieldAt b 0 2 == 1 && fieldAt b 2 2 == 512) then some 1
  else if !featuresOk s f h then some 2
  else if !clustersOk s p h then some 3
  else if !rolesOk b h then some 4
  else if !splitOk h then some 5
  else if !mappedOk s v hdr h then some 6
  else if (partOf s p).saveSize.toNat < 4096 * (h.threads * h.clusters * 8) then some 7
  else if !fieldsOk b h then some 8
  else none

/-- The host pages that stage 2 must read and has no translation of: those of the code object's header and of the sealed-buffer list.
`bad` is the condition that fails without them; the first five read no such page (R42, R82, R83). -/
def headerPages (s : State) (v : View) (h : Header) (bad : Option Nat) : List Nat :=
  let missing (va n : Nat) : List Nat := match rangeOf s v false va n with
    | .miss g => g
    | .ok _ | .bad _ => []
  if bad.getD 9 < 6 then [] else
  missing h.code.toNat 64 ++ if h.receipt then missing h.seals.toNat (16 * h.nseals) else []

/-! ### The dispenser's sequence (R56, R57) -/

/-- Bits taken by an extent in Morton order. -/
def mortonBits (d : Nat) : Nat := if d ≤ 1 then 0 else Nat.log2 (d - 1) + 1

/-- The coordinates of a Morton code: bit `i` of each dimension that has more bits than `i`, in the order x, y, z (R57). -/
def mortonAt (bx by' bz : Nat) : Nat → Nat → Nat → Nat × Nat × Nat
  | 0, _, _ => (0, 0, 0)
  | k + 1, i, code =>
    let wx := if i < bx then 1 else 0
    let wy := if i < by' then 1 else 0
    let wz := if i < bz then 1 else 0
    let (x, y, z) := mortonAt bx by' bz k (i + 1) (code / 2 ^ (wx + wy + wz))
    (fld code 0 wx + 2 * x, fld code wx wy + 2 * y, fld code (wx + wy) wz + 2 * z)

/-- The Morton code of coordinates (R57). -/
def mortonCode (bx by' bz : Nat) : Nat → Nat → Nat → Nat → Nat → Nat
  | 0, _, _, _, _ => 0
  | k + 1, i, x, y, z =>
    let wx := if i < bx then 1 else 0
    let wy := if i < by' then 1 else 0
    let wz := if i < bz then 1 else 0
    fld x 0 wx + fld y 0 wy * 2 ^ wx + fld z 0 wz * 2 ^ (wx + wy) +
      2 ^ (wx + wy + wz) * mortonCode bx by' bz k (i + 1) (x / 2 ^ wx) (y / 2 ^ wy) (z / 2 ^ wz)

/-- The linear index of the tile at a position of the sequence, for the linear and grouped orders (R57). -/
def groupedTile (dx dy n : Nat) : Nat :=
  let z := n / (dx * dy)
  let m := n % (dx * dy)
  let g := m / (8 * dx)
  let h := min 8 (dy - 8 * g)
  let r := m - g * (8 * dx)
  let x := r / h
  x + dx * ((8 * g + r % h) + dy * z)

/-- The number of tiles (R56). -/
def Header.tiles (h : Header) : Nat := h.dimx * h.dimy * h.dimz

/-- The tile of a Morton code, none where its coordinates lie outside the space (R57). -/
def mortonTile (h : Header) (code : Nat) : Option Nat :=
  let (x, y, z) := mortonAt (mortonBits h.dimx) (mortonBits h.dimy) (mortonBits h.dimz) 20 0 code
  if x < h.dimx && y < h.dimy && z < h.dimz then some (x + h.dimx * (y + h.dimy * z)) else none

/-- The next code from `c` on that names a tile, with at most `k` skipped. -/
def mortonNext (h : Header) : Nat → Nat → Option (Nat × Nat)
  | 0, _ => none
  | k + 1, c => match mortonTile h c with
    | some t => some (t, c + 1)
    | none => mortonNext h k (c + 1)

/-- The codes of a Morton space: the first power of two that covers every extent. -/
def Header.codes (h : Header) : Nat := 2 ^ (mortonBits h.dimx + mortonBits h.dimy + mortonBits h.dimz)

/-- The next tile of a launch's sequence with the position after it (R57). -/
def nextTile (h : Header) (pos : Nat) : Option (Nat × Nat) :=
  if h.order = 2 then mortonNext h (h.codes - pos) pos
  else if h.tiles ≤ pos then none
  else if h.order = 1 then some (groupedTile h.dimx h.dimy pos, pos + 1)
  else some (pos, pos + 1)

/-- The place of a tile in the launch's sequence, or a number that rises with it (R57). -/
def seqKey (h : Header) (t : Nat) : Nat :=
  let x := t % h.dimx
  let y := t / h.dimx % h.dimy
  let z := t / (h.dimx * h.dimy)
  if h.order = 1 then z * (h.dimx * h.dimy) + y / 8 * (8 * h.dimx) + x * min 8 (h.dimy - y / 8 * 8) + y % 8
  else if h.order = 2 then mortonCode (mortonBits h.dimx) (mortonBits h.dimy) (mortonBits h.dimz) 20 0 x y z
  else t

/-- The completed-tile count grown over the tiles that are complete, for at most `k` more (R59). -/
def countTiles (h : Header) (done : List Nat) : Nat → Nat → Nat → Nat
  | 0, _, n => n
  | k + 1, pos, n => match nextTile h pos with
    | some (t, p) => if done.contains t then countTiles h done k p (n + 1) else n
    | none => n

/-- A tile becomes complete (R59). -/
def completeTile (lid tile : Nat) (s : State) : State :=
  modLaunch lid (fun l =>
    let done := tile :: l.doneTiles
    { l with doneTiles := done, completed := countTiles l.hdr done done.length 0 0 }) s

/-! ### Openness of clusters (R49) -/

/-- Launches that hold a block context of a core. -/
def holders (s : State) (c : Nat) : List Nat := ((cor s c).ctx.map fun e => (blk s e.2).lid).eraseDups

/-- Launches bound to a core: those with a block on it. -/
def boundTo (s : State) (c : Nat) : List Nat := ((s.blocks.filter fun e => e.2.core == c && !(launchOf s e.2.lid).ended).map fun e => e.2.lid).eraseDups

/-- The squads of a block that have been loaded at least once. -/
def loadedSquads (s : State) (b : Nat) : List Nat := (s.squads.filter fun e => e.2.block == b).map (·.1)

/-- Every squad of a launch on a core has been loaded: none of them is still to take a row, or in one that is LOADING (Table 1.7). -/
def fullyLoaded (s : State) (lid c : Nat) : Bool :=
  (launchOf s lid).whole || (s.blocks.filter fun e => e.2.lid == lid && e.2.core == c).all fun e =>
    (loadedSquads s e.1).length == (launchOf s lid).hdr.squads && (loadedSquads s e.1).all fun q => (sqd s q).state != .loading

/-- The first condition of R49. -/
def openPlain (s : State) (c : Nat) : Bool :=
  (holders s c).length ≤ 1 && (boundTo s c).all fun l => fullyLoaded s l c

/-- The second condition of R49: with a holder of lower priority evicted, which stays bound, the first would hold. -/
def openEvicting (s : State) (prio c : Nat) : Bool :=
  ((holders s c).any fun l => (launchOf s l).hdr.prio < prio && ((holders s c).filter (· != l)).length ≤ 1) &&
    (boundTo s c).all fun m => fullyLoaded s m c

def clusterCores (k : Nat) : List Nat := (List.range 8).map (k * 8 + ·)

/-- Whether a cluster is mapped out (R333). -/
def clusterOut (s : State) (k : Nat) : Bool := (clusterCores k).any fun c => (cor s c).mappedOut

def clusterOpen (s : State) (prio k : Nat) : Bool :=
  !clusterOut s k && (clusterCores k).all fun c => openPlain s c || openEvicting s prio c

/-- The island of a core: 24 cores, three clusters (Table 0.1). -/
def islandOf (core : Nat) : Nat := core / 24

/-! ### Stages 4 to 6 -/

/-- The 64-bit signal at an address of a context, if it can be read. -/
def signalAt (s : State) (ctx : Nat) (a : DWord) : Option Nat :=
  match translate s (hubView s ctx) none (.signal false) a.toNat 8 with
  | .ok ps => some (leNat (readPieces s ps))
  | .bad _ | .miss _ => none

def signalKey (s : State) (ctx : Nat) (a : DWord) : Nat :=
  match translate s (hubView s ctx) none (.signal false) a.toNat 8 with
  | .ok (p :: _) => p.addr
  | .ok [] | .bad _ | .miss _ => 0

/-- Whether a wait entry of a launch is satisfied (R46). -/
def waitMet (s : State) (l : Launch) (w : WaitEntry) : Bool :=
  if w.kind = 1 then (match signalAt s l.ctx w.addr with | some v => w.value.toNat ≤ v | none => false)
  else if w.kind = 2 then
    l.nth < w.dist + (queueOf s l.queue).base ||
    (match s.launches.find? fun e => e.2.queue == l.queue && e.2.nth + w.dist == l.nth with
     | some e => e.2.ended || w.value.toNat ≤ e.2.completed
     | none => true)
  else true

/-- An entry whose signal can no longer be read (R46). -/
def waitBad (s : State) (l : Launch) : Option DWord :=
  (l.waitsLeft.find? fun w => w.kind == 1 &&
    (match translate s (hubView s l.ctx) none (.signal false) w.addr.toNat 8 with
     | .bad _ => true
     | .ok _ | .miss _ => false)).map (·.addr)

/-- A launch or a fill no longer waits for its link (R270). -/
def linkTaken (ctx : Nat) (who : Nat × Nat × Nat) (s : State) : State :=
  { s with chains := s.chains.adj ctx fun c => { c with waiting := c.waiting.filter (· != who) } }

/-- A launch refused, or taken out of its FIFO: it has ended for R46 and AFTER, and waits for no link (R270, R346). A launch link that
it has taken stands alone: Table 12.2 gives a refused launch no end link (log 78). -/
def refuseLaunch (lid status detail value : Nat) (s : State) : State :=
  let l := launchOf s lid
  let s := modLaunch lid (fun l => { l with ended := true, stage := 9 }) s
  let s := linkTaken l.ctx (0, lid, 0) { s with
    fifos := s.fifos.map fun e => (e.1, e.2.filter (· != lid)), holds := s.holds.filter fun h => h.1 != lid }
  let s := complete (l.queue, l.buf) status detail value s
  raiseEvent ⟨9, 2, lid, some l.part, 0, fld status 0 8 + l.replays * 256 + min l.completed (2 ^ 32 - 1) * 2 ^ 32,
    l.hdrAddr.toNat⟩ s

/-- Earlier launches of the queue have reached stage 6, and with AFTER the previous one has ended (R47, Table 2.3). -/
def mayQueue (s : State) (l : Launch) : Bool :=
  s.launches.all fun e => !(e.2.queue == l.queue && e.2.nth < l.nth) ||
    ((6 ≤ e.2.stage || e.2.ended) && (!l.hdr.after || e.2.nth + 1 ≠ l.nth || e.2.ended))

/-- Stage 6: the tail of the priority's FIFO (R41, R48). -/
def enterFifo (lid : Nat) (s : State) : State :=
  let l := launchOf s lid
  let s := modLaunch lid (fun l => { l with stage := 6, dump := (s.contexts.getD l.ctx default).dump }) s
  { s with fifos := s.fifos.put l.hdr.prio (s.fifos.getD l.hdr.prio [] ++ [lid]), holds := s.holds.filter fun h => h.1 != lid }

/-- Every open cluster of a partition lies in an island in retention (R62). -/
def allRetained (s : State) (p prio : Nat) : Bool :=
  ((partOf s p).clusters.filter fun k => clusterOpen s prio k).all fun k => (s.islands.getD (islandOf (k * 8)) default).retention

/-- A launch passes from stage 5 to stage 6 where no hold stands and its queue's order lets it (R47, R62). -/
def passHold (lid : Nat) (s : State) : State :=
  let l := launchOf s lid
  if l.stage = 5 && !l.ended && !(s.holds.any fun h => h.1 == lid) && mayQueue s l then enterFifo lid s else s

/-- Held launches, given in the order of their arrival at stage 5, in the order in which they pass: each place of a queue goes to the
earliest launch of that queue that has none yet (R47, R62; log 98). -/
def passOrder (s : State) (held : List Nat) : List Nat :=
  let queue (l : Nat) : Nat := (launchOf s l).queue
  let inOrder (q : Nat) : List Nat := sortBy (fun a b => (launchOf s a).nth ≤ (launchOf s b).nth) (held.filter fun l => queue l == q)
  held.zipIdx.filterMap fun e => (inOrder (queue e.1))[((held.take e.2).filter fun l => queue l == queue e.1).length]?

/-- The holds of a partition end together, and the held launches pass to stage 6 (R62). -/
def endHolds (p : Nat) (s : State) : State :=
  let held := (s.holds.filter fun h => (launchOf s h.1).part == p).map (·.1)
  (passOrder s held).foldl (fun s l => passHold l s) { s with holds := s.holds.filter fun h => (launchOf s h.1).part != p }

/-- Holds end where an open cluster of the partition lies in an island that is not in retention, or the queue's tolerance is 0
(R62). -/
def testHolds (s : State) : State :=
  s.holds.foldl (fun s h =>
    let l := launchOf s h.1
    if (s.holds.contains h) && ((queueOf s l.queue).tol == 0 || !allRetained s l.part l.hdr.prio) then endHolds l.part s else s) s

/-- One launch moves on by one stage, where its stage has ended (Table 2.1, stages 4 to 6). -/
def advanceLaunch (lid : Nat) (s : State) : State :=
  let l := launchOf s lid
  if l.ended then s
  else if l.stage = 4 then
    match waitBad s l with
    | some a => refuseLaunch lid 0x04 0 a.toNat s
    | none =>
      let left := l.waitsLeft.filter fun w => !waitMet s l w
      let s := modLaunch lid (fun l => { l with
        waitsLeft := left
        acqRels := l.acqRels ++ (l.waitsLeft.filter fun w => w.kind == 1 && waitMet s l w).flatMap fun w =>
          relsAt s (signalKey s l.ctx w.addr) 8 }) s
      if left.isEmpty then
        let s := modLaunch lid (fun l => { l with stage := 5 }) s
        let t := (queueOf s l.queue).tol
        if t = 0 then endHolds l.part s
        else if allRetained s l.part l.hdr.prio then { s with holds := s.holds ++ [(lid, t)] }
        else endHolds l.part s
      else s
  else passHold lid s

/-- Every launch moves on as far as its stages have ended, those of one queue in its order (R41, R47, R62): first each whose waits are
met reaches stage 5, then those that are not held pass, then those behind launches whose holds have ended. -/
def advanceLaunches (s : State) : State :=
  let keys := sortBy (fun a b => (launchOf s a).nth ≤ (launchOf s b).nth) s.launches.keys
  let once (s : State) : State := keys.foldl (fun s l => advanceLaunch l s) s
  once (testHolds (once (once s)))

/-- A tile becomes complete, and the wait entries that count tiles are tested again (R46, R59). -/
def finishTile (lid tile : Nat) (s : State) : State := advanceLaunches (completeTile lid tile s)

/-- Launches of a partition that can never bind leave their FIFO as refused (R48). -/
def retestFifos (p : Nat) (s : State) : State :=
  (s.fifos.flatMap (·.2)).foldl (fun s lid =>
    let l := launchOf s lid
    if l.part == p && !clustersOk s p l.hdr then refuseLaunch lid 0x05 3 0 s else s) s

end Sys2Proof.Machine
end

