-- ==== Sys2Proof/Machine/Garret.lean ====
section
/-! DEFINITION. Rollback eligibility and snapshots, and the stores that the ordering machine performs for a launch (04 R89 to R94; 20 R327 to R329). -/

namespace Sys2Proof.Machine

/-! ### Pieces and snapshots (R327, R328) -/

/-- The 64 KiB pieces of device memory that some bytes touch. -/
def piecesOf (key len : Nat) : List Nat :=
  if key < 2 ^ 40 then (List.range ((key + len - 1) / 65536 + 1 - key / 65536)).map (key / 65536 + ·) else []

def pieceBytes : Nat := 65536

/-- Pieces of the Garret on each stack: 1 GiB by default (R327, Table 17.3). -/
def garretPieces (s : State) : Nat := if s.config.garret = 0 then 16384 else s.config.garret

/-- Snapshots the Garret holds when full, on 8 stacks. -/
def garretSize (s : State) : Nat := 8 * garretPieces s

def inPiece (p a : Nat) : Bool := a / pieceBytes == p

/-- Pieces of 64 KiB on a stack of 96 GiB (R76). -/
def stackPieces : Nat := 96 * 2 ^ 30 / pieceBytes

/-- The piece of a stack at which its part of the Garret begins. -/
def garretStart (s : State) (stack : Nat) : Nat := Config.garretBase stack % (stackPieces - garretPieces s + 1)

/-- The place of the Garret that a device physical address lies in: each stack's pieces lie together within the stack, and the stacks'
pieces are numbered in turn. -/
def slotAt (s : State) (a : Nat) : Option Nat :=
  let n := a % 2 ^ 37 / pieceBytes
  let b := garretStart s (homeDie a)
  if b ≤ n ∧ n < b + garretPieces s then some ((n - b) * 8 + homeDie a) else none

/-- The device physical address of a place of the Garret. -/
def slotAddr (s : State) (n : Nat) : Nat := n % 8 * 2 ^ 37 + (garretStart s (n % 8) + n / 8) * pieceBytes

/-- A place that may hold a snapshot: it holds none, and its frame does not lie on a pseudo-channel that is mapped out (R291). -/
def slotFree (s : State) (used : List Nat) (n : Nat) : Bool :=
  !used.contains n && !channelOut s (n % 8) (channelOf (slotAddr s n))

/-- The first such place from `n` on, of at most `k`. -/
def slotFrom (s : State) (used : List Nat) : Nat → Nat → Option Nat
  | 0, _ => none
  | k + 1, n => if slotFree s used n then some n else slotFrom s used k (n + 1)

/-- The place that the next snapshot takes, if the Garret has room: the first free one (log 87). -/
def freeSlot (s : State) : Option Nat :=
  slotFrom s (s.launches.flatMap fun e => e.2.snapshots.map (·.slot)) (garretSize s) 0

def garretRoom (s : State) : Bool := (freeSlot s).isSome

/-- A piece copied to the Garret, poison included (R324, R328). -/
def takeSnapshot (lid p : Nat) (s : State) : State :=
  let x : Snapshot := ⟨p, s.mem.filter (fun c => inPiece p c.1), s.poison.filter (inPiece p), (freeSlot s).getD 0⟩
  modLaunch lid (fun l => { l with snapshots := l.snapshots ++ [x] }) s

def hasSnapshot (l : Launch) (p : Nat) : Bool := l.snapshots.any fun x => x.piece == p

/-- The granule of a device physical address poisoned: in the Garret, that of the snapshot which stands there (R322, R325). -/
def poisonHbm (a : Nat) (s : State) : State :=
  match slotAt s a with
  | none => setPoison a 1 s
  | some n =>
    let hurt (x : Snapshot) : Snapshot :=
      if x.slot = n then { x with poison := (granule (x.piece * pieceBytes + a % pieceBytes) :: x.poison).eraseDups } else x
    { s with launches := s.launches.map fun e => (e.1, { e.2 with snapshots := e.2.snapshots.map hurt }) }

/-- A launch that is running (Table 2.1). -/
def isRunning (l : Launch) : Bool := (l.stage == 7 || l.stage == 8) && !l.ended

/-- The publications that a launch holds are let go (R60, R219, R329). -/
def issueHeld (lid : Nat) (s : State) : State :=
  let go (p : Publication) : Publication := if p.lid = lid then { p with held := false } else p
  modLaunch lid (fun l => { l with heldPublish := [] })
    { s with pubs := s.pubs.map fun e => (e.1, { e.2 with pending := e.2.pending.map go }) }

/-- The held publications of a launch are dropped (R330, R377). -/
def dropHeld (lid : Nat) (s : State) : State :=
  modLaunch lid (fun l => { l with heldPublish := [] })
    { s with pubs := s.pubs.map fun e => (e.1, { e.2 with pending := e.2.pending.filter fun p => p.lid != lid || !p.held }) }

/-- A launch stops being rollback-eligible and goes on without snapshots (R329). -/
def loseEligibility (lid : Nat) (s : State) : State :=
  if (launchOf s lid).eligible then
    issueHeld lid (modLaunch lid (fun l => { l with eligible := false, snapshots := [] }) s)
  else s

/-- The piece's snapshot, or the loss of eligibility with class 1 code 0x07 when the Garret is full (R329). -/
def snapshotOrLose (lid p : Nat) (s : State) : State :=
  if !(launchOf s lid).eligible || hasSnapshot (launchOf s lid) p then s
  else if garretRoom s then takeSnapshot lid p s
  else loseEligibility lid (raiseEvent ⟨1, 7, lid, some (launchOf s lid).part, 0, 0, 0⟩ s)

/-- A write of launch `lid` to a piece: launches whose writable sets meet in it lose their eligibility (R329). -/
def notePiece (lid : Nat) (s : State) (p : Nat) : State :=
  let others := s.launches.filter fun e => e.1 != lid && isRunning e.2
  let s := (others.filter fun e => hasSnapshot e.2 p).foldl (fun s e => loseEligibility e.1 s) s
  let s := if others.any fun e => e.2.written.contains p then loseEligibility lid s else s
  modLaunch lid (fun l => { l with written := if l.written.contains p then l.written else p :: l.written }) (snapshotOrLose lid p s)

/-- What a write of a launch does to rollback, before it is performed; one through a fabric window ends its eligibility, wherever the
window leads (R328, R329). -/
def launchWrite (lid key len : Nat) (fabric : Bool) (s : State) : State :=
  (piecesOf key len).foldl (notePiece lid) (if fabric || (2 ^ 64 ≤ key && key < 2 ^ 100) then loseEligibility lid s else s)

/-- The launch of an agent, if it belongs to one. -/
def lidOfAgent (s : State) (a : Nat) : Option Nat := if (agt s a).place.onCore then some (agt s a).place.lid else none

/-- A write to a piece that is not yet in the Garret waits for its copy (R328). -/
def snapshotDue (s : State) (a key len : Nat) : Bool :=
  match lidOfAgent s a with
  | some lid => (launchOf s lid).eligible && (piecesOf key len).any fun p => !hasSnapshot (launchOf s lid) p
  | none => false

/-- A store of an agent performed at its home point (Table 4.2, R329). -/
def storeAt (sid : StoreId) (rels : List Nat) (poison : Bool) (key : Nat) (bs : List Byte) (fabric : Bool) (s : State) : State :=
  let s := match lidOfAgent s sid.1 with
    | some lid => launchWrite lid key bs.length fabric s
    | none => s
  appendStore sid rels poison key bs s

/-! ### Leaving and carrying (Table 4.2) -/

/-- The leave move of a store: performed at the first stop of its path. A revoked fabric store is dropped (R257, R339). -/
def leaveStore (a : Nat) (e : Entry) (s : State) : State :=
  match e.kind with
  | .store k bs o =>
    let p := (agt s a).place
    let s := modAgent a (dropEntry e.sid) s
    let dead := winDead s e.win
    let s := if coreStop p o k && !dead then s else sendRequests e.va.toNat [⟨k, bs.length, o, e.win⟩] s
    if dead then s else
    if coreStop p o k then
      let s := modCore p.core (fun c => { c with
        pending := c.pending ++ [⟨(a, e.sid), k, bs, o == .uo, e.rels, e.poison, e.va, e.word, e.win⟩] }) s
      setCopies p.core (a, e.sid) e.rels e.poison k bs s
    else storeAt (a, e.sid) e.rels e.poison k bs e.win.isSome s
  | .atomic .. | .object .. | .marker _ => s

/-- The carry move of the oldest pending store of its bytes; copies marked at an acquire are then dropped (R92). A fabric store whose
window has been revoked meanwhile is dropped (R257). -/
def carry (c : Nat) (p : Pending) (s : State) : State :=
  let dead := winDead s p.win
  let s := sendRequests p.va.toNat [⟨p.addr, p.bytes.length, .rc, p.win⟩] s
  let s := if dead then s else storeAt p.sid p.rels p.poison p.addr p.bytes p.win.isSome s
  modCore c (fun k =>
    let rest := k.pending.filter fun q => q.sid != p.sid || q.addr != p.addr
    let busy (a : Nat) : Bool := rest.any fun q => overlaps q.addr q.bytes.length a 1
    { k with pending := rest, copies := k.copies.filter fun e => !e.2.drop || busy e.1 }) s

end Sys2Proof.Machine
end

