-- ==== Sys2Proof/Machine/Waits.lean ====
section
/-! DEFINITION. Waits under R21, and the effects that releases hold back: rendezvous, barriers, queues, channels, locks, promises, signals, inboxes (01 R21, R32; 04 R91, R97; 06 R133; 07 R161 to R163; 09 R205 to R219). -/

namespace Sys2Proof.Machine

/-! ### Atomic moves at a home point made for a squad -/

/-- The pending stores of a core to some bytes are carried, oldest first (Table 4.2). -/
def carryAll (c key len : Nat) (s : State) : State :=
  (cor s c).pending.foldl (fun s p => if overlaps p.addr p.bytes.length key len then carry c p s else s) s

/-- The core copies of some bytes become what an atomic move wrote (Table 4.2). -/
def touchCopies (c : Nat) (sid : StoreId) (rels : List Nat) (key : Nat) (bs : List Byte) (s : State) : State :=
  modCore c (fun k => { k with copies := k.copies.map fun e =>
    if key ≤ e.1 && e.1 < key + bs.length then (e.1, { e.2 with val := bs.getD (e.1 - key) 0, sid := sid, rels := rels }) else e }) s

/-- Bytes written at their home point as one atomic move of agent `a` (R210, R213, R218). -/
def homeWrite (a key : Nat) (bs : List Byte) (rels : List Nat) (s : State) : State :=
  let p := (agt s a).place
  let sid := (a, (agt s a).nextSid)
  let s := modAgent a (fun g => { g with nextSid := g.nextSid + 1 }) s
  let s := if p.onCore then carryAll p.core key bs.length s else s
  let s := storeAt sid rels false key bs false s
  if p.onCore then touchCopies p.core sid rels key bs s else s

def homeWriteNat (a key n x : Nat) (rels : List Nat) (s : State) : State := homeWrite a key (natLe n x) rels s

/-- The agent that makes a squad's atomic moves: its thread on the lowest home lane (R179). -/
def squadAgent (s : State) (q : Nat) : Nat :=
  match threadsOf s q with
  | t :: _ => (thr s t).agent
  | [] => 0

/-- A read-modify-write of an object's bytes: it synchronises as every release before it in their order does (R92). -/
def modifyNat (a key n x : Nat) (rels : List Nat) (s : State) : State :=
  homeWriteNat a key n x (allRels s key n ++ rels).eraseDups s

/-- Each of several threads performs an acquire (R189). -/
def acquireAll (ts : List Nat) (x : Scope) (read : List ReadRel) (s : State) : State :=
  ts.foldl (fun s t => acquire (thr s t).agent x read s) s

def acquireIf (ts : List Nat) (x : Option Scope) (read : List ReadRel) (s : State) : State :=
  match x with
  | some x => acquireAll ts x read s
  | none => s

/-- What a PRWAIT reads of a promise cell: its value and its control word (R213). -/
def cellRels (s : State) (key : Nat) : List ReadRel := relsAt s key 12

/-! ### Cross-lane results (R161 to R163) -/

/-- The result for lane `L`: `P` the present lanes, `dead` the exited ones, `x` and `y` the operands by lane. -/
def rdvResult (op : RdvOp) (P : List Nat) (dead : Nat → Bool) (x y : Nat → Word) (L : Nat) : Word :=
  let at' (j : Nat) : Word := if P.contains j then x j else 0
  match op with
  | .shfl => at' ((y L).toNat % 32)
  | .shflx => at' (L ^^^ ((y L).toNat % 32))
  | .ballot => laneMask (P.filter fun j => !dead j && x j != 0)
  | .sred op => fold op (P.map x)
  | .sscan op excl => fold op ((P.filter fun j => if excl then j < L else j ≤ L).map x)
  | .matchLanes => laneMask (P.filter fun j => !dead j && x j == x L)

/-! ### Locks and estates (R210, R211, R214) -/

def lockHeld (s : State) (key : Nat) : Bool := readNat s key 8 % 2 == 1

/-- The lock word of a holder, with BEREAVED kept or set (Table 9.7). -/
def lockValue (lid gsq : Nat) (bereaved : Bool) : Nat := lid * 2 ^ 32 + gsq % 2 ^ 16 * 2 ^ 16 + (if bereaved then 2 else 0) + 1

/-- A holding joins an estate (R214). -/
def addHolding (q : Nat) (kind : HoldKind) (handle : DWord) (key : Nat) (bereaved : Bool) (s : State) : State :=
  let (n, s) := newId s
  modSquad q (fun sq => { sq with estate := sq.estate ++ [⟨kind, handle, key, n, bereaved⟩] }) s

def dropHolding (q : Nat) (kind : HoldKind) (key : Nat) (s : State) : State :=
  modSquad q (fun sq => { sq with estate := sq.estate.filter fun h => !(h.kind == kind && h.key == key) }) s

def holds (s : State) (q : Nat) (kind : HoldKind) (key : Nat) : Bool :=
  (sqd s q).estate.any fun h => h.kind == kind && h.key == key

/-- The holding of an object in a squad's estate. -/
def holdingOf? (s : State) (q : Nat) (kind : HoldKind) (key : Nat) : Option Holding :=
  (sqd s q).estate.find? fun h => h.kind == kind && h.key == key

/-- The lock word becomes a squad's, by a store that carries `rels` (R92, R211). -/
def takeLock (q : Nat) (l : Ref) (rels : List Nat) (s : State) : State :=
  let sq := sqd s q
  let b := fld (readNat s l.key 8) 1 1 == 1
  let s := if l.win.isSome then loseEligibility sq.lid s else s
  addHolding q .lock l.va l.key false (modifyNat (squadAgent s q) l.key 8 (lockValue sq.lid sq.gsq b) rels s)

/-! ### Channels (R207, R208) -/

/-- The key of a byte that a scratch reference names, for a block (R190). -/
def scratchKey (s : State) (b : Nat) (ref : Word) (off : Nat) : Option Nat :=
  let o := ref.toNat % 2 ^ 31 + off
  if ref.toNat < 2 ^ 31 then (if o < localSize s b then some (localKey b (blk s b).core o) else none)
  else if o < clusterSize s b then clusterPlace s b o else none

/-- The scope of a channel's release and acquire (R208). -/
def channelScope (c : Channel) : Scope := if c.base.toNat < 2 ^ 31 then .block else .cluster

def chanOf (s : State) (b n : Nat) : Channel := (blk s b).chans.getD n default
def modChan (b n : Nat) (f : Channel → Channel) (s : State) : State :=
  modBlock b (fun k => { k with chans := k.chans.put n (f (chanOf s b n)) }) s

/-! ### Barriers (R205, R206, R353) -/

/-- One arrival at a barrier, with its releases: the barrier after it (R205). -/
def Barrier.arrive (b : Barrier) (rels : List Nat) : Barrier :=
  if b.count ≤ b.arrivals + 1 then
    { b with arrivals := 0, phase := b.phase + 1, rels := [], doneRels := b.doneRels.put b.phase (b.rels ++ rels) }
  else { b with arrivals := b.arrivals + 1, rels := b.rels ++ rels }

def barOf (s : State) (b n : Nat) : Barrier := (blk s b).bars.getD n default
def gangOf (s : State) (g : Nat) : Gang := s.gangs.getD g default

/-- The releases a thread's wait for a phase synchronises with, once it may leave (R205): at a barrier where it has never
arrived, or where its last arrival has been counted and the phase of it has completed. -/
def barDone (b : Barrier) (arr : Option (Nat × Nat)) : Option (List Nat) :=
  match arr with
  | none => some []
  | some (0, p) => if b.phase = p then none else some (b.doneRels.getD p [])
  | some (_ + 1, _) => none

/-- One more arrival, not yet counted; and the oldest of them counted, in phase `p` (R205). -/
def arrivalMade (a : Option (Nat × Nat)) : Nat × Nat := match a with
  | some (n, p) => (n + 1, p)
  | none => (1, 0)

def arrivalCounted (p : Nat) (a : Option (Nat × Nat)) : Nat × Nat := match a with
  | some (n, _) => (n - 1, p)
  | none => (0, p)

/-! ### Queues (R133, R191, R196) -/

def queueCap (q : Nat) : Nat := if q < 12 then 32 else 64

def wordsIn (s : State) (b q : Nat) : List Word := (blk s b).data.getD q []
def setWords (b q : Nat) (ws : List Word) (s : State) : State := modBlock b (fun k => { k with data := k.data.put q ws }) s

/-- The place in q8 of the first word that a pop issued at serial `id` may take: beyond every earlier claim; none while a
claim's size is not fixed (R196). Other queues carry no claim. -/
def popPlace (s : State) (b q id : Nat) : Option Nat :=
  if q = 8 then
    ((blk s b).claims.filter fun c => c.cmd < id).foldl (fun n c => match n, c.left with
      | some n, some k => some (n + k)
      | _, _ => none) (some 0)
  else some 0

/-- Words claimed by discarded streams leave q8 as they enter, in their order (R196). -/
def dropClaimed (b : Nat) (s : State) : State :=
  let k := blk s b
  match k.claims with
  | c :: rest =>
    if c.dropped then
      match c.left with
      | some n =>
        let ws := wordsIn s b 8
        let m := min n ws.length
        let s := setWords b 8 (ws.drop m) s
        modBlock b (fun k => { k with claims := if m = n then rest else { c with left := some (n - m) } :: rest }) s
      | none => s
    else s
  | [] => s

/-! ### Engine commands that end (R96, R135, R192, R196, R306) -/

/-- A plane as it stands at reset (R192). -/
def Plane.reset : Plane :=
  { fmt := .e4m3, bytes := List.replicate 4096 0, scale := List.replicate 64 127, super := 0x3F800000, act := 0, loader := none
    poison := false }

/-- The active plane of a core as launch `lid` uses it (R192). -/
def usedPlane (s : State) (core lid : Nat) : Plane :=
  match (cor s core).active with
  | some p => if p.loader.map (·.1) = some lid then p else Plane.reset
  | none => Plane.reset

/-- Bytes of a row of activations (R196). -/
def rowSize (p : Plane) : Nat := if p.act = 3 then 128 else 64

/-- The claim of a stream that is discarded: its size is fixed now, and its words are dropped as they enter (R196). -/
def dropClaim (c : Nat) (s : State) : State :=
  match s.cmds.get? c with
  | none => s
  | some k =>
    let rows := match k.kind with
      | .mxstr _ rows _ _ => rows.length
      | _ => 0
    let n := (rows - k.fed) * (rowSize (usedPlane s k.core k.lid) / 4)
    dropClaimed k.block (modBlock k.block (fun b => { b with claims := b.claims.map fun x =>
      if x.cmd = c then { x with left := some (x.left.getD n), dropped := true } else x }) s)

/-- A command gone: out of its queue and of the machine. -/
def dropCmd (c : Nat) (s : State) : State :=
  match s.cmds.get? c with
  | none => s
  | some k =>
    let s := modBlock k.block (fun b => { b with q0 := b.q0.filter (· != c), q2 := b.q2.filter (· != c), q4 := b.q4.filter (· != c) }) s
    { s with cmds := s.cmds.del c }

/-- A record taken by the token writer or the reply writer: its words go to their registers, and a release stands behind a token
(R96, R133). The record of a squad that has been killed is discarded (R319). -/
def takeRecord (d : Done) (s : State) : State :=
  if (sqd s d.squad).killed then s
  else
    let s := (d.words.zipIdx).foldl (fun s x => deliverS d.squad (d.reg + x.2) x.1 d.issue s) s
    if d.rels.isEmpty then s
    else
      let (i, s) := newId s
      modSquad d.squad (fun q => { q with tokens := ⟨i, d.reg, d.rels, d.scope⟩ :: q.tokens }) s

/-- The writers take the records of a block's q1, q3 and q5 in their order. They do so in the step in which an engine enters one
(R133; log 84). -/
def takeDone (b : Nat) (s : State) : State :=
  let k := blk s b
  let s := modBlock b (fun k => { k with q1 := [], q3 := [], q5 := [] }) s
  (k.q1 ++ k.q3 ++ k.q5).foldl (fun s d => takeRecord d s) s

/-- A completion or reply record enters its queue (Table 6.22). -/
def enterDone (b q : Nat) (d : Done) (s : State) : State :=
  takeDone b (modBlock b (fun k => match q with
    | 0 => { k with q1 := k.q1 ++ [d] }
    | 2 => { k with q3 := k.q3 ++ [d] }
    | _ => { k with q5 := k.q5 ++ [d] }) s)

/-- The queue that a kind of command enters (Table 6.22). -/
def CmdKind.queue : CmdKind → Nat
  | .mxlds _ | .mxswap | .mxstr .. | .mxdrn | .mxzero _ => 0
  | .cpcopy | .cpgath | .cpscat | .cpfill _ => 2
  | .alloc _ | .free _ => 4

/-- A command ends with its token, which a release with marks `rels` stands behind (R96). -/
def endCmd (c : Nat) (x : Word) (rels : List Nat) (s : State) : State :=
  match s.cmds.get? c with
  | none => s
  | some k =>
    let s := dropCmd c s
    match k.token with
    | none => s
    | some n => enterDone k.block k.kind.queue ⟨k.squad, n, [x], k.issue, rels, k.ord.scope⟩ s

/-- A command discarded: token 0, no read, no write, no release (R135). -/
def discardCmd (c : Nat) (s : State) : State := endCmd c 0 [] (dropClaim c s)

/-- A command that never entered its queue is withdrawn: its token register is no longer pending. -/
def withdrawCmd (c : Nat) (s : State) : State :=
  match s.cmds.get? c with
  | none => s
  | some k =>
    let s := dropCmd c (dropClaim c s)
    match k.token with
    | some n => modSquad k.squad (fun q => { q with pendS := q.pendS.filter (· != n) }) s
    | none => s

/-! ### Completing waits -/

/-- The threads of a wait that wait now, none of them suspended. -/
def waiters (s : State) (id : Nat) (w : Wait) : List Nat := w.threads.filter fun t => (thr s t).wait == some id

/-- A wait ends: its threads become ready at the following run start (R21), and perform the acquire it asks for. Suspended ones do
so at their HRET (R316). -/
def endWaitWith (x : Option Scope) (read : List ReadRel) (id : Nat) (s : State) : State :=
  match s.waits.get? id with
  | none => s
  | some w =>
    let ts := waiters s id w
    let left := w.threads.filter fun t => !ts.contains t
    let s := mapThreads ts (fun _ th => { th with wait := none, pc := w.pc + 4 }) (acquireIf ts x read s)
    { s with waits := if left.isEmpty then s.waits.del id else s.waits.put id { w with threads := left, kind := .over x read } }

def endWait (id : Nat) (s : State) : State := endWaitWith none [] id s

/-- The line a waiting execution stands in, whose earlier members are served first (R134, R208, R211). -/
def WaitKind.line : WaitKind → Option (Nat × Nat × Nat)
  | .pushV b q _ => some (0, b, q)
  | .push b q _ => some (0, b, q)
  | .popV b q _ => some (1, b, q)
  | .pop b q _ => some (1, b, q)
  | .command b q _ => some (2, b, q)
  | .fetch b _ => some (3, b, 0)
  | .chPush b n _ => some (4, b, n)
  | .chPop b n _ => some (5, b, n)
  | .lkAcq l _ => some (6, l.key, 0)
  | .rendezvous _ _ | .bar _ _ | .gbar _ | .prWait _ _ _ _ | .inherit _ | .alloc _ _ | .waitSig _ _ _ | .over _ _ => none

/-- No earlier execution waits in the same line. -/
def isNext (s : State) (id : Nat) (w : Wait) : Bool :=
  match w.kind.line with
  | none => true
  | some l => s.waits.all fun e => e.1 == id ||
      !(e.2.armed && e.2.turn < w.turn && e.2.kind.line == some l && !(waiters s e.1 e.2).isEmpty)

/-- A squad's rendezvous at an address is met: every live thread waits at it, none suspended (R32, R316). -/
def rdvMet (s : State) (q : Nat) (pc : DWord) : Bool :=
  (liveOf s q).all fun t => match (thr s t).wait with
    | some i => (match s.waits.get? i with
      | some w => (match w.kind with | .rendezvous _ _ => w.pc == pc | _ => false)
      | none => false)
    | none => false

/-- The spans of the words of a channel's ring (R207). -/
def ringSpans (s : State) (b n : Nat) : List (Nat × Nat) :=
  let c := chanOf s b n
  ((List.range c.cap).filterMap fun i => scratchKey s b c.base (4 * i)).map fun k => (k, 4)

/-! ### Registers that waiting instructions will write (R138) -/

/-- The s registers that a waiting instruction will write. -/
def WaitKind.writesS : WaitKind → List Nat
  | .pop _ _ sd | .chPop _ _ sd => [sd]
  | .fetch _ sd | .prWait _ sd _ _ | .inherit sd | .alloc _ sd => group sd 2
  | .rendezvous _ _ | .bar _ _ | .gbar _ | .pushV _ _ _ | .popV _ _ _ | .push _ _ _ | .command _ _ _ | .chPush _ _ _
  | .lkAcq _ _ | .waitSig _ _ _ | .over _ _ => []

def WaitKind.writesJ : WaitKind → List Nat
  | .prWait _ _ jd _ => [jd]
  | _ => []

/-- The same, with those of an ALLOC that waits for room in q4 (Table 9.11). -/
def writesS (s : State) (k : WaitKind) : List Nat :=
  match k with
  | .command _ _ c => (match s.cmds.get? c with
    | some x => (match x.kind, x.token with
      | .alloc _, some sd => group sd 2
      | _, _ => [])
    | none => [])
  | _ => k.writesS

/-- The registers of the squads of `ts` at the entry of a re-run (R311). -/
def squadEntries (s : State) (ts : List Nat) : Tbl SquadEntry :=
  (ts.map squadOf).eraseDups.foldl (fun t q =>
    let sq := sqd s q
    let open' (regs : WaitKind → List Nat) : List Nat := (s.waits.filter fun e => e.2.squad == q).flatMap fun e => regs e.2.kind
    t.put q { s := sq.s, j := sq.j, shS := sq.shS, shJ := sq.shJ, poisonS := sq.poisonS, poisonJ := sq.poisonJ
              pendS := sq.pendS ++ open' (writesS s), pendJ := sq.pendJ ++ open' WaitKind.writesJ }) []

/-! ### Moves on objects -/

/-- A synchronisation whose effect is an atomic move on an object, behind a release by each of its agents at scope `x` if it has one,
and with an acquire at that move if it has one (R91, R92, R97, Table 4.2). -/
def startObject (as : List Nat) (x acq : Option Scope) (op : SyncOp) (spans : List (Nat × Nat)) (r : Ref) (s : State) : State :=
  let (y, s) := newId s
  let s := { s with syncs := s.syncs.put y ⟨[], [], op, true, acq⟩ }
  let s := match x with
    | some x => as.foldl (fun s a => (addRelease a x false y s).2) s
    | none => s
  as.foldl (fun s a => addObject y spans r.ord r.va r.win a s) s

/-- Bytes at a home point as a squad's execution reads them: behind the stores of its core and its threads' own (Table 4.2). -/
def readHome (ts : List Nat) (core key n : Nat) (s : State) : Nat × State :=
  let s := carryAll core key n s
  let own (k : Nat) : Option (Byte × Bool) := ts.findSome? fun t =>
    let g := agt s (thr s t).agent
    ownByte g g.nextSeq k
  (leNat ((List.range n).map fun i => match own (key + i) with
    | some (b, _) => b
    | none => readByte s (key + i)), s)

/-- A met rendezvous completes (R161). -/
def endRendezvous (q : Nat) (pc : DWord) (s : State) : State :=
  let P := (sqd s q).present
  let live (j : Nat) : Bool := (thr s (threadKey q j)).live
  let ops (j : Nat) : (Word × Word) × (Word × Word) :=
    let th := thr s (threadKey q j)
    if live j then th.rdv.getD (th.wait.getD 0) ((0, 0), (0, 0)) else ((0, 0), (0, 0))
  let dead (j : Nat) : Bool := !live j
  let ids := (s.waits.filter fun e => e.2.squad == q && e.2.pc == pc &&
    (match e.2.kind with | .rendezvous _ _ => true | _ => false)).map (·.1)
  ids.foldl (fun s i => match s.waits.get? i with
    | some w => (match w.kind with
      | .rendezvous op vd =>
        let put (_ : Nat) (th : Thread) (L : Nat) : Thread :=
          { th.setV vd (rdvResult op P dead (fun j => (ops j).1.1) (fun j => (ops j).1.2) L)
              (rdvResult op P dead (fun j => (ops j).2.1) (fun j => (ops j).2.2) L) with rdv := th.rdv.del i }
        endWait i (mapThreads w.threads (fun t th => put t th (laneOf t)) s)
      | _ => s)
    | none => s) s

/-- A wait of a saved squad resumes on its return; a barrier phase, a lock handed over or a Storekeeper's reply reaches it meanwhile
(R51, R53, R211). -/
def away (s : State) (w : Wait) : Bool :=
  ((sqd s w.squad).state = .evicted || (sqd s w.squad).state = .restoring) &&
  match w.kind with
  | .bar .. | .gbar _ | .alloc .. | .lkAcq .. => false
  | _ => true

/-- A waiting execution completes, if what it waits for has come (R21). -/
def tryWait (s : State) (id : Nat) (w : Wait) : Option State :=
  let ts := waiters s id w
  if ts.isEmpty || away s w || !isNext s id w then none else
  match w.kind with
  | .rendezvous _ _ => if rdvMet s w.squad w.pc then some (endRendezvous w.squad w.pc s) else none
  | .bar b n =>
    (barDone (barOf s b n) (match ts with | t :: _ => (thr s t).arrivals.get? n | [] => none)).map fun rels =>
      endWaitWith (some .block) (unstored rels) id s
  | .gbar g =>
    (barDone (gangOf s g).bar (match ts with | t :: _ => (thr s t).gbarPhase | [] => none)).map fun rels =>
      endWaitWith (some .cluster) (unstored rels) id s
  | .pushV b q x | .push b q x =>
    let ws := wordsIn s b q
    if ws.length < queueCap q then some (endWait id (dropClaimed b (setWords b q (ws ++ [x]) s))) else none
  | .popV b q vd =>
    match popPlace s b q id with
    | some i => (match (wordsIn s b q)[i]? with
      | some x => some (endWait id (ts.foldl (fun s t => deliverV t vd x s) (setWords b q ((wordsIn s b q).eraseIdx i) s)))
      | none => none)
    | none => none
  | .pop b q sd =>
    match popPlace s b q id with
    | some i => (match (wordsIn s b q)[i]? with
      | some x => some (endWait id (deliverS w.squad sd x w.issue (setWords b q ((wordsIn s b q).eraseIdx i) s)))
      | none => none)
    | none => none
  | .command b q c =>
    let k := blk s b
    let l := if q = 0 then k.q0 else if q = 2 then k.q2 else k.q4
    if l.length < (if q = 4 then 8 else 16) then
      let s := modBlock b (fun k =>
        if q = 0 then { k with q0 := k.q0 ++ [c] } else if q = 2 then { k with q2 := k.q2 ++ [c] } else { k with q4 := k.q4 ++ [c] }) s
      -- an ALLOC waits on for its reply (R202)
      match s.cmds.get? c with
      | some k => (match k.kind, k.token with
        | .alloc _, some sd => some { s with waits := s.waits.adj id fun w => { w with kind := .alloc c sd } }
        | _, _ => some (endWait id s))
      | none => some (endWait id s)
    else none
  | .fetch b sd =>
    match (blk s b).q6 with
    | x :: r =>
      let r := if (blockHeader s b).dimx = 0 then (blk s b).q6 else r
      let s := modBlock b (fun k => { k with q6 := r, exhausted := k.exhausted || x == BitVec.allOnes 64 }) s
      let s := modSquad w.squad (fun q => { q with tile := if x == BitVec.allOnes 64 then q.tile else q.tile ++ [x.toNat] }) s
      some (endWait id (deliverS64 w.squad sd x w.issue s))
    | [] => none
  | .chPush b n x =>
    let c := chanOf s b n
    if c.allow = 0 then none
    else
      let s := modChan b n (fun c => { c with allow := c.allow - 1 }) s
      let s := startObject (ts.map fun t => (thr s t).agent) (some (channelScope c)) none (.chEnter b n x) (ringSpans s b n)
        ⟨0, 0, .rc, none⟩ s
      some (endWait id s)
  | .chPop b n sd =>
    let c := chanOf s b n
    if c.count = 0 then none
    else
      match scratchKey s b c.base (4 * c.head) with
      | none => none
      | some k =>
        if isPoisoned s k 4 then none else
        let (rels, sid) := c.rels.getD c.head ([], (0, 0))
        let (x, s) := readHome ts (sqd s w.squad).core k 4 s
        let s := deliverS w.squad sd (BitVec.ofNat 32 x) w.issue s
        let s := modChan b n (fun c => { c with head := (c.head + 1) % c.cap, count := c.count - 1, allow := c.allow + 1 }) s
        some (endWaitWith (some (channelScope c)) (rels.map fun r => (r, some sid)) id s)
  | .lkAcq l acq =>
    if w.armed && !lockHeld s l.key && !isPoisoned s l.key 8 then
      some (endWaitWith acq (relsAt s l.key 8) id (takeLock w.squad l w.rels s))
    else none
  | .prWait a sd jd acq =>
    let ctl := readNat s (a + 8) 4
    if w.armed && fld ctl 0 1 == 1 && !isPoisoned s a 16 then
      let s := deliverS64 w.squad sd (BitVec.ofNat 64 (readNat s a 8)) w.issue s
      some (endWaitWith acq (cellRels s a) id (deliverJ w.squad jd (fld ctl 1 1 == 1) w.issue s))
    else none
  | .inherit sd =>
    match (sqd s w.squad).q7 with
    | n :: r =>
      let s := modSquad w.squad (fun q => { q with q7 := r }) s
      some (endWaitWith (some .device) (unstored n.rels) id (deliverS64 w.squad sd n.val w.issue s))
    | [] => none
  | .alloc c sd =>
    match s.cmds.get? c with
    | some k => (match k.result with
      | some x =>
        let s := enterDone k.block 4 ⟨w.squad, sd, [lowWord x, highWord x], w.issue, [], .thread⟩ { s with cmds := s.cmds.del c }
        some (endWaitWith (some .device) (unstored k.acqRels) id s)
      | none => none)
    | none => none
  | .waitSig r v acq =>
    -- a revoked window reads as zero (R257)
    let dead := winDead s r.win
    let x := if dead then 0 else readNat s r.key 8
    if w.armed && v.toNat ≤ x && !strictDead s r.win && (dead || !isPoisoned s r.key 8) then
      some (endWaitWith acq (if dead then [] else relsAt s r.key 8) id s)
    else none
  | .over _ _ => none

/-- One pass over the waits, oldest first. -/
def settlePass (s : State) : State × Bool :=
  s.waits.keys.foldl (fun r id => match r.1.waits.get? id with
    | some w => (match tryWait r.1 id w with
      | some s' => (s', true)
      | none => r)
    | none => r) (s, false)

/-- Waits are served until none can complete, each pass completing at least one. -/
def settleFor : Nat → State → State
  | 0, s => s
  | k + 1, s => let r := settlePass s; if r.2 then settleFor k r.1 else r.1

/-- What waits is served in issue order (R21, R134, R208, R211). -/
def settle (s : State) : State := settleFor (s.waits.length + 1) s

/-! ### Beginning to wait -/

/-- A squad's threads, standing outside their wave at the word, wait under R21. -/
def addWait (ts : List Nat) (q : Nat) (kind : WaitKind) (armed : Bool) (s : State) : State :=
  let (id, s) := newId s
  let s := { s with waits := s.waits.put id ⟨ts, q, kind, s.cur.word, s.cur.pc, armed, id, (cor s s.cur.core).issue, []⟩ }
  mapThreads ts (fun _ th => { th with wait := some id }) s

/-- Threads that do wait leave their wave; one whose word has completed at once ends its run there (R312, R366). -/
def leaveWaiting (ts : List Nat) (s : State) : State :=
  mapThreads ts (fun _ th => { th with slowEnd := th.slowEnd && th.wait.isNone }) s

/-- A squad's threads begin to wait, and what can complete at once does. -/
def beginWait (ts : List Nat) (q : Nat) (kind : WaitKind) (s : State) : State :=
  leaveWaiting ts (settle (addWait ts q kind true s))

/-! ### Effects that releases hold back -/

/-- The watches of the Porters whose signals have reached their thresholds fire (R261). -/
def fireWatches (s : State) : State :=
  { s with porters := s.porters.map fun e =>
    let hit := (e.2.watches.filter fun w => e.2.armed.contains w.1 && w.2.2.toNat ≤ watchValue s w.2.1.toNat).map (·.1)
    (e.1, { e.2 with fired := (e.2.fired ++ hit).eraseDups, armed := e.2.armed.filter fun n => !hit.contains n }) }

/-- A signal raised to a value, saturating, and everything that waits on signals tested again (R218, R46, R249). -/
def raiseSignal (a key value : Nat) (rels : List Nat) (s : State) : State :=
  advanceLaunches (fireWatches (modifyNat a key 8 (min value (2 ^ 64 - 1)) rels s))

/-- SIGADD's effect (R218), recorded for the storage pairs whose submission signal it is (R307). -/
def signalAdd (q key : Nat) (inc : DWord) (rels : List Nat) (s : State) : State :=
  let v := min (readNat s key 8 + inc.toNat) (2 ^ 64 - 1)
  let subs (p : StoragePair) : Bool :=
    let a : DWord := BitVec.ofNat 64 p.subSig
    (signalAt s p.ctx a).isSome && signalKey s p.ctx a == key
  let note (p : StoragePair) : StoragePair := if subs p then { p with posters := p.posters ++ [(q, v)] } else p
  let s := { s with storage := s.storage.map fun e => (e.1, note e.2) }
  raiseSignal (squadAgent s q) key v rels s

/-- LKREL's effect: the word becomes 0, and the oldest waiter that is not suspended takes it as waits are served (R211). -/
def releaseLock (q key : Nat) (rels : List Nat) (s : State) : State :=
  homeWriteNat (squadAgent s q) key 8 0 rels s

/-- PRSET's effect (R213). -/
def fulfil (q key : Nat) (value : DWord) (rels : List Nat) (s : State) : State :=
  let a := squadAgent s q
  let ctl := readNat s (key + 8) 4
  homeWriteNat a (key + 8) 4 (ctl / 2 * 2 + 1) rels (homeWriteNat a key 8 value.toNat rels s)

/-- LKTRY's attempt (R211). -/
def tryLock (q jd : Nat) (l : Ref) (acq : Option Scope) (ts : List Nat) (issue : Nat) (rels : List Nat) (s : State) : State :=
  let s := acquireIf ts acq (relsAt s l.key 8) s
  if lockHeld s l.key then deliverJ q jd false issue s else deliverJ q jd true issue (takeLock q l rels s)

/-- A PUBLISH takes its place among the publications of its window at its issue. One of a launch with ROLLBACK is held until step 3 of
R60 (R219). -/
def issuePublish (lid win id : Nat) (s : State) : State :=
  let held := (launchOf s lid).hdr.rollback
  let s := { s with pubs := s.pubs.adj win fun w => { w with pending := w.pending ++ [⟨lid, id, false, held⟩] } }
  if held then modLaunch lid (fun l => { l with heldPublish := l.heldPublish ++ [win] }) s else s

/-- Its release has been performed. -/
def releasePublish (win id : Nat) (s : State) : State :=
  { s with pubs := s.pubs.adj win fun w => { w with
    pending := w.pending.map fun p => if p.id = id then { p with released := true } else p } }

/-- The effect of a synchronisation whose releases `rels` have all been performed, made by the agents of `by'`. -/
def performSync (op : SyncOp) (rels : List Nat) (by' : Nat) (s : State) : State :=
  match op with
  | .fence => s
  | .barArrive b n ts =>
    settle ((ts.zip rels).foldl (fun s x =>
      let k := barOf s b n
      let s := modThread x.1 (fun th => { th with
        arrivals := th.arrivals.put n (arrivalCounted k.phase (th.arrivals.get? n)) }) s
      modBlock b (fun y => { y with bars := y.bars.put n (k.arrive [x.2]) }) s) s)
  | .gbarArrive g ts =>
    settle ((ts.zip rels).foldl (fun s x =>
      let k := (gangOf s g).bar
      let s := modThread x.1 (fun th => { th with gbarPhase := some (arrivalCounted k.phase th.gbarPhase) }) s
      { s with gangs := s.gangs.adj g fun y => { y with bar := k.arrive [x.2] } }) s)
  | .chEnter b n x =>
    let c := chanOf s b n
    let slot := (c.head + c.count) % c.cap
    match scratchKey s b c.base (4 * slot) with
    | none => s
    | some k =>
      let sid := (by', (agt s by').nextSid)
      let s := homeWrite by' k (natLe 4 x.toNat) rels s
      settle (modChan b n (fun c => { c with count := c.count + 1, rels := c.rels.put slot (rels, sid) }) s)
  | .arm id =>
    let (n, s) := newId s
    settle { s with waits := s.waits.adj id fun w => { w with armed := true, turn := n, rels := rels } }
  | .lkTry q jd l acq ts i => tryLock q jd l acq ts i rels s
  | .lkRel q k _ => settle (releaseLock q k rels s)
  | .prMake q k => homeWrite (squadAgent s q) k
      (natLe 8 0 ++ natLe 4 ((sqd s q).gsq % 2 ^ 16 * 2 ^ 16) ++ natLe 4 (sqd s q).lid) rels s
  | .prSet q k v _ => settle (fulfil q k v rels s)
  | .sigAdd q k v => settle (signalAdd q k v rels s)
  | .publish w i => releasePublish w i s
  | .free c => { s with cmds := s.cmds.adj c fun k => { k with ready := true, acqRels := rels } }
  | .cmdStart c => { s with cmds := s.cmds.adj c fun k => { k with ready := true, acqRels := rels } }
  | .cmdDone c => match s.cmds.get? c with
    | some k => endCmd c (match k.result with | some x => lowWord x | none => 0) rels s
    | none => s

/-- A synchronisation with a release by each agent of `as` at scope `x`: its effect follows their performance (R91, R97).
With no agent it takes effect at once. -/
def startSync (as : List Nat) (x : Scope) (fence : Bool) (op : SyncOp) (s : State) : State :=
  if as.isEmpty then performSync op [] 0 s
  else
    let (y, s) := newId s
    let s := { s with syncs := s.syncs.put y ⟨[], [], op, false, none⟩ }
    as.foldl (fun s a => (addRelease a x fence y s).2) s

/-- The release move: the marker leaves, and with the last of its synchronisation the effect follows, unless it is a move of its
own (Table 4.2, R91). -/
def performRelease (rid : Nat) (s : State) : State :=
  match s.pendRels.get? rid with
  | none => s
  | some r =>
    if releaseReady s rid r then
      let s := recordRelease rid r s
      match s.syncs.get? r.sync with
      | some y => if y.left.isEmpty && !y.moves then performSync y.op y.rels r.agent { s with syncs := s.syncs.del r.sync } else s
      | none => s
    else s

end Sys2Proof.Machine
end

