-- ==== Sys2Proof/Machine/Ops.lean ====
section
/-! DEFINITION. Taking an exception and returning from one, and the shape every core word has: causes found lane by lane, the effect, and the end of the run (18 R296 to R301; 19 R308 to R318; 20 R326, R330). -/

namespace Sys2Proof.Machine

/-- A cause found for a lane, with the address it concerns, 0 for a cause that concerns none (R298), and the poison it blames, by memory
key (R333). -/
structure Cause where
  code : Nat
  addr : DWord
  key : Option Nat
  deriving DecidableEq, Repr

def noAddr (c : Nat) : Cause := ⟨c, 0, none⟩

/-- Consumption of the poison in some pieces of memory (R326). -/
def poisonCause (s : State) (ps : List Piece) : Option Cause := (poisonIn s ps).map fun g => ⟨0x0D, 0, some g⟩

/-- The lowest cause of a list (R298). -/
def lowest (cs : List (Option Cause)) : Option Cause :=
  cs.foldl (fun a b => match a, b with
    | some x, some y => if y.code < x.code then some y else some x
    | none, b => b
    | a, none => a) none

/-- A cause where a condition holds. -/
def causeIf (b : Bool) (c : Nat) : Option Cause := if b then some (noAddr c) else none

/-! ### The decoded fields of a word (Table 18.3) -/

/-- The format of a lane opcode for Table 18.3: LM, LB, LI with an unsigned or a signed immediate, otherwise LR or LC. -/
def laneFields (w : Nat) : Nat × Nat × Nat × Word :=
  let op := fld w 23 7
  let d := fld w 16 7
  let i8s : Word := sext (BitVec.ofNat 8 w)
  if op = 0x23 then (d, 0, 0, sext (BitVec.ofNat 16 w))
  else if op = 0x24 then (d, 0, 0, zext (BitVec.ofNat 16 w))
  else if 0x7B ≤ op ∧ op ≤ 0x7E then (d, fld w 8 8, fld w 0 8, sext (BitVec.ofNat 20 w))
  else if 0x20 ≤ op ∧ op ≤ 0x22 then (d, fld w 8 8, fld w 0 8, zext (BitVec.ofNat 8 w))
  else if (0x1C ≤ op ∧ op ≤ 0x1F) ∨ op = 0x0F ∨ op = 0x39 ∨ op = 0x3A ∨ op = 0x5B ∨ op = 0x5C ∨ (0x68 ≤ op ∧ op ≤ 0x6F) ∨
      op = 0 ∨ op = 0x2F ∨ (0x3B ≤ op ∧ op ≤ 0x3F) ∨ (0x52 ≤ op ∧ op ≤ 0x57) ∨ op = 0x5E ∨ op = 0x5F then
    (d, fld w 8 8, fld w 0 8, i8s)
  else (d, fld w 8 8, fld w 0 8, 0)

/-- The same for a squad opcode. -/
def squadFields (w : Nat) : Nat × Nat × Nat × Word :=
  let op := fld w 23 7
  let d := fld w 17 6
  let a := fld w 11 6
  let b := fld w 0 6
  if op = 0x14 then (d, 0, 0, sext (BitVec.ofNat 16 w))
  else if op = 0x15 then (d, 0, 0, zext (BitVec.ofNat 16 w))
  else if op = 0x1C ∨ op = 0x1D then (d, a, b, sext (BitVec.ofNat 20 w))
  else if op = 0x12 ∨ op = 0x13 ∨ op = 0x17 ∨ op = 0x44 ∨ op = 0x46 ∨ op = 0x47 then (d, a, b, zext (BitVec.ofNat 11 w))
  else if op = 0x10 ∨ op = 0x11 ∨ op = 0x19 ∨ (0x1E ≤ op ∧ op ≤ 0x20) ∨ (0x22 ≤ op ∧ op ≤ 0x24) ∨ (0x30 ≤ op ∧ op ≤ 0x33) ∨
      op = 0x45 ∨ op = 0 ∨ op = 0x0F ∨ 0x48 ≤ op then
    (d, a, b, sext (BitVec.ofNat 11 w))
  else (d, a, b, 0)

/-- sr.xd, sr.xa, sr.xb and sr.ximm of a word (R300). -/
def decodedFields (w : Word) : Word × Word × Word × Word :=
  let (d, a, b, i) := if w.toNat < 2 ^ 31 then laneFields w.toNat else squadFields w.toNat
  (BitVec.ofNat 32 d, BitVec.ofNat 32 a, BitVec.ofNat 32 b, i)

/-! ### Handler entry (R315) -/

/-- The thread has stopped in a re-run that is not over: it stands there until its squad's causes are reported (R312). -/
def stoppedInSlow (s : State) (t : Nat) : Bool :=
  (cor s (sqd s (squadOf t)).core).slots.any fun e => match e.2.slow with
    | some k => k.stopped.any fun f => f.thread == t
    | none => false

/-- The thread has stopped or ended its run in a re-run, and stays in that wave until the re-run is over (R366). -/
def heldInSlow (s : State) (t : Nat) : Bool :=
  stoppedInSlow s t || ((thr s t).slowEnd &&
    (cor s (sqd s (squadOf t)).core).slots.any fun e => e.2.slow.isSome && e.2.all.contains t)

/-- The live threads of a squad that are in a wave. -/
def inWaves (s : State) (q : Nat) : List Nat := (liveOf s q).filter fun t => (thr s t).inWave || heldInSlow s t

/-- What a squad's handler registers become at an entry (Table 19.1). -/
def Squad.report (r : Report) (sq : Squad) : Squad :=
  let (d, a, b, i) := if r.hasWord then decodedFields r.word else (0, 0, 0, 0)
  { sq with
    cause := r.cause, fmask := r.fmask, amask := r.amask, faddr := r.faddr
    xword := if r.hasWord then r.word else 0, xd := d, xa := a, xb := b, ximm := i
    entry := .inProgress, dropMx := sq.dropMx && !r.matrix
    deferred := if r.deferred then sq.deferred.drop 1 else sq.deferred }

/-- What a thread's state becomes at an entry: sr.hpc is where it stands, a waiting thread is suspended at its word with its
mark set, and it becomes ready at sr.hvec with its age unchanged (R315). A direct re-run still to be made is set aside (R303). -/
def Thread.enterHandler (hvec : DWord) (th : Thread) : Thread :=
  { th with
    hpc := th.pc, mark := th.wait.isSome, susp := th.wait, wait := none
    pc := hvec, inHandler := true, stopped := false, inRun := false, pri := false
    retry := if th.direct then some ⟨th.pc, th.deny, th.badPage⟩ else none
    direct := false, deny := none, answered := false, badPage := none }

/-- A thread that returns where a direct re-run was to start makes that attempt (R303, R318). -/
def Thread.takeRetry (th : Thread) : Thread :=
  match th.retry with
  | some r =>
    if r.pc = th.hpc then { th with direct := true, deny := r.deny, answered := r.deny.isSome, badPage := r.badPage, retry := none }
    else { th with retry := none }
  | none => th

/-- Handler entry: the registers are written and every live thread starts at sr.hvec (R315). This is the one place where an
exception is taken. -/
def takeEntry (q : Nat) (r : Report) (s : State) : State :=
  let ts := liveOf s q
  let hvec := (sqd s q).hvec
  mapThreads ts (fun _ th => th.enterHandler hvec) (modSquad q (Squad.report r) s)

/-- A pending entry is taken once no live thread of the squad is in a wave (R315). -/
def tryEntry (q : Nat) (s : State) : State :=
  match (sqd s q).entry with
  | .pending r => if (inWaves s q).isEmpty then takeEntry q r s else s
  | .none | .inProgress | .escalated _ => s

/-- The squad's live threads stop: those outside waves at once, the others when their runs end (R315). -/
def stopThreads (q : Nat) (s : State) : State := mapThreads (liveOf s q) (fun _ th => { th with stopped := true }) s

/-! ### Escalation (R317) -/

/-- The causes a debugger claims for a launch (R357). -/
def claimed (s : State) (lid bit : Nat) : Bool := s.claims.any fun c => c.1 == lid && fld c.2 bit 1 == 1

/-- The threads of a squad stop for the debugger at their next run starts (R357). -/
def stopForDebugger (q : Nat) (s : State) : State := mapThreads (liveOf s q) (fun _ th => { th with dbg := true }) s

/-- A waiting thread is suspended with its mark standing; beside an earlier suspended wait, its handler's is kept too (R315, R317). -/
def Thread.suspend (th : Thread) : Thread :=
  if th.wait.isNone then th
  else if th.susp.isSome then { th with frozen := th.wait, wait := none }
  else { th with susp := th.wait, wait := none, mark := true, hpc := th.pc }

def suspendWaits (ts : List Nat) (s : State) : State := mapThreads ts (fun _ th => th.suspend) s

/-- A cause that no handler can take: the squad's runs are discarded, its threads stop where they stand, and unless the
debugger claims escalations the launch's Porter proceeds under R358. `why`: 1 an entry is in progress, 2 no handler, 3 a fifth
deferred record. -/
def escalate (q : Nat) (r : Report) (why : Nat) (s : State) : State :=
  let sq := sqd s q
  let ts := liveOf s q
  let s := suspendWaits ts (discardRuns ts s)
  if claimed s sq.lid 0 then stopForDebugger q s
  else
    let s := stopThreads q (modSquad q (fun sq => { sq with entry := .escalated r }) s)
    modLaunch sq.lid (fun l => match l.escalation with
      | some _ => l
      | none => { l with escalation := some (sq.gsq, r.cause, why, r.fmask.toNat, r.faddr.toNat) }) s

/-- A kill under R330 noted for a launch: the first stands until it has been carried out (R334). -/
def noteRoll (lid : Nat) (r : Roll) (s : State) : State := modLaunch lid (fun l => { l with roll := some (l.roll.getD r) }) s

/-- What a cause of a squad blames: the poison it names, or the squad's core (Table 20.3). -/
def rollOf (s : State) (q : Nat) (r : Report) : Roll :=
  let own := (sqd s q).core
  ⟨.killed, r.cause, match r.key with | some k => resourceOfKey own k | none => coreResource own, r.faddr.toNat, r.key⟩

/-- A poison or mismatch cause of a rollback-eligible launch kills it in place of an entry (R330). -/
def rollsBack (s : State) (q cause : Nat) : Bool := (launchOf s (sqd s q).lid).eligible && (cause == 0x0D || cause == 0x0E)

/-- A handler entry of the squad is pending: from the moment one of its threads stops in a re-run (R312, R315, R317). -/
def entryPending (s : State) (q : Nat) : Bool :=
  match (sqd s q).entry with
  | .pending _ => true
  | .none => (liveOf s q).any (stoppedInSlow s)
  | .inProgress | .escalated _ => false

/-- A thread of the squad has stopped in a re-run: where an entry follows, the others stop at their next run starts (R315). -/
def stopOthers (q cause : Nat) (s : State) : State :=
  if (sqd s q).handler && (sqd s q).entry == .none && !rollsBack s q cause && !claimed s (sqd s q).lid cause then stopThreads q s
  else s

/-- A cause of class P, or one made precise in slow gear, is raised for a squad whose faulting threads stand outside their
wave (R297, R315, R317). -/
def raise (q : Nat) (r : Report) (s : State) : State :=
  let sq := sqd s q
  if rollsBack s q r.cause then
    stopThreads q (noteRoll sq.lid (rollOf s q r) s)
  else if claimed s sq.lid r.cause then stopForDebugger q s
  else
    match sq.entry with
    | .pending _ => stopThreads q s
    | .escalated _ => s
    | .inProgress => escalate q r 1 s
    | .none =>
      if sq.handler && entryPending s q then stopThreads q s
      else if sq.handler then tryEntry q (stopThreads q (modSquad q (fun sq => { sq with entry := .pending r }) s))
      else escalate q r 2 s

/-- The oldest deferred record of a squad becomes its pending entry. The squad holds it until that entry is made (R306). -/
def nextDeferred (q : Nat) (s : State) : State :=
  match (sqd s q).entry, (sqd s q).deferred with
  | .none, r :: _ => tryEntry q (stopThreads q (modSquad q (fun sq => { sq with entry := .pending r }) s))
  | _, _ => s

/-- A class D cause is recorded for a squad (R306): as an event when the squad has ended, otherwise as a deferred record. While an entry is in
progress it is escalated, with no further entry (R317, R372). -/
def raiseDeferred (q : Nat) (r : Report) (s : State) : State :=
  let sq := sqd s q
  if sq.ended then
    raiseEvent ⟨0, 5, sq.lid, some (launchOf s sq.lid).part, 0, r.cause + sq.gsq * 2 ^ 16, r.faddr.toNat⟩ s
  else if rollsBack s q r.cause then
    noteRoll sq.lid (rollOf s q r) s
  else if claimed s sq.lid r.cause then stopForDebugger q s
  else if sq.entry = .inProgress then escalate q r 1 s
  else if !sq.handler then escalate q r 2 s
  else if sq.deferred.length < 4 then
    nextDeferred q (modSquad q (fun sq => { sq with deferred := sq.deferred ++ [r] }) s)
  else escalate q r 3 s

/-! ### Return (R316, R318) -/

/-- A handler entry ends when its last live thread has executed HRET or exited; the next deferred record follows (R306,
R315). -/
def endEntry (q : Nat) (s : State) : State :=
  if (sqd s q).entry = .inProgress && (liveOf s q).all fun t => !(thr s t).inHandler then
    nextDeferred q (modSquad q (fun sq => { sq with entry := .none }) s)
  else s

/-- The instruction word at an address, as a fetch by a squad reads it; none where the fetch has a cause. -/
def wordAt (s : State) (q : Nat) (a : DWord) : Option Word :=
  match translate s (viewOf s q) none .fetch a.toNat 4 with
  | .ok ps => some (BitVec.ofNat 32 (leNat (readPieces s ps)))
  | .bad _ | .miss _ => none

/-- Whether an address is a run start, decided from the address alone (R318). -/
def isRunStart (s : State) (q : Nat) (a : DWord) : Bool :=
  ((launchOf s (sqd s q).lid).hdr.roles.any fun r => r.squads != 0 && (r.entry == a || (r.hasHandler && r.handler == a))) ||
  (match wordAt s q (a - 4) with
   | some w => w.getLsbD 30
   | none => false)

/-- A thread leaves a wait (Table 19.2): its recorded operands are withdrawn, and a barrier phase that has completed still lets it
leave as an acquire (R316). -/
def quitOne (t : Nat) (id : Option Nat) (s : State) : State :=
  match id with
  | none => s
  | some id =>
    let s := match s.waits.get? id with
      | none => s
      | some w =>
        let s := match w.kind with
          | .bar b n => (match barDone (barOf s b n) ((thr s t).arrivals.get? n) with
            | some rels => acquireAll [t] .block (unstored rels) s
            | none => s)
          | .gbar g => (match barDone (gangOf s g).bar (thr s t).gbarPhase with
            | some rels => acquireAll [t] .cluster (unstored rels) s
            | none => s)
          | .alloc c _ =>
            if w.threads.all (· == t) then { s with cmds := s.cmds.adj c fun k => { k with token := none } } else s
          | .command _ _ c => if w.threads.all (· == t) then withdrawCmd c s else s
          | _ => s
        let left := w.threads.filter (· != t)
        { s with waits := if left.isEmpty then s.waits.del id else s.waits.put id { w with threads := left } }
    modThread t (fun th => { th with rdv := th.rdv.del id }) s

/-- A thread abandons its suspended wait (R316). -/
def abandonWait (t : Nat) (s : State) : State :=
  modThread t (fun th => { th with susp := none, mark := false }) (quitOne t (thr s t).susp s)

/-- A thread's waits, suspended or not, abandoned (R319, Table 19.2). -/
def quitWait (t : Nat) (s : State) : State :=
  let th := thr s t
  modThread t (fun th => { th with wait := none, susp := none, frozen := none, mark := false })
    (quitOne t th.frozen (quitOne t th.susp (quitOne t th.wait s)))

/-- A thread takes up a wait again: one that is over completes with its acquire (R316). -/
def resumeWait (t id : Nat) (s : State) : State :=
  match s.waits.get? id with
  | some w =>
    let s := modThread t (fun th => { th with wait := some id }) s
    (match w.kind with
      | .over x read => endWaitWith x read id s
      | _ => s)
  | none => modThread t (fun th => { th with pc := th.pc + 4 }) s

/-- The debugger readies a thread: a wait that an escalation has suspended goes on (R317, R357; log 68). -/
def readyThread (s : State) (t : Nat) : State :=
  let th := thr s t
  let s := modThread t (fun th => { th with dbg := false }) s
  match th.frozen, th.susp, th.inHandler with
  | some id, _, _ => resumeWait t id (modThread t (fun th => { th with frozen := none }) s)
  | none, some id, false => resumeWait t id (modThread t (fun th => { th with susp := none, mark := false }) s)
  | none, _, _ => s

/-- One thread returns at its sr.hpc (R316, R318). -/
def returnThread (q t : Nat) (s : State) : State :=
  let th := thr s t
  let s := modThread t (fun th => { th with inHandler := false }.takeRetry) s
  if th.mark then
    match th.susp with
    | some id => resumeWait t id (modThread t (fun th => { th with susp := none, mark := false, pc := th.hpc }) s)
    | none => modThread t (fun th => { th with mark := false, pc := th.hpc }) s
  else
    let s := abandonWait t s
    let start := isRunStart s q th.hpc
    modThread t (fun th => { th with
      pc := th.hpc, inRun := !start, alone := !((sqd s q).amask.getLsbD (laneOf t)) }) s

/-- The return from an exception for the threads of a squad in the wave, whose runs have ended (R221, R318). -/
def returnFrom (q : Nat) (ts : List Nat) (s : State) : State :=
  endEntry q (settle (ts.foldl (fun s t => returnThread q t s) s))

/-! ### Reports of words -/

/-- The report of a squad's lanes (R298): the lowest code, the lanes that reported it, the lowest such lane's address and
word. -/
def reportOf (s : State) (q : Nat) (all : List Nat) (fs : List RunFault) : Report :=
  let code := fs.foldl (fun c f => min c f.cause) 0xFF
  let hit := sortBy (fun a b => laneOf a.thread ≤ laneOf b.thread) (fs.filter fun f => f.cause == code)
  let r : RunFault := hit.headD default
  { cause := code
    fmask := laneMask (hit.map (·.thread))
    amask := laneMask (ofSquad q all)
    faddr := r.addr, key := r.key, word := r.word, hasWord := r.hasWord, deferred := false, matrix := false }

/-- A lane's cause at the word being executed. -/
def faultAt (s : State) (t : Nat) (c : Cause) (hasWord : Bool) : RunFault :=
  ⟨t, squadOf t, c.code, c.addr, c.key, s.cur.word, hasWord, s.cur.pc⟩

/-- An address cause after a PRI response is reported as an event of class 2, code 0x03 (R303, R365). -/
def reportDenied (lid : Nat) (deny : Option (Nat × Nat)) (answered : Bool) (cause : Nat) (addr : DWord) (s : State) : State :=
  match deny with
  | some (p, c) =>
    if answered && c = cause && (hostPage addr.toNat == p || hostPage addr.toNat + 4096 == p) then
      let l := launchOf s lid
      raiseEvent ⟨2, 3, 0, some l.part, 0, (s.contexts.getD l.ctx default).pasid + cause * 2 ^ 32, addr.toNat⟩ s
    else s
  | none => s

/-- The same for a thread's fault. -/
def noteDenied (f : RunFault) (s : State) : State :=
  reportDenied (sqd s f.squad).lid (thr s f.thread).deny (thr s f.thread).answered f.cause f.addr s

/-- A thread of the wave that stands at an address stands inside its run (R312, R318). -/
def insideRun (s : State) (q : Nat) (w : Wave) (pc : DWord) : Bool := decide (pc ≠ w.start) || !isRunStart s q w.start

/-- A cause of a squad that no handler entry can be made for: it is escalated as soon as it is found (R317). -/
def escalates (s : State) (q cause : Nat) : Bool :=
  !rollsBack s q cause && !claimed s (sqd s q).lid cause && match (sqd s q).entry with
    | .inProgress => true
    | .none => !(sqd s q).handler
    | .pending _ | .escalated _ => false

/-- A cause found in slow gear for some threads of a squad, which have left the wave: where an entry follows it is made when the
re-run ends, and the others stop at their next run starts; an escalation discards every run of the squad at once (R312, R315,
R317). -/
def stopSquad (q : Nat) (fs : List RunFault) (s : State) : State :=
  let cause := fs.foldl (fun c f => min c f.cause) 0xFF
  if escalates s q cause then raise q (reportOf s q (curWave s).all fs) s else stopOthers q cause s

/-- In slow gear a thread stops before the word: it retires the prefix, and stands there (R312). -/
def slowStop (f : RunFault) (s : State) : State :=
  let s := leaveRun f.thread s.cur.pc (insideRun s f.squad (curWave s) s.cur.pc) (commitWrites (noteDenied f s))
  stopSquad f.squad [f] (dropThreads [f.thread] (modWave (fun w => { w with slow := w.slow.map fun k => { k with
    stopped := k.stopped ++ [f] } }) s))

/-- At full speed a last word's causes: the threads of each squad concerned stand at the word, and the squad reports in class
P (R297). The prefix of their runs has ended. -/
def classP (fs : List RunFault) (s : State) : State :=
  let qs := squadsIn s (fs.map (·.thread))
  let s := fs.foldl (fun s f => noteDenied f s) s
  qs.foldl (fun s q =>
    let all := (curWave s).all
    let start := (curWave s).start
    let ts := ofSquad q (curWave s).threads
    let s := ts.foldl (fun s t => leaveRun t s.cur.pc (decide (s.cur.pc ≠ start)) s) s
    let r := reportOf s q all (fs.filter fun f => f.squad == q)
    raise q r (dropThreads ts s)) s

/-- A class R cause at full speed is noted in the wave (R308). -/
def noteFaults (fs : List RunFault) (s : State) : State :=
  if fs.isEmpty then s else modWave (fun w => { w with faults := w.faults ++ fs }) s

/-! ### The shape of a word -/

/-- A squad register or predicate as a word reads it is poisoned: its value is the architectural one, not one the run wrote
earlier (R324, R326). -/
def readsPoison (s : State) (u : Uses) (q : Nat) : Bool :=
  let (ps, pj) := match entryOf? s q with
    | some e => (e.poisonS, e.poisonJ)
    | none => ((sqd s q).poisonS, (sqd s q).poisonJ)
  (u.sr.any fun n => ps.contains n && (runWrite? s q false n).isNone) ||
  (u.jr.any fun n => pj.contains n && (runWrite? s q true n).isNone)

/-- Causes every lane word has: a register at or above the allotment, and a read of a poisoned register or predicate (R118,
R304, R326). -/
def useCauses (s : State) (u : Uses) (t : Nat) : Option Cause :=
  let th := thr s t
  lowest [causeIf ((u.vr ++ u.vw).any fun n => (sqd s (squadOf t)).allot ≤ n) 0x02,
    causeIf ((u.vr.any fun n => th.poisonV.contains n) || (u.kr.any fun n => th.poisonK.contains n) ||
      readsPoison s u (squadOf t)) 0x0D]

/-- Causes every squad word has (R326). -/
def squadCauses (s : State) (u : Uses) (q : Nat) : Option Cause := causeIf (readsPoison s u q) 0x0D

/-- The causes of several lanes. -/
def faultsOf (s : State) (ts : List Nat) (check : Nat → Option Cause) : List RunFault :=
  ts.filterMap fun t => (check t).map fun c => faultAt s t c true

/-- A disagreement of the two copies, cause 0x0E, is a run fault even at the last word: the run is discarded and made precise
in slow gear, where both copies run again (R338). -/
def mismatched (fs : List RunFault) : Bool := fs.any fun f => f.cause == 0x0E

/-- The end of a lane word that is its run's last: `finish` acts for the threads of the squads without a cause and ends their
runs; the other squads report (R297, R298). -/
def lastLane (check : Nat → Option Cause) (finish : List Nat → State → State) (s : State) : State :=
  let ts := s.cur.threads
  let fs := faultsOf s ts check
  let bad := fs.map (·.squad)
  if s.cur.slow then
    match fs with
    | f :: _ => slowStop f s
    | [] => dropThreads ts (finish ts (commitWrites s))
  else if mismatched fs then noteFaults fs s
  else
    let good := ts.filter fun t => !bad.contains (squadOf t)
    let s := dropThreads good (finish good (commitWrites s))
    classP fs s

/-- A lane word of the classes that may stand anywhere in a run: causes by lane, then the effect on the other lanes (R137,
R297, R308). -/
def laneWord (e : Bool) (check : Nat → Option Cause) (act : List Nat → State → State) (s : State) : State :=
  if e then lastLane check (fun ts s => leaveRuns ts (fun _ => s.cur.pc + 4) (act ts s)) s
  else
    let ts := s.cur.threads
    let fs := faultsOf s ts check
    if s.cur.slow then
      match fs with
      | f :: _ => slowStop f s
      | [] => advance (act ts s)
    else
      let bad := fs.map (·.thread)
      advance (act (ts.filter fun t => !bad.contains t) (noteFaults fs s))

/-- The causes of squads: each reports for all its threads in the wave (R298, R311). -/
def squadFaults (s : State) (ts : List Nat) (check : Nat → List Nat → Option Cause) : List RunFault :=
  (squadsIn s ts).flatMap fun q => match check q (ofSquad q ts) with
    | some c => (ofSquad q ts).map fun t => faultAt s t c true
    | none => []

/-- The end of a squad-set word that is its run's last. Each squad without a cause acts once, in squad order, and `finish`
ends the runs of its threads (R29, R311). -/
def lastSquad (check : State → Nat → List Nat → Option Cause) (finish : Nat → List Nat → State → State) (s : State) : State :=
  let ts := s.cur.threads
  let fs := squadFaults s ts (check s)
  if mismatched fs && !s.cur.slow then noteFaults fs s else
  (squadsIn s ts).foldl (fun s q =>
    let mine := ofSquad q ts
    match check s q mine with
    | some c =>
      let fs := mine.map fun t => faultAt s t c true
      if s.cur.slow then fs.foldl (fun s f => slowStop f s) s else classP fs s
    | none => dropThreads mine (finish q mine s)) (commitWrites s)

/-- The end of a squad-set word that is its run's last: each squad without a cause acts once, in squad order, the squad writes
are made, and the runs of those squads end; the others report (R29, R30, R297, R311). -/
def lastSquadWord (check : State → Nat → List Nat → Option Cause) (act : Nat → List Nat → State → State) (s : State) : State :=
  let ts := s.cur.threads
  let fs := squadFaults s ts (check s)
  if mismatched fs && !s.cur.slow then noteFaults fs s else
  let bad := fs.map (·.squad)
  let good := ts.filter fun t => !bad.contains (squadOf t)
  let s := commitWrites ((squadsIn s good).foldl (fun s q => act q (ofSquad q good) s) s)
  let s := dropThreads good (leaveRuns good (fun _ => s.cur.pc + 4) s)
  if s.cur.slow then fs.foldl (fun s f => slowStop f s) s else classP fs s

/-- A squad-set word that may stand anywhere in a run (R29, R30, R311). -/
def squadWord (e : Bool) (check : State → Nat → List Nat → Option Cause) (act : Nat → List Nat → State → State) (s : State) : State :=
  if e then lastSquadWord check act s
  else
    let ts := s.cur.threads
    let fs := squadFaults s ts (check s)
    if s.cur.slow then
      match fs with
      | f :: _ =>
        let s := modWave (fun w => { w with slow := w.slow.map fun k => { k with caused := k.caused ++ [(f.squad, s.cur.pc)] } }) s
        slowStop f s
      | [] =>
        let qs := squadsIn s ts
        let s := qs.foldl (fun s q => act q (ofSquad q ts) s) s
        advance (modWave (fun w => { w with slow := w.slow.map fun k => { k with
          done := k.done ++ qs.map fun q => (q, s.cur.pc) } }) s)
    else
      let bad := fs.map (·.squad)
      let s := (squadsIn s ts).foldl (fun s q => if bad.contains q then s else act q (ofSquad q ts) s) (noteFaults fs s)
      advance s

/-- A last word whose executions wait under R21: the squad's threads leave the wave with their prefixes ended, and wait; what
can complete at once does (R21, R189). -/
def waitSquad (q : Nat) (ts : List Nat) (kind : WaitKind) (s : State) : State :=
  beginWait ts q kind (ts.foldl (fun s t => leaveRun t s.cur.pc false s) s)

end Sys2Proof.Machine
end

