-- ==== Sys2Proof/Machine/Uses.lean ====
section
/-! DEFINITION. The registers each word reads and writes, for the scoreboard and for the causes of its operands (06 R118, R129, R131; 07 R138). -/

namespace Sys2Proof.Machine

/-- One source: vd ← f(a). -/
def use1 (vd : Fin 128) (xa : Src) : Uses := { vr := srcV 1 xa, sr := srcS 1 xa, vw := [vd.val] }

/-- Two sources. -/
def use2 (vd : Fin 128) (xa xb : Src) : Uses := { vr := srcV 1 xa ++ srcV 1 xb, sr := srcS 1 xa ++ srcS 1 xb, vw := [vd.val] }

/-- Two sources and the destination, which is also read. -/
def use3 (vd : Fin 128) (xa xb : Src) : Uses :=
  { vr := vd.val :: (srcV 1 xa ++ srcV 1 xb), sr := srcS 1 xa ++ srcS 1 xb, vw := [vd.val] }

def useCmp (kd : Fin 8) (xa xb : Src) : Uses := { vr := srcV 1 xa ++ srcV 1 xb, sr := srcS 1 xa ++ srcS 1 xb, kw := [kd.val] }

def useKop (kd ka kb : Fin 8) : Uses := { kr := [ka.val, kb.val], kw := [kd.val] }

/-- SEL also reads k0. -/
def useSel (vd : Fin 128) (xa xb : Src) : Uses :=
  { vr := srcV 1 xa ++ srcV 1 xb, sr := srcS 1 xa ++ srcS 1 xb, kr := [0], vw := [vd.val] }

/-- 64-bit sources and destination. -/
def use64 (vd : Fin 128) (xa xb : Src) : Uses :=
  { vr := srcV 2 xa ++ srcV 2 xb, sr := srcS 2 xa ++ srcS 2 xb, vw := group vd.val 2 }

def useWide (vd : Fin 128) (xa xb : Src) : Uses :=
  { vr := srcV 1 xa ++ srcV 1 xb, sr := srcS 1 xa ++ srcS 1 xb, vw := group vd.val 2 }

/-- A load to `n` registers through a source and a base. -/
def useLd (n : Nat) (vd : Fin 128) (xa : Src) (xb : Base) : Uses :=
  { vr := srcV 1 xa, sr := srcS 1 xa ++ baseS xb, vw := group vd.val n }

def useSt (n : Nat) (vd : Fin 128) (xa : Src) (xb : Base) : Uses :=
  { vr := group vd.val n ++ srcV 1 xa, sr := srcS 1 xa ++ baseS xb }

/-- The window forms. -/
def useLdW (n : Nat) (vd : Fin 128) (xa : Src) : Uses := { vr := srcV 1 xa, sr := srcS 1 xa, vw := group vd.val n }

def useStW (n : Nat) (vd : Fin 128) (xa : Src) : Uses := { vr := group vd.val n ++ srcV 1 xa, sr := srcS 1 xa }

/-- Atomics read `n` registers from vd and write vd. -/
def useAtom (n : Nat) (vd : Fin 128) (xa : Src) (xb : Base) : Uses :=
  { vr := group vd.val n ++ srcV 1 xa, sr := srcS 1 xa ++ baseS xb, vw := [vd.val] }

/-- Squad words: one or two 32-bit sources. -/
def useU1 (sd sa : Fin 64) : Uses := { sr := [sa.val], sw := [sd.val] }
def useU2 (sd sa sb : Fin 64) : Uses := { sr := [sa.val, sb.val], sw := [sd.val] }

def useJop (jd ja jb : Fin 8) : Uses := { jr := [ja.val, jb.val], jw := [jd.val] }

/-- A descriptor of `n` squad registers. -/
def useDesc (n : Nat) (sa : Fin 64) : Uses := { sr := group sa.val n }

/-- A descriptor, and a token register. -/
def useTok (n : Nat) (sd sa : Fin 64) : Uses := { sr := group sa.val n, sw := [sd.val] }

/-- The registers a word reads and writes; a step that is no core word has none. -/
def usesOf : Instr → Uses
  | .iadd _ vd xa xb | .isub _ vd xa xb | .imul _ vd xa xb | .imulh _ vd xa xb | .imulhu _ vd xa xb
  | .imin _ vd xa xb | .imax _ vd xa xb | .umin _ vd xa xb | .umax _ vd xa xb | .idiv _ vd xa xb
  | .udiv _ vd xa xb | .irem _ vd xa xb | .urem _ vd xa xb | .and _ vd xa xb | .or _ vd xa xb | .xor _ vd xa xb
  | .andn _ vd xa xb | .shl _ vd xa xb | .shr _ vd xa xb | .sar _ vd xa xb | .bfe _ vd xa xb | .fadd _ vd xa xb
  | .fsub _ vd xa xb | .fmul _ vd xa xb | .fmin _ vd xa xb | .fmax _ vd xa xb | .fdiv _ vd xa xb
  | .fscale _ vd xa xb | .hadd2 _ vd xa xb | .hmul2 _ vd xa xb | .badd2 _ vd xa xb | .bmul2 _ vd xa xb
  | .iadd2 _ vd xa xb | .isub2 _ vd xa xb | .iadds2 _ vd xa xb | .isubs2 _ vd xa xb | .imax2 _ vd xa xb
  | .imin2 _ vd xa xb | .pack _ vd xa xb => use2 vd xa xb
  | .imad _ vd xa xb | .bfi _ vd xa xb | .ffma _ vd xa xb | .hfma2 _ vd xa xb | .bfma2 _ vd xa xb
  | .idp4 _ vd xa xb | .udp4 _ vd xa xb | .hdp2 _ vd xa xb | .bdp2 _ vd xa xb => use3 vd xa xb
  | .qpushv _ vd => { vr := [vd.val] }
  | .popc _ vd xa | .clz _ vd xa | .brev _ vd xa | .mov _ vd xa | .fabs _ vd xa | .fneg _ vd xa | .ffloor _ vd xa
  | .fceil _ vd xa | .ftrunc _ vd xa | .frint _ vd xa | .frcp _ vd xa | .frsq _ vd xa | .fsqrt _ vd xa
  | .fexp2 _ vd xa | .flog2 _ vd xa | .fsin _ vd xa | .fcos _ vd xa | .fclass _ vd xa | .sred _ vd xa => use1 vd xa
  | .iaddi _ vd xa _ | .andi _ vd xa _ | .ori _ vd xa _ | .xori _ vd xa _ | .shli _ vd xa _ | .shri _ vd xa _
  | .sari _ vd xa _ => use1 vd xa
  | .movi _ vd _ | .movs _ vd _ => { vw := [vd.val] }
  | .movhi _ vd _ => { vr := [vd.val], vw := [vd.val] }
  | .sel _ vd xa xb => useSel vd xa xb
  | .icmp _ _ kd xa xb | .fcmp _ _ kd xa xb => useCmp kd xa xb
  | .kand _ kd ka kb | .kor _ kd ka kb | .kxor _ kd ka kb | .kandn _ kd ka kb => useKop kd ka kb
  | .knot _ kd ka => useKop kd ka ka
  | .ktov _ vd ka => { vw := [vd.val], kr := [ka.val] }
  | .vtok _ kd xa => { vr := srcV 1 xa, sr := srcS 1 xa, kw := [kd.val] }
  | .iadd64 _ vd xa xb => use64 vd xa xb
  | .imulw _ vd xa xb => useWide vd xa xb
  | .qpopv vd _ => { vw := [vd.val] }
  | .mxstr _ xa vd _ _ _ => { vr := vd.val :: srcV 1 xa, sr := srcS 1 xa }
  | .cvt _ _ _ _ vd xa => use1 vd xa
  | .shfl vd xa xb | .shflx vd xa xb => use2 vd xa xb
  | .ballot vd xa | .matchLanes vd xa => use1 vd xa
  | .sscan _ _ vd xa => use1 vd xa
  | .ldb _ vd xa xb | .ldh _ vd xa xb | .ldw _ vd xa xb => useLd 1 vd xa xb
  | .ldq _ vd xa xb => useLd 4 vd xa xb
  | .stb _ vd xa xb | .sth _ vd xa xb | .stw _ vd xa xb => useSt 1 vd xa xb
  | .stq _ vd xa xb => useSt 4 vd xa xb
  | .sldw _ vd xa _ | .cldw _ vd xa _ => useLdW 1 vd xa
  | .sldq _ vd xa _ => useLdW 4 vd xa
  | .sstw _ vd xa _ | .cstw _ vd xa _ => useStW 1 vd xa
  | .sstq _ vd xa _ => useStW 4 vd xa
  | .ldwp _ vd va _ => { vr := group va.val 2, vw := [vd.val] }
  | .stwp _ vd va _ => { vr := vd.val :: group va.val 2 }
  | .axch vd xa xb | .aadd vd xa xb | .aimin vd xa xb | .aimax vd xa xb | .aumin vd xa xb | .aumax vd xa xb
  | .aand vd xa xb | .aor vd xa xb | .axor vd xa xb | .afadd vd xa xb => useAtom 1 vd xa xb
  | .acas vd xa xb => useAtom 2 vd xa xb
  | .br k _ | .brn k _ => { kr := [k.val] }
  | .jr xa | .callr xa => { vr := srcV 2 xa, sr := srcS 2 xa }
  | .uadd _ sd sa sb | .usub _ sd sa sb | .umul _ sd sa sb | .umulh _ sd sa sb | .uand _ sd sa sb
  | .uor _ sd sa sb | .uxor _ sd sa sb | .ushl _ sd sa sb | .ushr _ sd sa sb | .usar _ sd sa sb
  | .uimin _ sd sa sb | .uimax _ sd sa sb | .uminu _ sd sa sb | .umaxu _ sd sa sb => useU2 sd sa sb
  | .uaddi _ sd sa _ | .uandi _ sd sa _ | .ushli _ sd sa _ | .ushri _ sd sa _ => useU1 sd sa
  | .umovi _ sd _ | .urds _ sd _ => { sw := [sd.val] }
  | .umovhi _ sd _ => useU1 sd sd
  | .umov _ sd sa => useU1 sd sa
  | .uadd64 _ sd sa sb => { sr := group sa.val 2 ++ group sb.val 2, sw := group sd.val 2 }
  | .uaddi64 _ sd sa _ | .uldd _ sd sa _ => { sr := group sa.val 2, sw := group sd.val 2 }
  | .ucmp _ _ jd sa sb => { sr := [sa.val, sb.val], jw := [jd.val] }
  | .jand _ jd ja jb | .jor _ jd ja jb | .jxor _ jd ja jb | .jandn _ jd ja jb => useJop jd ja jb
  | .jnot _ jd ja => useJop jd ja ja
  | .ubr k _ | .ubrn k _ => { jr := [k.val] }
  | .uldw _ sd sa _ => useTok 2 sd sa
  | .ustw _ sd sa _ => { sr := sd.val :: group sa.val 2 }
  | .qpush _ sa | .chpush _ sa | .srw _ sa => useDesc 1 sa
  | .qpop sd _ | .chpop sd _ => { sw := [sd.val] }
  | .qtry sd jd _ => { sw := [sd.val], jw := [jd.val] }
  | .mxlds sa _ _ _ => useDesc 4 sa
  | .mxdrn sd sa _ _ => useTok 4 sd sa
  | .cpcopy sd sa _ _ | .cpgath sd sa _ _ | .cpscat sd sa _ _ => useTok 8 sd sa
  | .cpfill sd sa _ _ _ => useTok 8 sd sa
  | .alloc sd sa => { sr := [sa.val], sw := group sd.val 2 }
  | .free sa | .prmake sa => useDesc 2 sa
  | .fetch sd | .inherit sd => { sw := group sd.val 2 }
  | .chinit _ sa sb => { sr := [sa.val, sb.val] }
  | .gres _ jd => { jr := [jd.val] }
  | .lkacq sa _ | .lkrel sa _ => useDesc 2 sa
  | .lktry jd sa _ => { sr := group sa.val 2, jw := [jd.val] }
  | .prset sa sd _ | .waitsig sa sd _ | .sigadd sa sd _ => { sr := group sa.val 2 ++ group sd.val 2 }
  | .prwait sd jd sa _ => { sr := group sa.val 2, sw := group sd.val 2, jw := [jd.val] }
  | .setheir sa | .publish sa => useDesc 1 sa
  | .inheritNb sd jd => { sw := group sd.val 2, jw := [jd.val] }
  | _ => {}

end Sys2Proof.Machine
end

