-- ==== Sys2Proof/Machine/LaneMem.lean ====
section
/-! DEFINITION. Lane loads and stores (08 R164 to R167; 19 R308; 20 R337). -/

namespace Sys2Proof.Machine

open Host (Outcome)

/-! ### Addresses (R164) -/

/-- The effective address of the LR forms. -/
def eaLong (xa : Src) (xb : Base) (s : State) (sh : Bool) (t : Nat) : DWord :=
  baseVal s sh t xb + (src s sh t xa).zeroExtend 64

/-- The effective address of LDWP and STWP. -/
def eaPair (va : Fin 128) (imm : BitVec 8) (s : State) (sh : Bool) (t : Nat) : DWord :=
  src64 s sh t (.v va) + BitVec.ofInt 64 (imm.toInt * 4)

/-- The offset of a window form, exact. -/
def windowOffset (xa : Src) (imm : BitVec 8) (scale : Nat) (s : State) (sh : Bool) (t : Nat) : Int :=
  ((src s sh t xa).toNat : Int) + imm.toInt * scale

/-- The effective address of a window form. -/
def eaWindow (base : Nat) (xa : Src) (imm : BitVec 8) (scale : Nat) (s : State) (sh : Bool) (t : Nat) : DWord :=
  BitVec.ofInt 64 ((base : Int) + windowOffset xa imm scale s sh t)

/-- The window of a short form: local or cluster (R165). -/
def shortSize (s : State) (cluster : Bool) (t : Nat) : Nat :=
  let b := (sqd s (squadOf t)).block
  if cluster then clusterSize s b else localSize s b

def shortBase (cluster : Bool) : Nat := if cluster then clusterBase else localBase

/-- Causes of a short form's own window (R165, R65). -/
def shortCause (cluster : Bool) (xa : Src) (imm : BitVec 8) (size : Nat) (s : State) (t : Nat) : Option Cause :=
  let o := windowOffset xa imm size s false t
  let ea := eaWindow (shortBase cluster) xa imm size s false t
  lowest [
    if o % size ≠ 0 then some ⟨0x03, ea, none⟩ else none,
    if o < 0 ∨ (shortSize s cluster t : Int) < o + size then some ⟨0x04, ea, none⟩ else none]

/-! ### Checks -/

/-- The translation of a thread's access, in the parts that are single-copy atomic. -/
def threadTrans (s : State) (t : Nat) (a : Access) (ea : DWord) (len : Nat) : Trans :=
  tear ea.toNat len (translate s (viewOf s (squadOf t)) (thr s t).deny a ea.toNat len)

/-- The access goes through a STRICT window that completes as revoked (R340). -/
def strictCause (s : State) (tr : Trans) (ea : DWord) : Option Cause :=
  match tr with
  | .ok ps => if ps.any fun p => strictDead s p.win then some ⟨0x0F, ea, none⟩ else none
  | .bad _ | .miss _ => none

/-- The address cause of an access. -/
def transCause (tr : Trans) (ea : DWord) : Option Cause :=
  match tr with
  | .bad c => some ⟨c, ea, none⟩
  | .ok _ | .miss _ => none

def transMiss : Trans → List Nat
  | .miss ps => ps
  | .ok _ | .bad _ => []

def transPieces : Trans → List Piece
  | .ok ps => ps
  | .bad _ | .miss _ => []

/-- A disagreement of the copies (R338). -/
def mismatchIf (b : Bool) (ea : DWord) : Option Cause := if b then some ⟨0x0E, ea, none⟩ else none

/-- A disagreement of the copies in the command word of threads (R223, R337). -/
def wordMismatch (s : State) (ts : List Nat) : Option Cause := mismatchIf (ts.any fun t => (thr s t).shWord != 0) 0

/-- The end of a squad-set word of Table 9.11, whose copies are compared before it leaves its threads (R223, R337). -/
def commandWord (check : State → Nat → List Nat → Option Cause) (finish : Nat → List Nat → State → State) (s : State) : State :=
  lastSquad (fun s q ts => lowest [check s q ts, wordMismatch s ts]) finish s

/-- Who asks for the host translations of a thread's accesses, and with what cause a refusal ends (R303). -/
def askFor (t : Nat) (write : Bool) (pages : List Nat) (s : State) (read : Bool := !write) : State :=
  sendAts (viewOf s (squadOf t)) write (.thread t) (fun p => if (thr s t).direct && (thr s t).badPage = some p then some 0x04 else none) pages s read

/-- A word whose lanes lack host translations waits for them at its issue (R83); otherwise it goes on. -/
def orMiss (write : Bool) (misses : List (Nat × List Nat)) (run : State → State) (s : State) (read : Bool := !write) : State :=
  let ms := misses.filter fun m => !m.2.isEmpty
  if ms.isEmpty then run s else ms.foldl (fun s m => askFor m.1 write m.2 s read) s

/-- The missing pages of each lane without a cause. -/
def missesOf (ts : List Nat) (check : Nat → Option Cause) (tr : Nat → Trans) : List (Nat × List Nat) :=
  (ts.filter fun t => (check t).isNone).map fun t => (t, transMiss (tr t))

/-! ### Loads -/

/-- A load enters its thread's list, and its destination is pending (R138, R167). -/
def issueLoad (t : Nat) (ea : DWord) (width words : Nat) (dst : Dst) (ps : List Piece) (s : State) : State :=
  let s := modAgent (thr s t).agent (fun g => { g with
    loads := g.loads ++ [⟨g.nextSeq, (cor s s.cur.core).issue, s.cur.pc, s.cur.word, ea, width, words, dst, ps, []⟩]
    nextSeq := g.nextSeq + 1 }) s
  match dst with
  | .v t n => modThread t (fun th => { th with pendV := group n words ++ th.pendV }) s
  | .s _ _ | .none => s

/-- The values a last word's loads returned are written (R308). A squad load writes at its word's place in issue order. -/
def writeGot (s : State) : State :=
  (curWave s).got.foldl (fun s g => deliver g.1 g.2 s) s

/-- A last word's loads have all been performed: the squads without a cause end their runs, the others report in class P
(R297, R308). In slow gear a cause stops its thread. -/
def endLoads (s : State) : State :=
  let w := curWave s
  let ts := w.ending
  if ts.isEmpty || ts.any (fun t => !(agt s (thr s t).agent).loads.isEmpty) then s else
  let fs := w.faults
  let bad := fs.map (·.squad)
  let s := commitWrites s
  let s := { s with cur := { s.cur with threads := ts } }
  let good := ts.filter fun t => !bad.contains (squadOf t)
  let keep (g : Dst × List Word) : Bool := match g.1 with
    | .v t _ => good.contains t
    | .s q _ => !bad.contains q
    | .none => false
  let s := modWave (fun w => { w with ending := [], got := w.got.filter keep }) s
  let s := writeGot s
  let s := modWave (fun w => { w with got := [], faults := [] }) s
  let s := dropThreads good (leaveRuns good (fun _ => s.cur.pc + 4) s)
  if s.cur.slow then fs.foldl (fun s f => slowStop f s) s else classP fs s

/-- A load that is its run's last word waits in the wave for the values (R308). -/
def lastLoads (fs : List RunFault) (ts : List Nat) (act : List Nat → State → State) (s : State) : State :=
  if mismatched fs && !s.cur.slow then noteFaults fs s else
  let bad := fs.map (·.squad)
  let good := ts.filter fun t => !bad.contains (squadOf t)
  endLoads (act good (modWave (fun w => { w with ending := ts, faults := fs }) s))

/-- A lane load of `width` bytes to `words` registers. `ea` gives a copy's address, `short` the causes of a short form. -/
def laneLoad (e : Bool) (u : Uses) (vd : Fin 128) (width words : Nat) (ea : State → Bool → Nat → DWord)
    (short : State → Nat → Option Cause) (s : State) : State :=
  let tr (t : Nat) : Trans := threadTrans s t .load (ea s false t) width
  let check (t : Nat) : Option Cause :=
    lowest [useCauses s u t, short s t, transCause (tr t) (ea s false t), mismatchIf (ea s false t != ea s true t) (ea s false t)]
  let act (ts : List Nat) (s' : State) : State :=
    ts.foldl (fun s' t => issueLoad t (ea s false t) width words (.v t vd.val) (transPieces (tr t)) s') s'
  orMiss false (missesOf s.cur.threads check tr)
    (fun s => if e then lastLoads (faultsOf s s.cur.threads check) s.cur.threads act s else laneWord false check act s) s

/-! ### Stores -/

/-- The data of a store: `width` bytes of the registers from vd, little-endian (R166). -/
def storeBytes (s : State) (sh : Bool) (t n width : Nat) : List Byte :=
  ((List.range ((width + 3) / 4)).flatMap fun i => natLe 4 (readV s sh t (n + i)).toNat).take width

/-- The parts of a store enter the run store buffer, each with its bytes (R65, R100). -/
def bufferPieces (a : Nat) (ea : DWord) (bs : List Byte) (poison : Bool) (group : Option (Nat × DWord × Nat)) (ps : List Piece)
    (s : State) : State :=
  match ps with
  | [] => s
  | p :: r =>
    bufferPieces a (ea + BitVec.ofNat 64 p.len) (bs.drop p.len) poison group r
      (bufferEntry a (.store p.addr (bs.take p.len) p.ord) poison p.win ea group s)

/-- The lane of a thread in the store instruction being executed (R90). -/
def laneGroup (s : State) (t : Nat) : Option (Nat × DWord × Nat) := some ((curWave s).id, s.cur.pc, laneOf t)

/-- A lane store of `width` bytes from the registers at vd. -/
def laneStore (e : Bool) (u : Uses) (vd : Fin 128) (width : Nat) (ea : State → Bool → Nat → DWord)
    (short : State → Nat → Option Cause) (s : State) : State :=
  let tr (t : Nat) : Trans := threadTrans s t .store (ea s false t) width
  let check (t : Nat) : Option Cause :=
    lowest [useCauses s u t, short s t, transCause (tr t) (ea s false t),
      mismatchIf (ea s false t != ea s true t || storeBytes s false t vd.val width != storeBytes s true t vd.val width) (ea s false t)]
  let act (ts : List Nat) (s' : State) : State :=
    ts.foldl (fun s' t => bufferPieces (thr s t).agent (ea s false t) (storeBytes s false t vd.val width) false
      (laneGroup s t) (transPieces (tr t)) s') s'
  orMiss true (missesOf s.cur.threads check tr) (laneWord e check act) s

def noShort (_ : State) (_ : Nat) : Option Cause := none

/-! ### The instructions (Table 8.1) -/

/-- LDB (R166) -/
def execLdb (e : Bool) (vd : Fin 128) (xa : Src) (xb : Base) (s : State) : Outcome State Fault Refusal :=
  .next (laneLoad e (useLd 1 vd xa xb) vd 1 1 (eaLong xa xb) noShort s)

/-- LDH (R166) -/
def execLdh (e : Bool) (vd : Fin 128) (xa : Src) (xb : Base) (s : State) : Outcome State Fault Refusal :=
  .next (laneLoad e (useLd 1 vd xa xb) vd 2 1 (eaLong xa xb) noShort s)

/-- LDW (R166) -/
def execLdw (e : Bool) (vd : Fin 128) (xa : Src) (xb : Base) (s : State) : Outcome State Fault Refusal :=
  .next (laneLoad e (useLd 1 vd xa xb) vd 4 1 (eaLong xa xb) noShort s)

/-- LDQ (R166) -/
def execLdq (e : Bool) (vd : Fin 128) (xa : Src) (xb : Base) (s : State) : Outcome State Fault Refusal :=
  .next (laneLoad e (useLd 4 vd xa xb) vd 16 4 (eaLong xa xb) noShort s)

/-- STB (R166) -/
def execStb (e : Bool) (vd : Fin 128) (xa : Src) (xb : Base) (s : State) : Outcome State Fault Refusal :=
  .next (laneStore e (useSt 1 vd xa xb) vd 1 (eaLong xa xb) noShort s)

/-- STH (R166) -/
def execSth (e : Bool) (vd : Fin 128) (xa : Src) (xb : Base) (s : State) : Outcome State Fault Refusal :=
  .next (laneStore e (useSt 1 vd xa xb) vd 2 (eaLong xa xb) noShort s)

/-- STW (R166) -/
def execStw (e : Bool) (vd : Fin 128) (xa : Src) (xb : Base) (s : State) : Outcome State Fault Refusal :=
  .next (laneStore e (useSt 1 vd xa xb) vd 4 (eaLong xa xb) noShort s)

/-- STQ (R166) -/
def execStq (e : Bool) (vd : Fin 128) (xa : Src) (xb : Base) (s : State) : Outcome State Fault Refusal :=
  .next (laneStore e (useSt 4 vd xa xb) vd 16 (eaLong xa xb) noShort s)

/-- SLDW (R165, R166) -/
def execSldw (e : Bool) (vd : Fin 128) (xa : Src) (imm : BitVec 8) (s : State) : Outcome State Fault Refusal :=
  .next (laneLoad e (useLdW 1 vd xa) vd 4 1 (eaWindow (shortBase false) xa imm 4) (shortCause false xa imm 4) s)

/-- SLDQ (R165, R166) -/
def execSldq (e : Bool) (vd : Fin 128) (xa : Src) (imm : BitVec 8) (s : State) : Outcome State Fault Refusal :=
  .next (laneLoad e (useLdW 4 vd xa) vd 16 4 (eaWindow (shortBase false) xa imm 16) (shortCause false xa imm 16) s)

/-- CLDW (R165, R166) -/
def execCldw (e : Bool) (vd : Fin 128) (xa : Src) (imm : BitVec 8) (s : State) : Outcome State Fault Refusal :=
  .next (laneLoad e (useLdW 1 vd xa) vd 4 1 (eaWindow (shortBase true) xa imm 4) (shortCause true xa imm 4) s)

/-- SSTW (R165, R166) -/
def execSstw (e : Bool) (vd : Fin 128) (xa : Src) (imm : BitVec 8) (s : State) : Outcome State Fault Refusal :=
  .next (laneStore e (useStW 1 vd xa) vd 4 (eaWindow (shortBase false) xa imm 4) (shortCause false xa imm 4) s)

/-- SSTQ (R165, R166) -/
def execSstq (e : Bool) (vd : Fin 128) (xa : Src) (imm : BitVec 8) (s : State) : Outcome State Fault Refusal :=
  .next (laneStore e (useStW 4 vd xa) vd 16 (eaWindow (shortBase false) xa imm 16) (shortCause false xa imm 16) s)

/-- CSTW (R165, R166) -/
def execCstw (e : Bool) (vd : Fin 128) (xa : Src) (imm : BitVec 8) (s : State) : Outcome State Fault Refusal :=
  .next (laneStore e (useStW 1 vd xa) vd 4 (eaWindow (shortBase true) xa imm 4) (shortCause true xa imm 4) s)

/-- LDWP (R166) -/
def execLdwp (e : Bool) (vd va : Fin 128) (imm : BitVec 8) (s : State) : Outcome State Fault Refusal :=
  .next (laneLoad e { vr := group va.val 2, vw := [vd.val] } vd 4 1 (eaPair va imm) noShort s)

/-- STWP (R166) -/
def execStwp (e : Bool) (vd va : Fin 128) (imm : BitVec 8) (s : State) : Outcome State Fault Refusal :=
  .next (laneStore e { vr := vd.val :: group va.val 2 } vd 4 (eaPair va imm) noShort s)

end Sys2Proof.Machine
end

