-- ==== Sys2Proof/Machine/Atomics.lean ====
section
/-! DEFINITION. Atomic instructions (08 R168 to R173; 18 R305). -/

namespace Sys2Proof.Machine

open Host (Outcome)

/-- The strict class: no two lanes of one squad may name one word (R169). -/
def isStrict (op : AtomOp) : Bool := op == .xch || op == .cas

/-- The word an access names, by its memory key. -/
def namedKey (tr : Trans) : Option Nat :=
  match tr with
  | .ok (p :: _) => some p.addr
  | .ok [] | .bad _ | .miss _ => none

/-- Cause 0x06: another lane of the squad names the same word (R305). -/
def sameWord (tr : Nat → Trans) (ts : List Nat) (t : Nat) : Bool :=
  match namedKey (tr t) with
  | some k => ts.any fun u => u != t && squadOf u == squadOf t && namedKey (tr u) == some k
  | none => false

/-- The operands of an atomic: vd, and vd+1 for ACAS. -/
def atomArgs (op : AtomOp) (vd : Fin 128) (s : State) (sh : Bool) (t : Nat) : Word × Word :=
  (readV s sh t vd.val, if op = .cas then readV s sh t (vd.val + 1) else 0)

/-- An atomic: checked in every squad before any lane is performed, then one entry for each lane in its thread's structures
(R169, R170, R173). The entries of one instruction share a group number; in the strict class the squad's place in squad order
stands in the lane number, so that squads are performed one after another. -/
def atomic (op : AtomOp) (vd : Fin 128) (xa : Src) (xb : Base) (s : State) : State :=
  let u := useAtom (if op = .cas then 2 else 1) vd xa xb
  let ea := eaLong xa xb
  let ts := s.cur.threads
  let tr (t : Nat) : Trans := threadTrans s t (.atomic op) (ea s false t) 4
  let check (t : Nat) : Option Cause :=
    lowest [useCauses s u t, transCause (tr t) (ea s false t), strictCause s (tr t) (ea s false t),
      if isStrict op && sameWord tr ts t then some ⟨0x06, 0, none⟩ else none,
      poisonCause s ((transPieces (tr t)).filter fun p => !winDead s p.win),
      mismatchIf (ea s false t != ea s true t || atomArgs op vd s false t != atomArgs op vd s true t) (ea s false t)]
  let finish (good : List Nat) (s' : State) : State :=
    let (g, s') := newId s'
    let order := squadsIn s' good
    let one (s' : State) (t : Nat) : State :=
      match transPieces (tr t) with
      | [] => s'
      | p :: _ =>
        let lane := if isStrict op then order.findIdx (· == squadOf t) * 32 + laneOf t else laneOf t
        let (x, y) := atomArgs op vd s false t
        let s' := bufferEntry (thr s' t).agent (.atomic op p.addr x y (.v t vd.val) g lane p.ord) false p.win (ea s false t) none s'
        modThread t (fun th => { th with pendV := vd.val :: th.pendV }) s'
    leaveRuns good (fun _ => s.cur.pc + 4) (good.foldl one s')
  orMiss true (missesOf ts check tr) (lastLane check finish) s (read := true)

/-- AXCH (Table 8.3). -/
def execAxch (vd : Fin 128) (xa : Src) (xb : Base) (s : State) : Outcome State Fault Refusal :=
  .next (atomic .xch vd xa xb s)

/-- ACAS (Table 8.3). -/
def execAcas (vd : Fin 128) (xa : Src) (xb : Base) (s : State) : Outcome State Fault Refusal :=
  .next (atomic .cas vd xa xb s)

/-- AADD (Table 8.3). -/
def execAadd (vd : Fin 128) (xa : Src) (xb : Base) (s : State) : Outcome State Fault Refusal :=
  .next (atomic .add vd xa xb s)

/-- AIMIN (Table 8.3). -/
def execAimin (vd : Fin 128) (xa : Src) (xb : Base) (s : State) : Outcome State Fault Refusal :=
  .next (atomic .imin vd xa xb s)

/-- AIMAX (Table 8.3). -/
def execAimax (vd : Fin 128) (xa : Src) (xb : Base) (s : State) : Outcome State Fault Refusal :=
  .next (atomic .imax vd xa xb s)

/-- AUMIN (Table 8.3). -/
def execAumin (vd : Fin 128) (xa : Src) (xb : Base) (s : State) : Outcome State Fault Refusal :=
  .next (atomic .umin vd xa xb s)

/-- AUMAX (Table 8.3). -/
def execAumax (vd : Fin 128) (xa : Src) (xb : Base) (s : State) : Outcome State Fault Refusal :=
  .next (atomic .umax vd xa xb s)

/-- AAND (Table 8.3). -/
def execAand (vd : Fin 128) (xa : Src) (xb : Base) (s : State) : Outcome State Fault Refusal :=
  .next (atomic .and vd xa xb s)

/-- AOR (Table 8.3). -/
def execAor (vd : Fin 128) (xa : Src) (xb : Base) (s : State) : Outcome State Fault Refusal :=
  .next (atomic .or vd xa xb s)

/-- AXOR (Table 8.3). -/
def execAxor (vd : Fin 128) (xa : Src) (xb : Base) (s : State) : Outcome State Fault Refusal :=
  .next (atomic .xor vd xa xb s)

/-- AFADD (Table 8.3). -/
def execAfadd (vd : Fin 128) (xa : Src) (xb : Base) (s : State) : Outcome State Fault Refusal :=
  .next (atomic .fadd vd xa xb s)

end Sys2Proof.Machine
end

