-- ==== Sys2Proof/Machine/Keccak.lean ====
section
/-! DEFINITION. SHAKE256, the hash of code objects, chains and measurements, and the sponge under it (10 R229; 12 R265; log 16). -/

namespace Sys2Proof.Machine

/-- The next of the 24 lanes that rho and pi go round, from lane x + 5y to lane y + 5(2x + 3y). -/
def nextLane (p : Nat) : Nat := p / 5 + 5 * ((2 * (p % 5) + 3 * (p / 5)) % 5)

/-- Rho and pi: the lane at step t of the round trip from lane 1 moves on to the next one, rotated by the triangular number of t. -/
def rhoPi (a : List DWord) : List DWord :=
  ((List.range 24).foldl (fun w t =>
    (nextLane w.1, w.2.set (nextLane w.1) ((a.getD w.1 0).rotateLeft ((t + 1) * (t + 2) / 2 % 64)))) (1, a)).2

/-- Theta: each lane takes the parities of the column before its own, and of the column after it rotated by one. -/
def theta (a : List DWord) : List DWord :=
  let parity (x : Nat) : DWord := (List.range 5).foldl (fun p y => p ^^^ a.getD (x % 5 + 5 * y) 0) 0
  let flip := (List.range 5).map fun x => parity (x + 4) ^^^ (parity (x + 1)).rotateLeft 1
  a.zipIdx.map fun e => e.1 ^^^ flip.getD (e.2 % 5) 0

/-- Chi: each lane is changed by the two lanes after it in its plane. -/
def chi (a : List DWord) : List DWord :=
  a.zipIdx.map fun e =>
    let after (n : Nat) : DWord := a.getD (e.2 / 5 * 5 + (e.2 + n) % 5) 0
    e.1 ^^^ (~~~after 1 &&& after 2)

/-- One step of the register that makes the round constants, over x^8 + x^6 + x^5 + x^4 + 1. -/
def iotaStep (r : Nat) : Nat := 2 * r % 256 ^^^ (if 128 ≤ r then 0x71 else 0)

/-- Iota's constant of a round, by its bits 2^j - 1, and the register after it. -/
def iota (r : Nat) : Nat × Nat :=
  (List.range 7).foldl (fun w j => (iotaStep w.1, w.2 + iotaStep w.1 / 2 % 2 * 2 ^ (2 ^ j - 1))) (r, 0)

/-- One round on the 25 lanes and the register of its constants. -/
def keccakRound (w : Nat × List DWord) : Nat × List DWord :=
  let k := iota w.1
  let a := chi (rhoPi (theta w.2))
  (k.1, a.set 0 (a.headD 0 ^^^ BitVec.ofNat 64 k.2))

def keccakF (a : List DWord) : List DWord := ((List.range 24).foldl (fun w _ => keccakRound w) (1, a)).2

/-- The message padded for a sponge of `rate` bytes: the bits of its domain, then pad10*1. -/
def spongePad (rate : Nat) (domain : Byte) (m : List Byte) : List Byte :=
  let z := rate - 1 - m.length % rate
  if z = 0 then m ++ [domain ||| 0x80] else m ++ [domain] ++ List.replicate (z - 1) 0 ++ [0x80]

/-- The lanes of a block xored into the state. -/
def absorbBlock (a : List DWord) (b : List Byte) : List DWord :=
  keccakF (a.zipIdx.map fun e => e.1 ^^^ BitVec.ofNat 64 (leNat ((b.drop (8 * e.2)).take 8)))

/-- Blocks absorbed in turn, for at most `n` blocks. -/
def absorb (rate : Nat) : Nat → List DWord → List Byte → List DWord
  | 0, a, _ => a
  | n + 1, a, m => if m.isEmpty then a else absorb rate n (absorbBlock a (m.take rate)) (m.drop rate)

/-- Blocks given out in turn. -/
def squeeze (rate : Nat) : Nat → List DWord → List Byte
  | 0, _ => []
  | n + 1, a => (a.flatMap fun w => natLe 8 w.toNat).take rate ++ squeeze rate n (keccakF a)

/-- `n` bytes of a sponge on a message. -/
def sponge (rate : Nat) (domain : Byte) (n : Nat) (m : List Byte) : List Byte :=
  let p := spongePad rate domain m
  (squeeze rate (n / rate + 1) (absorb rate (p.length / rate) (List.replicate 25 0) p)).take n

/-- `n` bytes of SHAKE256. -/
def shakeBytes (n : Nat) (m : List Byte) : List Byte := sponge 136 0x1F n m

/-- H of R265: the first 32 bytes of SHAKE256. -/
def shake (m : List Byte) : List Byte := shakeBytes 32 m

end Sys2Proof.Machine
end

