-- ==== Sys2Proof/Machine/Signatures.lean ====
section
/-! DEFINITION. XMSS with SHAKE256 and n = 32, w = 16: the verification of firmware images and the signing of receipts, as RFC 8391 and SP 800-208 give them (12 R272, R273; 17 R287; log 10). -/

namespace Sys2Proof.Machine

/-- A number of `n` bytes, most significant first. -/
def natBe (n x : Nat) : List Byte := (natLe n x).reverse

def xorBytes (a b : List Byte) : List Byte := List.zipWith (· ^^^ ·) a b

/-! ### Keyed hashes and hash addresses -/

/-- A function of the family by its number: 0 F, 1 H, 2 H_msg, 3 PRF, 4 the secret elements of a key. -/
def xmssHash (f : Nat) (key m : List Byte) : List Byte := shake (natBe 32 f ++ key ++ m)

/-- A hash address: layer and tree, the kind (0 one-time key, 1 its compression, 2 the tree) and three words of that kind. -/
structure HashAddr where
  layer : Nat
  tree : Nat
  kind : Nat
  a : Nat
  b : Nat
  c : Nat

/-- Its 32 bytes; the last word chooses between a key and a mask. -/
def HashAddr.bytes (x : HashAddr) (mask : Nat) : List Byte :=
  natBe 4 x.layer ++ natBe 8 x.tree ++ natBe 4 x.kind ++ natBe 4 x.a ++ natBe 4 x.b ++ natBe 4 x.c ++ natBe 4 mask

def prfAt (seed : List Byte) (x : HashAddr) (mask : Nat) : List Byte := xmssHash 3 seed (x.bytes mask)

/-- Two nodes hashed into one. -/
def hashPair (seed : List Byte) (x : HashAddr) (l r : List Byte) : List Byte :=
  xmssHash 1 (prfAt seed x 0) (xorBytes (l ++ r) (prfAt seed x 1 ++ prfAt seed x 2))

/-! ### One-time keys -/

/-- Elements of a one-time key: 64 of the digest and 3 of its checksum. -/
def otsLen : Nat := 67

/-- The digits of a digest in base 16, then those of their checksum. -/
def otsDigits (m : List Byte) : List Nat :=
  let ds := m.flatMap fun b => [b.toNat / 16, b.toNat % 16]
  let sum := (ds.map fun d => 15 - d).sum
  ds ++ [sum / 256 % 16, sum / 16 % 16, sum % 16]

/-- A chain followed for `k` steps from position `i`. -/
def otsChain (seed : List Byte) (x : HashAddr) : Nat → Nat → List Byte → List Byte
  | 0, _, v => v
  | k + 1, i, v =>
    let y := { x with c := i }
    otsChain seed x k (i + 1) (xmssHash 0 (prfAt seed y 0) (xorBytes v (prfAt seed y 1)))

/-- One level of the compression of a one-time key: neighbours are hashed, and an odd last node goes up as it is. -/
def pairUp (seed : List Byte) (x : HashAddr) : Nat → List (List Byte) → List (List Byte)
  | i, l :: r :: rest => hashPair seed { x with c := i } l r :: pairUp seed x (i + 1) rest
  | _, rest => rest

/-- The compression, for at most `k` levels from height `h`. -/
def compressOts (seed : List Byte) (x : HashAddr) : Nat → Nat → List (List Byte) → List Byte
  | 0, _, ns => ns.headD []
  | k + 1, h, ns => if ns.length ≤ 1 then ns.headD [] else compressOts seed x k (h + 1) (pairUp seed { x with b := h } 0 ns)

/-- The leaf of a one-time public key. -/
def otsLeaf (seed : List Byte) (layer tree leaf : Nat) (pk : List (List Byte)) : List Byte :=
  compressOts seed ⟨layer, tree, 1, leaf, 0, 0⟩ 7 0 pk

/-! ### Trees -/

/-- The node at height `h + k` on the path from a node of height `h` at index `i`, with the authentication path. -/
def climb (seed : List Byte) (layer tree : Nat) : Nat → Nat → List Byte → List (List Byte) → List Byte
  | _, _, n, [] => n
  | h, i, n, s :: rest =>
    let x : HashAddr := ⟨layer, tree, 2, 0, h, i / 2⟩
    climb seed layer tree (h + 1) (i / 2) (if i % 2 = 0 then hashPair seed x n s else hashPair seed x s n) rest

/-- A byte string cut into pieces of 32. -/
def words32 : Nat → List Byte → List (List Byte)
  | 0, _ => []
  | n + 1, b => b.take 32 :: words32 n (b.drop 32)

/-- The root that a one-time signature and its authentication path give. -/
def rootFrom (seed : List Byte) (layer tree leaf height : Nat) (m sig : List Byte) : List Byte :=
  let pk := ((words32 otsLen sig).zip (otsDigits m)).zipIdx.map fun e =>
    otsChain seed ⟨layer, tree, 0, leaf, e.2, 0⟩ (15 - e.1.2) e.1.2 e.1.1
  climb seed layer tree 0 leaf (otsLeaf seed layer tree leaf pk) (words32 height (sig.drop (32 * otsLen)))

/-- The digest of a message that a signature signs. -/
def messageHash (r root : List Byte) (idx : Nat) (m : List Byte) : List Byte := xmssHash 2 (r ++ root ++ natBe 32 idx) m

/-! ### Verification of an image (R287, R288) -/

/-- The identifier of XMSS-SHAKE256_20_256 in a public key. -/
def oidImage : Nat := 0x12

/-- Bytes of an XMSS signature of an image (R287). -/
def signatureLen : Nat := 2820

/-- The signature of a message is valid under a public key of 68 bytes. -/
def xmssValid (pk m sig : List Byte) : Bool :=
  let root := (pk.drop 4).take 32
  let seed := (pk.drop 36).take 32
  let idx := leNat (sig.take 4).reverse
  pk.take 4 == natBe 4 oidImage && sig.length == signatureLen && idx < 2 ^ 20 &&
    rootFrom seed 0 0 idx 20 (messageHash ((sig.drop 4).take 32) root idx m) (sig.drop 36) == root

/-! ### Signing of a receipt (R272, R273) -/

/-- The identifier of XMSSMT-SHAKE256_40/4_256 in a public key. -/
def oidReceipt : Nat := 0x2C

/-- The secrets that the Strongroom derives from its identity seed (R273). -/
def secretSeed : List Byte := (Config.freeBytes 0).take 32
def secretPrf : List Byte := (Config.freeBytes 2).take 32
def publicSeed : List Byte := (Config.freeBytes 3 ++ List.replicate 32 0).take 32

/-- The secret elements of a one-time key. -/
def otsSecret (layer tree leaf : Nat) : List (List Byte) :=
  (List.range otsLen).map fun i => xmssHash 4 secretSeed (publicSeed ++ HashAddr.bytes ⟨layer, tree, 0, leaf, i, 0⟩ 0)

/-- The elements of a one-time key after as many steps each as the digits say. -/
def otsAfter (layer tree leaf : Nat) (ds : List Nat) : List (List Byte) :=
  ((otsSecret layer tree leaf).zip ds).zipIdx.map fun e => otsChain publicSeed ⟨layer, tree, 0, leaf, e.2, 0⟩ e.1.2 0 e.1.1

/-- The node of a tree at a height. -/
def treeNode (layer tree : Nat) : Nat → Nat → List Byte
  | 0, i => otsLeaf publicSeed layer tree i (otsAfter layer tree i (List.replicate otsLen 15))
  | h + 1, i => hashPair publicSeed ⟨layer, tree, 2, 0, h, i⟩ (treeNode layer tree h (2 * i)) (treeNode layer tree h (2 * i + 1))

/-- Levels of each of the four trees. -/
def treeHeight : Nat := 10

/-- A digest signed by a leaf of a tree, with its authentication path. -/
def signWith (layer tree leaf : Nat) (m : List Byte) : List Byte :=
  (otsAfter layer tree leaf (otsDigits m)).flatten ++
    (List.range treeHeight).flatMap fun h => treeNode layer tree h (leaf / 2 ^ h ^^^ 1)

/-- The signatures of the four layers: the lowest signs the digest, and each other one the root of the tree below. -/
def signLayers : Nat → Nat → Nat → List Byte → List Byte
  | 0, _, _, _ => []
  | k + 1, layer, idx, m =>
    let tree := idx / 2 ^ treeHeight
    signWith layer tree (idx % 2 ^ treeHeight) m ++ signLayers k (layer + 1) tree (treeNode layer tree treeHeight 0)

/-- The root of the top tree. -/
def identityRoot : List Byte := treeNode 3 0 treeHeight 0

/-- The XMSS^MT signature of a message with a leaf: 5 bytes of index, 32 of randomiser, and four layers (R272). -/
def receiptSignature (idx : Nat) (m : List Byte) : List Byte :=
  let r := xmssHash 3 secretPrf (natBe 32 idx)
  natBe 5 idx ++ r ++ signLayers 4 0 idx (messageHash r identityRoot idx m)

/-- The device's public key: identifier, root and public seed (R273). -/
def publicKey : List Byte := natBe 4 oidReceipt ++ identityRoot ++ publicSeed

end Sys2Proof.Machine
end

