-- ==== Sys2Proof/Machine/Chains.lean ====
section
/-! DEFINITION. Measurement chains: links and journals (12 R265 to R269; 21 R356). -/

namespace Sys2Proof.Machine

/-- The first `n` bytes of a string, with zeros where it is shorter. -/
def padTo (n : Nat) (b : List Byte) : List Byte := (b ++ List.replicate n 0).take n

/-- The device's identity: H of the 68 bytes of its public key (R273). -/
def identity : List Byte := shake publicKey

/-- "KROVHAR DZ9 CHAIN 1" (R266). -/
def chainLabel : List Byte :=
  [0x4B, 0x52, 0x4F, 0x56, 0x48, 0x41, 0x52, 0x20, 0x44, 0x5A, 0x39, 0x20, 0x43, 0x48, 0x41, 0x49, 0x4E, 0x20, 0x31]

/-- M₀ (R266). -/
def chainStart (ctx key : Nat) : List Byte := shake (chainLabel ++ natLe 4 ctx ++ natLe 2 key ++ identity)

/-- What a link adds: its kind and body, and the fields of its journal entry (Tables 12.2 and 12.3). -/
structure Link where
  kind : Nat
  body : List Byte
  replays : Nat
  aux : Nat
  lid : Nat
  where_ : Nat
  length : Nat
  deriving DecidableEq, Repr

/-- The journal entry of a link (Table 12.3). -/
def journalEntry (l : Link) (counter : Nat) (m : List Byte) : List Byte :=
  natLe 1 l.kind ++ natLe 1 l.replays ++ natLe 1 l.aux ++ [0] ++ natLe 4 l.lid ++ natLe 8 counter ++ m ++ natLe 8 l.where_ ++
    natLe 8 l.length

def chainOfCtx (s : State) (ctx : Nat) : Chain := s.chains.getD ctx default

/-- A journal entry written at its slot; a page that can no longer be written loses it, with class 8 code 0x04 (R269),
and so does one whose host translation is not held (log 97). -/
def writeJournal (ctx : Nat) (l : Link) (s : State) : State :=
  let c := chainOfCtx s ctx
  let a := c.journal.1.toNat + 64 * (c.counter % c.journal.2)
  match rangeOf s (hubView s ctx) true a 64 with
  | .ok (p :: _) => unitWrite strongAgent p.addr (journalEntry l c.counter c.m) false [] s
  | .ok [] | .bad _ | .miss _ =>
    raiseEvent ⟨8, 4, l.lid, some (s.contexts.getD ctx default).part, 0, ctx % 2 ^ 32 + c.counter % 2 ^ 32 * 2 ^ 32, a⟩ s

/-- A link taken (R267). -/
def takeLink (ctx : Nat) (l : Link) (s : State) : State :=
  match s.chains.get? ctx with
  | none => s
  | some c =>
    writeJournal ctx l { s with chains := s.chains.put ctx { c with
      m := shake (natLe 1 l.kind ++ c.m ++ l.body)
      counter := c.counter + 1
      launches := if l.kind = 1 then c.launches + 1 else c.launches
      replays := if l.kind = 2 || l.kind = 4 then c.replays + l.replays else c.replays
      ends := if l.kind = 4 then c.ends + 1 else c.ends } }

def launchLink (lid : Nat) (code args header : List Byte) (at' : Nat) : Link :=
  ⟨1, natLe 4 lid ++ code ++ args ++ header, 0, 0, lid, at', 0⟩

/-- The commit link; `bufs` gives address, length and H of each sealed buffer. -/
def commitLink (lid replays : Nat) (bufs : List (Nat × Nat × List Byte)) (list : Nat) : Link :=
  ⟨2, natLe 4 lid ++ natLe 1 replays ++ natLe 1 bufs.length ++ bufs.flatMap fun b => natLe 8 b.1 ++ natLe 8 b.2.1 ++ b.2.2,
    replays, bufs.length, lid, list, 0⟩

def fillLink (die off len : Nat) (h : List Byte) : Link :=
  ⟨3, natLe 1 die ++ natLe 8 off ++ natLe 8 len ++ h, 0, die, 0, off, len⟩

/-- The end link: reason 1 killed, 2 lasting, 3 sealed buffer unreadable. -/
def endLink (lid replays reason : Nat) : Link :=
  ⟨4, natLe 4 lid ++ natLe 1 replays ++ natLe 1 reason, replays, reason, lid, 0, 0⟩

/-- A launch or fill link may be taken now: no request with DRAIN is waiting, and none of those that have waited comes earlier
(R270). -/
def linkFree (s : State) (ctx : Nat) (who : Nat × Nat × Nat) : Bool :=
  let c := chainOfCtx s ctx
  c.drains.isEmpty && (c.waiting.isEmpty || c.waiting.head? == some who)

/-- It waits its turn. -/
def awaitLink (ctx : Nat) (who : Nat × Nat × Nat) (s : State) : State :=
  { s with chains := s.chains.adj ctx fun c => { c with
    waiting := if c.waiting.contains who then c.waiting else c.waiting ++ [who] } }

/-- Launches of a context with RECEIPT set between stage 3 and step 2 of R60 (R266, R270). -/
def receiptsInFlight (s : State) (ctx : Nat) : Bool :=
  s.launches.any fun e => e.2.ctx == ctx && e.2.hdr.receipt && 4 ≤ e.2.stage && !e.2.ended && !e.2.sealed

end Sys2Proof.Machine
end

