-- ==== Sys2Proof/Machine/Control.lean ====
section
/-! DEFINITION. Control flow of threads: branches, calls, returns, EXIT, YIELD and FRAME (08 R181 to R186). -/

namespace Sys2Proof.Machine

open Host (Outcome)

/-- Target(off) of a branch (R128, R181). -/
def branchTarget (s : State) (off : BitVec 20) : DWord := s.cur.pc + BitVec.ofInt 64 (off.toInt * 4)

/-! ### The end of a squad (R34, R36, R185) -/

/-- The tiles that stand unfetched in the q6 of a block that has ended are handed out again, in their original order (R58). -/
def handBack (b : Nat) (s : State) : State :=
  let k := blk s b
  let tiles := (k.q6.filter fun x => x != BitVec.allOnes 64).map BitVec.toNat
  let h := (launchOf s k.lid).hdr
  if h.dimx = 0 then s else
  modBlock b (fun k => { k with q6 := [] }) (modLaunch k.lid (fun l => { l with
    handedBack := sortBy (fun x y => seqKey h x ≤ seqKey h y) (l.handedBack ++ tiles) }) s)

/-- The tiles that a squad holds are complete: it issues its next FETCH, or it has ended (R59). -/
def passTile (q : Nat) (s : State) : State :=
  (sqd s q).tile.foldl (fun s t => finishTile (sqd s q).lid t s) (modSquad q (fun sq => { sq with tile := [] }) s)

/-- Every squad of a block has been loaded and has ended (R36). -/
def blockEnded (s : State) (b : Nat) : Bool :=
  let qs := loadedSquads s b
  qs.length == (blockHeader s b).squads && qs.all fun q => (sqd s q).ended

/-- A squad ends when its last live thread has exited: its row passes to DRAINING, and the tile it fetched is complete (R34, R36,
R59). A squad that is being saved, or is saved, ends after its return (R51). -/
def endSquad (q : Nat) (s : State) : State :=
  let sq := sqd s q
  if (liveOf s q).isEmpty && !sq.ended && sq.state = .resident then
    let s := modSquad q (fun sq => { sq with ended := true, entry := .none, state := .draining }) (passTile q s)
    if blockEnded s sq.block then handBack sq.block s else s
  else s

/-- Threads end: their runs have ended, their lanes are exited for the rendezvous, and the entries and waits that depend on
them are looked at again; a wait that a handler entry has suspended is abandoned (R185, R32, R315). -/
def exitThreads (ts : List Nat) (s : State) : State :=
  let s := mapThreads ts (fun _ th => { th with live := false, inHandler := false }) (ts.foldl (fun s t => quitWait t s) s)
  (squadsIn s ts).foldl (fun s q => settle (endEntry q (endSquad q s))) s

/-! ### The call stack (R182, R183) -/

/-- The frame budget: entries 0 to 511. -/
def maxDepth : Nat := 512

/-- Entry(D) ← `ret`; D ← D + 1. The entry goes to the thread's area and to its return cache of 4 (R182). -/
def pushReturn (t : Nat) (ret : DWord) (s : State) : State :=
  let th := thr s t
  let s := writeNat (th.stk.toNat + 8 * th.depth) 8 ret.toNat s
  modThread t (fun th => { th with
    depth := th.depth + 1, rcache := ((th.depth, ret) :: th.rcache.filter fun e => e.1 != th.depth).take 4 }) s

/-- Entry(i): from the return cache when it is held there, and from the area otherwise (R182). -/
def returnEntry (s : State) (th : Thread) (i : Nat) : DWord :=
  match th.rcache.find? fun e => e.1 == i with
  | some e => e.2
  | none => BitVec.ofNat 64 (readNat s (th.stk.toNat + 8 * i) 8)

/-- The causes of a JR or CALLR target (R183, R302). -/
def targetCause (a : DWord) : Option Cause :=
  if a.toNat % 4 ≠ 0 then some ⟨0x03, a, none⟩ else if !canonical a.toNat then some ⟨0x04, a, none⟩ else none

/-! ### The instructions -/

/-- A branch: `taken` reads the predicate of a copy (R181, R337). -/
def branch (u : Uses) (off : BitVec 20) (taken : State → Bool → Nat → Bool) (s : State) : State :=
  let next (t : Nat) : DWord := if taken s false t then branchTarget s off else s.cur.pc + 4
  let check (t : Nat) : Option Cause :=
    lowest [useCauses s u t, mismatchIf (taken s false t != taken s true t) (next t)]
  lastLane check (fun ts s' => leaveRuns ts next s') s

/-- BR (R181). -/
def execBr (k : Fin 8) (off : BitVec 20) (s : State) : Outcome State Fault Refusal :=
  .next (branch { kr := [k.val] } off (fun s sh t => readK s sh t k.val) s)

/-- BRN (R181). -/
def execBrn (k : Fin 8) (off : BitVec 20) (s : State) : Outcome State Fault Refusal :=
  .next (branch { kr := [k.val] } off (fun s sh t => !readK s sh t k.val) s)

/-- JMP (R181). -/
def execJmp (off : BitVec 20) (s : State) : Outcome State Fault Refusal :=
  .next (lastLane (fun _ => none) (fun ts s' => leaveRuns ts (fun _ => branchTarget s off) s') s)

/-- A call to `target` (R183). -/
def call (check : Nat → Option Cause) (target : Nat → DWord) (s : State) : State :=
  lastLane (fun t => lowest [check t, causeIf ((thr s t).depth == maxDepth) 0x0C])
    (fun ts s' => leaveRuns ts target (ts.foldl (fun s' t => pushReturn t (s.cur.pc + 4) s') s')) s

/-- CALL (R183). -/
def execCall (off : BitVec 20) (s : State) : Outcome State Fault Refusal :=
  .next (call (fun _ => none) (fun _ => branchTarget s off) s)

/-- The causes of an indirect target: its register, its address and the agreement of the copies (R183, R337). -/
def indirectCause (xa : Src) (s : State) (t : Nat) : Option Cause :=
  lowest [useCauses s { vr := srcV 2 xa, sr := srcS 2 xa } t, targetCause (src64 s false t xa),
    mismatchIf (src64 s false t xa != src64 s true t xa) (src64 s false t xa)]

/-- CALLR (R183). -/
def execCallr (xa : Src) (s : State) : Outcome State Fault Refusal :=
  .next (call (indirectCause xa s) (fun t => src64 s false t xa) s)

/-- JR (R183). -/
def execJr (xa : Src) (s : State) : Outcome State Fault Refusal :=
  .next (lastLane (indirectCause xa s) (fun ts s' => leaveRuns ts (fun t => src64 s false t xa) s') s)

/-- RET: at depth 0 it executes as EXIT (R183, R185). -/
def execRet (s : State) : Outcome State Fault Refusal :=
  .next (lastLane (fun _ => none) (fun ts s' =>
    let back := ts.filter fun t => (thr s t).depth != 0
    let gone := ts.filter fun t => (thr s t).depth == 0
    let s' := leaveRuns ts (fun t => if (thr s t).depth = 0 then s.cur.pc else returnEntry s (thr s t) ((thr s t).depth - 1)) s'
    exitThreads gone (mapThreads back (fun _ th => { th with
      depth := th.depth - 1, rcache := th.rcache.filter fun e => e.1 != th.depth - 1 }) s')) s)

/-- EXIT (R185). -/
def execExit (s : State) : Outcome State Fault Refusal :=
  .next (lastLane (fun _ => none) (fun ts s' => exitThreads ts (leaveRuns ts (fun _ => s.cur.pc) s')) s)

/-- YIELD: the thread is excluded from the next pick on its core (R27, R186). -/
def execYield (s : State) : Outcome State Fault Refusal :=
  .next (lastLane (fun _ => none) (fun ts s' =>
    mapThreads ts (fun _ th => { th with yielded := true }) (leaveRuns ts (fun _ => s.cur.pc + 4) s')) s)

/-- FRAME (R184). -/
def execFrame (e : Bool) (n : BitVec 8) (s : State) : Outcome State Fault Refusal :=
  .next (laneWord e (fun t => causeIf ((sqd s (squadOf t)).allot < n.toNat) 0x0C) (fun _ s => s) s)

end Sys2Proof.Machine
end

