-- ==== Sys2Proof/Machine/Moves.lean ====
section
/-! DEFINITION. The moves of the ordering machine as steps: leave, release, carry, drop, load and atomic, and the copies of the Garret (03 R72; 04 R89 to R95; 08 R170 to R173; 11 R257; 20 R323 to R326, R328, R340). -/

namespace Sys2Proof.Machine

open Host (Outcome)

/-! ### Stores (Table 4.2) -/

/-- The squad of an agent of a core. -/
def squadOfAgent (s : State) (a : Nat) : Nat := (agt s a).place.squad

/-- A report of class D about an access (R306, R340). -/
def deferredReport (cause : Nat) (addr : DWord) (w : Word) : Report := ⟨cause, 0, 0, addr, none, w, true, true, false⟩

/-- The entry of an agent's structures with a store number. -/
def entryOf (s : State) (a sid : Nat) : Option Entry := (agt s a).out.find? fun e => !isMarker e.kind && e.sid == sid

/-- STORE_LEAVE (R89): a store leaves its structure when Table 4.2 allows it and its piece's snapshot stands (R328). A store through
a STRICT window that completes as revoked is dropped, with cause 0x0F in class D (R340). -/
def execStoreLeave (agent sid : Nat) (s : State) : Outcome State Fault Refusal :=
  .next (match entryOf s agent sid with
    | none => s
    | some e =>
      let k := entrySpan e.kind
      if isAtomic e.kind || !mayLeave (agt s agent) e || !lanesBefore s agent e ||
          (!coreStop (agt s agent).place (entryOrd e.kind) k.1 && snapshotDue s agent k.1 k.2) then s
      else if strictDead s e.win && (agt s agent).place.onCore then
        raiseDeferred (squadOfAgent s agent) (deferredReport 0x0F e.va e.word) (leaveStore agent e s)
      else leaveStore agent e s)

/-- RELEASE_PERFORM (R91). -/
def execReleasePerform (rel : Nat) (s : State) : Outcome State Fault Refusal := .next (performRelease rel s)

/-- STORE_CARRY (R89): the oldest pending store to its bytes is carried from its core point to its home. -/
def execStoreCarry (core agent sid addr : Nat) (s : State) : Outcome State Fault Refusal :=
  .next (match (cor s core).pending.find? fun p => p.sid == (agent, sid) && p.addr == addr with
    | none => s
    | some p =>
      let older := (cor s core).pending.takeWhile fun q => !(q.sid == p.sid && q.addr == p.addr)
      if (older.any fun q => overlaps q.addr q.bytes.length p.addr p.bytes.length) ||
          (!winDead s p.win && snapshotDue s agent p.addr p.bytes.length) then s
      else if strictDead s p.win then
        raiseDeferred (squadOfAgent s agent) (deferredReport 0x0F p.va p.word) (carry core p s)
      else carry core p s)

/-- COPY_DROP (R89): a core copy with nothing pending becomes empty. -/
def execCopyDrop (core key : Nat) (s : State) : Outcome State Fault Refusal :=
  .next (if (cor s core).pending.any fun p => overlaps p.addr p.bytes.length key 1 then s
    else modCore core (fun c => { c with copies := c.copies.del key }) s)

/-! ### The Garret (R328) -/

/-- A write of the launch to a piece waits to be performed. -/
def wantsPiece (s : State) (lid p : Nat) : Bool :=
  (s.agents.any fun e => lidOfAgent s e.1 == some lid && e.2.out.any fun x =>
    !isMarker x.kind && (piecesOf (entrySpan x.kind).1 (entrySpan x.kind).2).contains p) ||
  s.cores.any fun c => c.2.pending.any fun x => lidOfAgent s x.sid.1 == some lid && (piecesOf x.addr x.bytes.length).contains p

/-- SNAPSHOT_COPY (R328). -/
def execSnapshotCopy (lid piece : Nat) (s : State) : Outcome State Fault Refusal :=
  .next (if (launchOf s lid).eligible && wantsPiece s lid piece then snapshotOrLose lid piece s else s)

/-! ### Loads -/

/-- The thread of an agent. -/
def threadOfAgent (s : State) (a : Nat) : Option Nat := (s.threads.find? fun e => e.2.agent == a).map (·.1)

/-- The slot of the wave that holds a thread. -/
def slotOf (s : State) (t : Nat) : Option Nat :=
  ((cor s (sqd s (squadOf t)).core).slots.find? fun e => e.2.threads.contains t).map (·.1)

/-- The cursor at the wave of a thread, at a word already issued. -/
def cursorAt (t : Nat) (pc : DWord) (w : Word) (s : State) : State :=
  let c := (sqd s (squadOf t)).core
  match slotOf s t with
  | some k => { s with cur := ⟨c, k, [t], pc, w, ((cor s c).slots.getD k default).slow.isSome⟩ }
  | none => s

/-- A piece of the Cellar in its bank's refresh window (R70, R71). -/
def inRefresh (s : State) (key len : Nat) : Bool :=
  if 2 ^ 44 ≤ key ∧ key < 2 ^ 45 then
    let die := (key - 2 ^ 44) / 2 ^ 28
    let o := (key - 2 ^ 44) % 2 ^ 28
    let t := s.cellPhase.getD die 0
    t % 1024 < 256 && (o / 4096 % 16 == t / 1024 || (o + len - 1) / 4096 % 16 == t / 1024)
  else false

/-- The causes a load's value brings: poison, and a STRICT window that completed it as revoked (R326, R340). -/
def loadCause (l : Load) (bs : List ReadByte) : Option Cause :=
  let keys := l.pieces.flatMap fun p => (List.range p.len).map (p.addr + ·)
  lowest [((keys.zip bs).find? fun x => x.2.poison).map fun x => ⟨0x0D, 0, some (granule x.1)⟩, if bs.any fun b => b.dead then some ⟨0x0F, l.ea, none⟩ else none]

/-- Bit 0 of sr.wrev after a load from a revoked window (R257). -/
def markRevoked (q : Nat) (ps : List Piece) (s : State) : State :=
  if ps.any fun p => winDead s p.win then modSquad q (fun sq => { sq with wrev := sq.wrev ||| 1 }) s else s

/-- The values of a performed load: to its registers, to the wave for a last word, or to the run's squad writes (R30, R167, R308). -/
def giveLoad (l : Load) (ws : List Word) (s : State) : State :=
  match l.dst with
  | .none => s
  | .v t n =>
    if l.word.getLsbD 30 then modWave (fun w => { w with got := w.got ++ [(.v t n, ws)] }) (unmark l s)
    else deliver (.v t n) ws s
  | .s q n => modWave (fun w => { w with writes := w.writes ++ (ws.zipIdx.map fun x => ⟨q, l.pc, false, n + x.2, x.1, x.1, l.issue⟩) }) s

/-- The threads a load's cause concerns: its own, or every thread of the squad in the wave for a squad load at full speed (R298). -/
def causeThreads (s : State) (t : Nat) (l : Load) : List Nat :=
  match l.dst with
  | .s q _ => if s.cur.slow then [t] else ofSquad q (curWave s).threads
  | .v _ _ | .none => [t]

/-- A load's cause: noted in the wave, or in slow gear the thread stops before the word (R308, R310, R311). -/
def failLoad (t : Nat) (l : Load) (c : Cause) (s : State) : State :=
  let fs := (causeThreads s t l).map fun u => faultAt s u c true
  let s := unmark l s
  let ends := !(curWave s).ending.isEmpty
  if s.cur.slow && !ends then
    let s := match l.dst with
      | .s q _ => modWave (fun w => { w with slow := w.slow.map fun k => { k with
          done := k.done.filter (· != (q, l.pc)), caused := k.caused ++ [(q, l.pc)] } }) s
      | .v _ _ | .none => s
    fs.foldl (fun s f => slowStop f s) s
  else noteFaults fs s

/-- A load all of whose pieces have been performed: its value, or the cause it brings (Table 4.2, R167). -/
def endLoad (a t : Nat) (l : Load) (bs : List ReadByte) (s : State) : State :=
  let s := modAgent a (fun g => { g with loads := g.loads.filter fun m => m.seq != l.seq })  s
  match loadCause l bs with
  | some c => failLoad t l c s
  | none => giveLoad l (loadWords l.width (bs.map fun b => b.val)) s

/-- One piece of a load performed; the others wait for moves of their own (Table 4.2, R65, R100). -/
def performPiece (a t : Nat) (l : Load) (i : Nat) (p : Piece) (s : State) : State :=
  let s := cursorAt t l.pc l.word s
  let bs := loadPiece s a l.seq p
  let s := sendRequests l.ea.toNat [p] (markRevoked (squadOf t) [p] (fillCopies a p bs s))
  let l := { l with got := l.got.put i bs }
  let s := modAgent a (fun g => { g with
    loads := g.loads.map fun m => if m.seq = l.seq then l else m
    readRels := (g.readRels ++ bs.flatMap fun b => b.rels.map fun r => (r, b.sid)).eraseDups }) s
  let s := if l.left.isEmpty then
      endLoad a t l ((List.range l.pieces.length).flatMap fun j => l.got.getD j []) s
    else s
  endLoads (settleHolds a s)

/-- LOAD_PERFORM (R89): of the pieces of the load that the ordering machine allows, and that read no bank in its refresh window (R72),
one in a free choice is performed. -/
def execLoadPerform (agent seq : Nat) (s : State) : Outcome State Fault Refusal :=
  .next (match (agt s agent).loads.find? fun l => l.seq == seq, threadOfAgent s agent with
    | some l, some t =>
      let ready := l.left.filter fun x => pieceReady s agent l x.2 && !inRefresh s x.2.addr x.2.len
      match ready[Config.freeNat s.fresh % ready.length]? with
      | some (i, p) => performPiece agent t l i p (if ready.length = 1 then s else { s with fresh := s.fresh + 1 })
      | none => s
    | _, _ => s)

/-! ### Atomics (R168 to R173) -/

/-- An atomic waiting in a structure, with its agent. -/
structure Pend where
  agent : Nat
  entry : Entry
  deriving DecidableEq, Repr

/-- The address, group and lane of an atomic. -/
def atomAt : EntryKind → Option (AtomOp × Nat × Nat × Nat)
  | .atomic op a _ _ _ g l _ => some (op, a, g, l)
  | .store .. | .object .. | .marker _ => none

def atomOperands : EntryKind → Word × Word
  | .atomic _ _ x y _ _ _ _ => (x, y)
  | .store .. | .object .. | .marker _ => (0, 0)

def atomDst : EntryKind → Dst
  | .atomic _ _ _ _ d _ _ _ => d
  | .store .. | .object .. | .marker _ => .none

/-- The atomics of an instruction on one word that have not been performed, in home-lane order (R170). -/
def atomGroup (s : State) (addr group : Nat) : List Pend :=
  let all := s.agents.flatMap fun e => (e.2.out.filter fun x => match atomAt x.kind with
    | some (_, a, g, _) => a == addr && g == group
    | none => false).map fun x => (⟨e.1, x⟩ : Pend)
  let lane (p : Pend) : Nat := match atomAt p.entry.kind with
    | some (_, _, _, l) => l
    | none => 0
  sortBy (fun a b => lane a ≤ lane b) all

/-- The atomics of an instruction that have not been performed. -/
def instrAtoms (s : State) (group : Nat) : List Pend :=
  s.agents.flatMap fun e => (e.2.out.filter fun x => match atomAt x.kind with
    | some (_, _, g, _) => g == group
    | none => false).map fun x => (⟨e.1, x⟩ : Pend)

/-- A value that an earlier run's instruction returns while a later run is in progress belongs to that run's entry state (R173,
R309). -/
def Thread.enterV (n : Nat) (x : Word) (th : Thread) : Thread :=
  { th with
    entryV := th.entryV.setIfInBounds n x, entryShV := th.entryShV.setIfInBounds n x
    entryPoison := (th.entryPoison.1.filter (· != n), th.entryPoison.2) }

/-- The old value of an atomic written to its destination, and the entry gone. -/
def endAtomic (p : Pend) (old : Word) (read : List ReadRel) (s : State) : State :=
  let s := modAgent p.agent (dropEntry p.entry.sid) s
  let s := modAgent p.agent (fun g => { g with
    readRels := (g.readRels ++ read).eraseDups, entryRels := (g.entryRels ++ read).eraseDups }) s
  let s := match atomDst p.entry.kind with
    | .v t n => modThread t (fun th => if th.live then th.enterV n old else th) s
    | .none | .s _ _ => s
  settleHolds p.agent (deliver (atomDst p.entry.kind) [old] s)

/-- An atomic that comes to nothing: its entry is gone, and its destination keeps its value (R326, R340). -/
def dropAtomic (p : Pend) (s : State) : State :=
  let s := modAgent p.agent (dropEntry p.entry.sid) s
  let s := match atomDst p.entry.kind with
    | .v t n => modThread t (fun th => { th with pendV := th.pendV.filter (· != n) }) s
    | .none | .s _ _ => s
  settleHolds p.agent s

/-- The thread still stands behind the word at `pc`, which ended its run: it has begun nothing since. -/
def standsPast (s : State) (pc : DWord) (t : Nat) : Bool :=
  let th := thr s t
  th.live && !th.inWave && th.wait.isNone && !th.inHandler && th.pc == pc + 4

/-- A cause met by the move of a word that ended its runs: its threads of squad `q` stand at the word again and the squad reports it in
class P for the lanes `hit`. Where one of them has gone on, or the squad has ended, the cause is deferred (R297, R306, R326, R340;
log 86). -/
def lateCause (q : Nat) (c : Cause) (pc : DWord) (w : Word) (hit ts : List Nat) (s : State) : State :=
  if !(sqd s q).ended && ts.all fun t => standsPast s pc t || (thr s t).pc == pc && !(thr s t).inWave && (thr s t).wait.isNone then
    let start := isRunStart s q pc
    raise q ⟨c.code, laneMask hit, laneMask ts, c.addr, c.key, w, true, false, false⟩
      (mapThreads ts (fun _ th => { th with pc := pc, inRun := !start }) s)
  else raiseDeferred q { deferredReport c.code c.addr w with key := c.key } s

/-- The same for atomics: in each squad concerned, the instruction's lanes that have not been performed come to nothing. -/
def failAtomics (c : Cause) (group : Nat) (ps : List Pend) (s : State) : State :=
  (ps.map fun p => squadOfAgent s p.agent).eraseDups.foldl (fun s q =>
    let ofQ (p : Pend) : Bool := squadOfAgent s p.agent == q
    let all := (instrAtoms s group).filter ofQ
    let e := ((ps.filter ofQ).headD ⟨0, default⟩).entry
    let ts (ps : List Pend) : List Nat := ps.filterMap fun p => threadOfAgent s p.agent
    lateCause q c e.pc e.word (ts (ps.filter ofQ)) (ts all) (all.foldl (fun s p => dropAtomic p s) s)) s

/-- A group of atomics performed as one move at the home point (Table 4.2, R170). Poison, which its read would consume, and a STRICT window
that would complete it as revoked leave it without effect (R326, R340); another revoked window gives 0 and stores nothing (R257). -/
def performAtomics (op : AtomOp) (addr group : Nat) (ps : List Pend) (s : State) : State :=
  match ps with
  | [] => s
  | p :: _ =>
    let dead := winDead s p.entry.win
    let strict := strictDead s p.entry.win
    let s := sendRequests p.entry.va.toNat [⟨addr, 4, .rc, p.entry.win⟩] s
    if strict then failAtomics ⟨0x0F, p.entry.va, none⟩ group ps s
    else if dead then ps.foldl (fun s x => endAtomic x 0 [] s) s
    else match poisonCause s [⟨addr, 4, .rc, none⟩] with
    | some c => failAtomics c group ps s
    | none =>
      let old : Word := BitVec.ofNat 32 (readNat s addr 4)
      let (olds, new) := groupResult op old (ps.map fun x => atomOperands x.entry.kind)
      let last := ps.getLastD p
      let read := relsAt s addr 4
      let rels := (allRels s addr 4 ++ ps.flatMap fun x => x.entry.rels).eraseDups
      let s := match new with
        | some v =>
          let s := storeAt (last.agent, last.entry.sid) rels false addr (natLe 4 v.toNat) p.entry.win.isSome s
          let pl := (agt s p.agent).place
          if pl.onCore then touchCopies pl.core (last.agent, last.entry.sid) rels addr (natLe 4 v.toNat) s else s
        | none => s
      (ps.zip olds).foldl (fun s x => endAtomic x.1 x.2 read s) s

/-- The atomic move of one entry or group may be made (Table 4.2, R92, R173): every member may leave, no store to the word is pending
at the core point, and the piece's snapshot stands. -/
def atomicReady (s : State) (addr : Nat) (ps : List Pend) : Bool :=
  ps.all fun p => mayLeave (agt s p.agent) p.entry && !snapshotDue s p.agent addr 4 &&
    !((cor s (agt s p.agent).place.core).pending.any fun x => overlaps x.addr x.bytes.length addr 4)

/-- The entries that stand for a synchronisation. -/
def objectEntries (s : State) (y : Nat) : List Pend :=
  s.agents.flatMap fun e => (e.2.out.filter fun x => objectSync x.kind == some y).map fun x => (⟨e.1, x⟩ : Pend)

/-- An earlier synchronisation of the same squad stands before this one at its object (log 43). -/
def objectBehind (s : State) (y : Nat) (p : Pend) : Bool :=
  s.agents.any fun e => e.2.place.onCore && e.2.place.squad == squadOfAgent s p.agent && e.2.out.any fun x =>
    match objectSync x.kind with
    | some z => z < y && spanOverlaps x.kind p.entry.kind
    | none => false

/-- The atomic move of a synchronisation may be made: its releases are performed, every entry may leave, no store to its bytes is
pending at a core point of theirs, and the snapshots stand (Table 4.2, R91, R328). -/
def objectReady (s : State) (y : Nat) : Bool :=
  let ps := objectEntries s y
  let stands (p : Pend) : Bool := !snapshotDue s p.agent (entrySpan p.entry.kind).1 (entrySpan p.entry.kind).2
  match s.syncs.get? y with
  | none => false
  | some x =>
    x.left.isEmpty && (match x.op with
      | .arm _ => true
      | _ => ps.all stands) &&
    ps.all fun p => mayLeave (agt s p.agent) p.entry && !objectBehind s y p &&
      !((cor s (agt s p.agent).place.core).pending.any fun k =>
        overlaps k.addr k.bytes.length (entrySpan p.entry.kind).1 (entrySpan p.entry.kind).2)

/-- The move of a synchronisation reads the word it acts on (R210 to R213, R218). -/
def SyncOp.reads : SyncOp → Bool
  | .arm _ | .lkTry .. | .lkRel .. | .prSet .. | .sigAdd .. => true
  | .fence | .barArrive .. | .gbarArrive .. | .chEnter .. | .prMake .. | .publish .. | .free _ | .cmdStart _ | .cmdDone _ => false

/-- The cause that keeps a synchronisation's move from its effect: a STRICT window that completes it as revoked, or poison in the word it
reads (R326, R340). -/
def objectCause (s : State) (op : SyncOp) (e : Entry) : Option Cause :=
  if strictDead s e.win then some ⟨0x0F, e.va, none⟩
  else if winDead s e.win || !op.reads then none
  else poisonCause s [⟨(entrySpan e.kind).1, (entrySpan e.kind).2, .rc, none⟩]

/-- A wait over without having completed: those who wait stand at its word, and the suspended ones have nothing to go back to. -/
def cancelWait (id : Nat) (s : State) : State :=
  match s.waits.get? id with
  | none => s
  | some w =>
    let s := mapThreads w.threads (fun _ th => { th with
      wait := if th.wait = some id then none else th.wait
      susp := if th.susp = some id then none else th.susp
      frozen := if th.frozen = some id then none else th.frozen }) s
    { s with waits := s.waits.del id }

/-- What an instruction undoes whose move has no effect: the holding that it ended stands, its register is no longer awaited, its wait is
over (R211, R213). -/
def SyncOp.undo (op : SyncOp) (s : State) : State :=
  match op with
  | .lkRel q _ (some h) | .prSet q _ _ (some h) => modSquad q (fun sq => { sq with estate := sq.estate ++ [h] }) s
  | .lkTry q jd _ _ _ _ => modSquad q (fun sq => { sq with pendJ := sq.pendJ.filter (· != jd) }) s
  | .arm id => cancelWait id s
  | _ => s

/-- The atomic move of a synchronisation (R97, R208, R211, R213, R218). Through a revoked window a SIGADD stores nothing and a WAITSIG
reads 0 (R257, R340). -/
def performObject (y : Nat) (s : State) : State :=
  match s.syncs.get? y with
  | none => s
  | some x =>
    let ps := objectEntries s y
    let head := ps.headD ⟨0, default⟩
    let e := head.entry
    let span := entrySpan e.kind
    let dead := winDead s e.win
    let cause := objectCause s x.op e
    -- the acquire that the ordering bits ask for reads what the move finds (R97)
    let s := match x.acq with
      | some a => ps.foldl (fun s p => acquire p.agent a (if dead || cause.isSome then [] else relsAt s span.1 span.2) s) s
      | none => s
    let s := ps.foldl (fun s p => modAgent p.agent (fun g => Agent.acquired y (dropEntry p.entry.sid g)) s) s
    let s := { s with syncs := s.syncs.del y }
    let s := match cause with
      | some c =>
        let ts := ps.filterMap fun p => threadOfAgent s p.agent
        lateCause (squadOfAgent s head.agent) c e.pc e.word ts ts (x.op.undo s)
      | none =>
        let rels := (x.rels ++ ps.flatMap fun p => p.entry.rels).eraseDups
        -- every such move but the first test of a wait writes, and a write through a fabric window ends eligibility (R329)
        let s := match e.win, lidOfAgent s head.agent, x.op with
          | none, _, _ | _, none, _ | _, _, .arm _ => s
          | some _, some lid, _ => if dead then s else loseEligibility lid s
        match dead, x.op with
        | true, .sigAdd .. => s
        | true, .arm _ => performSync x.op rels head.agent (modSquad (squadOfAgent s head.agent) (fun q => { q with wrev := q.wrev ||| 1 }) s)
        | _, _ => performSync x.op rels head.agent s
    let s := sendRequests e.va.toNat [⟨span.1, span.2, .rc, e.win⟩] s
    ps.foldl (fun s p => settleHolds p.agent s) s

/-- The cause that an execution waiting on a word of memory meets there: poison, or a STRICT window that has been revoked (R326, R340). -/
def waitCause (s : State) (w : Wait) : Option Cause :=
  if !w.armed then none else
  match w.kind with
  | .lkAcq l _ => poisonCause s [⟨l.key, 8, .rc, none⟩]
  | .prWait a _ _ _ => poisonCause s [⟨a, 16, .rc, none⟩]
  | .waitSig r _ _ =>
    if strictDead s r.win then some ⟨0x0F, r.va, none⟩ else if winDead s r.win then none else poisonCause s [⟨r.key, 8, .rc, none⟩]
  | .chPop b n _ =>
    let c := chanOf s b n
    if c.count = 0 then none else (scratchKey s b c.base (4 * c.head)).bind fun k => poisonCause s [⟨k, 4, .rc, none⟩]
  | _ => none

/-- A wait that meets a cause is over, and its squad reports it at the waiting word; one whose threads are all suspended goes on
(R316, R326; log 86). -/
def failWait (id : Nat) (s : State) : State :=
  match s.waits.get? id with
  | none => s
  | some w =>
    let ts := waiters s id w
    match waitCause s w with
    | some c => if ts.isEmpty then s else lateCause w.squad c w.pc w.word ts ts (cancelWait id s)
    | none => s

/-- Every wait that meets a cause. -/
def failWaits (s : State) : State := s.waits.keys.foldl (fun s id => failWait id s) s

/-- ATOMIC_PERFORM (R173): a whole group in the aggregated class; in the strict class one lane, after the lanes of squads that come
earlier in squad order (R169, R305). The entry of a synchronisation makes its move for all its threads. -/
def execAtomicPerform (agent sid : Nat) (s : State) : Outcome State Fault Refusal :=
  .next (match entryOf s agent sid with
    | none => s
    | some e =>
      match atomAt e.kind with
      | none => (match objectSync e.kind with
        | some y => if objectReady s y then performObject y s else s
        | none => s)
      | some (op, addr, group, lane) =>
        let all := atomGroup s addr group
        if op = .xch || op = .cas then
          let earlier := all.any fun p => match atomAt p.entry.kind with
            | some (_, _, _, l) => l / 32 < lane / 32
            | none => false
          if earlier || !atomicReady s addr [⟨agent, e⟩] then s else performAtomics op addr group [⟨agent, e⟩] s
        else if atomicReady s addr all then performAtomics op addr group all s
        else s)

end Sys2Proof.Machine
end

