-- ==== Sys2Proof/Machine/Approx.lean ====
section
/-! DEFINITION. The approximate functions: exact cases, and a free value inside the bound of Table 7.9 (07 R155; log 9). -/

namespace Sys2Proof.Machine

/-- ln 2 in 256 fraction bits. -/
def ln2Fix : Int := 0xb17217f7d1cf79abc9e3b39803f2f6af40f343267298b62d8a0d175b8baafa2b

/-- 2π in 256 fraction bits. -/
def twoPiFix : Int := 0x6487ed5110b4611a62633145c06e0e68948127044533e63a0105df531d89cd912

/-- A Taylor sum in 256 fraction bits: term `k + 1` is term `k` times `t` over `div k`. -/
def taylor (t : Int) (div : Nat → Int) : Nat → Nat → Int → Int → Int
  | 0, _, _, sum => sum
  | m + 1, k, term, sum =>
    let term' := term * t / 2 ^ 256 / div k
    taylor t div m (k + 1) term' (sum + term')

/-- e to the `y`, both in 256 fraction bits. -/
def expFix (y : Int) : Int := taylor y (fun k => k + 1) 64 0 (2 ^ 256) (2 ^ 256)

/-- The sine of `y` in 256 fraction bits. -/
def sinFix (y : Int) : Int :=
  taylor (-(y * y / 2 ^ 256)) (fun k => (2 * k + 2) * (2 * k + 3)) 48 0 y y

/-- The cosine of `y` in 256 fraction bits. -/
def cosFix (y : Int) : Int :=
  taylor (-(y * y / 2 ^ 256)) (fun k => (2 * k + 1) * (2 * k + 2)) 48 0 (2 ^ 256) (2 ^ 256)

/-- `k` more bits of the base 2 logarithm of `m / 2 ^ 399`, below the bits `acc`. -/
def logBits : Nat → Nat → Nat → Nat
  | 0, _, acc => acc
  | k + 1, m, acc =>
    let q := m * m / 2 ^ 399
    if 2 ^ 400 ≤ q then logBits k (q / 2) (2 * acc + 1) else logBits k q (2 * acc)

/-- A finite value in 256 fraction bits; no FP32 value has more. -/
def toFix (s : Bool) (n : Nat) (e : Int) : Int :=
  let m : Int := if 0 ≤ e + 256 then (n : Int) * 2 ^ (e + 256).toNat else (n : Int) / 2 ^ (-(e + 256)).toNat
  if s then -m else m

/-- A value in 256 fraction bits, times `2 ^ k`. -/
def ofFix (m : Int) (k : Int) : Num := .fin (decide (m < 0)) m.natAbs (k - 256)

/-- The function's value at a finite non-special argument, to at least 150 bits. -/
def approxValue (fn : ApproxFn) (s : Bool) (n : Nat) (e : Int) : Num :=
  match fn with
  | .rcp => .fin s (2 ^ 240 / n) (-240 - e)
  | .rsq =>
    let o := e % 2
    .fin false (sqrtBits 201 (2 ^ 400 / (n * 2 ^ o.toNat)) 0) (-200 - (e - o) / 2)
  | .exp2 =>
    let x := toFix s n e
    ofFix (expFix (x % 2 ^ 256 * ln2Fix / 2 ^ 256)) (x / 2 ^ 256)
  | .log2 =>
    let l := Nat.log2 n
    let f := logBits 180 (n * 2 ^ (399 - l)) 0
    let m : Int := (e + l) * 2 ^ 180 + f
    .fin (decide (m < 0)) m.natAbs (-180)
  | .sin =>
    let x := toFix s n e % 2 ^ 256
    let x := if 2 ^ 255 ≤ x then x - 2 ^ 256 else x
    ofFix (sinFix (x * twoPiFix / 2 ^ 256)) 0
  | .cos =>
    let x := toFix s n e % 2 ^ 256
    let x := if 2 ^ 255 ≤ x then x - 2 ^ 256 else x
    ofFix (cosFix (x * twoPiFix / 2 ^ 256)) 0

/-- Whether a magnitude is a power of two, and of which. -/
def powerOfTwo? (n : Nat) (e : Int) : Option Int :=
  if n = 2 ^ Nat.log2 n then some (e + Nat.log2 n) else none

/-- An argument as an integer number of quarters, if it is one. -/
def quarters? (s : Bool) (n : Nat) (e : Int) : Option Int :=
  let m : Option Int :=
    if 0 ≤ e + 2 then some ((n : Int) * 2 ^ (e + 2).toNat)
    else if n % 2 ^ (-(e + 2)).toNat = 0 then some ((n : Int) / 2 ^ (-(e + 2)).toNat) else none
  m.map fun m => if s then -m else m

/-- The special and exact results of Table 7.9. -/
def approxExact (fn : ApproxFn) (a : Word) : Option Word :=
  let zero (s : Bool) : Word := if s then 0x80000000 else 0
  let infinity (s : Bool) : Word := if s then 0xFF800000 else 0x7F800000
  match fn, f32 a with
  | _, .nan => some canonNan
  | .rcp, .inf s => some (zero s)
  | .rcp, .fin s n e => if n = 0 then some (infinity s) else (powerOfTwo? n e).map fun k => toF32 (.fin s 1 (-k))
  | .rsq, .inf s => some (if s then canonNan else 0)
  | .rsq, .fin s n e =>
    if n = 0 then some (infinity s) else if s then some canonNan else
    match powerOfTwo? n e with
    | some k => if k % 2 = 0 then some (toF32 (.fin false 1 (-k / 2))) else none
    | none => none
  | .exp2, .inf s => some (if s then 0 else infinity false)
  | .exp2, .fin s n e =>
    let atLeast (k : Nat) : Bool := decide (Num.cmp (.fin false n e) (.fin false k 0) ≥ 0)
    if !s && atLeast 128 then some (infinity false)
    else if s && atLeast 150 then some 0
    else match quarters? s n e with
      | some q => if q % 4 = 0 then some (toF32 (.fin false 1 (q / 4))) else none
      | none => none
  | .log2, .inf s => some (if s then canonNan else infinity false)
  | .log2, .fin s n e =>
    if n = 0 then some (infinity true) else if s then some canonNan else
    (powerOfTwo? n e).map fun k => toF32 (.fin (decide (k < 0)) k.natAbs 0)
  | .sin, .inf _ => some canonNan
  | .sin, .fin s n e =>
    if n = 0 then some (zero s) else
    match quarters? s n e with
    | some q => some (if q % 4 = 1 then 0x3F800000 else if q % 4 = 3 then 0xBF800000 else 0)
    | none => none
  | .cos, .inf _ => some canonNan
  | .cos, .fin s n e =>
    match quarters? s n e with
    | some q => some (if q % 4 = 0 then 0x3F800000 else if q % 4 = 2 then 0xBF800000 else 0)
    | none => none

/-- The number of ulp that Table 7.9 allows. -/
def approxUlps : ApproxFn → Nat
  | .rcp | .rsq => 1
  | .exp2 | .log2 | .sin | .cos => 2

/-- Whether the absolute bound of 2^−22 applies as well (Table 7.9). -/
def absBound (fn : ApproxFn) (a : Word) : Bool :=
  match fn with
  | .rcp | .rsq | .exp2 => false
  | .log2 => decide ((f32 a).cmp (.fin false 1 (-1)) ≥ 0) && decide ((f32 a).cmp (.fin false 2 0) ≤ 0)
  | .sin | .cos => true

/-- The magnitude of the difference of two finite values. -/
def distance (x y : Num) : Num :=
  match x.add y.neg with
  | .fin _ n e => .fin false n e
  | d => d

/-- One ulp of FP32 at an exact value (R155). -/
def ulpAt : Num → Num
  | .fin _ n e => .fin false 1 (max (floorLog n 1 + e) (-126) - 23)
  | x => x

/-- Whether the bits `r` lie within the bound of Table 7.9 of the value `v`, which stands for the exact one (log 9). -/
def withinBound (fn : ApproxFn) (a : Word) (v : Num) (r : Word) : Bool :=
  match f32 r with
  | .nan => false
  | .inf _ => false
  | x =>
    let d := distance x v
    decide (d.cmp ((ulpAt v).mul (.fin false (approxUlps fn) 0)) ≤ 0) || (absBound fn a && decide (d.cmp (.fin false 1 (-22)) ≤ 0))

/-- FRCP, FRSQ, FEXP2, FLOG2, FSIN and FCOS: the exact results of Table 7.9; otherwise the implementation's bits where
they keep the bound, and the nearest value where they do not. -/
def approx (fn : ApproxFn) (a : Word) : Word :=
  match approxExact fn a with
  | some r => r
  | none =>
    match f32 a with
    | .fin s n e =>
      let v := approxValue fn s n e
      if v.cmp (f32 0x7F7FFFFF) > 0 then 0x7F800000
      else if v.cmp (f32 0xFF7FFFFF) < 0 then 0xFF800000
      else if withinBound fn a v (Config.approx fn a) then Config.approx fn a
      else toF32 v
    | _ => canonNan

end Sys2Proof.Machine
end

