-- ==== Sys2Proof/Machine/Flags.lean ====
section
/-! DEFINITION. Every flag computation: the conditions of ICMP, FCMP and UCMP and the predicate operations (07 R148 to R150; 08 R177). -/

namespace Sys2Proof.Machine

/-- The relation of Table 6.17 on two integers (R148). -/
def icondHolds (c : ICond) (a b : Word) : Bool :=
  match c with
  | .eq => a == b
  | .ne => a != b
  | .lt => BitVec.slt a b
  | .le => BitVec.sle a b
  | .gt => BitVec.slt b a
  | .ge => BitVec.sle b a
  | .ltu => BitVec.ult a b
  | .leu => BitVec.ule a b
  | .gtu => BitVec.ult b a
  | .geu => BitVec.ule b a

/-- The relation of Table 6.17 on two FP32 values (R149). -/
def fcondHolds (c : FCond) (a b : Word) : Bool :=
  let un := (f32 a).isNan || (f32 b).isNan
  let r := (f32 a).cmp (f32 b)
  match c with
  | .eq => !un && decide (r = 0)
  | .ne => un || decide (r ≠ 0)
  | .lt => !un && decide (r < 0)
  | .le => !un && decide (r ≤ 0)
  | .gt => !un && decide (r > 0)
  | .ge => !un && decide (r ≥ 0)
  | .un => un
  | .ord => !un

/-- KAND, KOR, KXOR, KANDN and their squad forms (R150, R177). -/
def predAnd (a b : Bool) : Bool := a && b
def predOr (a b : Bool) : Bool := a || b
def predXor (a b : Bool) : Bool := a != b
def predAndn (a b : Bool) : Bool := a && !b

/-- KTOV (R150). -/
def predWord (a : Bool) : Word := if a then 1 else 0

/-- VTOK (R150). -/
def wordPred (a : Word) : Bool := a != 0

end Sys2Proof.Machine
end

