-- ==== Sys2Proof/Machine/Lane.lean ====
section
/-! DEFINITION. Lane instructions: arithmetic, moves, predicates, conversion (07 R137 to R160). -/

namespace Sys2Proof.Machine

open Host (Outcome)

/-- The value of a v register written in each lane, in both copies (R137, R336). `f` reads the copy it is asked for. -/
def setLanes (vd : Nat) (f : State → Bool → Nat → Word) (ts : List Nat) (s : State) : State :=
  ts.foldl (fun s t => modThread t (Thread.setV vd (f s false t) (f s true t)) s) s

/-- The same for a register pair (R128). -/
def setLanes64 (vd : Nat) (f : State → Bool → Nat → DWord) (ts : List Nat) (s : State) : State :=
  ts.foldl (fun s t => modThread t (Thread.setV64 vd (f s false t) (f s true t)) s) s

/-- The same for a predicate. -/
def setLaneK (kd : Nat) (f : State → Bool → Nat → Bool) (ts : List Nat) (s : State) : State :=
  ts.foldl (fun s t => modThread t (Thread.setK kd (f s false t) (f s true t)) s) s

/-- vd ← f(a) (form LR with one source). -/
def lane1 (e : Bool) (vd : Fin 128) (xa : Src) (f : Word → Word) (s : State) : State :=
  laneWord e (useCauses s (use1 vd xa)) (setLanes vd.val fun s sh t => f (src s sh t xa)) s

/-- vd ← f(a, b) (form LR). -/
def lane2 (e : Bool) (vd : Fin 128) (xa xb : Src) (f : Word → Word → Word) (s : State) : State :=
  laneWord e (useCauses s (use2 vd xa xb)) (setLanes vd.val fun s sh t => f (src s sh t xa) (src s sh t xb)) s

/-- vd ← f(vd, a, b), for the forms that read vd. -/
def lane3 (e : Bool) (vd : Fin 128) (xa xb : Src) (f : Word → Word → Word → Word) (s : State) : State :=
  laneWord e (useCauses s (use3 vd xa xb))
    (setLanes vd.val fun s sh t => f (readV s sh t vd.val) (src s sh t xa) (src s sh t xb)) s

/-- kd ← f(a, b) (form LC). -/
def laneCmp (e : Bool) (kd : Fin 8) (xa xb : Src) (f : Word → Word → Bool) (s : State) : State :=
  laneWord e (useCauses s (useCmp kd xa xb)) (setLaneK kd.val fun s sh t => f (src s sh t xa) (src s sh t xb)) s

/-- kd ← f(ka, kb) (R150). -/
def laneKop (e : Bool) (kd ka kb : Fin 8) (f : Bool → Bool → Bool) (s : State) : State :=
  laneWord e (useCauses s (useKop kd ka kb)) (setLaneK kd.val fun s sh t => f (readK s sh t ka.val) (readK s sh t kb.val)) s

/-! ### Special registers as a lane reads them (R119, R120; Table 1.3, Table 6.2) -/

/-- The Cellar phase counter of a die (R71). -/
def phaseOf (s : State) (d : Nat) : Nat := s.cellPhase.getD d 0

/-- sr.cellphase at count `t` of the phase counter (Table 3.2). -/
def cellphaseWord (t : Nat) : Word :=
  let act := t % 1024 < 256
  let bank := if act then t / 1024 % 16 else (t / 1024 + 1) % 16
  let left := if act then 256 - t % 1024 else 1024 - t % 1024
  BitVec.ofNat 32 ((if act then 2 ^ 20 else 0) + bank * 2 ^ 16 + left)

/-- The die's phase counter runs on by a free number of clocks: a read of it is made at a clock the model does not fix (log 7). -/
def tickPhase (d : Nat) (s : State) : State :=
  { s with cellPhase := s.cellPhase.put d ((phaseOf s d + Config.freeNat s.fresh) % 16384), fresh := s.fresh + 1 }

/-- The core ordinal of a squad, from its global number (R10). -/
def coreOrdinal (sq : Squad) : Nat := sq.gsq / 16

/-- A special register held per squad or wider, as squad `q` reads it (R119). -/
def squadSpecial (s : State) (q idx : Nat) : Word :=
  let sq := sqd s q
  let n (x : Nat) : Word := BitVec.ofNat 32 x
  match idx with
  | 0x02 => n sq.idx
  | 0x03 => n sq.gsq
  | 0x04 => n (launchOf s sq.lid).hdr.squads
  | 0x05 => n sq.role
  | 0x06 => n (coreOrdinal sq)
  | 0x07 => n (coreOrdinal sq / 8)
  | 0x08 => n (dieOf sq.core)
  | 0x09 => n sq.lid
  | 0x0C => cellphaseWord (phaseOf s (dieOf sq.core))
  | 0x0D => sq.vanish
  | 0x0E => sq.wrev
  | 0x10 => lowWord sq.hvec
  | 0x11 => highWord sq.hvec
  | 0x14 => sq.amask
  | 0x15 => sq.fmask
  | 0x16 => n sq.cause
  | 0x17 => lowWord sq.faddr
  | 0x18 => highWord sq.faddr
  | 0x19 => sq.xword
  | 0x1A => sq.xd
  | 0x1B => sq.xa
  | 0x1C => sq.xb
  | 0x1D => sq.ximm
  | _ => 0

/-- A special register as the thread of a lane reads it with MOVS. -/
def laneSpecial (s : State) (t idx : Nat) : Word :=
  match idx with
  | 0x00 => BitVec.ofNat 32 ((sqd s (squadOf t)).idx * 32 + laneOf t)
  | 0x01 => BitVec.ofNat 32 (laneOf t)
  | 0x0A => lowWord (thr s t).stk
  | 0x0B => highWord (thr s t).stk
  | 0x12 => lowWord (thr s t).hpc
  | 0x13 => highWord (thr s t).hpc
  | n => squadSpecial s (squadOf t) n

/-! ### The instructions -/

/-- NOP (R121). -/
def execNop (e : Bool) (s : State) : Outcome State Fault Refusal :=
  .next (laneWord e (fun _ => none) (fun _ s => s) s)

/-- IADD (R141) -/
def execIadd (e : Bool) (vd : Fin 128) (xa xb : Src) (s : State) : Outcome State Fault Refusal :=
  .next (lane2 e vd xa xb (fun a b => a + b) s)

/-- ISUB (R141) -/
def execIsub (e : Bool) (vd : Fin 128) (xa xb : Src) (s : State) : Outcome State Fault Refusal :=
  .next (lane2 e vd xa xb (fun a b => a - b) s)

/-- IMUL (R141) -/
def execImul (e : Bool) (vd : Fin 128) (xa xb : Src) (s : State) : Outcome State Fault Refusal :=
  .next (lane2 e vd xa xb (fun a b => a * b) s)

/-- IMULH (R141) -/
def execImulh (e : Bool) (vd : Fin 128) (xa xb : Src) (s : State) : Outcome State Fault Refusal :=
  .next (lane2 e vd xa xb (mulHigh) s)

/-- IMULHU (R141) -/
def execImulhu (e : Bool) (vd : Fin 128) (xa xb : Src) (s : State) : Outcome State Fault Refusal :=
  .next (lane2 e vd xa xb (mulHighU) s)

/-- IMIN (R141) -/
def execImin (e : Bool) (vd : Fin 128) (xa xb : Src) (s : State) : Outcome State Fault Refusal :=
  .next (lane2 e vd xa xb (minS) s)

/-- IMAX (R141) -/
def execImax (e : Bool) (vd : Fin 128) (xa xb : Src) (s : State) : Outcome State Fault Refusal :=
  .next (lane2 e vd xa xb (maxS) s)

/-- UMIN (R141) -/
def execUmin (e : Bool) (vd : Fin 128) (xa xb : Src) (s : State) : Outcome State Fault Refusal :=
  .next (lane2 e vd xa xb (minU) s)

/-- UMAX (R141) -/
def execUmax (e : Bool) (vd : Fin 128) (xa xb : Src) (s : State) : Outcome State Fault Refusal :=
  .next (lane2 e vd xa xb (maxU) s)

/-- IDIV, with the corners of R142 -/
def execIdiv (e : Bool) (vd : Fin 128) (xa xb : Src) (s : State) : Outcome State Fault Refusal :=
  .next (lane2 e vd xa xb (divS) s)

/-- UDIV (R142) -/
def execUdiv (e : Bool) (vd : Fin 128) (xa xb : Src) (s : State) : Outcome State Fault Refusal :=
  .next (lane2 e vd xa xb (divU) s)

/-- IREM (R142) -/
def execIrem (e : Bool) (vd : Fin 128) (xa xb : Src) (s : State) : Outcome State Fault Refusal :=
  .next (lane2 e vd xa xb (remS) s)

/-- UREM (R142) -/
def execUrem (e : Bool) (vd : Fin 128) (xa xb : Src) (s : State) : Outcome State Fault Refusal :=
  .next (lane2 e vd xa xb (remU) s)

/-- AND (R143) -/
def execAnd (e : Bool) (vd : Fin 128) (xa xb : Src) (s : State) : Outcome State Fault Refusal :=
  .next (lane2 e vd xa xb (fun a b => a &&& b) s)

/-- OR (R143) -/
def execOr (e : Bool) (vd : Fin 128) (xa xb : Src) (s : State) : Outcome State Fault Refusal :=
  .next (lane2 e vd xa xb (fun a b => a ||| b) s)

/-- XOR (R143) -/
def execXor (e : Bool) (vd : Fin 128) (xa xb : Src) (s : State) : Outcome State Fault Refusal :=
  .next (lane2 e vd xa xb (fun a b => a ^^^ b) s)

/-- ANDN (R143) -/
def execAndn (e : Bool) (vd : Fin 128) (xa xb : Src) (s : State) : Outcome State Fault Refusal :=
  .next (lane2 e vd xa xb (fun a b => a &&& ~~~b) s)

/-- SHL by the full 32-bit amount (R143) -/
def execShl (e : Bool) (vd : Fin 128) (xa xb : Src) (s : State) : Outcome State Fault Refusal :=
  .next (lane2 e vd xa xb (Machine.shl) s)

/-- SHR (R143) -/
def execShr (e : Bool) (vd : Fin 128) (xa xb : Src) (s : State) : Outcome State Fault Refusal :=
  .next (lane2 e vd xa xb (Machine.shr) s)

/-- SAR (R143) -/
def execSar (e : Bool) (vd : Fin 128) (xa xb : Src) (s : State) : Outcome State Fault Refusal :=
  .next (lane2 e vd xa xb (Machine.sar) s)

/-- BFE (R144) -/
def execBfe (e : Bool) (vd : Fin 128) (xa xb : Src) (s : State) : Outcome State Fault Refusal :=
  .next (lane2 e vd xa xb (bitExtract) s)

/-- FADD (R152) -/
def execFadd (e : Bool) (vd : Fin 128) (xa xb : Src) (s : State) : Outcome State Fault Refusal :=
  .next (lane2 e vd xa xb (fAdd) s)

/-- FSUB (R152) -/
def execFsub (e : Bool) (vd : Fin 128) (xa xb : Src) (s : State) : Outcome State Fault Refusal :=
  .next (lane2 e vd xa xb (fSub) s)

/-- FMUL (R152) -/
def execFmul (e : Bool) (vd : Fin 128) (xa xb : Src) (s : State) : Outcome State Fault Refusal :=
  .next (lane2 e vd xa xb (fMul) s)

/-- FMIN (R153) -/
def execFmin (e : Bool) (vd : Fin 128) (xa xb : Src) (s : State) : Outcome State Fault Refusal :=
  .next (lane2 e vd xa xb (fMin) s)

/-- FMAX (R153) -/
def execFmax (e : Bool) (vd : Fin 128) (xa xb : Src) (s : State) : Outcome State Fault Refusal :=
  .next (lane2 e vd xa xb (fMax) s)

/-- FDIV (R152) -/
def execFdiv (e : Bool) (vd : Fin 128) (xa xb : Src) (s : State) : Outcome State Fault Refusal :=
  .next (lane2 e vd xa xb (fDiv) s)

/-- FSCALE (R152) -/
def execFscale (e : Bool) (vd : Fin 128) (xa xb : Src) (s : State) : Outcome State Fault Refusal :=
  .next (lane2 e vd xa xb (fScale) s)

/-- HADD2 (R157) -/
def execHadd2 (e : Bool) (vd : Fin 128) (xa xb : Src) (s : State) : Outcome State Fault Refusal :=
  .next (lane2 e vd xa xb (padd fp16) s)

/-- HMUL2 (R157) -/
def execHmul2 (e : Bool) (vd : Fin 128) (xa xb : Src) (s : State) : Outcome State Fault Refusal :=
  .next (lane2 e vd xa xb (pmul fp16) s)

/-- BADD2 (R157) -/
def execBadd2 (e : Bool) (vd : Fin 128) (xa xb : Src) (s : State) : Outcome State Fault Refusal :=
  .next (lane2 e vd xa xb (padd bf16) s)

/-- BMUL2 (R157) -/
def execBmul2 (e : Bool) (vd : Fin 128) (xa xb : Src) (s : State) : Outcome State Fault Refusal :=
  .next (lane2 e vd xa xb (pmul bf16) s)

/-- IADD2 (R157) -/
def execIadd2 (e : Bool) (vd : Fin 128) (xa xb : Src) (s : State) : Outcome State Fault Refusal :=
  .next (lane2 e vd xa xb (Machine.iadd2) s)

/-- ISUB2 (R157) -/
def execIsub2 (e : Bool) (vd : Fin 128) (xa xb : Src) (s : State) : Outcome State Fault Refusal :=
  .next (lane2 e vd xa xb (Machine.isub2) s)

/-- IADDS2 (R157) -/
def execIadds2 (e : Bool) (vd : Fin 128) (xa xb : Src) (s : State) : Outcome State Fault Refusal :=
  .next (lane2 e vd xa xb (Machine.iadds2) s)

/-- ISUBS2 (R157) -/
def execIsubs2 (e : Bool) (vd : Fin 128) (xa xb : Src) (s : State) : Outcome State Fault Refusal :=
  .next (lane2 e vd xa xb (Machine.isubs2) s)

/-- IMAX2 (R157) -/
def execImax2 (e : Bool) (vd : Fin 128) (xa xb : Src) (s : State) : Outcome State Fault Refusal :=
  .next (lane2 e vd xa xb (Machine.imax2) s)

/-- IMIN2 (R157) -/
def execImin2 (e : Bool) (vd : Fin 128) (xa xb : Src) (s : State) : Outcome State Fault Refusal :=
  .next (lane2 e vd xa xb (Machine.imin2) s)

/-- PACK (R160) -/
def execPack (e : Bool) (vd : Fin 128) (xa xb : Src) (s : State) : Outcome State Fault Refusal :=
  .next (lane2 e vd xa xb (packHalves) s)

/-- IMAD reads vd (R141) -/
def execImad (e : Bool) (vd : Fin 128) (xa xb : Src) (s : State) : Outcome State Fault Refusal :=
  .next (lane3 e vd xa xb (fun d a b => d + a * b) s)

/-- BFI reads vd (R144) -/
def execBfi (e : Bool) (vd : Fin 128) (xa xb : Src) (s : State) : Outcome State Fault Refusal :=
  .next (lane3 e vd xa xb (bitInsert) s)

/-- FFMA reads vd (R152) -/
def execFfma (e : Bool) (vd : Fin 128) (xa xb : Src) (s : State) : Outcome State Fault Refusal :=
  .next (lane3 e vd xa xb (fFma) s)

/-- HFMA2 (R157) -/
def execHfma2 (e : Bool) (vd : Fin 128) (xa xb : Src) (s : State) : Outcome State Fault Refusal :=
  .next (lane3 e vd xa xb (pfma fp16) s)

/-- BFMA2 (R157) -/
def execBfma2 (e : Bool) (vd : Fin 128) (xa xb : Src) (s : State) : Outcome State Fault Refusal :=
  .next (lane3 e vd xa xb (pfma bf16) s)

/-- IDP4 (R158) -/
def execIdp4 (e : Bool) (vd : Fin 128) (xa xb : Src) (s : State) : Outcome State Fault Refusal :=
  .next (lane3 e vd xa xb (Machine.idp4) s)

/-- UDP4 (R158) -/
def execUdp4 (e : Bool) (vd : Fin 128) (xa xb : Src) (s : State) : Outcome State Fault Refusal :=
  .next (lane3 e vd xa xb (Machine.udp4) s)

/-- HDP2 (R158) -/
def execHdp2 (e : Bool) (vd : Fin 128) (xa xb : Src) (s : State) : Outcome State Fault Refusal :=
  .next (lane3 e vd xa xb (fdp2 fp16) s)

/-- BDP2 (R158) -/
def execBdp2 (e : Bool) (vd : Fin 128) (xa xb : Src) (s : State) : Outcome State Fault Refusal :=
  .next (lane3 e vd xa xb (fdp2 bf16) s)

/-- POPC (R143) -/
def execPopc (e : Bool) (vd : Fin 128) (xa : Src) (s : State) : Outcome State Fault Refusal :=
  .next (lane1 e vd xa (popCount) s)

/-- CLZ (R143) -/
def execClz (e : Bool) (vd : Fin 128) (xa : Src) (s : State) : Outcome State Fault Refusal :=
  .next (lane1 e vd xa (leadingZeros) s)

/-- BREV (R143) -/
def execBrev (e : Bool) (vd : Fin 128) (xa : Src) (s : State) : Outcome State Fault Refusal :=
  .next (lane1 e vd xa (bitReverse) s)

/-- MOV (R146) -/
def execMov (e : Bool) (vd : Fin 128) (xa : Src) (s : State) : Outcome State Fault Refusal :=
  .next (lane1 e vd xa (fun a => a) s)

/-- FABS (R154) -/
def execFabs (e : Bool) (vd : Fin 128) (xa : Src) (s : State) : Outcome State Fault Refusal :=
  .next (lane1 e vd xa (fAbs) s)

/-- FNEG (R154) -/
def execFneg (e : Bool) (vd : Fin 128) (xa : Src) (s : State) : Outcome State Fault Refusal :=
  .next (lane1 e vd xa (fNeg) s)

/-- FFLOOR (R154) -/
def execFfloor (e : Bool) (vd : Fin 128) (xa : Src) (s : State) : Outcome State Fault Refusal :=
  .next (lane1 e vd xa (fInt .rdn) s)

/-- FCEIL (R154) -/
def execFceil (e : Bool) (vd : Fin 128) (xa : Src) (s : State) : Outcome State Fault Refusal :=
  .next (lane1 e vd xa (fInt .rup) s)

/-- FTRUNC (R154) -/
def execFtrunc (e : Bool) (vd : Fin 128) (xa : Src) (s : State) : Outcome State Fault Refusal :=
  .next (lane1 e vd xa (fInt .rtz) s)

/-- FRINT (R154) -/
def execFrint (e : Bool) (vd : Fin 128) (xa : Src) (s : State) : Outcome State Fault Refusal :=
  .next (lane1 e vd xa (fInt .rne) s)

/-- FRCP (R155) -/
def execFrcp (e : Bool) (vd : Fin 128) (xa : Src) (s : State) : Outcome State Fault Refusal :=
  .next (lane1 e vd xa (approx .rcp) s)

/-- FRSQ (R155) -/
def execFrsq (e : Bool) (vd : Fin 128) (xa : Src) (s : State) : Outcome State Fault Refusal :=
  .next (lane1 e vd xa (approx .rsq) s)

/-- FSQRT (R154) -/
def execFsqrt (e : Bool) (vd : Fin 128) (xa : Src) (s : State) : Outcome State Fault Refusal :=
  .next (lane1 e vd xa (fSqrt) s)

/-- FEXP2 (R155) -/
def execFexp2 (e : Bool) (vd : Fin 128) (xa : Src) (s : State) : Outcome State Fault Refusal :=
  .next (lane1 e vd xa (approx .exp2) s)

/-- FLOG2 (R155) -/
def execFlog2 (e : Bool) (vd : Fin 128) (xa : Src) (s : State) : Outcome State Fault Refusal :=
  .next (lane1 e vd xa (approx .log2) s)

/-- FSIN (R155) -/
def execFsin (e : Bool) (vd : Fin 128) (xa : Src) (s : State) : Outcome State Fault Refusal :=
  .next (lane1 e vd xa (approx .sin) s)

/-- FCOS (R155) -/
def execFcos (e : Bool) (vd : Fin 128) (xa : Src) (s : State) : Outcome State Fault Refusal :=
  .next (lane1 e vd xa (approx .cos) s)

/-- FCLASS (R156) -/
def execFclass (e : Bool) (vd : Fin 128) (xa : Src) (s : State) : Outcome State Fault Refusal :=
  .next (lane1 e vd xa (fClass) s)

/-- IADDI (R145) -/
def execIaddi (e : Bool) (vd : Fin 128) (xa : Src) (imm : BitVec 8) (s : State) : Outcome State Fault Refusal :=
  .next (lane1 e vd xa (fun a => a + sext imm) s)

/-- ANDI (R145) -/
def execAndi (e : Bool) (vd : Fin 128) (xa : Src) (imm : BitVec 8) (s : State) : Outcome State Fault Refusal :=
  .next (lane1 e vd xa (fun a => a &&& sext imm) s)

/-- ORI (R145) -/
def execOri (e : Bool) (vd : Fin 128) (xa : Src) (imm : BitVec 8) (s : State) : Outcome State Fault Refusal :=
  .next (lane1 e vd xa (fun a => a ||| sext imm) s)

/-- XORI (R145) -/
def execXori (e : Bool) (vd : Fin 128) (xa : Src) (imm : BitVec 8) (s : State) : Outcome State Fault Refusal :=
  .next (lane1 e vd xa (fun a => a ^^^ sext imm) s)

/-- SHLI (R145) -/
def execShli (e : Bool) (vd : Fin 128) (xa : Src) (imm : BitVec 8) (s : State) : Outcome State Fault Refusal :=
  .next (lane1 e vd xa (fun a => Machine.shl a (zext imm)) s)

/-- SHRI (R145) -/
def execShri (e : Bool) (vd : Fin 128) (xa : Src) (imm : BitVec 8) (s : State) : Outcome State Fault Refusal :=
  .next (lane1 e vd xa (fun a => Machine.shr a (zext imm)) s)

/-- SARI (R145) -/
def execSari (e : Bool) (vd : Fin 128) (xa : Src) (imm : BitVec 8) (s : State) : Outcome State Fault Refusal :=
  .next (lane1 e vd xa (fun a => Machine.sar a (zext imm)) s)

/-- MOVI (R146) -/
def execMovi (e : Bool) (vd : Fin 128) (imm : BitVec 16) (s : State) : Outcome State Fault Refusal :=
  .next (laneWord e (useCauses s { vw := [vd.val] }) (setLanes vd.val fun _ _ _ => sext imm) s)

/-- MOVHI keeps the low half of vd (R146) -/
def execMovhi (e : Bool) (vd : Fin 128) (imm : BitVec 16) (s : State) : Outcome State Fault Refusal :=
  .next (laneWord e (useCauses s { vr := [vd.val], vw := [vd.val] }) (setLanes vd.val fun s sh t => moveHigh (readV s sh t vd.val) imm) s)

/-- SEL chooses by k0 (R146) -/
def execSel (e : Bool) (vd : Fin 128) (xa xb : Src) (s : State) : Outcome State Fault Refusal :=
  .next (laneWord e (useCauses s (useSel vd xa xb))
    (setLanes vd.val fun s sh t => if readK s sh t 0 then src s sh t xa else src s sh t xb) s)

/-- MOVS (R147, R120). A read of sr.cellphase is made at a free clock of each die's counter. -/
def execMovs (e : Bool) (vd : Fin 128) (idx : BitVec 8) (s : State) : Outcome State Fault Refusal :=
  let s := if idx.toNat = 0x0C then tickPhase (dieOf s.cur.core) s else s
  .next (laneWord e (useCauses s { vw := [vd.val] }) (setLanes vd.val fun s _ t => laneSpecial s t idx.toNat) s)

/-- ICMP (R148) -/
def execIcmp (e : Bool) (cc : ICond) (kd : Fin 8) (xa xb : Src) (s : State) : Outcome State Fault Refusal :=
  .next (laneCmp e kd xa xb (icondHolds cc) s)

/-- FCMP (R149) -/
def execFcmp (e : Bool) (cc : FCond) (kd : Fin 8) (xa xb : Src) (s : State) : Outcome State Fault Refusal :=
  .next (laneCmp e kd xa xb (fcondHolds cc) s)

/-- KAND (R150) -/
def execKand (e : Bool) (kd ka kb : Fin 8) (s : State) : Outcome State Fault Refusal :=
  .next (laneKop e kd ka kb predAnd s)

/-- KOR (R150) -/
def execKor (e : Bool) (kd ka kb : Fin 8) (s : State) : Outcome State Fault Refusal :=
  .next (laneKop e kd ka kb predOr s)

/-- KXOR (R150) -/
def execKxor (e : Bool) (kd ka kb : Fin 8) (s : State) : Outcome State Fault Refusal :=
  .next (laneKop e kd ka kb predXor s)

/-- KANDN (R150) -/
def execKandn (e : Bool) (kd ka kb : Fin 8) (s : State) : Outcome State Fault Refusal :=
  .next (laneKop e kd ka kb predAndn s)

/-- KNOT (R150) -/
def execKnot (e : Bool) (kd ka : Fin 8) (s : State) : Outcome State Fault Refusal :=
  .next (laneKop e kd ka ka (fun a _ => !a) s)

/-- KTOV (R150) -/
def execKtov (e : Bool) (vd : Fin 128) (ka : Fin 8) (s : State) : Outcome State Fault Refusal :=
  .next (laneWord e (useCauses s { vw := [vd.val], kr := [ka.val] }) (setLanes vd.val fun s sh t => predWord (readK s sh t ka.val)) s)

/-- VTOK (R150) -/
def execVtok (e : Bool) (kd : Fin 8) (xa : Src) (s : State) : Outcome State Fault Refusal :=
  .next (laneWord e (useCauses s { vr := srcV 1 xa, sr := srcS 1 xa, kw := [kd.val] }) (setLaneK kd.val fun s sh t => wordPred (src s sh t xa)) s)

/-- IADD64 (R151) -/
def execIadd64 (e : Bool) (vd : Fin 128) (xa xb : Src) (s : State) : Outcome State Fault Refusal :=
  .next (laneWord e (useCauses s (use64 vd xa xb)) (setLanes64 vd.val fun s sh t => src64 s sh t xa + src64 s sh t xb) s)

/-- IMULW (R151) -/
def execImulw (e : Bool) (vd : Fin 128) (xa xb : Src) (s : State) : Outcome State Fault Refusal :=
  .next (laneWord e (useCauses s (useWide vd xa xb)) (setLanes64 vd.val fun s sh t => mulWide (src s sh t xa) (src s sh t xb)) s)

/-- CVT (R159) -/
def execCvt (e : Bool) (conv : Conv) (mode : RMode) (inf : Bool) (vd : Fin 128) (xa : Src) (s : State) : Outcome State Fault Refusal :=
  .next (lane1 e vd xa (cvt conv mode inf) s)

end Sys2Proof.Machine
end

