-- ==== Sys2Proof/Machine/Squad.lean ====
section
/-! DEFINITION. Squad instructions: arithmetic, predicates, special registers, memory, fences and branches (08 R174 to R179, R187). -/

namespace Sys2Proof.Machine

open Host (Outcome)

/-- A squad word that writes one s register: `f` reads a copy (R29, R336). -/
def squadSet (e : Bool) (u : Uses) (sd : Fin 64) (f : State → Bool → Nat → Word) (s : State) : State :=
  squadWord e (fun s q _ => squadCauses s u q) (fun q _ s => writeS q sd.val (f s false q) (f s true q) s) s

/-- The same for a register pair (R128). -/
def squadSet64 (e : Bool) (u : Uses) (sd : Fin 64) (f : State → Bool → Nat → DWord) (s : State) : State :=
  squadWord e (fun s q _ => squadCauses s u q) (fun q _ s => writeS64 q sd.val (f s false q) (f s true q) s) s

/-- The same for a j predicate. -/
def squadSetJ (e : Bool) (u : Uses) (jd : Fin 8) (f : State → Bool → Nat → Bool) (s : State) : State :=
  squadWord e (fun s q _ => squadCauses s u q) (fun q _ s => writeJ q jd.val (f s false q) (f s true q) s) s

/-- sd ← f(a, b) (R175). -/
def squad2 (e : Bool) (sd sa sb : Fin 64) (f : Word → Word → Word) (s : State) : State :=
  squadSet e (useU2 sd sa sb) sd (fun s sh q => f (readS s sh q sa.val) (readS s sh q sb.val)) s

/-- sd ← f(a) (R176). -/
def squad1 (e : Bool) (sd sa : Fin 64) (f : Word → Word) (s : State) : State :=
  squadSet e (useU1 sd sa) sd (fun s sh q => f (readS s sh q sa.val)) s

/-- jd ← f(ja, jb) (R177). -/
def squadJop (e : Bool) (jd ja jb : Fin 8) (f : Bool → Bool → Bool) (s : State) : State :=
  squadSetJ e (useJop jd ja jb) jd (fun s sh q => f (readJ s sh q ja.val) (readJ s sh q jb.val)) s

/-- A special register as a squad reads it with URDS: indices 0x80 to 0xBF are the halves of sr.hpc of a lane, 0 for a lane
that is absent (R120, R178). -/
def urdsValue (s : State) (q idx : Nat) : Word :=
  if 0x80 ≤ idx ∧ idx < 0xA0 then
    (if (sqd s q).present.contains (idx - 0x80) then lowWord (thr s (threadKey q (idx - 0x80))).hpc else 0)
  else if 0xA0 ≤ idx ∧ idx < 0xC0 then
    (if (sqd s q).present.contains (idx - 0xA0) then highWord (thr s (threadKey q (idx - 0xA0))).hpc else 0)
  else squadSpecial s q idx

/-! ### Squad memory (R179) -/

/-- The thread that makes a squad's accesses: the one on the lowest home lane in the wave. -/
def lowestLane (ts : List Nat) : Nat := (byLane ts).headD 0

/-- EA of a squad access. -/
def eaSquad (sa : Fin 64) (imm : BitVec 11) (size : Nat) (s : State) (sh : Bool) (q : Nat) : DWord :=
  readS64 s sh q sa.val + BitVec.ofInt 64 (imm.toInt * size)

/-- The pages that squads without a cause still need. -/
def squadMisses (s : State) (check : State → Nat → List Nat → Option Cause) (tr : State → Nat → List Nat → Trans) : List (Nat × List Nat) :=
  ((squadsIn s s.cur.threads).filter fun q => (check s q (ofSquad q s.cur.threads)).isNone).map fun q =>
    (lowestLane (ofSquad q s.cur.threads), transMiss (tr s q (ofSquad q s.cur.threads)))

/-- ULDW and ULDD: `size` bytes to `size / 4` registers. -/
def squadLoad (e : Bool) (u : Uses) (sd sa : Fin 64) (imm : BitVec 11) (size : Nat) (s : State) : State :=
  let ea := eaSquad sa imm size
  let tr (s : State) (q : Nat) (ts : List Nat) : Trans := threadTrans s (lowestLane ts) .load (ea s false q) size
  let check (s : State) (q : Nat) (ts : List Nat) : Option Cause :=
    lowest [squadCauses s u q, transCause (tr s q ts) (ea s false q), mismatchIf (ea s false q != ea s true q) (ea s false q)]
  let act (q : Nat) (ts : List Nat) (s : State) : State :=
    issueLoad (lowestLane ts) (ea s false q) size (size / 4) (.s q sd.val) (transPieces (tr s q ts)) s
  orMiss false (squadMisses s check tr) (fun s =>
    if e then
      lastLoads (squadFaults s s.cur.threads (check s)) s.cur.threads
        (fun good s => (squadsIn s good).foldl (fun s q => act q (ofSquad q good) s) s) s
    else squadWord false check act s) s

/-- USTW. -/
def squadStore (e : Bool) (u : Uses) (sd sa : Fin 64) (imm : BitVec 11) (s : State) : State :=
  let ea := eaSquad sa imm 4
  let tr (s : State) (q : Nat) (ts : List Nat) : Trans := threadTrans s (lowestLane ts) .store (ea s false q) 4
  let check (s : State) (q : Nat) (ts : List Nat) : Option Cause :=
    lowest [squadCauses s u q, transCause (tr s q ts) (ea s false q),
      mismatchIf (ea s false q != ea s true q || readS s false q sd.val != readS s true q sd.val) (ea s false q)]
  let act (q : Nat) (ts : List Nat) (s : State) : State :=
    bufferPieces (thr s (lowestLane ts)).agent (ea s false q) (natLe 4 (readS s false q sd.val).toNat) false
      none (transPieces (tr s q ts)) s
  orMiss true (squadMisses s check tr) (squadWord e check act) s

/-! ### Fences (R95, R174) -/

/-- A fence of one thread's agent, after its run has ended. At thread scope it waits for nothing and orders nothing (R174). -/
def fence (x : Scope) (acq rel : Bool) (t : Nat) (s : State) : State :=
  if x = .thread then s else
  let a := (thr s t).agent
  let s := if rel then
      let (y, s) := newId s
      (addRelease a x true y { s with syncs := s.syncs.put y ⟨[], [], .fence, false, none⟩ }).2
    else s
  if acq then
    settleHolds a (modAgent a (fun g => { g with
      holds := g.holds ++ [⟨g.nextSeq, x, false, if rel then some g.nextSid else none, true, none⟩], nextSeq := g.nextSeq + 1 }) s)
  else s

/-- UFENCE: each execution is a fence for every thread of its squad in the wave. -/
def execUfence (ord : Ord) (s : State) : Outcome State Fault Refusal :=
  .next (lastSquad (fun _ _ _ => none) (fun _ ts s =>
    ts.foldl (fun s t => fence ord.scope ord.acq ord.rel t s) (leaveRuns ts (fun _ => s.cur.pc + 4) s)) s)

/-! ### Squad branches (R187) -/

/-- A squad branch, decided once for each squad present. -/
def squadBranch (k : Fin 8) (off : BitVec 20) (on : Bool) (s : State) : State :=
  let next (q : Nat) : DWord := if readJ s false q k.val == on then branchTarget s off else s.cur.pc + 4
  lastSquad
    (fun _ q _ => lowest [squadCauses s { jr := [k.val] } q, mismatchIf (readJ s false q k.val != readJ s true q k.val) (next q)])
    (fun q ts s' => leaveRuns ts (fun _ => next q) s') s

/-- UBR (R187). -/
def execUbr (k : Fin 8) (off : BitVec 20) (s : State) : Outcome State Fault Refusal := .next (squadBranch k off true s)

/-- UBRN (R187). -/
def execUbrn (k : Fin 8) (off : BitVec 20) (s : State) : Outcome State Fault Refusal := .next (squadBranch k off false s)

/-- UNOP (R121). -/
def execUnop (e : Bool) (s : State) : Outcome State Fault Refusal :=
  .next (squadWord e (fun _ _ _ => none) (fun _ _ s => s) s)

/-- URDS (R178). A read of sr.cellphase is made at a free clock of the die's counter. -/
def execUrds (e : Bool) (sd : Fin 64) (idx : BitVec 8) (s : State) : Outcome State Fault Refusal :=
  let s := if idx.toNat = 0x0C then tickPhase (dieOf s.cur.core) s else s
  .next (squadSet e { sw := [sd.val] } sd (fun s _ q => urdsValue s q idx.toNat) s)

/-- UADD (R175) -/
def execUadd (e : Bool) (sd sa sb : Fin 64) (s : State) : Outcome State Fault Refusal :=
  .next (squad2 e sd sa sb (fun a b => a + b) s)

/-- USUB (R175) -/
def execUsub (e : Bool) (sd sa sb : Fin 64) (s : State) : Outcome State Fault Refusal :=
  .next (squad2 e sd sa sb (fun a b => a - b) s)

/-- UMUL (R175) -/
def execUmul (e : Bool) (sd sa sb : Fin 64) (s : State) : Outcome State Fault Refusal :=
  .next (squad2 e sd sa sb (fun a b => a * b) s)

/-- UMULH (R175) -/
def execUmulh (e : Bool) (sd sa sb : Fin 64) (s : State) : Outcome State Fault Refusal :=
  .next (squad2 e sd sa sb (mulHigh) s)

/-- UAND (R175) -/
def execUand (e : Bool) (sd sa sb : Fin 64) (s : State) : Outcome State Fault Refusal :=
  .next (squad2 e sd sa sb (fun a b => a &&& b) s)

/-- UOR (R175) -/
def execUor (e : Bool) (sd sa sb : Fin 64) (s : State) : Outcome State Fault Refusal :=
  .next (squad2 e sd sa sb (fun a b => a ||| b) s)

/-- UXOR (R175) -/
def execUxor (e : Bool) (sd sa sb : Fin 64) (s : State) : Outcome State Fault Refusal :=
  .next (squad2 e sd sa sb (fun a b => a ^^^ b) s)

/-- USHL (R175) -/
def execUshl (e : Bool) (sd sa sb : Fin 64) (s : State) : Outcome State Fault Refusal :=
  .next (squad2 e sd sa sb (shl) s)

/-- USHR (R175) -/
def execUshr (e : Bool) (sd sa sb : Fin 64) (s : State) : Outcome State Fault Refusal :=
  .next (squad2 e sd sa sb (shr) s)

/-- USAR (R175) -/
def execUsar (e : Bool) (sd sa sb : Fin 64) (s : State) : Outcome State Fault Refusal :=
  .next (squad2 e sd sa sb (sar) s)

/-- UIMIN (R175) -/
def execUimin (e : Bool) (sd sa sb : Fin 64) (s : State) : Outcome State Fault Refusal :=
  .next (squad2 e sd sa sb (minS) s)

/-- UIMAX (R175) -/
def execUimax (e : Bool) (sd sa sb : Fin 64) (s : State) : Outcome State Fault Refusal :=
  .next (squad2 e sd sa sb (maxS) s)

/-- UMINU (R175) -/
def execUminu (e : Bool) (sd sa sb : Fin 64) (s : State) : Outcome State Fault Refusal :=
  .next (squad2 e sd sa sb (minU) s)

/-- UMAXU (R175) -/
def execUmaxu (e : Bool) (sd sa sb : Fin 64) (s : State) : Outcome State Fault Refusal :=
  .next (squad2 e sd sa sb (maxU) s)

/-- UADDI (R176) -/
def execUaddi (e : Bool) (sd sa : Fin 64) (imm : BitVec 11) (s : State) : Outcome State Fault Refusal :=
  .next (squad1 e sd sa (fun a => a + sext imm) s)

/-- UANDI (R176) -/
def execUandi (e : Bool) (sd sa : Fin 64) (imm : BitVec 11) (s : State) : Outcome State Fault Refusal :=
  .next (squad1 e sd sa (fun a => a &&& sext imm) s)

/-- USHLI (R176) -/
def execUshli (e : Bool) (sd sa : Fin 64) (imm : BitVec 11) (s : State) : Outcome State Fault Refusal :=
  .next (squad1 e sd sa (fun a => shl a (zext imm)) s)

/-- USHRI (R176) -/
def execUshri (e : Bool) (sd sa : Fin 64) (imm : BitVec 11) (s : State) : Outcome State Fault Refusal :=
  .next (squad1 e sd sa (fun a => shr a (zext imm)) s)

/-- UMOVI (R176) -/
def execUmovi (e : Bool) (sd : Fin 64) (imm : BitVec 16) (s : State) : Outcome State Fault Refusal :=
  .next (squadSet e { sw := [sd.val] } sd (fun _ _ _ => sext imm) s)

/-- UMOVHI keeps the low half of sd (R176) -/
def execUmovhi (e : Bool) (sd : Fin 64) (imm : BitVec 16) (s : State) : Outcome State Fault Refusal :=
  .next (squad1 e sd sd (fun a => moveHigh a imm) s)

/-- UMOV (R176) -/
def execUmov (e : Bool) (sd sa : Fin 64) (s : State) : Outcome State Fault Refusal :=
  .next (squad1 e sd sa (fun a => a) s)

/-- UADD64 (R176) -/
def execUadd64 (e : Bool) (sd sa sb : Fin 64) (s : State) : Outcome State Fault Refusal :=
  .next (squadSet64 e { sr := group sa.val 2 ++ group sb.val 2, sw := group sd.val 2 } sd
    (fun s sh q => readS64 s sh q sa.val + readS64 s sh q sb.val) s)

/-- UADDI64 (R176) -/
def execUaddi64 (e : Bool) (sd sa : Fin 64) (imm : BitVec 11) (s : State) : Outcome State Fault Refusal :=
  .next (squadSet64 e { sr := group sa.val 2, sw := group sd.val 2 } sd
    (fun s sh q => readS64 s sh q sa.val + imm.signExtend 64) s)

/-- UCMP (R177) -/
def execUcmp (e : Bool) (cc : ICond) (jd : Fin 8) (sa sb : Fin 64) (s : State) : Outcome State Fault Refusal :=
  .next (squadSetJ e { sr := [sa.val, sb.val], jw := [jd.val] } jd
    (fun s sh q => icondHolds cc (readS s sh q sa.val) (readS s sh q sb.val)) s)

/-- JAND (R177) -/
def execJand (e : Bool) (jd ja jb : Fin 8) (s : State) : Outcome State Fault Refusal :=
  .next (squadJop e jd ja jb predAnd s)

/-- JOR (R177) -/
def execJor (e : Bool) (jd ja jb : Fin 8) (s : State) : Outcome State Fault Refusal :=
  .next (squadJop e jd ja jb predOr s)

/-- JXOR (R177) -/
def execJxor (e : Bool) (jd ja jb : Fin 8) (s : State) : Outcome State Fault Refusal :=
  .next (squadJop e jd ja jb predXor s)

/-- JANDN (R177) -/
def execJandn (e : Bool) (jd ja jb : Fin 8) (s : State) : Outcome State Fault Refusal :=
  .next (squadJop e jd ja jb predAndn s)

/-- JNOT (R177) -/
def execJnot (e : Bool) (jd ja : Fin 8) (s : State) : Outcome State Fault Refusal :=
  .next (squadJop e jd ja ja (fun a _ => !a) s)

/-- ULDW (R179) -/
def execUldw (e : Bool) (sd sa : Fin 64) (imm : BitVec 11) (s : State) : Outcome State Fault Refusal :=
  .next (squadLoad e (useTok 2 sd sa) sd sa imm 4 s)

/-- ULDD (R179) -/
def execUldd (e : Bool) (sd sa : Fin 64) (imm : BitVec 11) (s : State) : Outcome State Fault Refusal :=
  .next (squadLoad e { sr := group sa.val 2, sw := group sd.val 2 } sd sa imm 8 s)

/-- USTW (R179) -/
def execUstw (e : Bool) (sd sa : Fin 64) (imm : BitVec 11) (s : State) : Outcome State Fault Refusal :=
  .next (squadStore e { sr := sd.val :: group sa.val 2 } sd sa imm s)

end Sys2Proof.Machine
end

