-- ==== Sys2Proof/Machine/Queues.lean ====
section
/-! DEFINITION. Queue-register instructions: QPUSHV, QPOPV, QPUSH, QPOP and QTRY (06 R134; 08 R180; 09 R191). -/

namespace Sys2Proof.Machine

open Host (Outcome)

/-- Queue misuse: q0 to q7 (R134). -/
def queueCause (q : Fin 16) : Option Cause := causeIf (decide (q.val < 8)) 0x07

/-- A disagreement of the copies in squad registers that a word reads (R337). -/
def squadMismatch (s : State) (q : Nat) (ns : List Nat) : Option Cause :=
  mismatchIf (ns.any fun n => readS s false q n != readS s true q n) 0

/-- The causes of a squad word of the engines and of synchronisation: poisoned operands, its own, and a disagreement of the
copies in the registers and predicates it reads (R326, R337). -/
def operandCause (s : State) (u : Uses) (q : Nat) (own : Option Cause) : Option Cause :=
  lowest [squadCauses s u q, own, squadMismatch s q u.sr,
    mismatchIf (u.jr.any fun n => readJ s false q n != readJ s true q n) 0]

/-- QPUSHV: each lane's word enters in home-lane order; lanes that must wait leave the wave (R191). -/
def execQpushv (n : Fin 16) (vd : Fin 128) (s : State) : Outcome State Fault Refusal :=
  .next (lastLane
    (fun t => lowest [useCauses s { vr := [vd.val] } t, queueCause n,
      mismatchIf (readV s false t vd.val != readV s true t vd.val) 0, wordMismatch s [t]])
    (fun ts s' => (byLane ts).foldl (fun s' t =>
      waitSquad (squadOf t) [t] (.pushV (sqd s (squadOf t)).block n.val (readV s false t vd.val)) s') s') s)

/-- QPOPV: each lane takes a word in home-lane order (R191). -/
def execQpopv (vd : Fin 128) (n : Fin 16) (s : State) : Outcome State Fault Refusal :=
  .next (lastLane
    (fun t => lowest [useCauses s { vw := [vd.val] } t, queueCause n, wordMismatch s [t]])
    (fun ts s' => (byLane ts).foldl (fun s' t =>
      waitSquad (squadOf t) [t] (.popV (sqd s (squadOf t)).block n.val vd.val) s') s') s)

/-- QPUSH (R180). -/
def execQpush (n : Fin 16) (sa : Fin 64) (s : State) : Outcome State Fault Refusal :=
  .next (lastSquad
    (fun s q _ => operandCause s (useDesc 1 sa) q (queueCause n))
    (fun q ts s => waitSquad q ts (.push (sqd s q).block n.val (readS s false q sa.val)) s) s)

/-- QPOP (R180). -/
def execQpop (sd : Fin 64) (n : Fin 16) (s : State) : Outcome State Fault Refusal :=
  .next (lastSquad
    (fun _ _ _ => queueCause n)
    (fun q ts s => waitSquad q ts (.pop (sqd s q).block n.val sd.val) s) s)

/-- The head of a queue as QTRY sees it: none while the queue is empty, while its head is claimed, or while a claim of no fixed
size precedes it (R180, R196). -/
def tryHead (s : State) (b n : Nat) : Option Word :=
  if popPlace s b n s.nextId = some 0 then (wordsIn s b n).head? else none

/-- QTRY never waits; sd and jd are written with the run (R180). -/
def execQtry (sd : Fin 64) (jd : Fin 8) (n : Fin 16) (s : State) : Outcome State Fault Refusal :=
  .next (lastSquad
    (fun _ _ _ => queueCause n)
    (fun q ts s =>
      let b := (sqd s q).block
      let s := match tryHead s b n.val with
        | some x => writeJ q jd.val true true (writeS q sd.val x x (setWords b n.val ((wordsIn s b n.val).drop 1) s))
        | none => writeJ q jd.val false false s
      settle (leaveRuns ts (fun _ => s.cur.pc + 4) (commitWrites s))) s)

end Sys2Proof.Machine
end

