-- ==== Sys2Proof/Machine/Push.lean ====
section
/-! DEFINITION. Instructions that push engine commands: matrix, copy, Storekeeper and dispenser (06 R133 to R136; 09 R192 to R204; 04 R96). -/

namespace Sys2Proof.Machine

open Host (Outcome)

/-- An agent with nothing issued, at a place. -/
def Agent.new (p : Place) : Agent := { (default : Agent) with place := p }

/-- A new agent at a place. -/
def newAgent (p : Place) (s : State) : Nat × State :=
  let (a, s) := newId s
  (a, { s with agents := s.agents.put a { Agent.new p with part := (launchOf s p.lid).part } })

/-- The place of a squad's threads and commands (R85, R86). -/
def placeOf (s : State) (q : Nat) : Place := ⟨true, false, (sqd s q).lid, q, (sqd s q).core⟩

/-- The state of a guard slot: OPEN at first (R135). -/
def guardOf (s : State) (b g : Nat) : Guard := (blk s b).guards.getD g .opened

/-- A command of squad `q` as it stands at its push: bound by its guard slot at issue, and discarded where the squad's later
matrix commands are (R135, R136, R306). -/
def newCmd (s : State) (q agent : Nat) (kind : CmdKind) (desc : List Word) (g : Nat) (ord : Ord) (token : Option Nat) : Cmd :=
  let sq := sqd s q
  let slot := if g = 0 then .opened else guardOf s sq.block g
  { squad := q, lid := sq.lid, block := sq.block, core := sq.core, kind := kind, desc := desc
    shut := slot == .shut
    arming := match slot with
      | .armed n => some n
      | .opened | .shut => none
    ord := ord, token := token, agent := agent, word := s.cur.word, issue := (cor s s.cur.core).issue
    ready := !ord.acq, acqRels := [], started := false, fed := 0
    discarded := sq.dropMx && kind.queue == 0
    result := none, deny := none, answered := false, held := none, pages := [], parts := [], revoked := false }

/-- One command pushed for squad `q`: its threads' runs end, an acquire flag makes the push a release of each thread (R96), and
the threads wait under R21 while the queue is full. -/
def pushCmd (q : Nat) (ts : List Nat) (kind : CmdKind) (desc : List Word) (g : Nat) (ord : Ord) (token : Option Nat)
    (s : State) : Nat × State :=
  let s := ts.foldl (fun s t => leaveRun t s.cur.pc false s) s
  let (a, s) := newAgent (placeOf s q) s
  let (c, s) := newId s
  let s := { s with cmds := s.cmds.put c (newCmd s q a kind desc g ord token) }
  let s := match token with
    | some n => modSquad q (fun sq => { sq with pendS := n :: sq.pendS, tokens := sq.tokens.filter fun t => t.reg != n }) s
    | none => s
  let s := if ord.acq then startSync (ts.map fun t => (thr s t).agent) ord.scope false (.cmdStart c) s else s
  (c, beginWait ts q (.command (sqd s q).block kind.queue c) s)

/-- The registers of a descriptor, as read at issue. -/
def descOf (s : State) (q : Nat) (sa : Fin 64) (n : Nat) : List Word := (group sa.val n).map (readS s false q)

/-- A 64-bit field of a descriptor. -/
def desc64 (d : List Word) (i : Nat) : Nat := (d.getD i 0).toNat + (d.getD (i + 1) 0).toNat * 2 ^ 32
def desc32 (d : List Word) (i : Nat) : Nat := (d.getD i 0).toNat

/-- A squad word that pushes one command for each squad present (R189). `own` gives the causes of its descriptor. -/
def pushWord (u : Uses) (kind : CmdKind) (sa : Fin 64) (n : Nat) (g : Fin 16) (ord : Ord) (token : Option Nat)
    (own : State → Nat → List Word → Option Cause) (s : State) : State :=
  commandWord (fun s q _ => operandCause s u q (own s q (descOf s q sa n)))
    (fun q ts s => (pushCmd q ts kind (descOf s q sa n) g.val ord token s).2) s

/-- No ordering flags. -/
def noOrd : Ord := ⟨.thread, false, false⟩

/-! ### Matrix commands -/

/-- The conditions on the MXLDS descriptor (Table 18.6). -/
def mxldsCause (d : List Word) : Option Cause :=
  lowest [
    if desc64 d 0 % 4096 ≠ 0 then some ⟨0x03, BitVec.ofNat 64 (desc64 d 0), none⟩
    else if desc64 d 2 % 16 ≠ 0 then some ⟨0x03, BitVec.ofNat 64 (desc64 d 2), none⟩ else none,
    if inSomeWindow (desc64 d 0) then none else some ⟨0x04, BitVec.ofNat 64 (desc64 d 0), none⟩]

/-- MXLDS (R194). -/
def execMxlds (sa : Fin 64) (fmt : WFmt) (g : Fin 16) (ord : Ord) (s : State) : Outcome State Fault Refusal :=
  .next (pushWord (useDesc 4 sa) (.mxlds fmt) sa 4 g ord none (fun _ _ d => mxldsCause d) s)

/-- MXSWAP (R195). -/
def execMxswap (g : Fin 16) (s : State) : Outcome State Fault Refusal :=
  .next (pushWord {} .mxswap 0 0 g noOrd none (fun _ _ _ => none) s)

/-- A tile at or above the squad's grant (R118). -/
def tileCause (s : State) (q tile : Nat) : Option Cause := causeIf (decide ((sqd s q).tiles.length ≤ tile)) 0x02

/-- A QPOPV or QPOP of the squad waits at q8 (Table 18.6). -/
def q8InUse (s : State) (q : Nat) : Bool :=
  s.waits.any fun e => e.2.squad == q && !(waiters s e.1 e.2).isEmpty &&
    match e.2.kind with
    | .popV _ 8 _ => true
    | .pop _ 8 _ => true
    | _ => false

/-- The rows of a stream: home lane, row reference, scale byte, place in program order (R196). -/
def streamRows (xa : Src) (vd : Fin 128) (bsel : BitVec 2) (s : State) (ts : List Nat) :
    List (Nat × Word × Nat × Nat) :=
  (byLane ts).map fun t => (laneOf t, src s false t xa, fld (readV s false t vd.val).toNat (8 * bsel.toNat) 8,
    (agt s (thr s t).agent).nextSeq)

/-- MXSTR: for each squad present one stream command, with a claim on q8 in its block's order when its rows come from q8
(R196). -/
def execMxstr (tile : Fin 8) (xa : Src) (vd : Fin 128) (bsel : BitVec 2) (q8 zf : Bool) (s : State) : Outcome State Fault Refusal :=
  .next (lastLane
    (fun t => lowest [useCauses s { vr := vd.val :: srcV 1 xa, sr := srcS 1 xa } t, tileCause s (squadOf t) tile.val,
      causeIf (q8 && q8InUse s (squadOf t)) 0x07,
      mismatchIf (src s false t xa != src s true t xa || readV s false t vd.val != readV s true t vd.val) 0, wordMismatch s [t]])
    (fun ts s' => (squadsIn s' ts).foldl (fun s' q =>
      let mine := ofSquad q ts
      let (c, s') := pushCmd q mine (.mxstr tile.val (streamRows xa vd bsel s mine) q8 zf) [] 0 noOrd none s'
      if q8 then modBlock (sqd s q).block (fun k => { k with claims := k.claims ++ [⟨c, none, false⟩] }) s' else s') s') s)

/-- Bytes of an element of a drain format (Table 9.4). -/
def drainSize (fmt : Nat) : Nat := if fmt = 0 then 4 else if fmt ≤ 2 then 2 else 1

/-- The conditions on the MXDRN descriptor (Table 18.6). -/
def mxdrnCause (s : State) (q : Nat) (d : List Word) : Option Cause :=
  let ctl := desc32 d 2
  let stride := fld ctl 16 16
  let fmt := fld ctl 3 3
  lowest [
    causeIf (decide (6 ≤ fmt)) 0x01,
    causeIf (decide (stride % 16 ≠ 0 ∨ stride < 64 * drainSize fmt)) 0x01,
    tileCause s q (fld ctl 0 3),
    if desc64 d 0 % 16 ≠ 0 then some ⟨0x03, BitVec.ofNat 64 (desc64 d 0), none⟩ else none]

/-- MXDRN (R198). -/
def execMxdrn (sd sa : Fin 64) (g : Fin 16) (ord : Ord) (s : State) : Outcome State Fault Refusal :=
  .next (pushWord (useTok 4 sd sa) .mxdrn sa 4 g ord (some sd.val) mxdrnCause s)

/-- MXZERO (R199). -/
def execMxzero (tile : Fin 8) (g : Fin 16) (s : State) : Outcome State Fault Refusal :=
  .next (pushWord {} (.mxzero tile.val) 0 0 g noOrd none (fun s q _ => tileCause s q tile.val) s)

/-! ### Copy commands (Table 9.5) -/

/-- CPCOPY: row bytes and rows within the table's values. -/
def cpcopyCause (d : List Word) : Option Cause :=
  causeIf (!(1 ≤ desc32 d 4 && desc32 d 4 ≤ 2 ^ 24 && 1 ≤ desc32 d 5 && desc32 d 5 ≤ 2 ^ 20)) 0x01

/-- CPGATH and CPSCAT: row bytes, count, the index list's alignment and the window operand. -/
def cpgathCause (d : List Word) : Option Cause :=
  lowest [
    causeIf (!(1 ≤ desc32 d 4 && desc32 d 4 ≤ 65536 && 1 ≤ desc32 d 5 && desc32 d 5 ≤ 65536)) 0x01,
    if desc64 d 6 % 4 ≠ 0 then some ⟨0x03, BitVec.ofNat 64 (desc64 d 6), none⟩ else none,
    if inSomeWindow (desc64 d 2) then none else some ⟨0x04, BitVec.ofNat 64 (desc64 d 2), none⟩]

/-- The element sizes of CPFILL (Table 6.21). -/
def elemBytes : ElemSize → Nat
  | .b1 => 1
  | .b2 => 2
  | .b4 => 4
  | .b16 => 16

def cpfillCause (z : Nat) (d : List Word) : Option Cause :=
  lowest [
    causeIf (!(1 ≤ desc32 d 2 && desc32 d 2 ≤ 2 ^ 30)) 0x01,
    if desc64 d 0 % z ≠ 0 ∨ desc32 d 2 % z ≠ 0 then some ⟨0x03, BitVec.ofNat 64 (desc64 d 0), none⟩ else none]

/-- CPCOPY (R200, R201). -/
def execCpcopy (sd sa : Fin 64) (g : Fin 16) (ord : Ord) (s : State) : Outcome State Fault Refusal :=
  .next (pushWord (useTok 8 sd sa) .cpcopy sa 8 g ord (some sd.val) (fun _ _ d => cpcopyCause d) s)

/-- CPGATH (R200, R201). -/
def execCpgath (sd sa : Fin 64) (g : Fin 16) (ord : Ord) (s : State) : Outcome State Fault Refusal :=
  .next (pushWord (useTok 8 sd sa) .cpgath sa 8 g ord (some sd.val) (fun _ _ d => cpgathCause d) s)

/-- CPSCAT (R200, R201). -/
def execCpscat (sd sa : Fin 64) (g : Fin 16) (ord : Ord) (s : State) : Outcome State Fault Refusal :=
  .next (pushWord (useTok 8 sd sa) .cpscat sa 8 g ord (some sd.val) (fun _ _ d => cpgathCause d) s)

/-- CPFILL (R200, R201). -/
def execCpfill (sd sa : Fin 64) (size : ElemSize) (g : Fin 16) (ord : Ord) (s : State) : Outcome State Fault Refusal :=
  .next (pushWord (useTok 8 sd sa) (.cpfill (elemBytes size)) sa 8 g ord (some sd.val) (fun _ _ d => cpfillCause (elemBytes size) d) s)

/-! ### Storekeeper and dispenser -/

/-- Holdings that a squad's requests may still give it: ALLOCs without a reply, and LKACQs and LKTRYs that have not been served
(R214). -/
def awaited (s : State) (q : Nat) : Nat :=
  (s.cmds.filter fun e => e.2.squad == q && e.2.result.isNone && (match e.2.kind with | .alloc _ => true | _ => false)).length +
  (s.waits.filter fun e => e.2.squad == q && (match e.2.kind with | .lkAcq .. => true | _ => false)).length +
  (s.syncs.filter fun e => match e.2.op with
    | .lkTry p .. => p == q
    | _ => false).length

/-- Estate overflow: with the requests it has made the squad may hold 32 holdings already, and this one would be its 33rd (R214). -/
def estateCause (s : State) (q : Nat) : Option Cause := causeIf (decide (32 ≤ (sqd s q).estate.length + awaited s q)) 0x0A

/-- A Storekeeper request of squad `q`: its threads' runs end, and they wait while q4 is full. A FREE is a release at device
scope of each thread (R202, R203). -/
def pushRequest (q : Nat) (ts : List Nat) (kind : CmdKind) (token : Option Nat) (release : Bool) (s : State) : State :=
  let s := ts.foldl (fun s t => leaveRun t s.cur.pc false s) s
  let (a, s) := newAgent (placeOf s q) s
  let (c, s) := newId s
  let k := newCmd s q a kind [] 0 noOrd token
  let s := { s with cmds := s.cmds.put c { k with ready := !release } }
  let s := if release then startSync (ts.map fun t => (thr s t).agent) .device false (.free c) s else s
  beginWait ts q (.command (sqd s q).block 4 c) s

/-- ALLOC: the threads wait until the reply (R202). -/
def execAlloc (sd sa : Fin 64) (s : State) : Outcome State Fault Refusal :=
  .next (commandWord (fun s q _ => operandCause s { sr := [sa.val], sw := group sd.val 2 } q (estateCause s q))
    (fun q ts s => pushRequest q ts (.alloc (readS s false q sa.val).toNat) (some sd.val) false s) s)

/-- FREE: the holding ends at issue (R203). -/
def execFree (sa : Fin 64) (s : State) : Outcome State Fault Refusal :=
  .next (commandWord
    (fun s q _ => operandCause s (useDesc 2 sa) q
      (if (sqd s q).estate.any (fun h => h.kind == .object && h.handle == readS64 s false q sa.val) then none
       else some ⟨0x05, readS64 s false q sa.val, none⟩))
    (fun q ts s =>
      let h := readS64 s false q sa.val
      pushRequest q ts (.free h.toNat) none true
        (modSquad q (fun sq => { sq with estate := sq.estate.filter fun x => !(x.kind == .object && x.handle == h) }) s)) s)

/-- FETCH (R59, R204). -/
def execFetch (sd : Fin 64) (s : State) : Outcome State Fault Refusal :=
  .next (commandWord (fun _ _ _ => none)
    (fun q ts s => waitSquad q ts (.fetch (sqd s q).block sd.val) (passTile q s)) s)

end Sys2Proof.Machine
end

