-- ==== Sys2Proof/Machine/Translation.lean ====
section
/-! DEFINITION. Walks, ATS, PRI and invalidations as steps (03 R82 to R84, R374; 18 R303; 21 R365). -/

namespace Sys2Proof.Machine

open Host (Outcome)

/-! ### TLBs (R82, R374) -/

/-- An entry put in a TLB of `cap` entries: it replaces the entry of the same page, and in a full TLB the entry numbered `victim`. -/
def putEntry (cap victim : Nat) (e : TlbEntry) (l : List TlbEntry) : List TlbEntry :=
  let l := l.filter fun x => !(x.ctx == e.ctx && x.va == e.va && x.size == e.size && x.host.isSome == e.host.isSome)
  e :: (if l.length < cap then l else l.eraseIdx (victim % cap))

/-- An entry installed in a core's L1 and its cluster's L2. Which entries give way is a free choice (R374). -/
def installEntry (core : Nat) (e : TlbEntry) (s : State) : State :=
  let k := clusterOf core
  let s := modCore core (fun c => { c with tlb := putEntry 64 (Config.freeNat s.fresh) e c.tlb }) s
  { s with
    l2tlb := s.l2tlb.put k (putEntry 2048 (Config.freeNat (s.fresh + 1)) e (s.l2tlb.getD k []))
    fresh := s.fresh + 2 }

/-- PAGE_WALK_COMPLETE (R82): a walk that ends at a leaf which maps a page installs it. One that ends at an entry which maps nothing leaves
none, and the access reports the cause itself (R367). -/
def execPageWalkComplete (core ctx va : Nat) (s : State) : Outcome State Fault Refusal :=
  .next (if canonical va && !inWindows va then
      match walk s ctx va with
      | some (e, size) =>
        if (leafOf e size).isSome then installEntry core ⟨ctx, va / 2 ^ size * 2 ^ size, size, BitVec.ofNat 64 e, none⟩ s else s
      | none => s
    else s)

/-- TLB_ENTRY_DROP (R374): an entry of a core's L1, or of its cluster's L2. -/
def execTlbEntryDrop (core n : Nat) (l2 : Bool) (s : State) : Outcome State Fault Refusal :=
  .next (if l2 then { s with l2tlb := s.l2tlb.put (clusterOf core) ((s.l2tlb.getD (clusterOf core) []).eraseIdx n) }
    else modCore core (fun c => { c with tlb := c.tlb.eraseIdx n }) s)

/-! ### Refusals (R303) -/

/-- The function that a context's requests belong to. -/
def fnOfCtx (s : State) (ctx : Nat) : Nat := fnOfPart (some (s.contexts.getD ctx default).part)

/-- The host has refused a page for good, after a response to a Page Request or with none sent: the access reports `cause`. -/
def setDeny (who : Asker) (ctx page cause : Nat) (answered : Bool) (s : State) : State :=
  match who with
  | .thread t => modThread t (fun th => { th with deny := some (page, cause), answered := answered }) s
  | .cmd c => { s with cmds := s.cmds.adj c fun k => { k with deny := some (page, cause), answered := answered } }
  | .hub => { s with hubDeny := (ctx, page) :: s.hubDeny }

/-- The detail of an event about a page request (Table 21.9). -/
def priDetail (s : State) (r : PageReq) : Nat := (s.contexts.getD r.ctx default).pasid % 2 ^ 20 + r.group * 2 ^ 32

def priEvent (code : Nat) (r : PageReq) (s : State) : State :=
  raiseEvent ⟨2, code, 0, some (s.contexts.getD r.ctx default).part, 0, priDetail s r, r.page⟩ s

/-- A request `q` of the same page as `r`, for the same or a greater need (R281). -/
def servesAlso (r q : PageReq) : Bool := q.ctx == r.ctx && q.page == r.page && (q.write || !r.write) && (q.read || !r.read)

/-- The requests of a list, the accesses of `r` waiting on the first that serves it. -/
def joinFirst (r : PageReq) : List PageReq → List PageReq
  | [] => []
  | q :: l => if servesAlso r q then { q with askers := (q.askers ++ r.askers).eraseDups } :: l else q :: joinFirst r l

/-- The Page Request Group Indices: 9 bits. -/
def groupCount : Nat := 512

/-- An index that no outstanding request of the function carries (R281). -/
def freeGroup (f : Function) : Nat := ((List.range groupCount).find? fun g => !f.priOut.any fun q => q.group == g).getD 0

/-- A request of a function: its accesses wait on an outstanding request that serves them, or on one that waits to be sent. Else it is sent
with an index of its own, or waits while the function's allocation or every index is in use (R83, R281). -/
def Function.ask (f : Function) (r : PageReq) : Function :=
  if f.priOut.any (servesAlso r) then { f with priOut := joinFirst r f.priOut }
  else if f.priWaiting.any (servesAlso r) then { f with priWaiting := joinFirst r f.priWaiting }
  else if f.priOut.length < min f.priAlloc groupCount then { f with priOut := f.priOut ++ [{ r with group := freeGroup f }] }
  else { f with priWaiting := f.priWaiting ++ [r] }

/-- An access asks the host for a page. -/
def sendPage (ctx page : Nat) (a : Asking) (s : State) : State :=
  modFn (fnOfCtx s ctx) (fun f => f.ask ⟨ctx, page, a.write, a.read, true, [a], 0⟩) s

/-- A completion grants an access no permission: it asks for the page, and a thread's run is discarded and waits at its start. Where
PRI is not enabled, or the request was the last, the access reports (R83, R303). -/
def refused (r : AtsReq) (a : Asking) (s : State) : State :=
  let f := fnOf s (fnOfCtx s r.ctx)
  match r.final with
  | some c => setDeny a.who r.ctx r.page c true s
  | none =>
    if !f.pri || f.stopPri then setDeny a.who r.ctx r.page 0x04 false s
    else
      let s := sendPage r.ctx r.page a s
      match a.who with
      | .thread t => modThread t (fun th => { th with pri := true }) (discardRuns [t] s)
      | .cmd _ | .hub => s

/-! ### ATS (R83, R84) -/

/-- AER bits logged for a function, with an event of class 3 (R365). -/
def logAer (fn : Nat) (correctable : Bool) (bits : Nat) (s : State) : State :=
  let (c, u) := s.aer.getD fn (0, 0)
  let c := if correctable then c ||| bits else c
  let u := if correctable then u else u ||| bits
  let part := if fn = 0 then none else some (fn - 1)
  raiseEvent ⟨3, if correctable then 2 else 3, 0, part, 0, if correctable then c else u, 0⟩ { s with aer := s.aer.put fn (c, u) }

/-- AER's Unexpected Completion (PCI Express; log 30). -/
def unexpectedCompletion : Nat := 2 ^ 16

/-- ATS_TRANSLATION_COMPLETION (R83, R84): for request `n` of function `fn`, a host page of 2 ^ `size` bytes with its permissions. -/
def execAtsTranslationCompletion (fn n hpa size : Nat) (r w x : Bool) (s : State) : Outcome State Fault Refusal :=
  .next (match s.ats[n]? with
    | none => logAer fn false unexpectedCompletion s
    | some q =>
      if fnOfCtx s q.ctx ≠ fn then logAer fn false unexpectedCompletion s
      else
        let rest := s.ats.eraseIdx n
        if q.overtaken then { s with ats := rest ++ [{ q with overtaken := false }] }
        else if size < 12 || 48 < size || hpa % 2 ^ size ≠ 0 then s
        else
          q.askers.foldl (fun s a =>
            if (!a.write || w) && (!a.read || r) then
              installEntry a.core ⟨q.ctx, q.page / 2 ^ size * 2 ^ size, size, 0, some (hpa, r, w, x)⟩ s
            else refused q a s) { s with ats := rest })

/-! ### PRI (R83, R303) -/

/-- The page requests that wait are sent, oldest first, as the allocation allows; one that an outstanding request serves joins it (R281). -/
def promote (fn : Nat) (s : State) : State := modFn fn (fun f => f.priWaiting.foldl Function.ask { f with priWaiting := [] }) s

/-- A page request that a Success answers: a fresh ATS request, and every thread that waits becomes ready (R83, R281). -/
def granted (r : PageReq) (s : State) : State :=
  r.askers.foldl (fun s a => match a.who with
    | .thread t => modThread t (fun th => { th with pri := false }) s
    | .cmd _ | .hub => s) { s with ats := s.ats ++ [⟨r.ctx, r.page, r.askers, some 0x05, false⟩] }

/-- A page request that completes as Invalid Request: the next attempt of each thread that waits is a direct slow-gear re-run
(R303). -/
def invalid (r : PageReq) (s : State) : State :=
  r.askers.foldl (fun s a => match a.who with
    | .thread t => modThread t (fun th => if th.pri then { th with pri := false, direct := true, badPage := some r.page } else th) s
    | .cmd _ | .hub => setDeny a.who r.ctx r.page 0x04 true s) s

/-- Page request `n` of a function answered. -/
def answer (fn n : Nat) (act : PageReq → State → State) (s : State) : State :=
  match (fnOf s fn).priOut[n]? with
  | none => s
  | some r => act r (promote fn (modFn fn (fun f => { f with priOut := f.priOut.eraseIdx n }) s))

/-- PRI_RESPONSE_SUCCESS (R83). -/
def execPriResponseSuccess (fn n : Nat) (s : State) : Outcome State Fault Refusal := .next (answer fn n granted s)

/-- PRI_RESPONSE_INVALID (R303). -/
def execPriResponseInvalid (fn n : Nat) (s : State) : Outcome State Fault Refusal :=
  .next (answer fn n (fun r s => invalid r (priEvent 2 r s)) s)

/-- PRI_RESPONSE_FAILURE (R303): every other page request of the function completes as Invalid Request, and none is sent until PRI
is enabled again. -/
def execPriResponseFailure (fn n : Nat) (s : State) : Outcome State Fault Refusal :=
  .next (match (fnOf s fn).priOut[n]? with
    | none => s
    | some r =>
      let all := (fnOf s fn).priOut ++ (fnOf s fn).priWaiting
      let s := modFn fn (fun f => { f with priOut := [], priWaiting := [], stopPri := true }) (priEvent 1 r s)
      all.foldl (fun s r => invalid r s) s)

/-- PRI_REENABLE (R303). -/
def execPriReenable (fn : Nat) (s : State) : Outcome State Fault Refusal :=
  .next (if (fnOf s fn).stopPri then
      raiseEvent ⟨2, 4, 0, if fn = 0 then none else some (fn - 1), 0, 0, 0⟩
        (modFn fn (fun f => { f with stopPri := false, pri := true }) s)
    else s)

/-! ### Invalidations (R84) -/

/-- The context an agent's accesses are translated in. -/
def agentCtx (s : State) (a : Nat) : Option Nat := (lidOfAgent s a).map fun l => (launchOf s l).ctx

/-- The access goes through a window onto this device, whose export is translated in a context (R81). -/
def throughExport (s : State) (ctx : Nat) (w : Option WinRef) : Bool :=
  match w with
  | some k => (winOf s k).tdev == s.devnum && ((s.exports.get? (winOf s k).exportId).any fun x => x.ctx == ctx)
  | none => false

/-- The loads that have been issued and not performed and used a translation of the range: those of the context to it, and those
through the context's exports. -/
def loadsIn (s : State) (ctx va n : Nat) : List (Nat × Nat) :=
  s.agents.flatMap fun e =>
    (e.2.loads.filter fun l => (agentCtx s e.1 = some ctx && overlaps l.ea.toNat l.width va n) ||
      l.pieces.any fun p => throughExport s ctx p.win).map fun l => (e.1, l.seq)

/-- Likewise the stores and atomics that have not been performed at their home points. A unit's stores belong to any context. -/
def storesIn (s : State) (ctx va n : Nat) : List StoreId :=
  (s.agents.flatMap fun e =>
    (e.2.all.filter fun x => !isMarker x.kind && (((agentCtx s e.1).all (· == ctx) && overlaps x.va.toNat (entrySpan x.kind).2 va n) ||
      throughExport s ctx x.win)).map fun x => (e.1, x.sid)) ++
  s.cores.flatMap fun c => (c.2.pending.filter fun p =>
    (agentCtx s p.sid.1 = some ctx && overlaps p.va.toNat p.bytes.length va n) || throughExport s ctx p.win).map (·.sid)

/-- Likewise the engine commands that hold a translation of the range. -/
def commandsIn (s : State) (ctx va n : Nat) : List Nat :=
  (s.cmds.filter fun e => e.2.pages.any fun p =>
    ((launchOf s e.2.lid).ctx == ctx && overlaps (p.va * 4096) 4096 va n) || throughExport s ctx p.piece.win).map (·.1)

/-- An entry that an invalidation covers: every translation of the range, or those the host gave (R84). -/
def covers (ctx va n : Nat) (host : Bool) (e : TlbEntry) : Bool :=
  e.ctx == ctx && overlaps e.va (2 ^ e.size) va n && (!host || e.host.isSome)

/-- An invalidation is accepted at every core, cluster and walker, and by the requests under way (R84). -/
def acceptInval (ctx va n : Nat) (host : Bool) (cmd : Option (Nat × Nat)) (s : State) : State :=
  let keep (l : List TlbEntry) : List TlbEntry := l.filter fun e => !covers ctx va n host e
  { s with
    cores := s.cores.map fun c => (c.1, { c.2 with tlb := keep c.2.tlb })
    l2tlb := s.l2tlb.map fun c => (c.1, keep c.2)
    ats := s.ats.map fun r => if r.ctx == ctx && overlaps r.page 4096 va n then { r with overtaken := true } else r
    invals := s.invals ++ [⟨ctx, va, n, host, loadsIn s ctx va n, storesIn s ctx va n, commandsIn s ctx va n, cmd⟩] }

/-- ATS_INVALIDATE_REQUEST (R84). -/
def execAtsInvalidateRequest (ctx va n : Nat) (s : State) : Outcome State Fault Refusal :=
  .next (acceptInval ctx va n true none s)

/-- Every access that used the old translation has been performed, or discarded with its run (R84). -/
def invalDone (s : State) (i : Inval) : Bool :=
  (i.loads.all fun x => (agt s x.1).loads.all fun l => l.seq != x.2) &&
  (i.cmds.all fun c => (s.cmds.get? c).isNone) &&
  i.stores.all fun x => (agt s x.1).all.all (fun e => isMarker e.kind || e.sid != x.2) &&
    s.cores.all fun c => c.2.pending.all fun p => p.sid != x

/-- INVALIDATION_COMPLETE (R84): the message to the host, or the used element of the management command. -/
def execInvalidationComplete (k : Nat) (s : State) : Outcome State Fault Refusal :=
  .next (match s.invals[k]? with
    | none => s
    | some i =>
      if invalDone s i then
        let s := { s with invals := s.invals.eraseIdx k }
        match i.cmd with
        | some c => complete c 0 0 0 s
        | none => s
      else s)

end Sys2Proof.Machine
end

