-- ==== Sys2Proof/Machine/Engines.lean ====
section
/-! DEFINITION. How engine commands read and write memory, end and fault (04 R96; 06 R135; 11 R257; 18 R303 to R306; 20 R326, R340). -/

namespace Sys2Proof.Machine

/-! ### Accesses of an engine (R96, R200) -/

/-- The view of a command. -/
def cmdView (s : State) (k : Cmd) : View := ⟨k.core, some k.block, (launchOf s k.lid).ctx, (launchOf s k.lid).part⟩

/-- The translation of bytes within 4 KiB that a command touches: the one it made when it first touched them, or one made now. The accesses
are of single bytes, so no alignment is asked (R82, R200). -/
def cmdTrans (s : State) (k : Cmd) (write : Bool) (va n : Nat) : Trans :=
  match k.pages.find? fun p => p.va == va / 4096 && p.write == write with
  | some p => .ok [{ p.piece with addr := p.piece.addr + va % 4096, len := n }]
  | none => splitPages s (cmdView s k) k.deny (if write then .store else .load) 48 va n

/-- A command's translations of the pages of a range are kept. A window is no page: its places never change. -/
def keepPages (c : Nat) (write : Bool) (va n : Nat) (s : State) : State :=
  (chunksOf (va % 2 ^ 64) n).foldl (fun s x =>
    if inWindows x.1 then s
    else match s.cmds.get? c with
      | none => s
      | some k =>
        if k.pages.any fun p => p.va == x.1 / 4096 && p.write == write then s
        else match cmdTrans s k write x.1 x.2 with
          | .ok (p :: _) =>
            let page : CmdPage := ⟨x.1 / 4096, write, { p with addr := p.addr - x.1 % 4096, len := 4096 }⟩
            { s with cmds := s.cmds.put c { k with pages := k.pages ++ [page] } }
          | .ok [] | .bad _ | .miss _ => s) s

/-- What an engine read or write of a range gives: its pieces, the cause and address at which it stops, or missing pages. -/
inductive Touch where
  | ok (ps : List Piece)
  | bad (cause addr : Nat)
  | miss (pages : List Nat)
  deriving DecidableEq, Repr

/-- Bytes touched page by page; a STRICT window that completes as revoked stops the command with 0x0F (R340). -/
def touch (s : State) (k : Cmd) (write : Bool) (va n : Nat) : Touch :=
  (chunksOf (va % 2 ^ 64) n).foldl (fun r x =>
    match r with
    | .bad c a => .bad c a
    | .miss g => (match cmdTrans s k write x.1 x.2 with
      | .bad c => .bad c x.1
      | .miss h => .miss (g ++ h)
      | .ok _ => .miss g)
    | .ok ps => (match cmdTrans s k write x.1 x.2 with
      | .bad c => .bad c x.1
      | .miss h => .miss h
      | .ok qs => if qs.any fun p => strictDead s p.win then .bad 0x0F x.1 else .ok (ps ++ qs))) (.ok [])

/-- The bytes of pieces as the command reads them (Table 4.2); a revoked window gives zeros (R257). -/
def cmdBytes (s : State) (k : Cmd) (ps : List Piece) : List ReadByte :=
  ps.flatMap (loadPiece s k.agent (agt s k.agent).nextSeq)

/-- What a command's read leaves: its pages kept, core copies of what it read at home points, and the report of a window
with no port (R82, R339, Table 4.2). -/
def cmdRead (c : Nat) (k : Cmd) (va n : Nat) (ps : List Piece) (s : State) : State :=
  let s := ps.foldl (fun s p => fillCopies k.agent p (loadPiece s k.agent (agt s k.agent).nextSeq p) s) (keepPages c false va n s)
  sendRequests va ps s

/-- Whether a piece goes through a window whose requests complete as revoked. -/
def anyDead (s : State) (ps : List Piece) : Bool := ps.any fun p => winDead s p.win

/-- Some of the bytes lie in a Cellar bank in its refresh window (R72). -/
def mustWait (s : State) (ps : List Piece) : Bool := ps.any fun p => inRefresh s p.addr p.len

/-- One write of agent `a`, for the word `w`: it enters the structure of its page's kind, and leaves it by a move of its own (Table 4.2,
R89, R96). -/
def queueStore (a : Nat) (w : Word) (p : Piece) (va : Nat) (bs : List Byte) (poison : Bool) (s : State) : State :=
  modAgent a (fun g =>
    let e : Entry := ⟨g.nextSeq, g.nextSid, .store p.addr bs p.ord, heldBy g p.ord, poison, p.win, BitVec.ofNat 64 va, w, 0, none, g.nextSeq⟩
    { g with
      so := if p.ord = .so then g.so ++ [e] else g.so
      rc := if p.ord = .rc then g.rc ++ [e] else g.rc
      uo := if p.ord = .uo then g.uo ++ [e] else g.uo
      nextSeq := g.nextSeq + 1
      nextSid := g.nextSid + 1 }) s

/-- Bytes written over pieces, each piece in its turn. -/
def cmdWrite (k : Cmd) : List Piece → Nat → List Byte → Bool → State → State
  | [], _, _, _, s => s
  | p :: r, va, bs, poison, s => cmdWrite k r (va + p.len) (bs.drop p.len) poison (queueStore k.agent k.word p va (bs.take p.len) poison s)

/-- The command asks for host translations and waits (R82, R83). -/
def cmdMiss (c : Nat) (k : Cmd) (write : Bool) (pages : List Nat) (s : State) : State :=
  sendAts (cmdView s k) write (.cmd c) (fun _ => none) pages s

/-- The command's acquire, performed before its first read (R96). -/
def cmdAcquire (k : Cmd) (s : State) : State := if k.ord.acq then acquire k.agent k.ord.scope (unstored k.acqRels) s else s

/-! ### The end of a command (R96, R306) -/

/-- A command's effects are made: it leaves its queue, performs its release if it has one, and then writes its token. -/
def finishCmd (c : Nat) (token : Word) (s : State) : State :=
  match s.cmds.get? c with
  | none => s
  | some k =>
    if k.ord.rel then
      let s := modBlock k.block (fun b => { b with q0 := b.q0.filter (· != c), q2 := b.q2.filter (· != c) }) s
      let s := { s with cmds := s.cmds.put c { k with started := true, result := some (token.zeroExtend 64) } }
      startSync [k.agent] k.ord.scope false (.cmdDone c) s
    else endCmd c token [] s

/-- The later matrix commands of a squad are discarded until its handler entry for the record (R306). -/
def dropMatrix (q c : Nat) (s : State) : State :=
  let s := modSquad q (fun sq => { sq with dropMx := true }) s
  { s with cmds := s.cmds.map fun e =>
    if e.2.squad == q && c < e.1 && e.2.kind.queue == 0 && !e.2.started then (e.1, { e.2 with discarded := true }) else e }

/-- The first poisoned granule that a command meets from an address on (R333). -/
def poisonFrom (s : State) (k : Cmd) (a : Nat) : Option Nat :=
  (chunksOf a 8192).findSome? fun x => match cmdTrans s k false x.1 x.2 with
    | .ok ps => poisonIn s ps
    | .bad _ | .miss _ => none

/-- A command meets a class D condition: it stops, writes token 0 and performs no release, and the cause is recorded (R306). -/
def faultCmd (c cause addr : Nat) (s : State) : State :=
  match s.cmds.get? c with
  | none => s
  | some k =>
    let key := if cause = 0x0D && addr != 0 then poisonFrom s k addr else none
    let s := reportDenied k.lid k.deny k.answered cause (BitVec.ofNat 64 addr) s
    let s := discardCmd c s
    let s := if k.kind.queue = 0 then dropMatrix k.squad c s else s
    raiseDeferred k.squad ⟨cause, 0, 0, BitVec.ofNat 64 addr, key, k.word, true, true, k.kind.queue == 0⟩ s

/-! ### Guards at the head of a queue (R135, R306) -/

inductive Gate where
  | wait | run | discard
  deriving DecidableEq, Repr

/-- What a command does at the head of its queue. -/
def gate (s : State) (k : Cmd) : Gate :=
  if k.shut || k.discarded then .discard
  else match k.arming with
    | none => .run
    | some n => match (blk s k.block).resolved.get? n with
      | none => .wait
      | some true => .run
      | some false => .discard

/-! ### What a command reads whole, part by part (R96) -/

/-- The `n` bytes of a chunk from byte `o` on. -/
def Chunk.part (o n : Nat) (x : Chunk) : Chunk :=
  ⟨x.src.map fun a => (a + o) % 2 ^ 64, (x.dst + o) % 2 ^ 64, n, x.bs.map fun b => (b.drop o).take n⟩

/-- A chunk's place taken by others. -/
def putChunks (l : List Chunk) (j : Nat) (xs : List Chunk) : List Chunk := l.take j ++ xs ++ l.drop (j + 1)

/-- Chunks with no bytes left out. -/
def someBytes (l : List Chunk) : List Chunk := l.filter fun x => x.len != 0

/-- The parts to read of ranges: each an address, its place among what is read, and a length. -/
def partsOf (rs : List (Nat × Nat × Nat)) : List Chunk :=
  rs.flatMap fun r => (chunksOf (r.1 % 2 ^ 64) r.2.2).map fun x => ⟨some x.1, r.2.1 + (x.1 + 2 ^ 64 - r.1 % 2 ^ 64) % 2 ^ 64, x.2, none⟩

/-- The bytes read of parts, from place `o` on, in order. -/
def gathered (l : List Chunk) (o n : Nat) : List Byte :=
  let mine := sortBy (fun a b => a.dst ≤ b.dst) (l.filter fun x => o ≤ x.dst && x.dst < o + n)
  mine.flatMap fun x => x.bs.getD []

/-- What the next read of a command's parts gives: bytes still to come, all of them, or a cause. -/
inductive PartRes where
  | more (s : State)
  | all (s : State)
  | bad (cause addr : Nat) (s : State)

/-- One read of the parts of command `c`: some bytes of a part in a free choice (R96, R326). -/
def readPart (c : Nat) (s : State) : PartRes :=
  match s.cmds.get? c with
  | none => .more s
  | some k =>
    let waiting := (k.parts.zipIdx.filter fun x => x.1.bs.isNone).map (·.2)
    match waiting[Config.freeNat s.fresh % waiting.length]? with
    | none => .all s
    | some j =>
      let x := k.parts.getD j default
      let o := Config.freeNat (s.fresh + 1) % x.len
      let m := x.len - o - Config.freeNat (s.fresh + 2) % (x.len - o)
      let a := x.src.getD 0 + o
      match touch s k false a m with
      | .bad e b => .bad e b s
      | .miss g => .more (cmdMiss c k false g s)
      | .ok ps =>
        if mustWait s ps then .more s
        else
          let r := cmdBytes s k ps
          if r.any fun b => b.poison then .bad 0x0D a s
          else
            let parts := putChunks k.parts j (someBytes
              [x.part 0 o, { x.part o m with bs := some (r.map fun b => b.val) }, x.part (o + m) (x.len - o - m)])
            let dead := anyDead s ps
            let s := cmdRead c k a m ps { s with fresh := s.fresh + 3 }
            .more { s with cmds := s.cmds.adj c fun k => { k with parts := parts, revoked := k.revoked || dead } }

/-- The command begins to read some ranges. -/
def beginParts (c : Nat) (rs : List (Nat × Nat × Nat)) (s : State) : State :=
  { s with cmds := s.cmds.adj c fun k => { k with parts := k.parts ++ partsOf rs } }

end Sys2Proof.Machine
end

