-- ==== Sys2Proof/Machine/Copying.lean ====
section
/-! DEFINITION. The copy engine, the Storekeeper, the dispenser and publications (02 R56 to R58; 09 R197, R200 to R203, R219). -/

namespace Sys2Proof.Machine

open Host (Outcome)

/-! ### Moves of a copy command (R200, R201) -/

/-- Bytes to move from one address to another. -/
structure CopyMove where
  src : Nat
  dst : Nat
  len : Nat
  deriving DecidableEq, Repr

/-- A row cut where either side meets a page boundary. -/
def cutMove : Nat → CopyMove → List CopyMove
  | 0, _ => []
  | k + 1, m =>
    if m.len = 0 then [] else
    let n := min m.len (min (4096 - m.src % 4096) (4096 - m.dst % 4096))
    ⟨m.src % 2 ^ 64, m.dst % 2 ^ 64, n⟩ :: cutMove k ⟨m.src + n, m.dst + n, m.len - n⟩

/-- A row meets a page boundary of one side or the other at most twice in 4 KiB. -/
def cutMoves (ms : List CopyMove) : List CopyMove := ms.flatMap fun m => cutMove (m.len / 4096 * 2 + 4) m

/-- The rows of CPCOPY. -/
def copyRows (d : List Word) : List CopyMove :=
  (List.range (desc32 d 5)).map fun i => ⟨desc64 d 0 + i * desc32 d 6, desc64 d 2 + i * desc32 d 7, desc32 d 4⟩

/-- The rows of CPGATH and CPSCAT, with the index list. -/
def gatherRows (d : List Word) (scatter : Bool) (idx : List Nat) : List CopyMove :=
  idx.zipIdx.map fun x =>
    let far := desc64 d 0 + x.1 * desc32 d 4
    let near := desc64 d 2 + x.2 * desc32 d 4
    if scatter then ⟨near, far, desc32 d 4⟩ else ⟨far, near, desc32 d 4⟩

/-- The plane that a stream of a core's matrix queues will meet: the active one, after the swaps that stand before it (R195, R197). -/
def planeOfStream (s : State) (c : Nat) (k : Cmd) : Plane :=
  let before := (s.cmds.filter fun e => e.1 < c && e.2.core == k.core && e.2.kind == .mxswap && gate s e.2 != .discard).length
  let x := cor s k.core
  let p := if before % 2 = 0 then x.active else x.shadow
  match p with
  | some p => if p.loader.map (·.1) = some k.lid then p else Plane.reset
  | none => Plane.reset

/-- Bytes of a row of a stream: where a plane load still stands before it the format is not known yet, and the row is taken as the
longest; and so where an unresolved guard decides whether the planes are swapped (R135, R197). -/
def leasedRow (s : State) (c : Nat) (k : Cmd) : Nat :=
  let undecided (x : Cmd) : Bool := match x.kind with
    | .mxlds _ => true
    | .mxswap => gate s x == .wait
    | _ => false
  if s.cmds.any fun e => e.1 < c && e.2.core == k.core && undecided e.2 then 128
  else rowSize (planeOfStream s c k)

/-- A byte of a source row not yet fed, which a stream holds a lease on (R197). -/
def leased (s : State) (ps : List Piece) : Bool :=
  s.cmds.any fun e =>
    match e.2.kind with
    | .mxstr _ rows false _ =>
      (rows.drop e.2.fed).any fun r => match scratchKey s e.2.block r.2.1 0 with
        | some key => ps.any fun p => overlaps p.addr p.len key (leasedRow s e.1 e.2)
        | none => false
    | _ => false

/-- The token of a command, with bit 31 set when it met a revoked window (R257). -/
def copyToken (n : Nat) (revoked : Bool) : Word := BitVec.ofNat 32 (n % 2 ^ 31 + if revoked then 2 ^ 31 else 0)

/-- A chunk cut where its destination meets a multiple of 64 bytes, as leased rows begin and end at. -/
def Chunk.cut : Nat → Chunk → List Chunk
  | 0, _ => []
  | k + 1, x =>
    let m := 64 - x.dst % 64
    if x.len ≤ m then [x] else x.part 0 m :: Chunk.cut k (x.part m (x.len - m))

/-- What can be done for a chunk now: nothing, a request for a host translation, a fault, bytes read, or bytes to write (R72, R83, R197,
R200, R306). -/
inductive CopyStep where
  | wait
  | ask (write : Bool) (pages : List Nat)
  | bad (cause addr : Nat)
  | read (ps : List Piece)
  | write (ps : List Piece)
  deriving DecidableEq, Repr

/-- A byte that the bytes overlap is still to be read; one whose translation is not known may be such a byte (R200). -/
def unreadOver (s : State) (k : Cmd) (l : List Chunk) (qs : List Piece) : Bool :=
  l.any fun u => match u.bs, u.src with
    | none, some a => (match touch s k false a u.len with
      | .ok ps => ps.any fun p => qs.any fun q => overlaps p.addr p.len q.addr q.len
      | .miss _ => true
      | .bad _ _ => false)
    | _, _ => false

/-- An earlier entry of a scatter's list still has bytes for the same place: the later entry's bytes stand (R201). -/
def scatterBehind (k : Cmd) (l : List Chunk) (x : Chunk) : Bool :=
  k.kind == .cpscat && l.any fun e => overlaps e.dst e.len x.dst x.len

/-- The step that a chunk allows, with the chunks before it and all of them. -/
def copyStep (s : State) (k : Cmd) (before all : List Chunk) (x : Chunk) : CopyStep :=
  match x.bs, x.src with
  | none, some a => (match touch s k false a x.len with
    | .bad e b => .bad e b
    | .miss p => .ask false p
    | .ok ps => if mustWait s ps then .wait else .read ps)
  | _, _ => (match touch s k true x.dst x.len with
    | .bad e b => .bad e b
    | .miss p => .ask true p
    | .ok qs => if leased s qs || scatterBehind k before x || unreadOver s k all qs then .wait else .write qs)

/-- The first chunk, of the places from `i` on and round, that allows a step. -/
def pickChunk (s : State) (k : Cmd) (l : List Chunk) (i : Nat) : Option (Nat × Chunk × CopyStep) :=
  let order := (List.range l.length).map fun j => (i + j) % l.length
  order.findSome? fun j => match l[j]? with
    | some x => (match copyStep s k (l.take j) l x with
      | .wait => none
      | y => some (j, x, y))
    | none => none

/-- One step of a started copy command: some bytes of a chunk in a free choice are read, or written once read; with the last of them
the command ends (R96, R200). A condition of class D ends it there (R306). -/
def stepCopy (c : Nat) (k : Cmd) (n : Nat) (h : Held) (s : State) : State :=
  let put (h : Held) (s : State) : State := { s with cmds := s.cmds.adj c fun k => { k with held := some h } }
  let l := h.chunks.flatMap fun x => match x.bs with
    | some _ => (match touch s k true x.dst x.len with
      | .ok qs => if leased s qs then x.cut (x.len / 64 + 2) else [x]
      | .bad _ _ | .miss _ => [x])
    | none => [x]
  match pickChunk s k l (Config.freeNat s.fresh % max l.length 1) with
  | none => if l.isEmpty then finishCmd c (copyToken n h.revoked) s else put { h with chunks := l } s
  | some (_, _, .ask w p) => cmdMiss c k w p (put { h with chunks := l } s)
  | some (_, _, .bad e a) => faultCmd c e a s
  | some (_, _, .wait) => s
  | some (j, x, _) =>
    -- the bytes of this step: any part of the chunk
    let o := Config.freeNat (s.fresh + 1) % x.len
    let m := x.len - o - Config.freeNat (s.fresh + 2) % (x.len - o)
    let y := x.part o m
    let rest (z : List Chunk) : List Chunk := putChunks l j (someBytes ([x.part 0 o] ++ z ++ [x.part (o + m) (x.len - o - m)]))
    let s := { s with fresh := s.fresh + 3 }
    match y.bs, y.src with
    | none, some a => (match touch s k false a m with
      | .ok ps =>
        let r := cmdBytes s k ps
        let revoked := h.revoked || anyDead s ps
        if r.any fun b => b.poison then faultCmd c 0x0D a s
        else put ⟨rest [{ y with bs := some (r.map fun b => b.val) }], revoked⟩ (cmdRead c k a m ps s)
      | .bad e b => faultCmd c e b s
      | .miss _ => s)
    | some bs, _ => (match touch s k true y.dst m with
      | .ok qs =>
        let l := rest []
        let s := cmdWrite k qs y.dst bs false (keepPages c true y.dst m s)
        let revoked := h.revoked || anyDead s qs
        if l.isEmpty then finishCmd c (copyToken n revoked) s else put ⟨l, revoked⟩ s
      | .bad e b => faultCmd c e b s
      | .miss _ => s)
    | none, none => s

/-- The chunks of a command's moves, with nothing read. -/
def chunksOfMoves (ms : List CopyMove) : List Chunk := (cutMoves ms).map fun m => ⟨some m.src, m.dst, m.len, none⟩

/-- The chunks of a fill, whose bytes are known. -/
def fillChunks (d : List Word) (z : Nat) : List Chunk :=
  let pattern := ((d.drop 4).flatMap fun w => natLe 4 w.toNat).take z
  (chunksOf (desc64 d 0) (desc32 d 2)).map fun x => ⟨none, x.1, x.2, some ((List.range x.2).map fun i => pattern.getD ((x.1 + i) % z) 0)⟩

/-- The moves of a gather or scatter, once its index list has been read (R201). -/
def indexList (c : Nat) (k : Cmd) (scatter : Bool) (s : State) : State :=
  let n := desc32 k.desc 5
  if k.parts.isEmpty && n ≠ 0 then beginParts c [(desc64 k.desc 6, 0, 4 * n)] s
  else match readPart c s with
    | .more s => s
    | .bad e a s => faultCmd c e a s
    | .all s =>
      let b := gathered k.parts 0 (4 * n)
      let idx := (List.range n).map fun j => fieldAt b (4 * j) 4
      { s with cmds := s.cmds.adj c fun k => { k with
        held := some ⟨chunksOfMoves (gatherRows k.desc scatter idx), k.revoked⟩, parts := [], revoked := false } }

/-- A copy command begins: its moves stand before it (R200, R201). -/
def startCopy (c : Nat) (k : Cmd) (s : State) : State :=
  let put (l : List Chunk) : State := { s with cmds := s.cmds.put c { k with held := some ⟨l, false⟩ } }
  match k.kind with
  | .cpcopy => put (chunksOfMoves (copyRows k.desc))
  | .cpgath => indexList c k false s
  | .cpscat => indexList c k true s
  | .cpfill z => put (fillChunks k.desc z)
  | .mxlds _ | .mxswap | .mxstr .. | .mxdrn | .mxzero _ | .alloc _ | .free _ => s

/-- What a command's token counts: its rows, entries or bytes (Table 9.5). -/
def copyCount (k : Cmd) : Nat := match k.kind with
  | .cpfill _ => desc32 k.desc 2
  | _ => desc32 k.desc 5

/-- A copy command begun with its acquire, or gone on with by one step (R96, R200). -/
def runCopy (c : Nat) (k : Cmd) (s : State) : State :=
  match k.held with
  | some h => stepCopy c k (copyCount k) h s
  | none => startCopy c k (if k.parts.isEmpty then cmdAcquire k s else s)

/-- Every command before this one in q2 has started: none of them waits for its guard (R135, R200). -/
def copyStarted (s : State) (c : Nat) (k : Cmd) : Bool :=
  ((blk s k.block).q2.takeWhile (· != c)).all (fun d => match s.cmds.get? d with
    | some x => gate s x != .wait
    | none => true) && (blk s k.block).q2.contains c

/-- COPY_COMMAND_COMPLETE (R200): a started command, in any order, goes on by one step, and completes with its last one. A discarded
one writes token 0. -/
def execCopyCommandComplete (cmd : Nat) (s : State) : Outcome State Fault Refusal :=
  .next (match s.cmds.get? cmd with
    | none => s
    | some k =>
      if !copyStarted s cmd k || k.started then s
      else match gate s k with
        | .wait => s
        | .discard => settle (discardCmd cmd s)
        | .run => if k.ready then settle (runCopy cmd k s) else s)

/-! ### The Storekeeper (R202, R203) -/

/-- The class that holds a size (R202); none where no class does. -/
def classOf (size : Nat) : Option Nat :=
  if size = 0 || 2 ^ 20 < size then none else ((List.range 15).map fun n => 64 * 2 ^ n).find? fun z => size ≤ z

/-- A block of the heap that lies within the region, is aligned, and overlaps no live object. -/
def blockFree (p : Partition) (z a : Nat) : Bool :=
  a % z == 0 && p.heap.toNat ≤ a && a + z ≤ p.heap.toNat + p.heapSize.toNat &&
  (p.objects.all fun o => !overlaps a z o.1 o.2.1) && p.heldObjects.all fun o => !overlaps a z o.1 o.2.1

/-- Some block of the class is free: if one is, then one is at the region's start or just after an object. -/
def anyFree (p : Partition) (z : Nat) : Bool :=
  (p.heap.toNat :: (p.objects.map fun o => o.1 + o.2.1) ++ p.heldObjects.map fun o => o.1 + o.2.1).any fun a =>
    blockFree p z (roundUp a z)

/-- The releases of the FREEs that last returned the bytes of a block. -/
def returnedRels (p : Partition) (a z : Nat) : List Nat :=
  ((List.range (z / 64)).flatMap fun i => p.freedRels.getD (a / 64 + i) []).eraseDups

/-- The reply of an ALLOC: the waiting threads go on, or nobody waits any more. -/
def replyAlloc (c : Nat) (k : Cmd) (x : DWord) (rels : List Nat) (s : State) : State :=
  let waiting := k.token.isSome && s.waits.any fun e => match e.2.kind with
    | .alloc d _ => d == c
    | _ => false
  let s := modBlock k.block (fun b => { b with q4 := b.q4.filter (· != c) }) s
  if waiting then settle { s with cmds := s.cmds.put c { k with result := some x, acqRels := rels } }
  else settle { s with cmds := s.cmds.del c }

/-- The byte was left there by another partition, or by nobody (R202). -/
def foreignByte (s : State) (pt key : Nat) : Bool :=
  match s.writers.get? key with
  | none => false
  | some w => match s.agents.get? w.sid.1 with
    | some g => if g.place.onCore then g.part != pt else !(partOf s pt).used.contains (key / 64)
    | none => !(partOf s pt).used.contains (key / 64)

/-- A block given to a partition by agent `a'`, the ALLOC: bytes that it has not used are zero, and the block counts as its own (R202). -/
def giveBlock (a' pt a z : Nat) (s : State) : State :=
  let s := ((List.range z).map (a + ·)).foldl (fun s' key => if foreignByte s pt key then unitWrite a' key [0] false [] s' else s') s
  let units := (List.range (z / 64)).map (a / 64 + ·)
  { s with partitions := s.partitions.map fun e =>
    (e.1, { e.2 with used := (if e.1 = pt then units else []) ++ e.2.used.filter fun u => !units.contains u }) }

/-- STOREKEEPER_REPLY (R202): the ALLOC at the head of a block's q4 is served with the free block at `addr`, or with 0 where no
block of its class is free. -/
def execStorekeeperReply (block addr : Nat) (s : State) : Outcome State Fault Refusal :=
  .next (match (blk s block).q4 with
    | [] => s
    | c :: _ => match s.cmds.get? c with
      | none => s
      | some k => match k.kind with
        | .alloc size =>
          let pt := (launchOf s k.lid).part
          let p := partOf s pt
          (match classOf size with
           | none => replyAlloc c k 0 [] s
           | some z =>
             if !anyFree p z then replyAlloc c k 0 [] s
             else if !blockFree p z addr then s
             else
               let s := giveBlock k.agent pt addr z (modPart pt (fun p => { p with objects := p.objects ++ [(addr, z, k.lid)] }) s)
               let s := addHolding k.squad .object (BitVec.ofNat 64 addr) addr false s
               replyAlloc c k (BitVec.ofNat 64 addr) (returnedRels p addr z) s)
        | _ => s)

/-- A request passed to the host touches an object (R203, R351). -/
def ioOutstanding (s : State) (pt a z : Nat) : Bool :=
  s.storage.any fun e => (s.contexts.getD e.2.ctx default).part == pt && e.2.out.any fun r => overlaps r.buffer r.len a z

/-- A block returned to the free lists, with the releases that returned it. -/
def returnBlock (pt a z : Nat) (rels : List Nat) (s : State) : State :=
  modPart pt (fun p => { p with
    freedRels := (List.range (z / 64)).foldl (fun t i => t.put (a / 64 + i) rels) p.freedRels }) s

/-- An object freed: held while storage I/O on it is outstanding (R203). -/
def freeObject (pt a : Nat) (rels : List Nat) (s : State) : State :=
  match (partOf s pt).objects.find? fun o => o.1 == a with
  | none => s
  | some (_, z, _) =>
    let s' := modPart pt (fun p => { p with objects := p.objects.filter fun o => o.1 != a }) s
    if ioOutstanding s pt a z then modPart pt (fun p => { p with heldObjects := p.heldObjects ++ [(a, z, rels)] }) s'
    else returnBlock pt a z rels s'

/-- Held objects whose I/O has ended return to the free lists (R351). -/
def releaseHeld (pt : Nat) (s : State) : State :=
  (partOf s pt).heldObjects.foldl (fun s o =>
    if ioOutstanding s pt o.1 o.2.1 then s
    else returnBlock pt o.1 o.2.1 o.2.2 (modPart pt (fun p => { p with
      heldObjects := p.heldObjects.filter fun x => x.1 != o.1 }) s)) s

/-- STOREKEEPER_FREE (R203): the FREE at the head of a block's q4, once its release has been performed. -/
def execStorekeeperFree (block : Nat) (s : State) : Outcome State Fault Refusal :=
  .next (match (blk s block).q4 with
    | [] => s
    | c :: _ => match s.cmds.get? c with
      | none => s
      | some k => match k.kind with
        | .free a =>
          if k.ready then
            let s := modBlock block (fun b => { b with q4 := b.q4.filter (· != c) }) s
            settle (freeObject (launchOf s k.lid).part a k.acqRels { s with cmds := s.cmds.del c })
          else s
        | _ => s)

/-! ### The dispenser (R58) -/

def exhaustedValue : DWord := BitVec.allOnes 64

/-- An entry for a block's q6: a handed-back tile, which replaces an exhausted value that stands unpopped, or else the next tile of
the sequence, or the exhausted value. -/
def refill (b : Nat) (s : State) : State :=
  let k := blk s b
  let l := launchOf s k.lid
  match l.handedBack with
  | t :: rest =>
    let took (s : State) : State := modLaunch k.lid (fun l => { l with handedBack := rest }) s
    if k.exhausted then (if k.q6.length < 2 then modBlock b (fun k => { k with q6 := k.q6 ++ [exhaustedValue] }) s else s)
    else if k.q6.contains exhaustedValue then
      took (modBlock b (fun k => { k with q6 := k.q6.set (k.q6.idxOf exhaustedValue) (BitVec.ofNat 64 t) }) s)
    else if k.q6.length < 2 then took (modBlock b (fun k => { k with q6 := k.q6 ++ [BitVec.ofNat 64 t] }) s)
    else s
  | [] =>
    if 2 ≤ k.q6.length then s
    else
      match if k.exhausted then none else nextTile l.hdr l.nextPos with
      | some (t, p) =>
        modLaunch k.lid (fun l => { l with nextPos := p }) (modBlock b (fun k => { k with q6 := k.q6 ++ [BitVec.ofNat 64 t] }) s)
      | none => modBlock b (fun k => { k with q6 := k.q6 ++ [exhaustedValue] }) s

/-- DISPENSER_REFILL (R58). -/
def execDispenserRefill (block : Nat) (s : State) : Outcome State Fault Refusal :=
  .next (if (s.blocks.get? block).isNone || blockEnded s block || (blockHeader s block).dimx = 0 then s else settle (refill block s))

/-! ### Publications (R219, R250) -/

/-- The lines of a window written since its last publication, as offsets from its base. -/
def dirtyLines (w : PubWin) (ps : List Piece) : List (Nat × Nat) :=
  (ps.foldl (fun (r : Nat × List (Nat × Nat)) p =>
    (r.1 + p.len, r.2 ++ ((List.range (p.len / 128)).map fun i => (p.addr / 128 + i, r.1 + 128 * i)))) (0, [])).2.filter
      fun x => w.dirty.contains x.1

/-- The counter written by agent `a`, if the host's page can be reached. -/
def writeCounter (a : Nat) (w : PubWin) (v : Nat → Nat) (next : State → State) (s : State) : State :=
  let view := hubView s w.ctx
  match rangeOf s view true w.counter.toNat 8 with
  | .ok (p :: _) => next (unitWrite a p.addr (natLe 8 (v (readNat s p.addr 8) % 2 ^ 64)) false [] s)
  | .ok [] | .bad _ => s
  | .miss g => sendAts view true .hub (fun _ => none) g s

/-- The host side's bytes at an offset written by agent `a` from the device side's line. -/
def publishLines (a : Nat) (w : PubWin) (next : State → State) (s : State) : State :=
  let view := hubView s w.ctx
  match rangeOf s view false w.base.toNat w.size with
  | .ok ps =>
    let lines := dirtyLines w ps
    let misses := lines.flatMap fun x => match rangeOf s view true (w.host.toNat + x.2) 128 with
      | .miss g => g
      | .ok _ | .bad _ => []
    if misses.isEmpty then
      next (lines.foldl (fun s x => match rangeOf s view true (w.host.toNat + x.2) 128 with
        | .ok (q :: _) => unitWrite a q.addr (readBytes s (x.1 * 128) 128) (isPoisoned s (x.1 * 128) 128) [] s
        | .ok [] | .bad _ | .miss _ => s) s)
    else sendAts view true .hub (fun _ => none) misses s
  | .bad _ | .miss _ => s

/-- A publication may be performed: its release has been, it is not held, and the launch has issued no earlier one that it holds back
(R60, R219). -/
def mayPublish (s : State) (p : Publication) : Bool :=
  p.released && !p.held &&
  (!(launchOf s p.lid).hdr.rollback || s.pubs.all fun e => e.2.pending.all fun q => q.lid != p.lid || p.id ≤ q.id)

/-- PUBLICATION_PERFORM (R99, R219): the next of the three writes of the oldest publication of a window. -/
def execPublicationPerform (win : Nat) (s : State) : Outcome State Fault Refusal :=
  .next (match s.pubs.get? win with
    | none => s
    | some w =>
      let set (f : PubWin → PubWin) (s : State) : State := { s with pubs := s.pubs.adj win f }
      let a := queueAgent (launchOf s (w.pending.headD default).lid).queue
      if !(w.pending.head?.any (mayPublish s)) then s
      else if w.step = 0 then writeCounter a w (· + 1) (set fun w => { w with step := 1 }) s
      else if w.step = 1 then publishLines a w (set fun w => { w with step := 2, dirty := [] }) s
      else writeCounter a w (· + 1) (set fun w => { w with step := 0, pending := w.pending.drop 1 }) s)

end Sys2Proof.Machine
end

