-- ==== Sys2Proof/Machine/Place.lean ====
section
/-! DEFINITION. Placing squads on cores: lease-table rows, register groups, tiles, block contexts, save areas, the choice of victims, and islands (01 R9 to R15, R33 to R36; 02 R50 to R55, R61; 08 R182; 21 R354). -/

namespace Sys2Proof.Machine

/-! ### What a squad takes (R15, R336) -/

/-- What a squad needs of a core: register groups per thread, home lanes, two physical lanes for each home lane or one, tiles. -/
structure Need where
  groups : Nat
  lanes : List Nat
  twice : Bool
  tiles : Nat
  deriving DecidableEq, Repr

/-- The physical lanes that bear the groups of home lane `L` (R336). -/
def physical (twice : Bool) (L : Nat) : List Nat := if twice then [2 * L, 2 * L + 1] else [L]

def needOf (s : State) (q : Nat) : Need :=
  let sq := sqd s q
  ⟨sq.allot / 8, sq.present, (launchOf s sq.lid).hdr.isProtected, sq.tiles.length⟩

def needOfRole (h : Header) (r : Role) : Need := ⟨r.allot / 8, List.range r.threads, h.isProtected, r.tiles⟩

/-- The groups that a need takes of one physical lane. -/
def Need.ofLane (n : Need) (p : Nat) : Nat := if (n.lanes.flatMap (physical n.twice)).contains p then n.groups else 0

/-- The squads in the rows of a core, without those of `gone`. -/
def rowSquads (s : State) (c : Nat) (gone : List Nat) : List Nat := ((cor s c).rows.map (·.2)).filter fun q => !gone.contains q

/-- Groups of a physical lane in use. -/
def lanesUsed (s : State) (c : Nat) (gone : List Nat) (p : Nat) : Nat :=
  ((rowSquads s c gone).map fun q => ((sqd s q).groups.getD p []).length).sum

def tilesUsed (s : State) (c : Nat) (gone : List Nat) : Nat := ((rowSquads s c gone).map fun q => (sqd s q).tiles.length).sum

/-- The blocks that hold a block context of a core once the squads of `gone` have left (R33). -/
def contextsHeld (s : State) (c : Nat) (gone : List Nat) : List Nat :=
  ((cor s c).ctx.map (·.2)).filter fun b => gone.isEmpty || (rowSquads s c gone).any fun q => (sqd s q).block == b

/-- R15 and R33 for one squad of block `b`. -/
def fits (s : State) (c b : Nat) (n : Need) : Bool :=
  (cor s c).rows.length < 16 && tilesUsed s c [] + n.tiles ≤ 8 &&
  ((List.range 32).all fun p => lanesUsed s c [] p + n.ofLane p ≤ 128) &&
  ((contextsHeld s c []).contains b || (contextsHeld s c []).length < 2)

/-- The lowest free groups of a physical lane. -/
def freeGroups (s : State) (c p k : Nat) : List Nat :=
  ((List.range 128).filter fun g => !(rowSquads s c []).any fun q => ((sqd s q).groups.getD p []).contains g).take k

/-- The lowest free tiles of a core. -/
def freeTiles (s : State) (c k : Nat) : List Nat :=
  ((List.range 8).filter fun t => !(rowSquads s c []).any fun q => (sqd s q).tiles.contains t).take k

/-- A squad put in a row with the groups and tiles of a need; its block takes the lowest free context if it holds none (R15,
R33). -/
def takeRow (q c row : Nat) (n : Need) (s : State) : State :=
  let b := (sqd s q).block
  let groups : Tbl (List Nat) := ((List.range 32).filter fun p => 0 < n.ofLane p).map fun p => (p, freeGroups s c p n.groups)
  let tiles := freeTiles s c n.tiles
  let ctxs := (cor s c).ctx
  let k := if (ctxs.any fun e => e.2 == b) then (blk s b).ctx else if (ctxs.get? 0).isNone then 0 else 1
  let s := modCore c (fun x => { x with rows := x.rows.put row q, ctx := x.ctx.put k b }) s
  let s := modBlock b (fun x => { x with ctx := k }) s
  modSquad q (fun sq => { sq with row := row, groups := groups, tiles := tiles, ctx := k }) s

/-- A squad leaves its row: its groups and tiles return, and its block's context is free when it was the last (R33, R36). -/
def leaveRow (q : Nat) (s : State) : State :=
  let sq := sqd s q
  let s := modCore sq.core (fun x => { x with rows := x.rows.filter fun e => e.2 != q }) s
  if (rowSquads s sq.core []).any fun r => (sqd s r).block == sq.block then s
  else modCore sq.core (fun x => { x with ctx := x.ctx.filter fun e => e.2 != sq.block }) s

/-! ### Areas of the save region (R54, R182) -/

/-- The `len` bytes at `a` lie in a partition's save region and overlap no live area of it. -/
def areaOk (p : Partition) (len a : Nat) : Bool :=
  p.save.toNat ≤ a && a + len ≤ p.save.toNat + p.saveSize.toNat && p.areas.all fun x => !overlaps a len x.1 x.2

/-- The lowest area of `len` bytes, 4 KiB aligned. -/
def lowestArea (p : Partition) (len : Nat) : Option Nat :=
  (sortBy (fun a b => a ≤ b) ((p.save.toNat :: p.areas.map fun a => a.1 + a.2).map fun a => roundUp a 4096)).find? (areaOk p len)

/-- An area of `len` bytes, 4 KiB aligned: which one is free, the `k`-th place of the region if it can be given (R182; log 20). -/
def freeArea (p : Partition) (len k : Nat) : Option Nat :=
  let a := roundUp p.save.toNat 4096 + 4096 * k
  if areaOk p len a then some a else lowestArea p len

/-- One area taken for each length, all or none. -/
def takeAreas (pt : Nat) : List Nat → State → Option (List Nat × State)
  | [], s => some ([], s)
  | n :: r, s =>
    match freeArea (partOf s pt) n (Config.freeNat s.fresh) with
    | none => none
    | some a =>
      match takeAreas pt r (modPart pt (fun p => { p with areas := p.areas ++ [(a, n)] }) { s with fresh := s.fresh + 1 }) with
      | some (as, s) => some (a :: as, s)
      | none => none

def giveAreas (pt : Nat) (as : List Nat) (s : State) : State :=
  modPart pt (fun p => { p with areas := p.areas.filter fun a => !as.contains a.1 }) s

/-- The call-stack areas of a squad's threads. -/
def stackAreas (s : State) (q : Nat) : List Nat := (threadsOf s q).map fun t => (thr s t).stk.toNat

/-- The squad's MXLDS loaded one of its core's planes (R52). -/
def loadedPlane (s : State) (q : Nat) : Bool :=
  let by' (p : Option Plane) : Bool := match p with
    | some p => p.loader == some ((sqd s q).lid, q)
    | none => false
  by' (cor s (sqd s q).core).active || by' (cor s (sqd s q).core).shadow

/-- The size of a squad's save area, with the planes if they are saved with it (R54). -/
def saveBytes (s : State) (q : Nat) : Nat :=
  let sq := sqd s q
  2048 + 4 * sq.allot * sq.present.length + 8192 * sq.tiles.length + (if loadedPlane s q then 17 * 1024 else 0)

/-- An area of `len` bytes is held exactly when it is wanted; none where it cannot be taken. -/
def keepArea (pt len : Nat) (want : Bool) (have_ : Option Nat) (s : State) : Option (Option Nat × State) :=
  match want, have_ with
  | true, none => (takeAreas pt [len] s).map fun (as, s) => (as.head?, s)
  | false, some a => some (none, giveAreas pt [a] s)
  | true, some a => some (some a, s)
  | false, none => some (none, s)

/-- The block's context is saved: none of its squads holds a row but to leave it for its save area, and one of them is saved or on
its way (R53). -/
def blockSaved (s : State) (b : Nat) : Bool :=
  let qs := loadedSquads s b
  ((rowSquads s (blk s b).core []).all fun q => (sqd s q).block != b || (sqd s q).state == .saving) &&
    qs.any fun q => !(sqd s q).ended && ((sqd s q).state == .evicted || (sqd s q).state == .saving)

/-- A block's areas: that of its saved context, window and 4 KiB, and the backing area in which its cluster contribution stays (R54,
R68). -/
def blockAreas (b : Nat) (s : State) : Option State :=
  let pt := (launchOf s (blk s b).lid).part
  let want := blockSaved s b
  (keepArea pt (localSize s b + 4096) want (blk s b).saveArea s).bind fun (a, s) =>
    (keepArea pt scratchBytes want (blk s b).backing s).map fun (c, s) => modBlock b (fun k => { k with saveArea := a, backing := c }) s

/-- The areas that a core's contexts need: one backing area where it holds two contexts, and those of its saved blocks (R54, R68;
log 79). None where the save region cannot hold them. -/
def coreAreas (c : Nat) (s : State) : Option State :=
  let bs := (s.blocks.filter fun e => e.2.core == c && !(launchOf s e.2.lid).ended).map (·.1)
  let pt := (launchOf s (blk s (((cor s c).ctx.map (·.2)).headD 0)).lid).part
  bs.foldl (fun o b => o.bind (blockAreas b))
    ((keepArea pt scratchBytes (decide (2 ≤ (cor s c).ctx.length)) (cor s c).backing s).map fun (a, s) =>
      modCore c (fun x => { x with backing := a }) s)

/-! ### Islands (R61, R293, R294) -/

def islandAt (s : State) (i : Nat) : Island := s.islands.getD i default
def modIsland (i : Nat) (f : Island → Island) (s : State) : State := { s with islands := s.islands.put i (f (islandAt s i)) }

/-- The core clock in MHz and the nominal voltage in mV of an operating point (Table 17.4a). -/
def pointClock (p : Nat) : Nat := 200 * (p + 1)
def pointVoltage (p : Nat) : Int := [530, 560, 590, 620, 650, 700, 750, 800].getD p 0

/-- An island at a point: its voltage is the nominal one and its trim, in steps of 5 mV (R293). -/
def Island.atPoint (p : Nat) (i : Island) : Island :=
  { i with point := p, volt := pointVoltage p + 5 * (i.trims.getD p 0).toInt }

/-- The retention voltage in mV (R294). -/
def retentionVoltage : Int := 450

/-- The core clock of an island in MHz: stopped in retention (R293, R294). -/
def Island.clock (i : Island) : Nat := if i.retention then 0 else pointClock i.point

/-- An island leaves retention at OP4 (R61, R294). -/
def wake (c : Nat) (s : State) : State :=
  if (islandAt s (islandOf c)).retention then modIsland (islandOf c) (fun i => Island.atPoint 4 { i with retention := false }) s else s

def islandCores (i : Nat) : List Nat := (List.range 24).map (i * 24 + ·)

/-- Squads of a launch bound to the core are still to be loaded. -/
def awaitsLoad (s : State) (c : Nat) : Bool :=
  (boundTo s c).any fun l => !(launchOf s l).ended && !(launchOf s l).whole && !fullyLoaded s l c

/-- An island whose cores hold no squad and await none enters retention (R61). -/
def rest (c : Nat) (s : State) : State :=
  if (islandCores (islandOf c)).all fun c => (cor s c).rows.isEmpty && !awaitsLoad s c then
    modIsland (islandOf c) (fun i => { i with retention := true, volt := retentionVoltage }) s
  else s

/-! ### Partial eviction (R50 to R55) -/

/-- What is short on a core for needs `ns` of a block, once the squads of `gone` have left. -/
structure Shortfall where
  rows : Bool
  lanes : List Nat
  tiles : Bool
  ctx : Bool

def shortfall (s : State) (c b : Nat) (ns : List Need) (gone : List Nat) : Shortfall :=
  { rows := decide (16 < (rowSquads s c gone).length + ns.length)
    lanes := (List.range 32).filter fun p => 128 < lanesUsed s c gone p + (ns.map fun n => n.ofLane p).sum
    tiles := decide (8 < tilesUsed s c gone + (ns.map fun n => n.tiles).sum)
    ctx := !(contextsHeld s c gone).contains b && 2 ≤ (contextsHeld s c gone).length }

def Shortfall.none (x : Shortfall) : Bool := !x.rows && x.lanes.isEmpty && !x.tiles && !x.ctx

/-- The squad's eviction reduces the shortfall of rows, groups or tiles. -/
def reduces (s : State) (x : Shortfall) (q : Nat) : Bool :=
  let sq := sqd s q
  x.rows || (x.lanes.any fun p => !(sq.groups.getD p []).isEmpty) || (x.tiles && !sq.tiles.isEmpty)

def prioOf (s : State) (q : Nat) : Nat := (launchOf s (sqd s q).lid).hdr.prio
def footprint (s : State) (q : Nat) : Nat := (sqd s q).allot * (sqd s q).present.length

/-- The order in which victims are taken: lowest priority, largest footprint, higher global number (R50). Squads of several launches
of one priority are taken in that order too (log 78). -/
def victimFirst (s : State) (a b : Nat) : Bool :=
  prioOf s a < prioOf s b || (prioOf s a == prioOf s b && (footprint s b < footprint s a ||
    (footprint s a == footprint s b && (sqd s b).gsq ≤ (sqd s a).gsq)))

/-- The squads of a core already chosen for eviction. -/
def leaving (s : State) (c : Nat) : List Nat := (rowSquads s c []).filter fun q => (sqd s q).state = .saving

def residents (s : State) (c : Nat) : List Nat := (rowSquads s c []).filter fun q => (sqd s q).state = .resident

/-- The squads gone from a core once resident squads that `may` allows have been taken one at a time until the needs fit, or until
none of them reduces what is short (R50). Where a block context is short with other things, it is freed first (log 78); its lowest
holder leaves whole, the first by context number among equals, and rows of it that are draining leave of themselves. -/
def victims (s : State) (c b : Nat) (ns : List Need) (may : Nat → Bool) : Nat → List Nat → List Nat
  | 0, gone => gone
  | k + 1, gone =>
    let x := shortfall s c b ns gone
    let left := (residents s c).filter fun q => may q && !gone.contains q
    if x.none then gone
    else if x.ctx then
      let allowed (h : Nat) : Bool := (rowSquads s c gone).all fun q => (sqd s q).block != h || may q
      match sortBy (fun a b => (launchOf s (blk s a).lid).hdr.prio ≤ (launchOf s (blk s b).lid).hdr.prio)
          ((contextsHeld s c gone).filter allowed) with
      | h :: _ => victims s c b ns may k (gone ++ (rowSquads s c gone).filter fun q => (sqd s q).block == h)
      | [] => gone
    else match sortBy (victimFirst s) (left.filter (reduces s x)) with
      | q :: _ => victims s c b ns may k (gone ++ [q])
      | [] => gone

/-- The command that the engine of a core takes next: of the heads of its block contexts' q0, the one pushed first (R192). -/
def headCmd (s : State) (core : Nat) : Option Nat :=
  (sortBy (fun a b => a ≤ b) ((cor s core).ctx.filterMap fun e => (blk s e.2).q0.head?)).head?

/-- A stream of the squad that has reached the array: it is the command the core's engine has in hand (R52, R196; log 53). -/
def streamAtHead (s : State) (q : Nat) : Option Nat :=
  match headCmd s (sqd s q).core with
  | some c => (match s.cmds.get? c with
    | some k => (match k.kind with | .mxstr .. => if k.squad = q then some c else none | _ => none)
    | none => none)
  | none => none

/-- Squads chosen for eviction enter SAVING, each with its save area and with those of their blocks; none where the region cannot
hold them (R51, R354). -/
def evict (qs : List Nat) (s : State) : Option State :=
  qs.foldl (fun o q => o.bind fun s =>
    let sq := sqd s q
    let drained := streamAtHead s q
    (takeAreas (launchOf s sq.lid).part [saveBytes s q] s).bind fun (as, s) =>
      coreAreas sq.core (modSquad q (fun sq => { sq with state := .saving, saveArea := as.headD 0, drained := drained }) s)) (some s)

/-- The save area of a squad as large as its saved state has become: planes that were loaded while it was SAVING are saved with it
(R52, R54). -/
def resizeArea (q : Nat) (s : State) : Option State :=
  let sq := sqd s q
  let pt := (launchOf s sq.lid).part
  if (partOf s pt).areas.contains (sq.saveArea, saveBytes s q) then some s
  else (takeAreas pt [saveBytes s q] (giveAreas pt [sq.saveArea] s)).map fun (as, s) =>
    modSquad q (fun sq => { sq with saveArea := as.headD 0 }) s

end Sys2Proof.Machine
end

