-- ==== Sys2Proof/Machine/Loading.lean ====
section
/-! DEFINITION. Rows of the lease table: loading, draining, saving, returning and rotation (01 R12, R13, R34, R35; 02 R51 to R55; 19 R319). -/

namespace Sys2Proof.Machine

open Host (Outcome)

/-! ### What a row takes next (R35, R55) -/

/-- The role of a squad index, with its number (R12). -/
def roleAt : List Role → Nat → Nat → Option (Nat × Role)
  | [], _, _ => none
  | r :: rest, n, i => if i < r.squads then some (n, r) else roleAt rest (n + 1) (i - r.squads)

/-- What a squad index of a block has inherited before its squad is loaded (R216). -/
def legacyOf (s : State) (b idx : Nat) : Legacy := (blk s b).legacies.getD idx ⟨[], []⟩

/-- The core ordinal of a core in a launch (R10). -/
def ordinalIn (l : Launch) (c : Nat) : Nat :=
  ((sortBy (fun a b => a ≤ b) l.clusters).findIdx (· == clusterOf c)) * 8 + c % 8

/-- The blocks on a core that have squads waiting to be loaded, earliest first. -/
def waitingBlocks (s : State) (c : Nat) : List Nat :=
  sortBy (fun a b => (blk s a).order ≤ (blk s b).order)
    ((s.blocks.filter fun e => e.2.core == c && !(launchOf s e.2.lid).ended && !(launchOf s e.2.lid).whole &&
      (launchOf s e.2.lid).roll.isNone && (loadedSquads s e.1).length < (launchOf s e.2.lid).hdr.squads).map (·.1))

/-- The lowest squad index of a block not yet loaded. -/
def nextIndex (s : State) (b : Nat) : Nat :=
  let used := (loadedSquads s b).map fun q => (sqd s q).idx
  ((List.range 16).find? fun i => !used.contains i).getD 16

def blockPrio (s : State) (b : Nat) : Nat := (blockHeader s b).prio

/-- A saved squad whose threads have all exited (R51). -/
def noneLive (s : State) (q : Nat) : Bool := (liveOf s q).isEmpty

/-- The saved squads of a core that wait to return, in the order they return: with no live thread, chosen at a rotation, longest
waiting, lower global number (R51, R55; log 78 for the order outside rotations). -/
def savedSquads (s : State) (c : Nat) : List Nat :=
  let before (a b : Nat) : Bool :=
    let x := sqd s a
    let y := sqd s b
    if noneLive s a != noneLive s b then noneLive s a
    else if x.returning != y.returning then x.returning
    else if x.rotations != y.rotations then y.rotations < x.rotations
    else x.gsq ≤ y.gsq
  sortBy before ((s.squads.filter fun e => e.2.core == c && e.2.state == .evicted && !e.2.ended).map (·.1))

/-- Outside rotations a saved squad returns when no launch of higher priority on the core has squads waiting to load (R55). -/
def mayReturn (s : State) (c q : Nat) : Bool :=
  (sqd s q).returning || (waitingBlocks s c).all fun b => blockPrio s b ≤ prioOf s q

/-! ### Loading (R12, R13, R34, R182) -/

/-- A squad of a block as the loader first writes its row. -/
def newSquad (s : State) (b idx : Nat) (n : Nat) (r : Role) (c : Nat) : Squad :=
  let l := launchOf s (blk s b).lid
  { (default : Squad) with
    lid := (blk s b).lid, block := b, core := c, state := .loading, role := n, idx := idx, gsq := ordinalIn l c * 16 + idx
    allot := r.allot, present := List.range r.threads, hvec := r.handler, handler := r.hasHandler, heir := 0xFFFFFFFF
    fed := 0xFFFFFFFF, estate := (legacyOf s b idx).estate, q7 := (legacyOf s b idx).q7 }

/-- What a squad inherited before it was loaded has become its own. -/
def takeLegacy (b idx : Nat) (s : State) : State := modBlock b (fun x => { x with legacies := x.legacies.del idx }) s

/-- The squad `idx` of a block, of role `n`, put in a row with its threads' call-stack areas `as`. -/
def placeNew (c row b idx n : Nat) (r : Role) (as : List Nat) (s : State) : State :=
  let (q, s) := newId s
  let s := takeLegacy b idx { s with squads := s.squads.put q (newSquad s b idx n r c) }
  let put (t : Tbl Thread) (x : Nat × Nat) : Tbl Thread :=
    t.put (threadKey q x.1) { (default : Thread) with stk := BitVec.ofNat 64 x.2 }
  takeRow q c row (needOfRole (blockHeader s b) r) { s with threads := ((List.range r.threads).zip as).foldl put s.threads }

/-- A free row takes the next squad of a block: FREE to LOADING (Table 1.7). Its threads' call-stack areas are taken now. -/
def startLoad (c row b : Nat) (s : State) : State :=
  let idx := nextIndex s b
  match roleAt (blockHeader s b).roles 0 idx with
  | none => s
  | some (n, r) =>
    if !fits s c b (needOfRole (blockHeader s b) r) then s
    else
      match takeAreas (launchOf s (blk s b).lid).part (List.replicate r.threads 4096) s with
      | none => s
      | some (as, s') => (coreAreas c (placeNew c row b idx n r as s')).getD s

/-- A saved squad begins to return (Table 1.7). -/
def startReturn (c row q : Nat) (s : State) : State :=
  if fits s c (sqd s q).block (needOf s q) then
    ((coreAreas c (takeRow q c row (needOf s q) (modSquad q (fun sq => { sq with state := .restoring }) s))).map
      fun s => testHolds (wake c s)).getD s
  else s

/-- The saved squads that a free row may take now: while one with no live thread is saved it comes before every other, and while one
chosen at a rotation waits for its room the row is kept for it (R51, R55). -/
def returners (s : State) (c : Nat) : List Nat :=
  let qs := savedSquads s c
  let qs := if qs.any (noneLive s) then qs.filter (noneLive s)
    else if qs.any fun q => (sqd s q).returning then qs.filter fun q => (sqd s q).returning
    else qs
  qs.filter fun q => mayReturn s c q && fits s c (sqd s q).block (needOf s q)

/-- A free row is filled: a saved squad before unloaded squads of its priority, then the earliest launch's next squad (R35). While a
squad chosen at a rotation waits, no squad is loaded into the room that is made for it (R55). -/
def rowLoad (c row : Nat) (s : State) : State :=
  if 16 ≤ row || ((cor s c).rows.get? row).isSome || (cor s c).mappedOut then s
  else match returners s c, waitingBlocks s c with
    | q :: _, _ => startReturn c row q s
    | [], b :: _ => if (savedSquads s c).any fun q => (sqd s q).returning then s else startLoad c row b s
    | [], [] => s

/-- ROW_LOAD (R35). -/
def execRowLoad (core row : Nat) (s : State) : Outcome State Fault Refusal := .next (rowLoad core row s)

/-- A thread as it begins (R13), at its role's entry. -/
def newThread (r : Role) (stk : DWord) (agent : Nat) : Thread :=
  { (default : Thread) with
    v := Vector.replicate 128 0, k := Vector.replicate 8 false, shV := Vector.replicate 128 0, shK := Vector.replicate 8 false
    pc := r.entry, stk := stk, live := true, dbg := r.startStop, agent := agent }

/-- The picks of a core are counted for a launch from the first moment that a thread of it is ready there (R26). -/
def startCount (c lid : Nat) (s : State) : State :=
  modCore c (fun x => if (x.without.get? lid).isSome then x else { x with without := x.without.put lid 0 }) s

/-- The initial state of a squad (R13). One that the debugger has halted before stops as one of a role with STARTSTOP does (R357). Its agents' reads follow the acquires of the launch (R46, R74). -/
def initSquad (q : Nat) (s : State) : State :=
  let sq := sqd s q
  let l := launchOf s sq.lid
  match roleAt l.hdr.roles 0 sq.idx with
  | none => s
  | some (_, r) =>
    let regs := ((Vector.replicate 64 0).setIfInBounds 0 (lowWord l.hdr.args)).setIfInBounds 1 (highWord l.hdr.args)
    let js := Vector.replicate 8 false
    let s := modSquad q (fun sq => { sq with state := .resident, s := regs, shS := regs, j := js, shJ := js }) s
    let stops := r.startStop || l.halted.contains sq.gsq
    let s := if stops then s else startCount sq.core sq.lid s
    (threadsOf s q).foldl (fun s t =>
      let (a, s) := newAgent (placeOf s q) s
      let s := { s with threads := s.threads.put t { newThread r (thr s t).stk a with dbg := stops } }
      acquire a .system l.acqRels s) s

/-- Every squad of a launch has been loaded at least once: stage 8 (Table 2.1). -/
def loadedAll (s : State) (l : Launch) : Bool :=
  l.blocks.all fun b => (loadedSquads s b).length == l.hdr.squads && (loadedSquads s b).all fun q => (sqd s q).state != .loading

def passToRun (lid : Nat) (s : State) : State :=
  if (launchOf s lid).stage = 7 && loadedAll s (launchOf s lid) then modLaunch lid (fun l => { l with stage := 8 }) s else s

/-- The needs of a block's squads that are still to be loaded (R50). -/
def blockNeeds (s : State) (b : Nat) : List Need :=
  let h := blockHeader s b
  let used := (loadedSquads s b).map fun q => (sqd s q).idx
  ((List.range h.squads).filter fun i => !used.contains i).filterMap fun i => (roleAt h.roles 0 i).map fun r => needOfRole h r.2

/-- Squads of lower priority leave a core for a block that is bound there (R50). -/
def makeRoom (c b : Nat) (s : State) : Option State :=
  let may (q : Nat) : Bool := prioOf s q < blockPrio s b
  evict ((victims s c b (blockNeeds s b) may 17 (leaving s c)).filter fun q => (sqd s q).state = .resident) s

/-- A squad that has become resident may stand in the way of a block of higher priority, which still waits for its room (R50). -/
def makeRoomAgain (c : Nat) (s : State) : State :=
  (waitingBlocks s c).foldl (fun s b => (makeRoom c b s).getD s) s

/-- ROW_LOAD_COMPLETE (R34): LOADING to RESIDENT. -/
def execRowLoadComplete (squad : Nat) (s : State) : Outcome State Fault Refusal :=
  .next (if (sqd s squad).state = .loading then
      testHolds (makeRoomAgain (sqd s squad).core (passToRun (sqd s squad).lid (initSquad squad s)))
    else s)

/-! ### Draining (R34, R36) -/

/-- An engine command that the squad pushed has neither written its token nor completed. -/
def commandsLeft (s : State) (q : Nat) : Bool := s.cmds.any fun e => e.2.squad == q

/-- A drained squad leaves its row and gives back its threads' call-stack areas; none where the region cannot hold what its block
then needs (R34, R54). -/
def freeRow (q : Nat) (s : State) : Option State :=
  let sq := sqd s q
  let t := giveAreas (launchOf s sq.lid).part (stackAreas s q) s
  coreAreas sq.core (leaveRow q (modSquad q (fun sq => { sq with state := .free }) t))

/-- ROW_DRAIN_COMPLETE (R34): DRAINING to FREE, once every command has completed and every holding has been conveyed. -/
def execRowDrainComplete (squad : Nat) (s : State) : Outcome State Fault Refusal :=
  let sq := sqd s squad
  .next (if sq.state = .draining && !commandsLeft s squad && sq.conveyed then
      ((freeRow squad s).map fun t => testHolds (rest sq.core t)).getD s
    else s)

/-! ### Saving and returning (R51 to R54) -/

/-- The matrix commands of the squad have completed. With a stream that was in flight when the squad entered SAVING, which resumes
on its return, those behind it in q0 stay with it (R52, R196; log 53). -/
def matrixDone (s : State) (q : Nat) : Bool :=
  ((sqd s q).drained.isSome && streamAtHead s q == (sqd s q).drained) ||
    s.cmds.all fun e => e.2.squad != q || e.2.kind.queue != 0

/-- A squad's state stands in its save area, and the squad leaves its row. The planes that it loaded are saved with it, and with its
block's last squad its block's context; none where the region cannot hold them (R52 to R54). -/
def saveOut (q : Nat) (s : State) : Option State :=
  let sq := sqd s q
  let c := cor s sq.core
  let planes := if loadedPlane s q then some (c.active, c.shadow) else none
  (resizeArea q s).bind fun s =>
    coreAreas sq.core (leaveRow q (modSquad q (fun sq => { sq with state := .evicted, planes := planes, rotations := 0 }) s))

/-- EVICT_SAVE_COMPLETE (R51): no thread in a wave, no matrix command before a stream in flight. -/
def execEvictSaveComplete (squad : Nat) (s : State) : Outcome State Fault Refusal :=
  let sq := sqd s squad
  .next (if sq.state = .saving && (inWaves s squad).isEmpty && matrixDone s squad then
      ((saveOut squad s).map fun t => testHolds (rest sq.core t)).getD s
    else s)

/-- RESTORE_COMPLETE (R34): RESTORING to RESIDENT. The planes come back; waits resume; a squad with no live thread drains (R51). A
squad that a rotation did not restore may have to make room again (R50, R55). -/
def execRestoreComplete (squad : Nat) (s : State) : Outcome State Fault Refusal :=
  let sq := sqd s squad
  .next (if sq.state = .restoring then
      let s := giveAreas (launchOf s sq.lid).part [sq.saveArea] s
      let s := match sq.planes with
        | some p => modCore sq.core (fun c => { c with active := p.1, shadow := p.2 }) s
        | none => s
      let s := modSquad squad (fun sq =>
        { sq with state := .resident, planes := none, saveArea := 0, drained := none, returning := false }) s
      let s := settle (tryEntry squad (endSquad squad s))
      if sq.returning then s else makeRoomAgain sq.core s
    else s)

/-! ### Rotation (R55) -/

/-- ROTATION: after 1,024 picks with a saved squad waiting, the longest-waiting one is chosen, and resident squads are evicted
until it fits: of its own launch first. -/
def execRotation (core : Nat) (s : State) : Outcome State Fault Refusal :=
  .next (if 1024 ≤ (cor s core).sinceRotation then
      match savedSquads s core with
      | [] => s
      | q :: rest =>
        let b := (sqd s q).block
        let first := victims s core b [needOf s q] (fun r => (sqd s r).lid == (sqd s q).lid) 17 (leaving s core)
        let gone := victims s core b [needOf s q] (fun _ => true) 17 first
        if !(shortfall s core b [needOf s q] gone).none then s
        else
          match evict (gone.filter fun r => (sqd s r).state = .resident) s with
          | none => s
          | some s =>
            let s := modCore core (fun c => { c with sinceRotation := 0 }) s
            rest.foldl (fun s r => modSquad r (fun sq => { sq with rotations := sq.rotations + 1 }) s)
              (modSquad q (fun sq => { sq with returning := true }) s)
    else s)

/-! ### The scratchpad's foreground (R68) -/

/-- The foreground context: the launch of higher priority, or the one bound earlier. -/
def foregroundOf (s : State) (c : Nat) : Option Nat :=
  let key (e : Nat × Nat) : Nat × Nat := (7 - blockPrio s e.2, (launchOf s (blk s e.2).lid).boundAt)
  let le (a b : Nat × Nat) : Bool := (key a).1 < (key b).1 || ((key a).1 == (key b).1 && (key a).2 ≤ (key b).2)
  (sortBy le (cor s c).ctx).head?.map (·.1)

/-- FOREGROUND_SWAP (R68): the windows change places. Their bytes and the results of accesses to them are unchanged. -/
def execForegroundSwap (core : Nat) (s : State) : Outcome State Fault Refusal :=
  .next (modCore core (fun c => { c with foreground := foregroundOf s core }) s)

end Sys2Proof.Machine
end

