-- ==== Sys2Proof/Machine/Matrix.lean ====
section
/-! DEFINITION. The matrix engine (05 R104 to R115; 09 R192 to R199; 02 R52; 18 R304, R306; 20 R324, R326, R334). -/

namespace Sys2Proof.Machine

open Host (Outcome)

/-! ### The command at the head of a core (R192) -/

/-- The command at the head runs, is discarded, or waits for its guard; pushes that wait for its place are then served (R133, R192). `ours`
names the kinds of the step. -/
def matrixRun (core : Nat) (ours : CmdKind → Bool) (act : Nat → Cmd → State → State) (s : State) : State :=
  match headCmd s core with
  | none => s
  | some c =>
    match s.cmds.get? c with
    | none => s
    | some k =>
      if !ours k.kind then s
      else match gate s k with
        | .wait => s
        | .discard => settle (discardCmd c s)
        | .run => settle (act c k s)

/-! ### Planes (R193, R194, R195) -/

/-- Bytes of a plane and of its scale tile. -/
def planeSize (f : WFmt) : Nat := if f = .bf16 then 8192 else 4096
def scaleSize (f : WFmt) : Nat := if f = .nq4 then 128 else 64

/-- Table 5.5; activation formats are numbered as the scale record numbers them. -/
def pairOk (f : WFmt) (act : Nat) : Bool :=
  match f with
  | .e4m3 | .e5m2 => act ≤ 1
  | .i8 => act == 2
  | .nq4 => act ≤ 2
  | .bf16 => act == 3

/-- Scale tiles lie in the local and cluster windows (Table 9.3). -/
def inScratch (va : Nat) : Bool := inLocal va || inCluster va

/-- The first cause of a scale record's contents (Table 18.6). -/
def recordCause (f : WFmt) (tile flags : Nat) : Option Nat :=
  if flags / 4 ≠ 0 || !pairOk f (flags % 4) then some 0x01
  else if tile % 64 ≠ 0 then some 0x03
  else if !inScratch tile then some 0x04
  else none

def bytesOf (bs : List ReadByte) : List Byte := bs.map fun b => b.val
def poisoned (bs : List ReadByte) : Bool := bs.any fun b => b.poison

/-- A faulted MXLDS leaves the shadow plane as it stands at reset (R306). -/
def faultLoad (core c cause addr : Nat) (s : State) : State :=
  faultCmd c cause addr (modCore core (fun x => { x with shadow := some Plane.reset }) s)

/-- Where the parts that MXLDS reads have their places: the record from 0, the scale tile and the plane behind it. -/
def tilePlace : Nat := 16
def planePlace : Nat := 256

/-- The shadow plane loaded from a record, a scale tile and a plane (R194). -/
def planeOf (k : Cmd) (f : WFmt) : Plane :=
  { fmt := f, bytes := gathered k.parts planePlace (planeSize f), scale := gathered k.parts tilePlace (scaleSize f)
    super := BitVec.ofNat 32 (fieldAt (gathered k.parts 0 16) 8 4), act := fieldAt (gathered k.parts 0 16) 12 4 % 4
    loader := some (k.lid, k.squad), poison := false }

/-- The record, then the scale tile and the plane, are read part by part, and the shadow plane is loaded (R96, R194). -/
def loadPlane (core c : Nat) (k : Cmd) (f : WFmt) (s : State) : State :=
  if k.parts.isEmpty then beginParts c [(desc64 k.desc 2, 0, 16)] s
  else match readPart c s with
    | .more s => s
    | .bad e a s => faultLoad core c e a s
    | .all s =>
      let record := gathered k.parts 0 16
      let tile := fieldAt record 0 8
      if k.parts.any fun x => tilePlace ≤ x.dst then
        finishCmd c 0 (modCore core (fun x => { x with shadow := some (planeOf k f) }) s)
      else match recordCause f tile (fieldAt record 12 4) with
        | some e => faultLoad core c e tile s
        | none => beginParts c [(tile, tilePlace, scaleSize f), (desc64 k.desc 0, planePlace, planeSize f)] s

/-- MXLDS_COMMAND_RUN (R194): once its acquire has been performed. -/
def execMxldsCommandRun (core : Nat) (s : State) : Outcome State Fault Refusal :=
  .next (matrixRun core (fun k => match k with | .mxlds _ => true | _ => false) (fun c k s =>
    match k.kind with
    | .mxlds f => if k.ready then loadPlane core c k f (if k.parts.isEmpty then cmdAcquire k s else s) else s
    | _ => s) s)

/-- MXSWAP_COMMAND_RUN (R195). -/
def execMxswapCommandRun (core : Nat) (s : State) : Outcome State Fault Refusal :=
  .next (matrixRun core (fun k => k == .mxswap) (fun c _ s =>
    finishCmd c 0 (modCore core (fun x => { x with active := x.shadow, shadow := x.active }) s)) s)

/-! ### Accumulators (R113) -/

def accKey (tile row col : Nat) : Nat := tile * 2048 + row * 64 + col

/-- An element written whole: its poison clears (R324). -/
def Squad.setAcc (i : Nat) (x : Word) (sq : Squad) : Squad :=
  { sq with acc := if x = 0 then sq.acc.del i else sq.acc.put i x, poisonAcc := sq.poisonAcc.filter (· != i) }

/-- A tile set to +0.0 (R199). -/
def Squad.zeroTile (t : Nat) (sq : Squad) : Squad :=
  { sq with acc := sq.acc.filter fun e => e.1 / 2048 != t, poisonAcc := sq.poisonAcc.filter fun i => i / 2048 != t }

/-- MXZERO_COMMAND_RUN (R199). -/
def execMxzeroCommandRun (core : Nat) (s : State) : Outcome State Fault Refusal :=
  .next (matrixRun core (fun k => match k with | .mxzero _ => true | _ => false) (fun c k s =>
    match k.kind with
    | .mxzero t => finishCmd c 0 (modSquad k.squad (Squad.zeroTile t) s)
    | _ => s) s)

/-! ### One pass (R108 to R112) -/

/-- An 8-bit integer as an exact value (R101). -/
def decodeI8 (b : Nat) : Num := if b % 256 < 128 then .fin false (b % 256) 0 else .fin true (256 - b % 256) 0

/-- Weight element (k, n) of a plane (R193). -/
def weight (p : Plane) (k n : Nat) : Num :=
  let byte (i : Nat) : Nat := (p.bytes.getD i 0).toNat
  match p.fmt with
  | .e4m3 => decodeFP e4m3 (byte (64 * k + n))
  | .e5m2 => decodeFP e5m2 (byte (64 * k + n))
  | .i8 => decodeI8 (byte (64 * k + n))
  | .nq4 => nq4Level (fld (byte (64 * k + n / 2)) (4 * (n % 2)) 4)
  | .bf16 => decodeFP bf16 (byte (128 * k + 2 * n) + 256 * byte (128 * k + 2 * n + 1))

/-- Activation element `k` of a row. -/
def activation (act : Nat) (row : List Byte) (k : Nat) : Num :=
  let byte (i : Nat) : Nat := (row.getD i 0).toNat
  if act = 0 then decodeFP e4m3 (byte k)
  else if act = 1 then decodeFP e5m2 (byte k)
  else if act = 2 then decodeI8 (byte k)
  else decodeFP bf16 (byte (2 * k) + 256 * byte (2 * k + 1))

/-- WScale (R108). -/
def wScale (f : WFmt) (b : Nat) : Num :=
  if f = .nq4 then .fin false (b + 1) (-8) else if b = 0xFF then .nan else .fin false 1 ((b : Int) - 127)

/-- AScale (R109). -/
def aScale (e : Nat) : Num := if e = 0xFF then .nan else .fin false 1 ((e : Int) - 127)

/-- An exact zero is +0 (R111). -/
def plusZero (x : Num) : Num := if x.isZero then .fin false 0 0 else x

/-- P of R111: a NaN operand, infinity times zero, or infinities of both signs give NaN. -/
def exactSum (a w : Nat → Num) : Num := (List.range 64).foldl (fun p k => p.add ((a k).mul (w k))) (.fin false 0 0)

/-- Tree64: one level for each `k` (R112). -/
def treeSum : Nat → List Word → Word
  | 0, t => t.headD 0
  | k + 1, t => treeSum k ((List.range (t.length / 2)).map fun i => fAdd (t.getD (2 * i) 0) (t.getD (2 * i + 1) 0))

/-- The contribution of a row to column `n` (R111, R112). -/
def contributionOf (p : Plane) (row : List Byte) (e n : Nat) : Num :=
  let a (k : Nat) : Num := activation p.act row k
  let w (k : Nat) : Num := weight p k n
  let sum := if p.fmt = .bf16 then f32 (treeSum 6 ((List.range 64).map fun k => toF32 ((a k).mul (w k)))) else exactSum a w
  let c := (sum.mul (aScale e)).mul (wScale p.fmt (p.scale.getD n 0).toNat)
  if p.fmt = .bf16 then c else plusZero c

/-- Columns of a plane. -/
def columns (f : WFmt) : Nat := if f = .nq4 then 128 else 64

/-- The elements that a row of a stream updates. -/
def rowKeys (p : Plane) (tile lane : Nat) : List Nat :=
  (List.range (columns p.fmt)).map fun n => accKey (tile + n / 64) lane (n % 64)

/-- The pass of one row into the accumulators of a squad (R196). -/
def applyRow (p : Plane) (tile lane e : Nat) (zf : Bool) (row : List Byte) (sq : Squad) : Squad :=
  (List.range (columns p.fmt)).foldl (fun sq n =>
    let i := accKey (tile + n / 64) lane (n % 64)
    let base := if zf then .fin false 0 0 else f32 (sq.acc.getD i 0)
    sq.setAcc i (toF32 (base.add (contributionOf p row e n)))) sq

/-! ### Rows of the array (R115, R290, R333) -/

/-- The spare rows of a core's array as the record gives them: byte i says which logical row physical row 64 + i carries (R290). Of a
field [6:0] of 64 to 127 the lowest six bits count (log 105). -/
def recordSpares (s : State) (core : Nat) : List (Option Nat) :=
  (List.range 4).map fun i =>
    let b := (s.config.spares.getD core []).getD i 0
    if 128 ≤ b then some (b % 64) else none

/-- The physical rows of a core's array that the log maps out, each once, in its order. -/
def loggedRows (s : State) (core : Nat) : List Nat :=
  ((s.mapOuts.filter fun m => m.kind == 3 && m.num % 2 ^ 16 == coreResource core % 2 ^ 56).map fun m => fld m.num 16 7).eraseDups

/-- A logical row given to the first spare row that carries nothing and is itself in order. -/
def takeSpare (bad : List Nat) (xs : List (Option Nat)) (p : Nat) : List (Option Nat) :=
  match (List.range 4).find? fun i => (xs.getD i none).isNone && !bad.contains (64 + i) with
  | some i => xs.set i (some p)
  | none => xs

/-- One physical row mapped out on top of a map: the row it carries goes to a spare row (R333; log 88). -/
def mapRow (bad : List Nat) (xs : List (Option Nat)) (r : Nat) : List (Option Nat) :=
  if r < 64 then takeSpare bad xs r
  else match xs.getD (r - 64) none with
    | some p => takeSpare bad (xs.set (r - 64) none) p
    | none => xs

/-- The spare rows of a core's array, the log applied on top of the record: a row that the record has replaced already takes no second spare
(R115, R289, R290). -/
def spareMap (s : State) (core : Nat) : List (Option Nat) :=
  let bad := loggedRows s core
  let xs := recordSpares s core
  (bad.filter fun r => !xs.contains (some r)).foldl (mapRow bad) xs

/-- Physical rows of a core's array that the record and the log disable, each once (R115). -/
def rowsOut (s : State) (core : Nat) : List Nat := ((recordSpares s core).filterMap id ++ loggedRows s core).eraseDups

/-- The array is used: at most four rows are disabled, and no two used entries name one row (R115, R290). -/
def arrayUsable (s : State) (core : Nat) : Bool :=
  let named := (recordSpares s core).filterMap id
  (rowsOut s core).length ≤ 4 && named == named.eraseDups

/-- The physical row that carries a logical row, and the logical row, if any, that a physical one carries (R115, R290). -/
def carrierOf (xs : List (Option Nat)) (k : Nat) : Nat :=
  match xs.findIdx? (· == some k) with
  | some i => 64 + i
  | none => k

def carriedBy (xs : List (Option Nat)) (r : Nat) : Option Nat :=
  if r < 64 then (if xs.contains (some r) then none else some r) else xs.getD (r - 64) none

/-- A residue mismatch at a physical row: the elements the pass updated are poisoned, and a rollback-eligible launch is killed
(R334; log 31). A row that carries no logical row forms no product, and so no mismatch. -/
def residue (k : Cmd) (row : Nat) (keys : List Nat) (s : State) : State :=
  if (carriedBy (cor s k.core).spares row).isNone then s else
  let s := modSquad k.squad (fun sq => { sq with poisonAcc := (keys ++ sq.poisonAcc).eraseDups }) s
  if (launchOf s k.lid).eligible then noteRoll k.lid ⟨.killed, 0x0D, rowResource k.core row, 0, none⟩ s else s

/-! ### Streams (R196, R197) -/

/-- The row of a stream's next lane: its bytes, a fault, or nothing yet. -/
inductive RowRes where
  | ok (bs : List Byte) (s : State)
  | bad (cause addr : Nat)
  | wait

/-- The virtual address of a scratch reference (R190). -/
def refVa (ref : Word) : Nat := (if ref.toNat < 2 ^ 31 then localBase else clusterBase) + ref.toNat % 2 ^ 31

/-- A row loaded by the thread of its lane (R196). -/
def loadRow (k : Cmd) (lane : Nat) (ref : Word) (seq n : Nat) (s : State) : RowRes :=
  if ref.toNat % n ≠ 0 then .bad 0x03 (refVa ref)
  else match scratchKey s k.block ref 0, scratchKey s k.block ref (n - 1) with
    | some key, some _ =>
      let a := (thr s (threadKey k.squad lane)).agent
      let p : Piece := ⟨key, n, .rc, none⟩
      let l : Load := { (default : Load) with seq := seq, pieces := [p] }
      if !pieceReady s a l p then .wait
      else
        let bs := loadPiece s a seq p
        if poisoned bs then .bad 0x0D (refVa ref)
        else
          let read : List ReadRel := bs.flatMap fun b => b.rels.map fun r => (r, b.sid)
          let s := modAgent a (fun g => { g with
            readRels := (g.readRels ++ read).eraseDups, entryRels := (g.entryRels ++ read).eraseDups }) s
          .ok (bytesOf bs) s
    | _, _ => .bad 0x04 (refVa ref)

/-- A row taken from the head of q8, once its words have entered (R196). -/
def claimRow (c : Nat) (k : Cmd) (n : Nat) (s : State) : RowRes :=
  let ws := wordsIn s k.block 8
  match (blk s k.block).claims with
  | x :: _ =>
    if x.cmd = c ∧ n / 4 ≤ ws.length then
      let s := modBlock k.block (fun b => { b with claims := b.claims.map fun y =>
        if y.cmd = c then { y with left := y.left.map (· - n / 4) } else y }) (setWords k.block 8 (ws.drop (n / 4)) s)
      .ok ((ws.take (n / 4)).flatMap fun w => natLe 4 w.toNat) s
    else .wait
  | [] => .wait

/-- The claim's size is fixed when the command reaches the array (R196). -/
def fixClaim (c : Nat) (k : Cmd) (rows n : Nat) (s : State) : State :=
  modBlock k.block (fun b => { b with claims := b.claims.map fun y =>
    if y.cmd = c then { y with left := some (y.left.getD ((rows - k.fed) * (n / 4))) } else y }) s

/-- The conditions on a stream and the plane it meets (Table 18.6). -/
def streamCause (s : State) (k : Cmd) (p : Plane) (tile : Nat) : Option Nat :=
  if p.fmt = .nq4 && tile % 2 = 1 then some 0x01
  else if p.fmt = .nq4 && (sqd s k.squad).tiles.length ≤ tile + 1 then some 0x02
  else none

/-- A row has been fed; with the last one the stream completes. -/
def rowFed (c rows : Nat) (s : State) : State :=
  match s.cmds.get? c with
  | none => s
  | some k =>
    let s := { s with cmds := s.cmds.put c { k with fed := k.fed + 1 } }
    if rows ≤ k.fed + 1 then
      finishCmd c 0 (modBlock k.block (fun b => { b with claims := b.claims.filter fun y => y.cmd != c }) s)
    else s

/-- A stream of the squad is being fed: the squad is resident, or draining with its commands left, or SAVING with a stream that was
not in flight when it entered that state (R52). -/
def feeds (s : State) (q c : Nat) : Bool :=
  match (sqd s q).state with
  | .resident | .draining => true
  | .saving => (sqd s q).drained != some c
  | .free | .loading | .evicted | .restoring => false

/-- One row of the stream at the head fed (R196). With `mismatch`, the array's residue check names that physical row (R334). -/
def feedRow (core c : Nat) (k : Cmd) (tile : Nat) (rows : List (Nat × Word × Nat × Nat)) (q8 zf : Bool) (mismatch : Option Nat)
    (s : State) : State :=
  let p := usedPlane s core k.lid
  let n := rowSize p
  if !feeds s k.squad c then s
  else match streamCause s k p tile, rows[k.fed]? with
    | some e, _ => faultCmd c e 0 s
    | none, none => rowFed c rows.length s
    | none, some (lane, ref, e, seq) =>
      let s := fixClaim c k rows.length n s
      match if q8 then claimRow c k n s else loadRow k lane ref seq n s with
      | .wait => s
      | .bad cause addr => faultCmd c cause addr s
      | .ok bs s =>
        let keys := rowKeys p tile lane
        if !zf && keys.any fun i => (sqd s k.squad).poisonAcc.contains i then faultCmd c 0x0D 0 s
        else
          let s := modSquad k.squad (applyRow p tile lane e zf bs) s
          let s := match mismatch with
            | some r => residue k r keys s
            | none => s
          rowFed c rows.length s

/-- STREAM_ROW_FEED (R196). -/
def execStreamRowFeed (core : Nat) (mismatch : Option Nat) (s : State) : Outcome State Fault Refusal :=
  .next (matrixRun core (fun k => match k with | .mxstr .. => true | _ => false) (fun c k s =>
    match k.kind with
    | .mxstr tile rows q8 zf => feedRow core c k tile rows q8 zf mismatch s
    | _ => s) s)

/-! ### Drains (R114, R198) -/

/-- Encode for the drain formats of Table 9.4. -/
def drainBytes (fmt : Nat) (t : Word) : List Byte :=
  if fmt = 0 then natLe 4 t.toNat
  else if fmt = 1 then natLe 2 (roundFP bf16 .rne (f32 t))
  else if fmt = 2 then natLe 2 (roundFP fp16 .rne (f32 t))
  else if fmt = 3 then natLe 1 (encodeFP e4m3 false (f32 t))
  else natLe 1 (encodeFP e5m2 (fmt == 5) (f32 t))

/-- The part of some pieces from byte `skip` on, of `len` bytes. -/
def cutPieces : List Piece → Nat → Nat → List Piece
  | [], _, _ => []
  | p :: r, skip, len =>
    if p.len ≤ skip then cutPieces r (skip - p.len) len
    else
      let m := min len (p.len - skip)
      { p with addr := p.addr + skip, len := m } :: (if m < len then cutPieces r 0 (len - m) else [])

/-- The elements of a drained row, encoded, each with whether it is poisoned. -/
def drainElems (s : State) (k : Cmd) (fmt : Nat) (S : Word) (tile row : Nat) : List (List Byte × Bool) :=
  (List.range 64).map fun n =>
    let i := accKey tile row n
    (drainBytes fmt (fMul ((sqd s k.squad).acc.getD i 0) S), (sqd s k.squad).poisonAcc.contains i)

/-- Neighbouring elements that are poisoned alike, joined. -/
def drainRuns : List (List Byte × Bool) → List (List Byte × Bool)
  | [] => []
  | (b, p) :: r => match drainRuns r with
    | (c, q) :: t => if p = q then (b ++ c, p) :: t else (b, p) :: (c, q) :: t
    | [] => [(b, p)]

/-- A piece cut at multiples of 8 bytes, the granule of a scratchpad. -/
def cutGranules : Nat → Piece → List Piece
  | 0, _ => []
  | k + 1, p =>
    let m := 8 - p.addr % 8
    if p.len ≤ m then [p] else { p with len := m } :: cutGranules k { p with addr := p.addr + m, len := p.len - m }

/-- The writes of a drained row from byte `skip` on, granule by granule, unordered among themselves (R96): poisoned elements poison the
granules they touch, and the others clear those that they cover whole (R324). -/
def drainWrite (k : Cmd) (dest : Nat) (ps : List Piece) : Nat → List (List Byte × Bool) → State → State
  | _, [], s => s
  | skip, (b, p) :: r, s =>
    drainWrite k dest ps (skip + b.length) r (cmdWrite k ((cutPieces ps skip b.length).flatMap fun p => cutGranules (p.len / 8 + 2) p) (dest + skip) b p s)

/-- The rows of a drain from `r` on, in ascending order (R198). -/
def drainRows (c : Nat) (k : Cmd) (S : Word) : Nat → State → State
  | 0, s =>
    let ctl := desc32 k.desc 2
    let s := if fld ctl 6 1 = 1 then modSquad k.squad (Squad.zeroTile (fld ctl 0 3)) s else s
    finishCmd c 32 s
  | n + 1, s =>
    let ctl := desc32 k.desc 2
    let fmt := fld ctl 3 3
    let r := 32 - (n + 1)
    let dest := (desc64 k.desc 0 + r * fld ctl 16 16) % 2 ^ 64
    if !inScratch dest && !inCellar dest then faultCmd c 0x04 dest s
    else match touch s k true dest (64 * drainSize fmt) with
      | .bad e a => faultCmd c e a s
      | .miss g => cmdMiss c k true g s
      | .ok ps =>
        drainRows c k S n (drainWrite k dest ps 0 (drainRuns (drainElems s k fmt S (fld ctl 0 3) r)) s)

/-- MXDRN_COMMAND_RUN (R198). -/
def execMxdrnCommandRun (core : Nat) (s : State) : Outcome State Fault Refusal :=
  .next (matrixRun core (fun k => k == .mxdrn) (fun c k s =>
    if k.ready then
      let S := if fld (desc32 k.desc 2) 7 1 = 1 then (usedPlane s core k.lid).super else k.desc.getD 3 0
      drainRows c k S 32 (cmdAcquire k s)
    else s) s)

end Sys2Proof.Machine
end

