-- ==== Sys2Proof/Machine/Kill.lean ====
section
/-! DEFINITION. Killing squads, conveying holdings, and resources mapped out (09 R214 to R217; 04 R98; 19 R319, R320; 20 R331, R333, R335; 21 R353, R354). -/

namespace Sys2Proof.Machine

open Host (Outcome)

/-! ### What a dump shows of a squad that has stopped (R363) -/

/-- The squad as it stands now, unless it has stopped before. -/
def capture (q : Nat) (s : State) : State :=
  if (s.captures.get? q).isSome then s
  else
    let (n, s) := newId s
    let b := blk s (sqd s q).block
    let c : Capture :=
      { turn := n, squad := sqd s q, threads := s.threads.filter fun e => squadOf e.1 == q, block := b, gang := gangOf s b.gang
        waits := s.waits, mem := s.mem, poison := s.poison }
    { s with captures := s.captures.put q c }

/-- Every live thread of the squad has stopped, for the debugger or by an escalation, and none is in a wave (R315, R317, R357). -/
def squadStopped (s : State) (q : Nat) : Bool :=
  let ts := liveOf s q
  let escalated := match (sqd s q).entry with
    | .escalated _ => true
    | .none | .pending _ | .inProgress => false
  (sqd s q).state == .resident && !ts.isEmpty &&
    ts.all fun t => !(thr s t).inWave && !heldInSlow s t && ((thr s t).dbg || escalated && (thr s t).stopped)

/-- What the squads that have stopped show is kept. -/
def captureStops (s : State) : State := s.squads.foldl (fun s e => if squadStopped s e.1 then capture e.1 s else s) s

/-- Squads go on: a dump shows them as they stand. -/
def release (qs : List Nat) (s : State) : State := { s with captures := s.captures.filter fun e => !qs.contains e.1 }

/-! ### Killing a squad (R319) -/

/-- The squad's matrix commands in q0 are discarded: a stream in flight stops after the row being fed, and its count is kept for
the dump (R319). -/
def stopMatrix (q : Nat) (s : State) : State :=
  let cs := (s.cmds.filter fun e => e.2.squad == q && e.2.kind.queue == 0 && !e.2.started).map (·.1)
  cs.foldl (fun s c =>
    let k := s.cmds.getD c default
    let s := match k.kind with
      | .mxstr .. => if (headCmd s k.core) == some c || (sqd s q).drained == some c then modSquad q (fun sq => { sq with fed := k.fed }) s else s
      | _ => s
    dropCmd c (dropClaim c s)) s

/-- A thread that a kill has stopped. -/
def Thread.stopped_ (th : Thread) : Thread :=
  { th with
    live := false, inWave := false, stopped := false, dbg := false, pri := false, direct := false, inHandler := false
    wait := none, susp := none, frozen := none, mark := false, rdv := [] }

/-- The save area of a squad that holds one. -/
def savedAreas (s : State) (q : Nat) : List Nat :=
  match (sqd s q).state with
  | .saving | .evicted | .restoring => [(sqd s q).saveArea]
  | .free | .loading | .resident | .draining => []

/-- The areas that a killed squad gives back at once: its save area, and when it is evicted its threads' call-stack areas (R319). -/
def giveSaved (q : Nat) (s : State) : State :=
  giveAreas (launchOf s (sqd s q).lid).part
    (savedAreas s q ++ if (sqd s q).state = .evicted then stackAreas s q else []) s

/-- The squad's matrix commands are discarded, and the rows fed of its stream stand in its dump record. -/
def stopFeeding (q : Nat) (s : State) : State :=
  let s := stopMatrix q s
  { s with captures := s.captures.adj q fun c => { c with squad := { c.squad with fed := (sqd s q).fed } } }

/-- A squad killed (R319): one with a row drains; one that is saved has ended at once. -/
def killSquad (q : Nat) (s : State) : State :=
  let sq := sqd s q
  if sq.ended || sq.state = .free then s
  else
    let ts := threadsOf s q
    let s := stopFeeding q (capture q (discardRuns ts s))
    let s := ts.foldl (fun s t => quitWait t s) s
    let s := mapThreads ts (fun _ th => th.stopped_) s
    let s := giveSaved q (passTile q s)
    let s := modSquad q (fun sq => { sq with
      ended := true, killed := true, entry := .none, deferred := [], dropMx := false
      state := if sq.state = .evicted then .free else .draining }) s
    let s := (coreAreas sq.core s).getD s
    settle (if blockEnded s sq.block then handBack sq.block s else s)

/-- The squads of a launch that have been loaded. -/
def squadsOf (s : State) (lid : Nat) : List Nat := (s.squads.filter fun e => e.2.lid == lid).map (·.1)

/-- A squad killed before it is loaded: it has ended, and what it has inherited is conveyed (R216, R319, R357). -/
def killIndex (b idx : Nat) (s : State) : State :=
  match roleAt (blockHeader s b).roles 0 idx with
  | none => s
  | some (n, r) =>
    let (q, s) := newId s
    let sq := { newSquad s b idx n r (blk s b).core with state := .free, ended := true, killed := true }
    let s := takeLegacy b idx { s with squads := s.squads.put q sq }
    if blockEnded s b then handBack b s else s

/-- Likewise every squad of a block that is not loaded and has inherited something. -/
def killUnloaded (b : Nat) (s : State) : State := (blk s b).legacies.foldl (fun s e => killIndex b e.1 s) s

/-- Every squad of a launch is killed, and the launch is a killed launch (R377). -/
def killLaunch (lid code detail : Nat) (s : State) : State :=
  let s := (squadsOf s lid).foldl (fun s q => killSquad q s) s
  let s := (launchOf s lid).blocks.foldl (fun s b => killUnloaded b s) s
  modLaunch lid (fun l => { l with killed := true, whole := true, killCode := code, killDetail := detail }) s

/-! ### Conveyance (R98, R216, R217, R320) -/

/-- The squad of a launch with a global number. -/
def squadNamed (s : State) (lid g : Nat) : Option Nat := (s.squads.find? fun e => e.2.lid == lid && e.2.gsq == g).map (·.1)

/-- The block and the squad index of a squad of a launch that is not loaded yet. -/
def unloadedNamed (s : State) (lid g : Nat) : Option (Nat × Nat) :=
  let l := launchOf s lid
  if l.whole || l.hdr.squads ≤ g % 16 || (squadNamed s lid g).isSome then none
  else (l.blocks.find? fun b => ordinalIn l (blk s b).core == g / 16).map fun b => (b, g % 16)

def heirNone : Nat := 0xFFFFFFFF
def heirLaunch : Nat := 0xFFFFFFFE

/-- Accepts (R216). A squad that is not loaded yet has not ended (R284). Holdings that a squad has asked for and not been given count, so
that it never holds more than 32 (R214; log 100). -/
def accepts (s : State) (lid g : Nat) : Bool :=
  match squadNamed s lid g with
  | some q => !(sqd s q).ended && (sqd s q).estate.length + awaited s q < 32 && (sqd s q).q7.length < 32
  | none => match unloadedNamed s lid g with
    | some (b, i) => (legacyOf s b i).estate.length < 32 && (legacyOf s b i).q7.length < 32
    | none => false

/-- Heir (R216). -/
def heirOf (s : State) (lid g : Nat) : Nat :=
  match squadNamed s lid g with
  | some q => (sqd s q).heir
  | none => heirNone

/-- The heir chain followed for at most 8 steps (R216). -/
def followHeirs (s : State) (lid : Nat) : Nat → Nat → Nat
  | 0, x => x
  | k + 1, x => if heirLaunch ≤ x || accepts s lid x then x else followHeirs s lid k (heirOf s lid x)

/-- Notice (Table 9.9). -/
def noticeOf (h : Holding) : DWord :=
  BitVec.ofNat 64 (h.handle.toNat / 8 * 8 + 4 + (match h.kind with | .object => 1 | .lock => 2 | .promise => 3))

/-- The waiting LKACQ of a squad on a lock it receives completes (R216). -/
def completeLock (q key : Nat) (s : State) : State :=
  s.waits.foldl (fun s e =>
    match e.2.kind with
    | .lkAcq l acq =>
      if e.2.squad == q && l.key == key && !(waiters s e.1 e.2).isEmpty then
        endWaitWith acq (relsAt s key 8) e.1 s
      else s
    | _ => s) s

/-- The holder fields of a promise cell with BEREAVED set (Table 9.8). -/
def cellControl (s : State) (key gsq : Nat) : Nat := readNat s (key + 8) 4 % 2 + 2 + gsq % 2 ^ 16 * 2 ^ 16

/-- Where a conveyance finds the lock word or the cell of a holding: its address translated at the conveyance. A window is no page (R82,
R84). -/
def holdingTrans (s : State) (d : Nat) (h : Holding) : Trans :=
  let n := if h.kind = .lock then 8 else 16
  if h.kind = .object || inWindows h.handle.toNat then .ok [⟨h.key, n, .rc, none⟩]
  else translate s (hubView s (launchOf s (sqd s d).lid).ctx) none (.cell true) h.handle.toNat n

/-- The host pages that a conveyance has yet to ask for. -/
def holdingPages (s : State) (d : Nat) : List Nat :=
  (sqd s d).estate.flatMap fun h => match holdingTrans s d h with
    | .miss g => g
    | .ok _ | .bad _ => []

/-- A holding at the key where its conveyance finds it; none where its page is mapped no more, or its window is revoked (log 102). -/
def holdingFound (s : State) (d : Nat) (h : Holding) : Option Holding :=
  match holdingTrans s d h with
  | .ok (p :: _) => if winDead s p.win then none else some { h with key := p.addr }
  | .ok [] | .bad _ | .miss _ => none

/-- The lock word or the cell of a holding names its new holder, with BEREAVED set (R216). -/
def setHolder (a d g rid : Nat) (h : Holding) (s : State) : State :=
  match h.kind with
  | .lock => modifyNat a h.key 8 (lockValue (sqd s d).lid g true) [rid] s
  | .promise => homeWriteNat a (h.key + 8) 4 (cellControl s h.key g) [rid] s
  | .object => s

/-- A word or cell that the conveyance can reach is written. -/
def ifFound (s : State) (d : Nat) (h : Holding) (write : Holding → State → State) : State :=
  match holdingFound s d h with
  | some h => write h s
  | none => s

/-- A holding moved to the estate of the loaded squad `x`, with its notice (R216, R217). -/
def bequeath (a d x rid : Nat) (h : Holding) (s : State) : State :=
  let h := (holdingFound s d h).getD h
  let s := addHolding x h.kind h.handle h.key true (ifFound s d h (setHolder a d (sqd s x).gsq rid))
  let s := modSquad x (fun q => { q with q7 := q.q7 ++ [⟨noticeOf h, [rid]⟩] }) s
  settle (if h.kind = .lock then completeLock x h.key s else s)

/-- A holding moved to a squad that is not loaded yet, with its notice. -/
def bequeathUnloaded (a d g b idx rid : Nat) (h : Holding) (s : State) : State :=
  let h := (holdingFound s d h).getD h
  let (n, s) := newId (ifFound s d h (setHolder a d g rid))
  let x := legacyOf s b idx
  let y : Legacy := ⟨x.estate ++ [⟨h.kind, h.handle, h.key, n, true⟩], x.q7 ++ [⟨noticeOf h, [rid]⟩]⟩
  settle (modBlock b (fun k => { k with legacies := k.legacies.put idx y }) s)

/-- Dispose (R216). -/
def dispose (a d rid : Nat) (h : Holding) (s : State) : State :=
  match h.kind with
  | .object => freeObject (launchOf s (sqd s d).lid).part h.handle.toNat [rid] s
  | .lock => ifFound s d h fun h s => settle (modifyNat a h.key 8 2 [rid] s)
  | .promise => ifFound s d h fun h s =>
    let ctl := readNat s (h.key + 8) 4
    settle (homeWriteNat a (h.key + 8) 4 (ctl / 4 * 4 + 3) [rid] (homeWriteNat a h.key 8 0 [rid] s))

/-- One holding of a deceased squad conveyed (R216, R320). -/
def conveyOne (a d rid : Nat) (s : State) (h : Holding) : State :=
  let sq := sqd s d
  let x := followHeirs s sq.lid 8 sq.heir
  if x < heirLaunch && accepts s sq.lid x then
    match squadNamed s sq.lid x, unloadedNamed s sq.lid x with
    | some q, _ => bequeath a d q rid h s
    | none, some (b, i) => bequeathUnloaded a d x b i rid h s
    | none, none => s
  else if x = heirLaunch then dispose a d rid h s
  else raiseEvent ⟨0, 3, sq.lid, some (launchOf s sq.lid).part, 0, sq.gsq * 2 ^ 16, (noticeOf h).toNat⟩ (dispose a d rid h s)

/-- The holdings in the order of R216: promises, locks, objects, each kind in acquisition order. -/
def conveyOrder (hs : List Holding) : List Holding :=
  let of (k : HoldKind) : List Holding := sortBy (fun a b => a.order ≤ b.order) (hs.filter fun h => h.kind == k)
  of .promise ++ of .lock ++ of .object

/-- What the conveyance covers: every store of the deceased, and its observed set (R98). -/
def deceasedStores (s : State) (d : Nat) : List Obs :=
  (threadsOf s d).flatMap fun t =>
    let a := (thr s t).agent
    .upTo a (agt s a).nextSid true :: (agt s a).observed

/-- The agents of a squad: its threads and commands. -/
def agentsOf (s : State) (q : Nat) : List Nat := (s.agents.filter fun e => e.2.place.onCore && e.2.place.squad == q).map (·.1)

/-- The conveyance may begin: the squad has ended, every ALLOC of it has had its reply, its releases have been performed and its
stores have reached the device point (R216, R98). -/
def mayConvey (s : State) (d : Nat) : Bool :=
  let sq := sqd s d
  let as := agentsOf s d
  sq.ended && !sq.conveyed && (launchOf s sq.lid).roll.isNone &&
  (s.cmds.all fun e => e.2.squad != d || (match e.2.kind with | .alloc _ => false | _ => true)) &&
  (s.pendRels.all fun r => !as.contains r.2.agent) &&
  (deceasedStores s d).all fun o => obsReached s (placeOf s d) .device o

/-- A page the hub cannot reach: the refusals of it that it has met are spent. -/
def spendDeny (ctx : Nat) (s : State) : State := { s with hubDeny := s.hubDeny.filter fun d => d.1 != ctx }

/-- CONVEY (R216): a release at device scope by an agent of its own (R85, R98); what the notices' pops and the locks' next holders
synchronise with. All holdings and notices pass in one step (R98; log 102). -/
def execConvey (squad : Nat) (s : State) : Outcome State Fault Refusal :=
  .next (if mayConvey s squad then
      let ctx := (launchOf s (sqd s squad).lid).ctx
      let pages := holdingPages s squad
      if !pages.isEmpty then sendAts (hubView s ctx) true .hub (fun _ => none) pages s else
      let (a, s) := newAgent (placeOf s squad) s
      let s := modAgent a (fun g => { g with observed := deceasedStores s squad }) s
      let (rid, s) := newId s
      let s := { s with releases := s.releases.put rid ⟨placeOf s squad, .device, deceasedStores s squad⟩ }
      let hs := conveyOrder (sqd s squad).estate
      spendDeny ctx (modSquad squad (fun sq => { sq with conveyed := true, estate := [], q7 := [] }) (hs.foldl (conveyOne a squad rid) s))
    else s)

/-! ### Corrected errors (R323) -/

/-- A corrected error counted, found at the key given, if any; the 256th raises an event for the resource's owner (R323, R341). -/
def countCorrected (r : Nat) (key : Option Nat) (s : State) : State :=
  let n := s.corrected.getD r 0 + 1
  if n = 256 then raiseEvent ⟨1, 1, 0, ownerOfResource s r key, 0, r, 0⟩ { s with corrected := s.corrected.put r 0 }
  else { s with corrected := s.corrected.put r n }

/-! ### A launch that ends restored (R330, R332) -/

/-- Bytes of a piece as its snapshot holds them. -/
def pieceImage (p : Nat) (cells : List Host.Cell) : List Byte := cellsGet cells (p * pieceBytes) pieceBytes

/-- A piece restored from its snapshot as one whole write, poison included (R324, R330): a store of an agent that has no other, which joins
the coherence order of each byte that has one (R88). -/
def restorePiece (rid : Nat) (s : State) (x : Snapshot) : State :=
  let (a, s) := newAgent ⟨false, false, 0, 0, 0⟩ s
  let order (w : Tbl Writer) (e : Nat × Writer) : Tbl Writer := w.put e.1 (Writer.after (a, 0) [rid] (readByte s e.1) (some e.2))
  let writers := (s.writers.filter fun e => inPiece x.piece e.1).foldl order s.writers
  let s := writeBytes (x.piece * pieceBytes) (pieceImage x.piece x.cells) s
  { s with poison := s.poison.filter (fun g => !inPiece x.piece g) ++ x.poison, writers := writers }

/-- The launch's engine commands, waits, synchronisations, threads, squads, blocks and gangs are gone (R330). -/
def forgetLaunch (lid : Nat) (s : State) : State :=
  let qs := squadsOf s lid
  let l := launchOf s lid
  let areas := (qs.map fun q => savedAreas s q ++ stackAreas s q).flatten ++
    l.blocks.flatMap fun b => (blk s b).saveArea.toList ++ (blk s b).backing.toList
  let s := giveAreas l.part areas s
  let s := ((s.cmds.filter fun e => e.2.lid == lid).map (·.1)).foldl (fun s c => dropCmd c s) s
  let cs := (qs.map fun q => (sqd s q).core).eraseDups
  let s := qs.foldl (fun s q => leaveRow q s) s
  let mine (a : Nat) : Bool := lidOfAgent s a == some lid
  let syncs := (((s.pendRels.filter fun r => mine r.2.agent).map fun r => r.2.sync) ++
    s.agents.flatMap fun e => if mine e.1 then e.2.out.filterMap fun x => objectSync x.kind else []).eraseDups
  let noObjects (l : List Entry) : List Entry := l.filter fun x => (objectSync x.kind).isNone
  let s := { s with
    agents := s.agents.map fun e => if mine e.1 then
        (e.1, { e.2 with so := noObjects e.2.so, rc := noObjects e.2.rc, uo := noObjects e.2.uo })
      else e
    waits := s.waits.filter fun e => (sqd s e.2.squad).lid != lid
    pendRels := s.pendRels.filter fun r => !mine r.2.agent
    syncs := s.syncs.filter fun e => !syncs.contains e.1
    threads := s.threads.filter fun e => !qs.contains (squadOf e.1)
    squads := s.squads.filter fun e => e.2.lid != lid
    captures := s.captures.filter fun e => e.2.squad.lid != lid
    blocks := s.blocks.filter fun e => e.2.lid != lid
    gangs := s.gangs.filter fun e => e.2.lid != lid }
  cs.foldl (fun s c => rest c ((coreAreas c s).getD s)) s

/-- Steps 2 to 4 of R330: commands stopped, pieces restored, estates removed without conveyance, objects returned, the dispenser
back at position 0, held publications and snapshots discarded. -/
def restoreLaunch (lid : Nat) (s : State) : State :=
  let l := launchOf s lid
  let (rid, s) := newId s
  let s := { s with releases := s.releases.put rid ⟨⟨false, false, lid, 0, 0⟩, .device, []⟩ }
  let s := dropHeld lid (forgetLaunch lid s)
  let s := l.snapshots.foldl (restorePiece rid) s
  let s := ((partOf s l.part).objects.filter fun o => o.2.2 == lid).foldl (fun s o => freeObject l.part o.1 [] s) s
  modLaunch lid (fun l => { l with
    nextPos := 0, handedBack := [], doneTiles := [], completed := 0, heldPublish := [], snapshots := [], written := []
    clusters := [], blocks := [], gangs := [], roll := none, rolling := false, escalation := none, acqRels := [(rid, none)] }) s

/-- The LAUNCH completes, unless its queue was reset, and the end is reported (R60, R347, Table 21.9). -/
def completeLaunch (lid status detail value : Nat) (s : State) : State :=
  let l := launchOf s lid
  let s := modLaunch lid (fun l => { l with ended := true, stage := 9, eligible := false, snapshots := [] }) s
  let s := { s with
    fifos := s.fifos.map fun e => (e.1, e.2.filter (· != lid))
    captures := s.captures.filter fun e => e.2.squad.lid != lid
    holds := s.holds.filter fun h => h.1 != lid }
  let s := (l.clusters.flatMap clusterCores).foldl (fun s c => rest c s) (linkTaken l.ctx (0, lid, 0) s)
  let s := if l.abandoned then s else complete (l.queue, l.buf) status detail value s
  advanceLaunches (raiseEvent ⟨9, 2, lid, some l.part, 0,
    fld status 0 8 + l.replays * 256 + min (launchOf s lid).completed (2 ^ 32 - 1) * 2 ^ 32, l.hdrAddr.toNat⟩ s)

/-- A launch ends restored: no posts; its end link, its status and the event of class 1 (R332). -/
def endRestored (lid status detail value reason : Nat) (s : State) : State :=
  let l := launchOf s lid
  let s := restoreLaunch lid s
  let s := if l.hdr.receipt then takeLink l.ctx (endLink lid l.replays (if reason = 2 then 2 else 1)) s else s
  completeLaunch lid status detail value (raiseEvent ⟨1, 6, lid, some l.part, 0, reason, 0⟩ s)

/-! ### Mapping out (R333, R335, R354) -/

/-- A launch that has saved squads on a core that has left the partition is unrestorable: it is killed, or where it is rollback-eligible
it ends restored (R354). One that is being restored or killed whole has no saved squads to lose. -/
def unrestorable (lid core : Nat) (s : State) : State :=
  let l := launchOf s lid
  let ord := ordinalIn l core
  if l.roll.isSome || l.whole then s
  else
    let s := raiseEvent ⟨0, 4, lid, some l.part, 0, ord, 0⟩ s
    if l.eligible then noteRoll lid ⟨.unrestorable ord, 0, 0, 0, none⟩ s else killLaunch lid 0x0A ord s

/-- The launches with squads of a core that are saved, on their way to their save areas, or on their way back. -/
def savedLaunches (s : State) (core : Nat) : List Nat :=
  ((s.squads.filter fun e => e.2.core == core && !e.2.ended &&
    (e.2.state == .saving || e.2.state == .evicted || e.2.state == .restoring)).map fun e => e.2.lid).eraseDups

/-- A cluster removed from its partition: no launch is bound to it, and the FIFOs are tested again (R48, R333). -/
def removeCluster (k : Nat) (s : State) : State :=
  let ps := (s.partitions.filter fun e => e.2.clusters.contains k).map (·.1)
  let s := { s with partitions := s.partitions.map fun e => (e.1, { e.2 with clusters := e.2.clusters.filter (· != k) }) }
  let s := (clusterCores k).foldl (fun s c => modCore c (fun x => { x with mappedOut := true }) s) s
  let s := (clusterCores k).foldl (fun s c => (savedLaunches s c).foldl (fun s l => unrestorable l c s) s) s
  ps.foldl (fun s p => retestFifos p s) s

/-- The report of class 1 that a resource is lasting, to its owner: it names the frame or the Cellar offset concerned (R333, R335, R341). -/
def lastingEvent (s : State) (r : Nat) (key : Option Nat) : Event :=
  ⟨1, 5, 0, ownerOfResource s r key, 2, r, if resCode r = 6 then resRange r * 4096 else reportedPlace key⟩

/-- The driver behind a function's management queue is told of the pseudo-channels that hold no frames, where it has not been: a host
status record for each, as long as there is room for them (R264, R291; log 87). -/
def tellFrames (f : Nat) (s : State) : State :=
  if !((mgmtQueue s f).any fun q => (queueOf s q).enabled) then s
  else
    let new := ((channelsOut s).filter fun x => !(fnOf s f).told.contains x).take (256 - (fnOf s f).records.length)
    let record (x : Nat × Nat) : Event :=
      ⟨1, 5, 0, if f = 0 then none else some (f - 1), 2, 4 * 2 ^ 56 + x.1 * 2 ^ 13 + x.2, x.1 * 2 ^ 37⟩
    modFn f (fun k => { k with told := k.told ++ new }) (new.foldl (fun s x => hostRecord f (record x) s) s)

/-- An entry of the map-out log, with its event (R289, R333). The event tells the owner of a pseudo-channel's frame, and the other drivers
hear of the channel through their management queues (R291). -/
def logMapOut (r : Nat) (key : Option Nat) (s : State) : State :=
  let e := lastingEvent s r key
  let s := raiseEvent e { s with mapOuts := s.mapOuts ++ [⟨resCode r, r % 2 ^ 56⟩] }
  if resCode r ≠ 4 then s
  else
    let f := fnOfPart e.part
    let s := if ownerOf s 1 = ownerHost then modFn f (fun k => { k with told := k.told ++ [(resDie r, fld r 0 9)] }) s else s
    s.functions.keys.foldl (fun s f => tellFrames f s) s

def mapOutCluster (k : Nat) (s : State) : State :=
  if clusterOut s k then s else removeCluster k (logMapOut (clusterResource k) none s)

/-- Spare rows of a Cellar bank that the log has taken (R335). -/
def cellSparesOf (s : State) (bank : Nat) : Nat :=
  (s.mapOuts.filter fun m => m.kind == 6 && fld m.num 13 3 * 16 + fld m.num 16 4 == bank).length

/-- The 4 KiB of a Cellar range are a spare row's from now on: no poison of theirs is left, and what a poisoned granule reads as is free
(R335; log 103). -/
def remapRange (r : Nat) (s : State) : State :=
  let base := cellarKey (resDie r) (resRange r * 4096)
  let bad := s.poison.filter fun g => base ≤ g && g < base + 4096
  let s := bad.foldl (fun s g => { writeBytes g ((Config.freeBytes s.fresh ++ List.replicate 64 0).take 64) s with fresh := s.fresh + 1 }) s
  { s with poison := s.poison.filter fun g => !bad.contains g }

/-- A lasting Cellar range takes a spare row of its bank; with none left it stays poisoned (R335). -/
def mapOutRange (r : Nat) (s : State) : State :=
  let bank := resDie r * 16 + fld r 16 4
  if s.cellSpares.getD bank 0 < 32 then
    logMapOut r none (remapRange r { s with cellSpares := s.cellSpares.put bank (s.cellSpares.getD bank 0 + 1) })
  else raiseEvent (lastingEvent s r none) s

/-- A lasting resource mapped out, with the key of the poison that showed it, if any (Table 20.3). A row or a pseudo-channel that is out
already stays so. -/
def mapOut (r : Nat) (key : Option Nat) (s : State) : State :=
  if !isResource r then s
  else if resCode r = 1 || resCode r = 2 then mapOutCluster (resCluster r) s
  else if resCode r = 3 then
    (if (rowsOut s (resCore r)).contains (resRow r) then s
     else if (rowsOut s (resCore r)).length < 4 then logMapOut r none s else mapOutCluster (resCluster r) s)
  else if resCode r = 4 && channelOut s (resDie r) (fld r 0 9) then raiseEvent (lastingEvent s r key) s
  else if resCode r = 6 then mapOutRange r s
  else logMapOut r key s

/-- A granule of a Cellar poisoned. A range that a fill has written since it was last poisoned is lasting (R335). -/
def poisonCellar (die off : Nat) (s : State) : State :=
  let s := setPoison (cellarKey die off) 1 s
  let i := die * 65536 + off / 4096
  let again := s.cellBad.getD i false
  let s := { s with cellBad := s.cellBad.put i false }
  if again then mapOut (cellarResource die off) none s else s

end Sys2Proof.Machine
end

