-- ==== Sys2Proof/Machine/Porter.lean ====
section
/-! DEFINITION. The Porter extension and its exceptions (11 R258 to R262; 21 R348, R349). -/

namespace Sys2Proof.Machine

open Host (Outcome)

/-- A Porter after reset: registers 0 (log 5), nothing armed, halted until its image runs. -/
def Porter.reset : Porter :=
  { x := Vector.replicate 32 0, pc := 0, mepc := 0, mcause := 0, mtvec := 0, inException := false, reported := false, halted := true
    armed := [], latched := [], fired := [], watches := [], image := [] }

def porterOf (s : State) (p : Nat) : Porter := s.porters.getD p Porter.reset
def modPorter (p : Nat) (f : Porter → Porter) (s : State) : State := { s with porters := s.porters.put p (f (porterOf s p)) }

/-- x0 reads as 0 (the RV32 register file). -/
def Porter.get (n : Nat) (k : Porter) : Word := if n = 0 then 0 else k.x.getD n 0

/-- A register written, and the program counter moved past the word. x0 discards. -/
def Porter.set (n : Nat) (v : Word) (k : Porter) : Porter :=
  { k with x := if n = 0 then k.x else k.x.setIfInBounds n v, pc := k.pc + 4 }

def Porter.next (k : Porter) : Porter := { k with pc := k.pc + 4 }

/-- Bytes of a Porter's SRAM (R258). -/
def sramSize : Nat := 256 * 1024

/-- The exception that a Porter has in hand is reported in class 6, which has the codes of Table 11.10 (R348, Table 21.2). -/
def reportTrap (p flags : Nat) (addr : Word) (s : State) : State :=
  let code := (porterOf s p).mcause.toNat
  modPorter p (fun k => { k with reported := true })
    (if 24 ≤ code ∧ code ≤ 31 then raiseEvent ⟨6, code, 0, none, flags, p, addr.toNat⟩ s else s)

/-- The image is Krovhar's, which asks for the report of every exception that it handles (Table 17.2, R348). -/
def Porter.krovhar (k : Porter) : Bool := fieldAt k.image 7 1 == 0

/-- An exception of Table 11.10, or of RISC-V's: taken by the Porter's image; or, a second time or with no handler, the Porter halts, with
LASTING set in its report (R262, R348). -/
def porterTrap (p code : Nat) (s : State) : State :=
  let k := porterOf s p
  let c : Word := BitVec.ofNat 32 code
  if k.inException || k.mtvec == 0 then reportTrap p 2 k.pc (modPorter p (fun k => { k with halted := true, mcause := c }) s)
  else
    let s := modPorter p (fun k => { k with
      mepc := k.pc, mcause := c, pc := k.mtvec &&& 0xFFFFFFFC, inException := true, reported := false }) s
    if k.krovhar then reportTrap p 0 k.pc s else s

/-- Queue `q` of a Porter's sixteen (R242). -/
def localQueue (p : Nat) (x : Word) : Nat := p * 16 + fld x.toNat 0 4

/-- The 16-byte descriptors of a chain, as the packed ring lays them out. -/
def chainBytes (buf : Nat) (ds : List (DWord × Nat × Nat)) : List Byte :=
  ds.flatMap fun d => natLe 8 d.1.toNat ++ natLe 4 d.2.1 ++ natLe 2 buf ++ natLe 2 d.2.2

/-- Chains at the head of a ring with a buffer that cannot be reached are returned with code 0x04, and the next one is fetched (R347). -/
def passUnreached (q : Nat) : Nat → State → State
  | 0, s => s
  | k + 1, s =>
    match (queueOf s q).avail with
    | (buf, ds) :: _ => (match chainFault s q (buf, ds) with
      | some (code, a) => if code = 0x04 then passUnreached q k (rejectChain q buf code a (fetchHead q s)) else s
      | none => s)
    | [] => s

/-- RFETCH. A bad chain raises exception 24 and is returned to the driver (R347). -/
def rfetch (rd rs : Fin 32) (s : State) : State :=
  let p := s.cur.core
  let x := (porterOf s p).get rs.val
  let q := localQueue p x
  if !(queueOf s q).enabled then porterTrap p 25 s
  else if !queueUp s q then modPorter p (Porter.set rd.val 0xFFFFFFFF) s
  else
    let s := passUnreached q (queueOf s q).avail.length s
    match (queueOf s q).avail with
    | [] => modPorter p (Porter.set rd.val 0xFFFFFFFF) s
    | (buf, ds) :: _ =>
      if badChain ds then porterTrap p 24 (rejectChain q buf 0x01 0 (fetchHead q s))
      else
        let s := unitWrite (porterAgent p) (sramKey p (0x3F000 + fld x.toNat 0 4 * 0x100)) (chainBytes buf ds) false [] (fetchHead q s)
        modPorter p (Porter.set rd.val (BitVec.ofNat 32 (buf % 2 ^ 16 + ds.length * 2 ^ 16))) s

def execRfetch (rd rs : Fin 32) (s : State) : Outcome State Fault Refusal := .next (rfetch rd rs s)

/-- RPOST. -/
def rpost (rs rt : Fin 32) (s : State) : State :=
  let p := s.cur.core
  let x := (porterOf s p).get rs.val
  let q := localQueue p x
  let buf := fld x.toNat 16 16
  if !(queueOf s q).enabled then porterTrap p 25 s
  else if !(queueOf s q).fetched.any (fun c => c.1 == buf) then porterTrap p 26 s
  else modPorter p Porter.next (postUsed q buf ((porterOf s p).get rt.val).toNat s)

def execRpost (rs rt : Fin 32) (s : State) : Outcome State Fault Refusal := .next (rpost rs rt s)

/-- BFX; `len` is LEN − 1. -/
def execBfx (rd rs pos len : Fin 32) (hi : Fin 4) (s : State) : Outcome State Fault Refusal :=
  let p := s.cur.core
  .next (if 32 < pos.val + (len.val + 1) ∨ hi.val ≠ 0 then porterTrap p 27 s
    else modPorter p (fun k => k.set rd.val (BitVec.ofNat 32 (fld (k.get rs.val).toNat pos.val (len.val + 1)))) s)

/-- BFI of the extension: reads rd. -/
def execBfiPorter (rd rs pos len : Fin 32) (hi : Fin 4) (s : State) : Outcome State Fault Refusal :=
  let p := s.cur.core
  let m : Word := BitVec.ofNat 32 ((2 ^ (len.val + 1) - 1) * 2 ^ pos.val)
  .next (if 32 < pos.val + (len.val + 1) ∨ hi.val ≠ 0 then porterTrap p 27 s
    else modPorter p (fun k => k.set rd.val ((k.get rd.val &&& ~~~m) ||| (k.get rs.val <<< pos.val &&& m))) s)

/-- The sources of a mask. -/
def sourcesIn (x : Word) : List Nat := (List.range 32).filter fun n => x.getLsbD n

def sourceMask (ns : List Nat) : Word := ns.foldl (fun m n => m ||| BitVec.ofNat 32 (2 ^ n)) 0

/-- SWAIT: fired sources are taken and disarmed, also those armed again since they fired; with none fired and one armed the Porter waits
at the word. -/
def execSwait (rd rs : Fin 32) (s : State) : Outcome State Fault Refusal :=
  let p := s.cur.core
  let k := porterOf s p
  let mask := sourcesIn (k.get rs.val)
  let hit := k.fired.filter mask.contains
  .next (if !hit.isEmpty then
      modPorter p (fun k => { k.set rd.val (sourceMask hit) with
        fired := k.fired.filter fun n => !hit.contains n, armed := k.armed.filter fun n => !hit.contains n }) s
    else if k.armed.any mask.contains then s
    else porterTrap p 28 s)

/-- A watch record that SARM accepts: 8-byte aligned, within SRAM. -/
def recordOk (a : Nat) : Bool := a % 8 == 0 && a + 16 ≤ sramSize

/-- SARM. A doorbell latched while disarmed fires at arming; a watch fires when its signal is at least its threshold (R261,
R349). The signal address is a device physical address (log 14). -/
def execSarm (rs rt : Fin 32) (s : State) : Outcome State Fault Refusal :=
  let p := s.cur.core
  let k := porterOf s p
  let n := fld (k.get rs.val).toNat 0 5
  let a := (k.get rt.val).toNat
  .next (if n < 16 then
      if a ≠ 0 then porterTrap p 29 s
      else if k.latched.contains n then
        modPorter p (fun k => { k.next with
          latched := k.latched.filter (· != n), armed := k.armed.filter (· != n), fired := (k.fired ++ [n]).eraseDups }) s
      else modPorter p (fun k => { k.next with armed := (k.armed ++ [n]).eraseDups }) s
    else if !recordOk a then porterTrap p 29 s
    else
      let sig := readNat s (sramKey p a) 8
      let thr := readNat s (sramKey p (a + 8)) 8
      let w := (BitVec.ofNat 64 sig, BitVec.ofNat 64 thr)
      if thr ≤ watchValue s sig then
        modPorter p (fun k => { k.next with
          watches := k.watches.put n w, armed := k.armed.filter (· != n), fired := (k.fired ++ [n]).eraseDups }) s
      else modPorter p (fun k => { k.next with watches := k.watches.put n w, armed := (k.armed ++ [n]).eraseDups }) s)

/-- The launches of a queue that have been checked and are not bound yet, with a given header. -/
def stagedWith (s : State) (q : Nat) (raw : List Byte) : List Nat :=
  (s.launches.filter fun e => e.2.queue == q && !e.2.ended && 3 ≤ e.2.stage && e.2.stage ≤ 6 && e.2.raw == raw).map (·.1)

/-- The count of launches a queue has held. -/
def countLaunch (q : Nat) (s : State) : State := modQueue q (fun k => { k with launches := k.launches + 1 }) s

/-- A launch as it stands at stage 1 (R41, R376). -/
def Launch.new (h : Header) (addr : DWord) (raw : List Byte) (queue buf part ctx nth : Nat) : Launch :=
  { hdr := h, hdrAddr := addr, raw := raw, stage := 1, queue := queue, buf := buf, part := part, ctx := ctx, nth := nth
    waitsLeft := h.waits.filter fun w => w.kind != 0
    acqRels := [], clusters := [], blocks := [], gangs := [], boundAt := 0, nextPos := 0, handedBack := [], doneTiles := []
    completed := 0, killed := false, whole := false, killDetail := 0, rolling := false, killCode := 0x08, abandoned := false, sealed := false, dumpLen := 0, dumpCut := false, heldPublish := [], eligible := false, roll := none, replays := 0
    written := [], snapshots := [], resources := [], generation := 0, dump := none, counter := 0, badAddr := none, escalation := none, proceeded := false
    halted := [], dead := [], ended := false }

/-- A launch identifier: not 0, and distinct among the launches held; else free (R376; log 20). -/
def newLid (s : State) : Nat × State := freeId 1 s.launches.keys s

/-- DISP: rd takes the identifier of the launch that the Porter's queue holds with that header. It enters its priority's FIFO once its
stages 3 to 5 have ended and its queue's order lets it, as every launch does (R41, R47). A header of which the queue holds no launch
makes one at stage 3, in the lowest context of the partition, once the host pages that its check reads have been translated (R83); a queue
of function 0, which has no partition, stands for partition 0 (log 15). -/
def disp (rd rs rt : Fin 32) (s : State) : State :=
  let p := s.cur.core
  let a := ((porterOf s p).get rs.val).toNat
  let q := localQueue p ((porterOf s p).get rt.val)
  let raw := readBytes s (sramKey p a) 512
  let f := fnOfQueue s q
  let part := (partOfQueue s q).getD 0
  if a % 64 ≠ 0 ∨ sramSize < a + 512 then porterTrap p 30 s
  else match stagedWith s q raw with
    | l :: _ => modPorter p (Porter.set rd.val (BitVec.ofNat 32 l)) (passHold l s)
    | [] =>
      match s.contexts.find? fun e => e.2.part == part with
      | none => porterTrap p 30 s
      | some c =>
        let bad := checkHeader s f part (hubView s c.1) (headerOf raw).code.toNat raw
        let pages := headerPages s (hubView s c.1) (headerOf raw) bad
        if !pages.isEmpty then sendAts (hubView s c.1) false .hub (fun _ => none) pages s else
        match bad with
        | some _ => porterTrap p 30 s
        | none =>
          let (lid, s) := newLid s
          let l := Launch.new (headerOf raw) 0 raw q (2 ^ 16) part c.1 (queueOf s q).launches
          modPorter p (Porter.set rd.val (BitVec.ofNat 32 lid))
            (countLaunch q { s with launches := s.launches.put lid { l with stage := 3 } })

def execDisp (rd rs rt : Fin 32) (s : State) : Outcome State Fault Refusal := .next (disp rd rs rt s)

/-- DSTAT. -/
def execDstat (rd rs : Fin 32) (s : State) : Outcome State Fault Refusal :=
  let p := s.cur.core
  let lid := ((porterOf s p).get rs.val).toNat
  let part := partOfQueue s (p * 16)
  .next (match s.launches.get? lid with
    | some l =>
      if some l.part = part then
        let st := if l.ended then 2 else if l.stage ≤ 6 then 0 else 1
        modPorter p (Porter.set rd.val (BitVec.ofNat 32 (st * 2 ^ 30 + min l.completed (2 ^ 30 - 1)))) s
      else porterTrap p 31 s
    | none => porterTrap p 31 s)

end Sys2Proof.Machine
end

