-- ==== Sys2Proof/Machine/Ending.lean ====
section
/-! DEFINITION. The stages of a launch that are steps of their own: fetch and check, measure, hold, commit, end, rollback and escalation (02 R41 to R47, R60, R62; 12 R267, R268; 20 R328 to R332; 21 R345, R346, R358, R364, R377). -/

namespace Sys2Proof.Machine

open Host (Outcome)

/-! ### Memory of a context as commands reach it -/

/-- The hub's pieces of a range: `k` goes on with them, `bad` with the first address not mapped or not permitted; host pages not
yet translated are asked for, and the step is made again later (R82, R83). -/
def withRange (ctx : Nat) (write : Bool) (va n : Nat) (bad : Nat → State → State) (k : List Piece → State → State) (s : State) :
    State :=
  match rangeOf s (hubView s ctx) write va n with
  | .ok ps => k ps s
  | .bad a => bad a (spendDeny ctx s)
  | .miss g => sendAts (hubView s ctx) write .hub (fun _ => none) g s

/-! ### Stages 1 to 3 (Table 2.1) -/

def ruleLaunch : CmdRule := { opcode := 0x0001, length := 16, mgmt := false, fn0 := false, feature := none }

/-- Stages 1 and 2: the launch takes its sr.lid, its header is fetched, and the conditions of R42 are tested (R41, R376). -/
def fetchLaunch (c : CmdId) (ctx : Nat) (s : State) : State :=
  let addr := fieldAt (bodyOf s c) 0 8
  let part := (s.contexts.getD ctx default).part
  let begin (raw : List Byte) (s : State) : Nat × State :=
    let (lid, s) := newLid s
    let l := Launch.new (headerOf raw) (BitVec.ofNat 64 addr) raw c.1 c.2 part ctx (queueOf s c.1).launches
    (lid, countLaunch c.1 (markInFlight c { s with launches := s.launches.put lid l }))
  withRange ctx false addr 512
    (fun _ s =>
      let (lid, s) := begin [] s
      if inWindows addr then refuseLaunch lid 0x04 0 addr s else refuseLaunch lid 0x05 6 0 s)
    (fun ps s =>
      let raw := readPieces s ps
      let bad := checkHeader s (fnOfQueue s c.1) part (hubView s ctx) addr raw
      let pages := headerPages s (hubView s ctx) (headerOf raw) bad
      if !pages.isEmpty then sendAts (hubView s ctx) false .hub (fun _ => none) pages s else
      let (lid, s) := begin raw s
      match bad with
      | some n => advanceLaunches (refuseLaunch lid 0x05 n 0 s)
      | none => modLaunch lid (fun l => { l with stage := 3 }) s) s

/-- LAUNCH (R248): stages 1 and 2. -/
def execLaunch (queue buf : Nat) (s : State) : Outcome State Fault Refusal :=
  let c := (queue, buf)
  .next (runCommand c ruleLaunch (fun s =>
    checkFields c [(0, fieldAt (bodyOf s c) 0 8 % 64 != 0), ctxAt s c 8, reservedAt s c 12 4]
      (fetchLaunch c (fieldAt (bodyOf s c) 8 4)) s) s)

/-- H of a range of the context. -/
def hashRange (s : State) (ctx va n : Nat) : List Byte :=
  match rangeOf s (hubView s ctx) false va n with
  | .ok ps => shake (readPieces s ps)
  | .bad _ | .miss _ => []

/-- The launch link of a launch with RECEIPT, taken in its turn (R267, R270); otherwise stage 3 ends at once. -/
def endMeasure (lid : Nat) (digest : List Byte) (s : State) : State :=
  let l := launchOf s lid
  let pass (s : State) : State := advanceLaunches (modLaunch lid (fun l => { l with stage := 4 }) s)
  if !l.hdr.receipt then pass s
  else if (s.chains.get? l.ctx).isNone then advanceLaunches (refuseLaunch lid 0x07 1 0 s)
  else if !linkFree s l.ctx (0, lid, 0) then awaitLink l.ctx (0, lid, 0) s
  else
    let args := hashRange s l.ctx l.hdr.args.toNat l.hdr.argsize
    let s := takeLink l.ctx (launchLink lid digest args (shake l.raw) l.hdrAddr.toNat) (linkTaken l.ctx (0, lid, 0) s)
    pass (modLaunch lid (fun l => { l with counter := (chainOfCtx s l.ctx).counter }) s)

/-- LAUNCH_MEASURED (R41): stage 3 ends when the digests are known. -/
def execLaunchMeasured (lid : Nat) (s : State) : Outcome State Fault Refusal :=
  let l := launchOf s lid
  .next (if l.stage ≠ 3 || l.ended then s
    else
      let v := hubView s l.ctx
      let n := match codeObject s v l.hdr with
        | some o => o.digested
        | none => 64
      withRange l.ctx false l.hdr.code.toNat n
        (fun a s => refuseLaunch lid 0x04 0 a s)
        (fun ps s =>
          withRange l.ctx false l.hdr.args.toNat l.hdr.argsize
            (fun a s => refuseLaunch lid 0x04 0 a s)
            (fun _ s =>
              let d := shake (readPieces s ps)
              if d = l.hdr.digest then endMeasure lid d s else advanceLaunches (refuseLaunch lid 0x06 0 0 s)) s) s)

/-- HOLD_EXPIRE (R62): a hold has counted its ticks, and the partition's held launches pass together. -/
def execHoldExpire (lid : Nat) (s : State) : Outcome State Fault Refusal :=
  .next (if s.holds.any fun h => h.1 == lid then advanceLaunches (endHolds (launchOf s lid).part s) else s)

/-! ### The end of a launch (R60, R377) -/

/-- Every gang of the launch has ended: every block, or in a launch killed whole every squad that was loaded (R36). -/
def gangsEnded (s : State) (lid : Nat) : Bool :=
  let l := launchOf s lid
  if l.whole then (squadsOf s lid).all fun q => (sqd s q).ended
  else 7 ≤ l.stage && !l.blocks.isEmpty && l.blocks.all (blockEnded s)

/-- Nothing of the launch is left to be performed at a home point: stores, atomics, engine commands, releases and the operations
that they hold back (R60, R328). -/
def launchQuiet (s : State) (lid : Nat) : Bool :=
  let mine (a : Nat) : Bool := lidOfAgent s a == some lid
  (s.agents.all fun e => !mine e.1 || e.2.all.isEmpty) &&
  (s.cores.all fun c => c.2.pending.all fun p => !mine p.sid.1) &&
  (s.pendRels.all fun r => !mine r.2.agent) && s.cmds.all fun c => c.2.lid != lid

/-- Every squad of the launch has been conveyed. -/
def allConveyed (s : State) (lid : Nat) : Bool := (squadsOf s lid).all fun q => (sqd s q).conveyed

/-- LAUNCH_COMMIT (R328, R331). -/
def execLaunchCommit (lid : Nat) (s : State) : Outcome State Fault Refusal :=
  let l := launchOf s lid
  .next (if l.eligible && !l.ended && gangsEnded s lid && launchQuiet s lid && allConveyed s lid && l.roll.isNone then
      let s := modLaunch lid (fun l => { l with eligible := false, snapshots := [] }) s
      if 0 < l.replays then raiseEvent ⟨1, 4, lid, some l.part, 0, l.replays * 256, 0⟩ s else s
    else s)

/-- The sealed buffers as step 2 of R60 finds them: their records and hashes, the first address that cannot be read, or pages to be
asked for. -/
def sealedBuffers (s : State) (l : Launch) : Range × List (Nat × Nat × List Byte) :=
  let v := hubView s l.ctx
  match rangeOf s v false l.hdr.seals.toNat (16 * l.hdr.nseals) with
  | .bad a => (.bad a, [])
  | .miss g => (.miss g, [])
  | .ok _ =>
    ((sealList s v l.hdr).getD []).foldl (fun r b =>
      match r.1 with
      | .bad a => (.bad a, [])
      | .miss g => (match rangeOf s v false b.1 b.2 with
        | .bad a => (.bad a, [])
        | .miss h => (.miss (g ++ h), [])
        | .ok _ => (.miss g, []))
      | .ok _ => (match rangeOf s v false b.1 b.2 with
        | .bad a => (.bad a, [])
        | .miss h => (.miss h, [])
        | .ok ps => (.ok [], r.2 ++ [(b.1, b.2, shake (readPieces s ps))]))) (.ok [], [])

/-- Steps 2 and 3: the sealed buffers hashed into the chain, or the end link of reason 3; held publications are issued. A killed
launch takes its end link alone (R60, R377). -/
def sealLaunch (lid : Nat) (s : State) : State :=
  let l := launchOf s lid
  let done (s : State) : State := issueHeld lid (modLaunch lid (fun l => { l with sealed := true }) s)
  if l.killed then
    let s := dropHeld lid (modLaunch lid (fun l => { l with sealed := true }) s)
    if l.hdr.receipt then takeLink l.ctx (endLink lid l.replays 1) s else s
  else if !l.hdr.receipt then done s
  else match sealedBuffers s l with
    | (.miss g, _) => sendAts (hubView s l.ctx) false .hub (fun _ => none) g s
    | (.bad a, _) =>
      done (takeLink l.ctx (endLink lid l.replays 3) (modLaunch lid (fun l => { l with badAddr := some a }) (spendDeny l.ctx s)))
    | (.ok _, bufs) => done (takeLink l.ctx (commitLink lid l.replays bufs l.hdr.seals.toNat) s)

/-- A SIGADD by agent `a` with a release already performed (R60, R253). -/
def hubSignal (a : Nat) (p : Piece) (inc rid : Nat) (s : State) : State :=
  if winDead s p.win then s else settle (raiseSignal a p.addr (readNat s p.addr 8 + inc) [rid] (ensureUnit a s))

/-- A release at system scope by the hub, which covers every store of the launch (R100). -/
def launchRelease (lid : Nat) (s : State) : Nat × State :=
  let (rid, s) := newId s
  let cover := (s.agents.filter fun e => lidOfAgent s e.1 == some lid).map fun e => Obs.upTo e.1 e.2.nextSid true
  (rid, { s with releases := s.releases.put rid ⟨⟨false, false, lid, 0, 0⟩, .system, cover⟩ })

/-- Step 4: each post in entry order; one whose signal cannot be written is not made (R60). -/
def makePosts (lid : Nat) (s : State) : State :=
  let l := launchOf s lid
  let (rid, s) := launchRelease lid s
  (l.hdr.posts.filter fun p => p.1 != 0).foldl (fun s p =>
    match translate s (hubView s l.ctx) none (.signal true) p.1.toNat 8 with
    | .ok (x :: _) => hubSignal (queueAgent l.queue) x p.2.toNat rid s
    | .ok [] | .bad _ | .miss _ => modLaunch lid (fun l => { l with badAddr := some (l.badAddr.getD p.1.toNat) }) s) s

/-- The launch's squads have been killed for an escalation `e`, and its LAUNCH has completed: the escalation is reported, and with it the
dump, as `l` has them (R356, R358, R364). -/
def reportEscalation (lid : Nat) (l : Launch) (s : State) : State :=
  match l.escalation with
  | none => s
  | some (g, cause, why, fmask, faddr) =>
    if !l.proceeded then s
    else
      let s := raiseEvent ⟨0, 1, lid, some l.part, 0, cause + why * 2 ^ 8 + g % 2 ^ 16 * 2 ^ 16 + fmask * 2 ^ 32, faddr⟩ s
      match l.dump with
      | some (a, _) => raiseEvent ⟨0, 6, lid, some l.part, l.dumpCut.toNat, l.dumpLen, a.toNat⟩ s
      | none => s

/-- Steps 4 to 6, or for a killed launch 5 and 6; an escalation that killed it is then reported (R60, R358, R377). -/
def finishLaunch (lid : Nat) (s : State) : State :=
  let l := launchOf s lid
  let s := if l.killed then s else makePosts lid s
  let s := modLaunch lid (fun l => { l with completed := l.hdr.tiles, stage := 9 }) s
  let l := launchOf s lid
  if l.killed then
    reportEscalation lid l (
      if l.killCode = 0x0A then completeLaunch lid 0x0A l.killDetail lid s
      else completeLaunch lid l.killCode l.killDetail (lid + l.dumpLen * 2 ^ 32) s)
  else match l.badAddr with
    | some a => completeLaunch lid 0x04 0 a s
    | none => completeLaunch lid 0x00 l.counter lid s

/-- Publications of the launch that have been issued and not performed. -/
def publishing (s : State) (lid : Nat) : Bool := s.pubs.any fun w => w.2.pending.any fun p => p.lid == lid

/-- LAUNCH_END (R60): first step 1 is waited for and steps 2 and 3 are begun; once the publications have been performed, the rest
follows. -/
def execLaunchEnd (lid : Nat) (s : State) : Outcome State Fault Refusal :=
  let l := launchOf s lid
  .next (if l.ended || !gangsEnded s lid || l.roll.isSome then s
    else if !l.sealed then
      if launchQuiet s lid && allConveyed s lid && (l.killed || !l.eligible) then sealLaunch lid s else s
    else if publishing s lid && !l.killed then s
    else finishLaunch lid s)

/-! ### Rollback (R330 to R332, R335) -/

/-- The launch returns to the head of its priority's FIFO for a replay (R330). -/
def replayLaunch (lid : Nat) (s : State) : State :=
  let p := (launchOf s lid).hdr.prio
  let s := modLaunch lid (fun l => { l with stage := 6, replays := l.replays + 1, halted := [], dead := [] }) s
  { s with fifos := s.fifos.put p (lid :: s.fifos.getD p []) }

/-- The resource that a kill blames (Table 20.3): what its poison, its residue mismatch or its core names. Whether poison of a device
address stood in the stack or in a line of the home die's L2 is free: `r` is that line, where it stood there (log 31). -/
def killResource (k : Roll) (r : Nat) : Nat :=
  if resCode k.resource = 4 && resCode r = 5 && isResource r && resDie r = resDie k.resource then r else k.resource

/-- The launch's squads have stopped and no write of it is in flight: it is restored, and replayed or ended (R330, R331, R335). `r` is the
resource blamed. -/
def rollBack (lid : Nat) (k : Roll) (r : Nat) (s : State) : State :=
  let l := launchOf s lid
  let again := l.resources.contains r
  let s := modLaunch lid (fun l => { l with resources := l.resources ++ [r] }) s
  let note (n : Nat) (s : State) : State := raiseEvent ⟨1, 3, lid, some l.part, 0, k.cause + n * 256, k.addr⟩ s
  if resCode r = 6 then
    raiseEvent ⟨1, 9, lid, some l.part, 0, r, resRange r * 4096⟩ (endRestored lid 0x09 3 lid 3 (note l.replays s))
  else if again then endRestored lid 0x09 2 lid 2 (mapOut r k.key (note l.replays s))
  else if l.replays < 2 then replayLaunch lid (restoreLaunch lid (note (l.replays + 1) s))
  else endRestored lid 0x09 1 lid 1 (note l.replays s)

/-- What follows the stop of the launch's squads and writes, by what the restore is for (R330, R354, R358). -/
def endRoll (lid : Nat) (k : Roll) (r : Nat) (s : State) : State :=
  let l := launchOf s lid
  match k.kind with
  | .killed => rollBack lid k (killResource k r) s
  | .unrestorable ord => endRestored lid 0x0A ord lid 1 s
  | .escalated detail => reportEscalation lid l (endRestored lid 0x08 detail (lid + l.dumpLen * 2 ^ 32) 1 s)

/-- The status code and detail with which a launch ends that lost its eligibility while its kill was under way: it is killed as any other
(R329). -/
def RollKind.status (cause : Nat) : RollKind → Nat × Nat
  | .killed => (0x08, cause)
  | .unrestorable ord => (0x0A, ord)
  | .escalated detail => (0x08, detail)

def ordinaryKill (lid : Nat) (k : Roll) (s : State) : State :=
  let x := k.kind.status k.cause
  modLaunch lid (fun l => { l with roll := none, rolling := false }) (killLaunch lid x.1 x.2 s)

/-- Steps 1 and 2 of R330: every squad stops, and the engine commands are stopped without completing. -/
def startRoll (lid : Nat) (s : State) : State :=
  let s := (squadsOf s lid).foldl (fun s q => killSquad q s) s
  let s := ((s.cmds.filter fun e => e.2.lid == lid).map (·.1)).foldl (fun s c => dropCmd c (dropClaim c s)) s
  modLaunch lid (fun l => { l with rolling := true }) s

/-- No write of the launch is in flight. -/
def writesDone (s : State) (lid : Nat) : Bool :=
  let mine (a : Nat) : Bool := lidOfAgent s a == some lid
  (s.agents.all fun e => !mine e.1 || e.2.all.all fun x => isMarker x.kind) &&
    s.cores.all fun c => c.2.pending.all fun p => !mine p.sid.1

/-- ROLLBACK_KILL (R330): first every squad stops; once no write of the launch is in flight, the rest follows. `resource` is the L2 line
that held the poison, if one did (Table 20.3). -/
def execRollbackKill (lid resource : Nat) (s : State) : Outcome State Fault Refusal :=
  let l := launchOf s lid
  .next (match l.roll with
    | none => s
    | some k =>
      if l.ended then s
      else if !l.rolling then startRoll lid s
      else if !l.eligible then ordinaryKill lid k s
      else if writesDone s lid then endRoll lid k resource s
      else s)

/-! ### Escalation (R358, R364) -/

/-- Every live thread of the launch stands stopped outside a wave, and its ended runs' stores have been performed. -/
def launchStopped (s : State) (lid : Nat) : Bool :=
  let mine (a : Nat) : Bool := lidOfAgent s a == some lid
  ((squadsOf s lid).all fun q => (inWaves s q).isEmpty) &&
  (s.agents.all fun e => !mine e.1 || e.2.out.all fun x => isMarker x.kind || isAtomic x.kind) &&
  s.cores.all fun c => c.2.pending.all fun p => !mine p.sid.1

/-- What finalising a dump finds: its header's flags and length, nothing that it can report, or pages to be asked for. -/
inductive DumpRes where
  | header (flags len : Nat) (at' : Option Nat)
  | absent
  | miss (pages : List Nat)

/-- The dump header at the device point (R359, R364). -/
def dumpHeader (s : State) (ctx a : Nat) : DumpRes :=
  let v := hubView s ctx
  match rangeOf s v false a 64 with
  | .miss g => .miss g
  | .bad _ => .absent
  | .ok ps =>
    let b := readPieces s ps
    if fieldAt b 0 4 == 0x504D5A44 && fieldAt b 4 2 == 1 then
      .header (fieldAt b 6 2) (fieldAt b 0x20 8) (match rangeOf s v true (a + 6) 2 with
        | .ok (p :: _) => some p.addr
        | .ok [] | .bad _ | .miss _ => none)
    else .absent

/-- Bit 8 of the status detail: a dump was written; bit 9: it is TRUNCATED, or none is reported (R364, Table 21.1). -/
def dumpBits (cut : Bool) : Nat := if cut then 2 ^ 8 + 2 ^ 9 else 2 ^ 8

/-- Step 3 of R358: the launch is killed, or where it is rollback-eligible it ends restored. Its LAUNCH completes and the events follow
when that is over. `bits` are those of the dump in the status detail. -/
def killEscalated (lid : Nat) (e : Nat × Nat × Nat × Nat × Nat) (bits len : Nat) (cut : Bool) (s : State) : State :=
  let l := launchOf s lid
  let detail := e.2.1 + bits + e.1 % 2 ^ 16 * 2 ^ 16
  let s := modLaunch lid (fun l => { l with proceeded := true, dumpLen := len, dumpCut := cut }) s
  if l.eligible then noteRoll lid ⟨.escalated detail, e.2.1, 0, e.2.2.2.2, none⟩ s else killLaunch lid 0x08 detail s

/-- The Porter finalises a dump (R364): it sets PORTER, and TRUNCATED where the writer had not set COMPLETE, if it can. -/
def finaliseDump (queue flags : Nat) (w : Option Nat) (s : State) : State :=
  match w with
  | some k => unitWrite (queueAgent queue) k (natLe 2 (flags ||| (if fld flags 2 1 == 1 then 2 else 3))) false [] s
  | none => s

/-- ESCALATION_KILL (R358): the squads are halted; once they have stopped, the dump is finalised and the launch killed. A squad that a
debugger has killed meanwhile changes nothing of that; a launch killed whole, or about to be restored, ends so. -/
def execEscalationKill (lid : Nat) (s : State) : Outcome State Fault Refusal :=
  let l := launchOf s lid
  .next (match l.escalation with
    | none => s
    | some e =>
      if l.ended || l.proceeded || l.whole || l.roll.isSome then s
      else
        let s := (squadsOf s lid).foldl (fun s q => stopForDebugger q s) s
        if !launchStopped s lid then s
        else match l.dump with
          | none => killEscalated lid e 0 0 false s
          | some (a, _) => match dumpHeader s l.ctx a.toNat with
            | .miss g => sendAts (hubView s l.ctx) false .hub (fun _ => none) g s
            | .absent => killEscalated lid e (2 ^ 9) 0 false (modLaunch lid (fun l => { l with dump := none }) s)
            | .header flags len w =>
              let cut := fld flags 0 1 == 1 || fld flags 2 1 == 0
              killEscalated lid e (dumpBits cut) len cut (finaliseDump l.queue flags w s))

end Sys2Proof.Machine
end

