-- ==== Sys2Proof/Machine/Commands.lean ====
section
/-! DEFINITION. The work-queue commands on memory, signals, publication windows and Cellars (03 R73, R74; 11 R246 to R250; 12 R267, R270; 21 R345). -/

namespace Sys2Proof.Machine

open Host (Outcome)

/-- The field of `n` bytes at `o` of a command's body. -/
def argAt (s : State) (c : CmdId) (o n : Nat) : Nat := fieldAt (bodyOf s c) o n

/-- An address of the command is not mapped, or not permitted (Table 21.1). -/
def badAddress (c : CmdId) (a : Nat) (s : State) : State := complete c 0x04 0 a s

/-! ### Memory as the command processor moves it (R248, R257, R324) -/

/-- The bytes of pieces with their poison; a revoked window gives zeros. -/
def hubBytes (s : State) (ps : List Piece) : List (Byte × Bool) :=
  ps.flatMap fun p =>
    if winDead s p.win then List.replicate p.len (0, false)
    else (List.range p.len).map fun i => (readByte s (p.addr + i), s.poison.contains (granule (p.addr + i)))

/-- The granules of poisoned bytes. -/
def poisonBytes (key : Nat) (bs : List (Byte × Bool)) (s : State) : State :=
  bs.zipIdx.foldl (fun s x => if x.1.2 then setPoison (key + x.2) 1 s else s) s

/-- Bytes written by the agent `u` at an address over its pieces in their order, poison carried along; a revoked window drops them. -/
def hubStore (u a : Nat) : List Piece → List (Byte × Bool) → State → State
  | [], _, s => s
  | p :: r, bs, s =>
    let mine := bs.take p.len
    let s := sendRequests a [p] s
    let s := if winDead s p.win then s else poisonBytes p.addr mine (unitWrite u p.addr (mine.map (·.1)) false [] s)
    hubStore u (a + p.len) r (bs.drop p.len) s

/-! ### COPY (R248) -/

def ruleCopy : CmdRule := { opcode := 0x0003, length := 32, mgmt := false, fn0 := false, feature := none }

/-- The COPY of a command that is under way. -/
def copyOf (s : State) (c : CmdId) : Option HubCopy := s.hubCopies.find? fun h => h.queue == c.1 && h.buf == c.2

/-- It is over. -/
def endCopy (c : CmdId) (s : State) : State := { s with hubCopies := s.hubCopies.filter fun h => !(h.queue == c.1 && h.buf == c.2) }

/-- It goes on so. -/
def putCopy (h : HubCopy) (s : State) : State :=
  { s with hubCopies := s.hubCopies.map fun x => if x.queue = h.queue ∧ x.buf = h.buf then h else x }

/-- The command's agent reads some pieces, each byte by a load move (Table 4.2). -/
def unitRead (s : State) (u : Nat) (ps : List Piece) : DumpBytes :=
  ps.flatMap fun p => (loadPiece s u (agt s u).nextSeq p).map fun b => (b.val, b.poison)

/-- Bytes cut where poison begins or ends, each run with its offset. -/
def poisonRuns : Nat → DumpBytes → List (Nat × Bool × List Byte)
  | _, [] => []
  | o, (b, p) :: r =>
    match poisonRuns (o + 1) r with
    | (n, q, bs) :: t => if q = p then (o, p, b :: bs) :: t else (o, p, [b]) :: (n, q, bs) :: t
    | [] => [(o, p, [b])]

/-- Bytes over some pieces enter the agent's structures as stores of its own (R85, R89). -/
def queueBytes (u va : Nat) : List Piece → DumpBytes → State → State
  | [], _, s => s
  | p :: r, bs, s =>
    let runs := poisonRuns 0 (bs.take p.len)
    let s := runs.foldl (fun s x =>
      queueStore u 0 { p with addr := p.addr + x.1, len := x.2.2.length } (va + x.1) x.2.2 x.2.1 s) s
    queueBytes u (va + p.len) r (bs.drop p.len) s

/-- Some bytes of a part in a free choice: where they begin, and how many. -/
def somePart (s : State) (n : Nat) : Nat × Nat :=
  let o := Config.freeNat (s.fresh + 1) % n
  (o, n - o - Config.freeNat (s.fresh + 2) % (n - o))

/-- A COPY begins once both sides can be reached (log 34). -/
def beginCopy (c : CmdId) (ctx src dst n : Nat) (s : State) : State :=
  withRange ctx false src n (badAddress c)
    (fun _ s => withRange ctx true dst n (badAddress c)
      (fun _ s => markInFlight c { s with hubCopies := s.hubCopies ++ [⟨c.1, c.2, (chunksOf src n).map fun x => (x.1 - src, x.2), []⟩] }) s) s

/-- One step of a COPY: some bytes of its source are read, all of them before any is written; or bytes that have been read become stores,
which leave in moves of their own; with the last of them home it completes (R85, R89, R248, R324). -/
def stepCopyRange (c : CmdId) (ctx src dst n : Nat) (h : HubCopy) (s : State) : State :=
  let u := queueAgent c.1
  let bad (a : Nat) (s : State) : State := badAddress c a (endCopy c s)
  let j := Config.freeNat s.fresh
  match h.todo[j % h.todo.length]?, h.got[j % h.got.length]? with
  | some (o, k), _ =>
    let x := somePart s k
    let left := [(o, x.1), (o + x.1 + x.2, k - x.1 - x.2)].filter fun y => y.2 != 0
    withRange ctx false (src + o + x.1) x.2 bad
      (fun ps s =>
        let s := sendRequests (src + o + x.1) ps (ensureUnit u s)
        putCopy { h with todo := h.todo.erase (o, k) ++ left, got := h.got.put (o + x.1) (unitRead s u ps) } { s with fresh := s.fresh + 3 }) s
  | none, some (o, bs) =>
    withRange ctx true (dst + o) bs.length bad
      (fun qs s => putCopy { h with got := h.got.del o } (queueBytes u (dst + o) qs bs { s with fresh := s.fresh + 1 })) s
  | none, none => if (agt s u).out.all fun e => isMarker e.kind then complete c 0 0 n (endCopy c s) else s

def execCopy (queue buf : Nat) (s : State) : Outcome State Fault Refusal :=
  let c := (queue, buf)
  .next (match copyOf s c with
    | some h => stepCopyRange c (argAt s c 24 4) (argAt s c 0 8) (argAt s c 8 8) (argAt s c 16 8) h s
    | none => runCommand c ruleCopy (fun s =>
      let n := argAt s c 16 8
      checkFields c [(16, n == 0 || 2 ^ 32 < n), ctxAt s c 24, reservedAt s c 28 4]
        (beginCopy c (argAt s c 24 4) (argAt s c 0 8) (argAt s c 8 8) n) s) s)

/-! ### Signals (R249) -/

/-- A release at system scope by the host, already performed: the device's stores before it are at their home points. -/
def hostRelease (s : State) : Nat × State :=
  let (rid, s) := newId s
  (rid, { s with releases := s.releases.put rid ⟨⟨false, true, 0, 0, 0⟩, .system, []⟩ })

/-- What both signal commands check, and the signal they name. -/
def onSignal (c : CmdId) (write : Bool) (run : Piece → State → State) (s : State) : State :=
  let a := argAt s c 0 8
  checkFields c [(0, a % 8 != 0), ctxAt s c 16, reservedAt s c 20 4]
    (fun s => match translate s (hubView s (argAt s c 16 4)) none (.signal write) a 8 with
      | .ok (p :: _) => run p s
      | .ok [] | .bad _ | .miss _ => badAddress c a s) s

def ruleSignalSet : CmdRule := { opcode := 0x0004, length := 24, mgmt := false, fn0 := false, feature := none }

/-- The larger of the old and the named value, in one move; waits on it are tested again. -/
def setSignal (c : CmdId) (p : Piece) (s : State) : State :=
  let v := max (leNat (readPieces s [p])) (argAt s c 8 8)
  let (rid, s) := hostRelease s
  let s := sendRequests (argAt s c 0 8) [p] (ensureUnit (queueAgent c.1) s)
  complete c 0 0 v (if winDead s p.win then s else settle (raiseSignal (queueAgent c.1) p.addr v [rid] s))

def execSignalSet (queue buf : Nat) (s : State) : Outcome State Fault Refusal :=
  let c := (queue, buf)
  .next (runCommand c ruleSignalSet (onSignal c true (setSignal c)) s)

def ruleSignalWait : CmdRule := { opcode := 0x0005, length := 24, mgmt := false, fn0 := false, feature := none }

def execSignalWait (queue buf : Nat) (s : State) : Outcome State Fault Refusal :=
  let c := (queue, buf)
  .next (runCommand c ruleSignalWait (onSignal c false fun p s =>
    let v := leNat (readPieces s [p])
    if argAt s c 8 8 ≤ v then complete c 0 0 v s else s) s)

/-! ### Publication windows (R250) -/

/-- The first page of a range whose leaf does not satisfy a test. -/
def badLeaf (s : State) (ctx va n : Nat) (ok : Leaf → Bool) : Option Nat :=
  ((chunksOf va n).find? fun x =>
    inWindows x.1 || !canonical x.1 ||
    match leafFor s coreCount ctx x.1 with
    | some (e, size) => (match leafOf e size with
      | some f => !ok f
      | none => true)
    | none => true).map (·.1)

def rulePubCreate : CmdRule := { opcode := 0x0006, length := 40, mgmt := false, fn0 := false, feature := some 8 }

/-- The window's sides joined: the device side copied whole, the counter 0. -/
def joinSides (c : CmdId) (ctx base host size ctr : Nat) (s : State) : State :=
  match badLeaf s ctx base size fun f => f.pub, badLeaf s ctx host size fun f => f.kind == .host,
      badLeaf s ctx ctr 8 fun f => f.kind == .host with
  | some a, _, _ => badAddress c a s
  | none, some a, _ => badAddress c a s
  | none, none, some a => badAddress c a s
  | none, none, none =>
    withRange ctx false base size (badAddress c) (fun ps s =>
      withRange ctx true host size (badAddress c) (fun qs s =>
        withRange ctx true ctr 8 (badAddress c) (fun rs s =>
          let s := hubStore (queueAgent c.1) ctr rs (List.replicate 8 (0, false)) (hubStore (queueAgent c.1) host qs (hubBytes s ps) s)
          let (w, s) := freeId 1 s.pubs.keys s
          let win : PubWin :=
            { base := BitVec.ofNat 64 base, host := BitVec.ofNat 64 host, size := size, counter := BitVec.ofNat 64 ctr
              ctx := ctx, part := (s.contexts.getD ctx default).part, pending := [], step := 0, dirty := [] }
          complete c 0 0 w { s with pubs := s.pubs.put w win }) s) s) s

def execPubCreate (queue buf : Nat) (s : State) : Outcome State Fault Refusal :=
  let c := (queue, buf)
  .next (runCommand c rulePubCreate (fun s =>
    let base := argAt s c 0 8
    let size := argAt s c 16 8
    let ctr := argAt s c 24 8
    checkFields c [(0, base % 65536 != 0), (16, size == 0 || size % 65536 != 0 || 2 ^ 30 < size), (24, ctr % 8 != 0),
        ctxAt s c 32, reservedAt s c 36 4]
      (joinSides c (argAt s c 32 4) base (argAt s c 8 8) size ctr) s) s)

def rulePubDestroy : CmdRule := { opcode := 0x0007, length := 8, mgmt := false, fn0 := false, feature := some 8 }

/-- A publication of the window is held, pending, or waits for its release. -/
def publicationsLeft (s : State) (w : Nat) : Bool :=
  (match s.pubs.get? w with
   | some x => !x.pending.isEmpty
   | none => false) ||
  s.launches.any fun l => !l.2.ended && l.2.heldPublish.contains w

/-- A live window of the command's partition. -/
def winOk (s : State) (q w : Nat) : Bool :=
  match s.pubs.get? w with
  | some x => fnOfPart (some x.part) == fnOfQueue s q
  | none => false

def execPubDestroy (queue buf : Nat) (s : State) : Outcome State Fault Refusal :=
  let c := (queue, buf)
  .next (runCommand c rulePubDestroy (fun s =>
    let w := argAt s c 0 4
    checkFields c [(0, !winOk s queue w), reservedAt s c 4 4]
      (fun s => if publicationsLeft s w then s else complete c 0 0 0 { s with pubs := s.pubs.del w }) s) s)

/-! ### Cellar fills (R74, R248) -/

def ruleCellarFill : CmdRule := { opcode := 0x0002, length := 32, mgmt := false, fn0 := false, feature := some 2 }

/-- The dies a fill names. -/
def diesOf (die : Nat) : List Nat := if die = 0xFF then List.range 8 else [die]

/-- A launch of the partition that holds a block on a named die runs (R74). -/
def diesBusy (s : State) (p : Nat) (dies : List Nat) : Bool :=
  s.launches.any fun e => e.2.part == p && isRunning e.2 && e.2.blocks.any fun b => dies.contains (dieOf (blk s b).core)

/-- One die's Cellar written by agent `u`; ranges that had been poisoned have now been filled (R335). -/
def fillDie (u p off : Nat) (bs : List (Byte × Bool)) (s : State) (die : Nat) : State :=
  let k := (cellarGrant s p die).1 + off
  let s := hubStore u 0 [⟨cellarKey die k, bs.length, .rc, none⟩] bs s
  { s with cellBad := s.cellBad.map fun e =>
    if e.1 / 65536 = die ∧ k ≤ e.1 % 65536 * 4096 ∧ e.1 % 65536 * 4096 < k + bs.length then (e.1, true) else e }

/-- The fill begins: the bytes are written, and until its end no launch is bound to a named die. -/
def beginFill (c : CmdId) (ctx p : Nat) (dies : List Nat) (src off n : Nat) (s : State) : State :=
  withRange ctx false src n (badAddress c) (fun ps s =>
    let bs := hubBytes s ps
    let s := dies.foldl (fillDie (queueAgent c.1) p off bs) (sendRequests src ps s)
    markInFlight c { s with fills := s.fills ++ [⟨p, dies, off, n, c.1, c.2, ctx, shake (bs.map (·.1))⟩] }) s

def execCellarFill (queue buf : Nat) (s : State) : Outcome State Fault Refusal :=
  let c := (queue, buf)
  .next (runCommand c ruleCellarFill (fun s =>
    let p := (partOfQueue s queue).getD noPart
    let die := argAt s c 12 1
    let dies := diesOf die
    let off := argAt s c 16 8
    let n := argAt s c 24 8
    let beyond (x : Nat) : Bool := dies.any fun d => (cellarGrant s p d).2 < x
    checkFields c [ctxAt s c 8, (12, 8 ≤ die && die != 0xFF), reservedAt s c 13 3, (16, off % 4096 != 0 || beyond off),
        (24, n % 4096 != 0 || beyond (off + n))]
      (fun s =>
        if inWindows (argAt s c 0 8) then badAddress c (argAt s c 0 8) s
        else if diesBusy s p dies then s else beginFill c (argAt s c 8 4) p dies (argAt s c 0 8) off n s) s) s)

/-- CELLAR_FILL_END (R74, R267): its fill link taken in its turn while the chain is open, a release at device scope that the next
bindings acquire, and its completion. -/
def endFill (k : Nat) (f : Fill) (s : State) : State :=
  let who := (1, f.queue, f.buf)
  if (s.chains.get? f.ctx).isSome && !linkFree s f.ctx who then awaitLink f.ctx who s
  else
    let die := match f.dies with
      | [d] => d
      | _ => 0xFF
    let s := takeLink f.ctx (fillLink die f.off f.len f.digest) (linkTaken f.ctx who s)
    let (rid, s) := newId s
    let s := { s with
      releases := s.releases.put rid ⟨⟨false, false, 0, 0, 0⟩, .device, []⟩
      fills := s.fills.eraseIdx k }
    let s := modPart f.part (fun p => { p with fillRels := p.fillRels ++ [rid] }) s
    complete (f.queue, f.buf) 0 0 (f.len * f.dies.length) s

def execCellarFillEnd (k : Nat) (s : State) : Outcome State Fault Refusal :=
  .next (match s.fills[k]? with
    | some f => endFill k f s
    | none => s)

end Sys2Proof.Machine
end

