-- ==== Sys2Proof/Machine/CrossLane.lean ====
section
/-! DEFINITION. Cross-lane instructions: rendezvous of a squad's live threads (01 R32; 07 R161 to R163). -/

namespace Sys2Proof.Machine

open Host (Outcome)

/-- A rendezvous: each thread's operands are recorded and the thread waits at the word; it completes when every live thread
of the squad waits there (R32, R161). `y` is the second operand, the lane selector. -/
def rendezvous (u : Uses) (op : RdvOp) (vd : Fin 128) (x : State → Bool → Nat → Word) (y : State → Bool → Nat → Word)
    (s : State) : State :=
  lastLane (useCauses s u) (fun ts s' =>
    (squadsIn s' ts).foldl (fun s' q =>
      let ops (t : Nat) : (Word × Word) × (Word × Word) := ((x s false t, y s false t), (x s true t, y s true t))
      let s' := mapThreads (ofSquad q ts) (fun t th => { th with rdv := th.rdv.put s'.nextId (ops t) }) s'
      waitSquad q (ofSquad q ts) (.rendezvous op vd.val) s') s') s

/-- No second operand. -/
def noOperand (_ : State) (_ : Bool) (_ : Nat) : Word := 0

/-- SHFL (R162). -/
def execShfl (vd : Fin 128) (xa xb : Src) (s : State) : Outcome State Fault Refusal :=
  .next (rendezvous (use2 vd xa xb) .shfl vd (fun s sh t => src s sh t xa) (fun s sh t => src s sh t xb) s)

/-- SHFLX (R162). -/
def execShflx (vd : Fin 128) (xa xb : Src) (s : State) : Outcome State Fault Refusal :=
  .next (rendezvous (use2 vd xa xb) .shflx vd (fun s sh t => src s sh t xa) (fun s sh t => src s sh t xb) s)

/-- BALLOT (R162). -/
def execBallot (vd : Fin 128) (xa : Src) (s : State) : Outcome State Fault Refusal :=
  .next (rendezvous (use1 vd xa) .ballot vd (fun s sh t => src s sh t xa) noOperand s)

/-- SRED (R163). -/
def execSred (op : RedOp) (vd : Fin 128) (xa : Src) (s : State) : Outcome State Fault Refusal :=
  .next (rendezvous (use1 vd xa) (.sred op) vd (fun s sh t => src s sh t xa) noOperand s)

/-- SSCAN (R163). -/
def execSscan (op : RedOp) (excl : Bool) (vd : Fin 128) (xa : Src) (s : State) : Outcome State Fault Refusal :=
  .next (rendezvous (use1 vd xa) (.sscan op excl) vd (fun s sh t => src s sh t xa) noOperand s)

/-- MATCH (R162). -/
def execMatchLanes (vd : Fin 128) (xa : Src) (s : State) : Outcome State Fault Refusal :=
  .next (rendezvous (use1 vd xa) .matchLanes vd (fun s sh t => src s sh t xa) noOperand s)

end Sys2Proof.Machine
end

