-- ==== Sys2Proof/Machine/Dump.lean ====
section
/-! DEFINITION. The dump format (21 R359 to R363). -/

namespace Sys2Proof.Machine

/-! ### The moment the squads stopped (R363) -/

/-- A squad in its save area or on its way there or back: it is dumped from its saved state. -/
def savedNow (s : State) (q : Nat) : Bool :=
  match (sqd s q).state with
  | .saving | .evicted | .restoring => true
  | .free | .loading | .resident | .draining => false

/-- A squad that has stopped and is not saved, as it stood then. -/
def stoppedAt (s : State) (q : Nat) : Option Capture := if savedNow s q then none else s.captures.get? q

/-- What a block shows of itself, as a capture has it. -/
def withBlock (c : Capture) (s : State) : State :=
  { s with
    blocks := s.blocks.put c.squad.block c.block, gangs := s.gangs.put c.block.gang c.gang, waits := c.waits
    mem := c.mem, poison := c.poison }

/-- A squad and its threads, as a capture has them. -/
def withSquad (q : Nat) (c : Capture) (s : State) : State :=
  { s with
    squads := s.squads.put q c.squad
    threads := c.threads.foldl (fun (t : Tbl Thread) e => t.put e.1 e.2) (s.threads.filter fun e => squadOf e.1 != q) }

/-- The state as the squad's own sections show it. -/
def frozen (s : State) (q : Nat) : State :=
  match stoppedAt s q with
  | some c => withSquad q c (withBlock c s)
  | none => s

/-- The state as the sections of the block show it: that of the moment the last of the squads stopped (log 38). -/
def frozenBlock (s : State) (qs : List Nat) : State :=
  match sortBy (fun a b => b.turn ≤ a.turn) (qs.filterMap (stoppedAt s)) with
  | c :: _ => withBlock c s
  | [] => s

def clean (bs : List Byte) : DumpBytes := bs.map fun b => (b, false)

/-- A number of `n` bytes, poisoned or not. -/
def dumpNat (n x : Nat) (poison : Bool) : DumpBytes := (natLe n x).map fun b => (b, poison)

/-- A number of `n` bytes. -/
def num (n x : Nat) : DumpBytes := dumpNat n x false

def bitMask (bs : List Bool) : Nat := bs.foldr (fun b n => 2 * n + b.toNat) 0

/-- A section: its header and body (R360). -/
def dumpSection (kind squad count : Nat) (body : DumpBytes) : DumpBytes :=
  num 1 kind ++ num 1 0 ++ num 2 squad ++ num 4 count ++ num 8 (16 + body.length) ++ body

/-- Table 21.6. -/
def threadRecord (s : State) (q L : Nat) : DumpBytes :=
  let th := thr s (threadKey q L)
  let allot := (sqd s q).allot
  num 1 L ++ num 1 (bitMask [th.live, th.mark, th.inRun, th.dbg]) ++ num 1 allot ++
  dumpNat 1 (bitMask th.k.toList) (!th.poisonK.isEmpty) ++ num 4 th.age ++ num 8 th.pc.toNat ++ num 8 th.hpc.toNat ++ num 4 th.depth ++
  num 4 0 ++ (List.range allot).flatMap fun n => dumpNat 4 (th.v.getD n 0).toNat (th.poisonV.contains n)

/-- Table 1.7, in its order. -/
def RowState.code : RowState → Nat
  | .free => 0 | .loading => 1 | .resident => 2 | .draining => 3 | .saving => 4 | .evicted => 5 | .restoring => 6

/-- Table 9.9. -/
def HoldKind.code : HoldKind → Nat
  | .object => 1 | .lock => 2 | .promise => 3

def laneBits (ls : List Nat) : Nat := ls.foldl (fun n L => n + 2 ^ L) 0

/-- Table 21.7. -/
def squadRecord (s : State) (q : Nat) : DumpBytes :=
  let sq := sqd s q
  let estate := sortBy (fun a b => a.order ≤ b.order) sq.estate
  let holding (h : Holding) : DumpBytes :=
    num 8 h.handle.toNat ++ num 1 h.kind.code ++ num 1 h.bereaved.toNat ++ num 2 h.order ++ num 4 0
  num 2 sq.gsq ++ num 1 sq.role ++ num 1 sq.state.code ++ num 4 (laneBits sq.present) ++
  num 4 (laneBits ((liveOf s q).map laneOf)) ++ num 1 (laneBits sq.tiles) ++ dumpNat 1 (bitMask sq.j.toList) (!sq.poisonJ.isEmpty) ++
  num 1 sq.estate.length ++ num 1 0 ++ num 4 sq.heir ++ num 4 sq.vanish.toNat ++ num 4 sq.wrev.toNat ++ num 4 sq.fed ++
  num 4 sq.cause ++ num 4 sq.fmask.toNat ++ num 4 sq.amask.toNat ++ num 4 sq.xword.toNat ++ num 8 sq.faddr.toNat ++
  num 8 sq.hvec.toNat ++ ((List.range 64).flatMap fun n => dumpNat 4 (sq.s.getD n 0).toNat (sq.poisonS.contains n)) ++
  (estate.flatMap holding ++ num 512 0).take 512

/-- The call-stack body of one thread. -/
def stackRecord (s : State) (q L : Nat) : DumpBytes :=
  let th := thr s (threadKey q L)
  num 4 L ++ num 4 th.depth ++ (List.range th.depth).flatMap fun i =>
    dumpNat 8 (returnEntry s th i).toNat (isPoisoned s (th.stk.toNat + 8 * i) 8)

/-- The local window of a block. -/
def windowBody (s : State) (b : Nat) : DumpBytes :=
  let base := localKey b (blk s b).core 0
  num 4 0 ++ num 4 0 ++ hubBytes s [⟨base, localSize s b, .rc, none⟩]

/-- Threads that wait at a channel. -/
def waitingAt (s : State) (b n : Nat) : Nat :=
  (s.waits.map fun e => match e.2.kind with
    | .chPush c m _ => if c = b ∧ m = n then (waiters s e.1 e.2).length else 0
    | .chPop c m _ => if c = b ∧ m = n then (waiters s e.1 e.2).length else 0
    | _ => 0).sum

def Guard.code : Guard → Nat
  | .opened => 0 | .armed _ => 1 | .shut => 2

def barRecord (b : Barrier) : DumpBytes := num 2 b.count ++ num 2 b.arrivals ++ num 4 b.phase

/-- Entries held in q0 to q15. -/
def queueLengths (s : State) (b q : Nat) : List Nat :=
  let k := blk s b
  (List.range 16).map fun n =>
    if n = 0 then k.q0.length else if n = 2 then k.q2.length else if n = 4 then k.q4.length else if n = 6 then k.q6.length
    else if n = 7 then (sqd s q).q7.length else (k.data.getD n []).length

/-- Table 21.8; `q` is the squad whose q7 it counts. -/
def blockRecord (s : State) (b q : Nat) : DumpBytes :=
  let k := blk s b
  let chan (n : Nat) : DumpBytes :=
    let c := k.chans.getD n default
    num 4 c.base.toNat ++ num 1 c.cap ++ num 1 c.head ++ num 1 c.count ++ num 1 c.allow ++ num 4 (waitingAt s b n) ++ num 4 0
  ((List.range 16).flatMap fun n => barRecord (k.bars.getD n default)) ++ barRecord (gangOf s k.gang).bar ++
  ((List.range 16).flatMap chan) ++
  ((List.range 16).flatMap fun n => num 1 (if n = 0 then 0 else (k.guards.getD n .opened).code)) ++
  (queueLengths s b q).flatMap fun n => num 1 n

/-- An accumulator tile. -/
def tileBody (s : State) (q t : Nat) : DumpBytes :=
  let sq := sqd s q
  num 4 t ++ num 4 0 ++ (List.range 2048).flatMap fun i =>
    dumpNat 4 (sq.acc.getD (t * 2048 + i) 0).toNat (sq.poisonAcc.contains (t * 2048 + i))

/-- The sections of a squad's registers. -/
def registerSections (s : State) (q : Nat) : List DumpBytes :=
  let f := frozen s q
  let sq := sqd f q
  [dumpSection 2 sq.gsq 1 (squadRecord f q), dumpSection 1 sq.gsq sq.present.length (sq.present.flatMap (threadRecord f q))]

/-- The sections of a block, with the q7 of a squad. -/
def blockSections (s : State) (b q : Nat) : List DumpBytes :=
  [dumpSection 4 0xFFFF (localSize s b) (windowBody s b), dumpSection 5 0xFFFF 1 (blockRecord s b q)]

/-- The sections of a dump of some squads, of which the first names the block; none without a squad (R362; log 38). -/
def dumpSections (s : State) (qs : List Nat) : List DumpBytes :=
  let callStack (q : Nat) : DumpBytes := (sqd (frozen s q) q).present.flatMap (stackRecord (frozen s q) q)
  match qs with
  | [] => []
  | first :: _ =>
    qs.flatMap (registerSections s) ++
    [dumpSection 3 (if qs = [first] then (sqd s first).gsq else 0xFFFF) ((qs.map fun q => (sqd s q).present.length).sum)
      (qs.flatMap callStack)] ++
    blockSections (frozenBlock s qs) (sqd s first).block first ++
    qs.flatMap fun q => (sqd s q).tiles.map fun t => dumpSection 6 (sqd s q).gsq 1 (tileBody (frozen s q) q t)

/-- The squad whose fault the header reports: one that is loaded, or, by its global number, one that is not. -/
def headSquad (s : State) (g : Nat) (qs : List Nat) : Squad :=
  match qs with
  | q :: _ => sqd (frozen s q) q
  | [] => { (default : Squad) with gsq := g % 2 ^ 16 }

/-- The header (Table 21.4) of a dump of launch `lid` for a squad. -/
def dumpHead (lid : Nat) (sq : Squad) (flags length size sections : Nat) : DumpBytes :=
  num 4 0x504D5A44 ++ num 2 1 ++ num 2 flags ++ num 4 lid ++ num 2 (sq.gsq / 16) ++ num 2 sq.gsq ++
  num 1 sq.cause ++ num 3 0 ++ num 4 sq.fmask.toNat ++ num 8 sq.faddr.toNat ++ num 8 length ++ num 8 size ++ num 4 sections ++ num 12 0

/-- Sections appended, each at a multiple of 16, as long as they fit: the bytes after the header and the count of sections. -/
def appendSections (size : Nat) : List DumpBytes → DumpBytes → Nat → DumpBytes × Nat
  | [], acc, n => (acc, n)
  | x :: r, acc, n =>
    let start := roundUp acc.length 16
    if size < 64 + start + x.length then (acc, n)
    else appendSections size r (acc ++ List.replicate (start - acc.length) (0, false) ++ x) (n + 1)

/-- A whole dump of some loaded squads of launch `lid`, named by `g`, for a buffer of `size` bytes: COMPLETE, and TRUNCATED when a section
did not fit (log 38). -/
def dumpOf (s : State) (lid g : Nat) (qs : List Nat) (size : Nat) : DumpBytes :=
  let all := dumpSections s qs
  let (body, n) := appendSections size all [] 0
  dumpHead lid (headSquad s g qs) (if n = all.length then 4 else 5) (64 + body.length) size n ++ body

end Sys2Proof.Machine
end

