-- ==== Sys2Proof/Machine/Receipts.lean ====
section
/-! DEFINITION. Receipts: opening a chain and signing its value (12 R266, R270 to R274; 21 R355). -/

namespace Sys2Proof.Machine

open Host (Outcome)

/-! ### RECEIPT_SEAL (R266) -/

def ruleReceiptSeal : CmdRule := { opcode := 0x0008, length := 24, mgmt := false, fn0 := false, feature := some 4 }

def isPow2In (lo hi n : Nat) : Bool := lo ≤ n && n ≤ hi && 2 ^ Nat.log2 n == n

/-- The chain opened, or opened afresh. -/
def openChain (ctx key journal entries : Nat) (s : State) : State :=
  let old := chainOfCtx s ctx
  let k : Chain :=
    { m := chainStart ctx key, counter := 0, key := key, journal := (BitVec.ofNat 64 journal, entries)
      launches := 0, replays := 0, ends := 0, drains := old.drains, waiting := old.waiting }
  { s with chains := s.chains.put ctx k }

def execReceiptSeal (queue buf : Nat) (s : State) : Outcome State Fault Refusal :=
  let c := (queue, buf)
  .next (runCommand c ruleReceiptSeal (fun s =>
    let journal := argAt s c 0 8
    let entries := argAt s c 8 4
    let key := argAt s c 12 2
    let ctx := argAt s c 16 4
    checkFields c [(0, journal % 64 != 0), (8, !isPow2In 64 65536 entries), (12, 4096 ≤ key), reservedAt s c 14 2, ctxAt s c 16,
        reservedAt s c 20 4]
      (fun s =>
        if receiptsInFlight s ctx then complete c 0x07 2 0 s
        else match badLeaf s ctx journal (64 * entries) fun f => f.w && f.kind == .device with
          | some a => badAddress c a s
          | none => complete c 0 0 0 (openChain ctx key journal entries s)) s) s)

/-! ### Leaf indices (R274, R355) -/

/-- Blocks of 1,024 leaf indices in all. -/
def leafBlocks : Nat := 2 ^ 30

/-- What becomes of a request for a leaf. -/
inductive LeafRes where
  | leaf (n : Nat) (s : State)
  | refused (detail : Nat) (s : State)

/-- The next leaf; before the first leaf of a block the counter is written, which succeeds or not. -/
def takeLeaf (written : Bool) (s : State) : LeafRes :=
  if s.leafNext < s.leafLimit then .leaf s.leafNext { s with leafNext := s.leafNext + 1 }
  else
    let b := s.leafNext / 1024
    if leafBlocks ≤ b then .refused 1 (raiseEvent ⟨8, 2, 0, none, 0, 0, 0⟩ s)
    else if !written then .refused 2 (raiseEvent ⟨8, 3, 0, none, 0, b, 0⟩ s)
    else
      let s := { s with counterMono := b + 1, leafNext := s.leafNext + 1, leafLimit := (b + 1) * 1024 }
      .leaf (b * 1024) (if leafBlocks - (b + 1) = 2 ^ 16 - 1 then raiseEvent ⟨8, 1, 0, none, 0, 2 ^ 16 - 1, 0⟩ s else s)

/-! ### RECEIPT_REQUEST (R270 to R273) -/

def ruleReceiptRequest : CmdRule := { opcode := 0x0009, length := 32, mgmt := false, fn0 := false, feature := some 4 }

/-- H over the image digests of a function's Porters, in group order. -/
def porterDigest (s : State) (f : Nat) : List Byte :=
  shake ((sortBy (fun a b => a ≤ b) (fnOf s f).groups).flatMap fun g => shake (s.porters.getD g default).image)

/-- The receipt message (Table 12.5); the partition byte is 0xFF for a context of function 0 (log 63). -/
def receiptMessage (s : State) (f ctx : Nat) (nonce : List Byte) : List Byte :=
  let k := chainOfCtx s ctx
  let part := (s.contexts.getD ctx default).part
  natLe 4 0x54524344 ++ natLe 2 1 ++ natLe 2 0 ++ natLe 8 k.counter ++ k.m ++ identity ++ padTo 32 s.firmware ++ porterDigest s f ++
  natLe 4 ctx ++ natLe 1 (if part < noPart then part else 0xFF) ++ [0] ++ natLe 2 s.devnum ++ natLe 4 ((fnOf s f).features % 2 ^ 24) ++
  natLe 4 k.launches ++ natLe 4 k.replays ++ natLe 4 k.ends ++ nonce

/-- Krovhar's certificate (R273). -/
def certificate : List Byte := publicKey ++ padTo 2820 (Config.freeBytes 1)

/-- The request has read the chain, or ended: links are taken again. -/
def endDrain (ctx : Nat) (c : CmdId) (s : State) : State :=
  { s with chains := s.chains.adj ctx fun k => { k with drains := k.drains.filter (· != c) } }

/-- The chain read and signed, and the receipt written (R270). -/
def writeReceipt (c : CmdId) (ctx : Nat) (written : Bool) (ps : List Piece) (s : State) : State :=
  let msg := receiptMessage s (fnOfQueue s c.1) ctx (((bodyOf s c).drop 8).take 16)
  let out := argAt s c 0 8
  let cert := fld (argAt s c 28 4) 1 1 == 1
  match takeLeaf written s with
  | .refused d s => complete c 0x0B d 0 (endDrain ctx c s)
  | .leaf n s =>
    let b := msg ++ receiptSignature n msg ++ (if cert then certificate else [])
    complete c 0 b.length n (endDrain ctx c (hubStore strongAgent out ps (b.map fun x => (x, false)) s))

/-- A request has started and not read the chain: launch and fill links wait (R270). -/
def holdLinks (ctx : Nat) (c : CmdId) (s : State) : State :=
  { s with chains := s.chains.adj ctx fun k => { k with drains := if k.drains.contains c then k.drains else k.drains ++ [c] } }

/-- A request in hand; `written`: a write of the monotonic counter that it needs succeeds. It holds back launch and fill links until it has
read the chain; with DRAIN it waits for the launches in flight. -/
def requestReceipt (c : CmdId) (ctx : Nat) (written : Bool) (s : State) : State :=
  if (s.chains.get? ctx).isNone then complete c 0x07 1 0 s
  else
    let s := holdLinks ctx c s
    if fld (argAt s c 28 4) 0 1 == 1 && receiptsInFlight s ctx then s
    else withRange ctx true (argAt s c 0 8) 13312 (fun a s => badAddress c a (endDrain ctx c s)) (writeReceipt c ctx written) s

def execReceiptRequest (queue buf : Nat) (written : Bool) (s : State) : Outcome State Fault Refusal :=
  let c := (queue, buf)
  .next (runCommand c ruleReceiptRequest (fun s =>
    checkFields c [(0, argAt s c 0 8 % 8 != 0), ctxAt s c 24, (28, 4 ≤ argAt s c 28 4)]
      (requestReceipt c (argAt s c 24 4) written) s) s)

end Sys2Proof.Machine
end

