-- ==== Sys2Proof/Machine/Storage.lean ====
section
/-! DEFINITION. Storage queue pairs (11 R252, R253; 18 R307; 21 R351). -/

namespace Sys2Proof.Machine

open Host (Outcome)

/-! ### STORAGE_BIND (R252) -/

/-- The queue that a function numbers `n` (R242). -/
def queueIndex (s : State) (f n : Nat) : Option Nat := ((fnOf s f).groups[n / 16]?).map fun g => g * 16 + n % 16

def ruleStorageBind : CmdRule := { opcode := 0x000E, length := 40, mgmt := false, fn0 := false, feature := some 10 }

/-- The key of 8 bytes of the context's device memory. -/
def deviceKey (s : State) (ctx : Nat) (write : Bool) (a : Nat) : Option Nat :=
  match translate s (hubView s ctx) none (.signal write) a 8 with
  | .ok (p :: _) => if p.win.isNone then some p.addr else none
  | .ok [] | .bad _ | .miss _ => none

/-- The value of a signal of a pair, by the translation of its address that stands now (R84); 0 where there is none. -/
def pairValue (s : State) (p : StoragePair) (write : Bool) (a : Nat) : Nat :=
  match deviceKey s p.ctx write a with
  | some k => readNat s k 8
  | none => 0

/-- The pair designated, once every address lies in the context's device memory. -/
def bindPair (c : CmdId) (ctx entries hostQueue : Nat) (s : State) : State :=
  let sub := argAt s c 0 8
  let comp := argAt s c 8 8
  match badLeaf s ctx sub (64 * entries) (fun f => f.kind == .device),
      badLeaf s ctx comp (64 * entries) (fun f => f.w && f.kind == .device),
      deviceKey s ctx false (argAt s c 16 8), deviceKey s ctx true (argAt s c 24 8) with
  | some a, _, _, _ => badAddress c a s
  | none, some a, _, _ => badAddress c a s
  | none, none, none, _ => badAddress c (argAt s c 16 8) s
  | none, none, some _, none => badAddress c (argAt s c 24 8) s
  | none, none, some ks, some _ =>
    let (n, s) := freeId 0 s.storage.keys s
    let p : StoragePair :=
      { subRing := sub, compRing := comp, subSig := argAt s c 16 8, compSig := argAt s c 24 8, entries := entries, hostQueue := hostQueue, ctx := ctx
        served := readNat s ks 8, posters := [], out := [] }
    complete c 0 0 n { s with storage := s.storage.put n p }

def execStorageBind (queue buf : Nat) (s : State) : Outcome State Fault Refusal :=
  let c := (queue, buf)
  .next (runCommand c ruleStorageBind (fun s =>
    let f := fnOfQueue s queue
    let entries := argAt s c 32 2
    let n := argAt s c 34 2
    checkFields c [(16, argAt s c 16 8 % 8 != 0), (24, argAt s c 24 8 % 8 != 0), (32, !isPow2In 8 1024 entries),
        (34, n == 0 || (queueIndex s f n).isNone), ctxAt s c 36]
      (bindPair c (argAt s c 36 4) entries ((queueIndex s f n).getD 0)) s) s)

/-! ### Completions (R253) -/

/-- A completion written at a request's slot, and 1 added to the completion signal with release at system scope. A slot or a signal that
can no longer be written keeps what it holds (log 36). -/
def writeDone (pair : Nat) (slot tag result done : Nat) (s : State) : State :=
  let p := s.storage.getD pair default
  let b := (natLe 8 tag ++ natLe 4 result ++ natLe 4 done).map fun x => (x, false)
  let signal := deviceKey s p.ctx true p.compSig
  let u := queueAgent p.hostQueue
  let s := match rangeOf s (hubView s p.ctx) true (p.compRing + 64 * slot) 16 with
    | .ok ps => hubStore u (p.compRing + 64 * slot) ps b s
    | .bad _ | .miss _ => s
  let (rid, s) := newId s
  let s := { s with releases := s.releases.put rid ⟨⟨false, false, 0, 0, 0⟩, .system, []⟩ }
  match signal with
  | some k => hubSignal u ⟨k, 8, .rc, none⟩ 1 rid s
  | none => s

/-! ### Serving a request (R253, R307) -/

/-- The cause that a posted request raises: the lowest of those that hold (R298, R307). `lid` is the posting launch. -/
def requestCause (s : State) (p : StoragePair) (b : List Byte) (lid : Option Nat) : Option Nat :=
  let op := fieldAt b 0 1
  let buffer := fieldAt b 0x10 8
  let n := fieldAt b 0x18 4
  if op == 1 && inCellar buffer then some 0x12
  else if op == 0 || 3 < op || fieldAt b 1 3 != 0 || fieldAt b 0x28 24 != 0 || some (fieldAt b 4 4) != lid ||
      buffer % 4096 != 0 || n % 4096 != 0 || 2 ^ 24 < n || pairValue s p true p.compSig + p.entries ≤ p.served || inWindows buffer then
    some 0x13
  else none

/-- The squad whose SIGADD made request `n` visible (R307). -/
def posterOf (p : StoragePair) (n : Nat) : Option Nat := (p.posters.find? fun x => n < x.2).map (·.1)

/-- The request has been served: the next one follows. -/
def countServed (pair : Nat) (s : State) : State :=
  { s with storage := s.storage.adj pair fun p => { p with
    served := p.served + 1, posters := p.posters.filter fun x => p.served + 1 < x.2 } }

/-- A request that is not passed on: its completion, and a deferred fault of its squad (R307). -/
def failRequest (pair cause entryAddr : Nat) (b : List Byte) (q : Option Nat) (s : State) : State :=
  let p := s.storage.getD pair default
  let s := countServed pair (writeDone pair (p.served % p.entries) (fieldAt b 8 8) 0xFFFFFFFF 0 s)
  match q with
  | some q => raiseDeferred q ⟨cause, 0, 0, BitVec.ofNat 64 entryAddr, none, 0, false, true, false⟩ s
  | none => s

/-- A request returned in a buffer of the host queue, over its descriptors in order, with its launch's generation in the entry's first
reserved bytes (log 37). A chain that is bad, or too short for it, is returned (R347). The launch stops being rollback-eligible (R329). -/
def passRequest (pair : Nat) (b : List Byte) (s : State) : State :=
  let p := s.storage.getD pair default
  match (queueOf s p.hostQueue).avail with
  | (buf, ds) :: _ =>
    if !queueUp s p.hostQueue then s
    else match chainFault s p.hostQueue (buf, ds) with
      | some (code, a) => rejectChain p.hostQueue buf code a (fetchHead p.hostQueue s)
      | none =>
        if writableLen ds < 64 then rejectChain p.hostQueue buf 0x01 0 (fetchHead p.hostQueue s)
        else
        let lid := fieldAt b 4 4
        let g := (launchOf s lid).generation
        let entry := b.take 0x28 ++ natLe 4 g ++ List.replicate 20 0
        let s := writeChain (queueAgent p.hostQueue) ds entry (fetchHead p.hostQueue s)
        let r : StorageReq := ⟨p.served % p.entries, fieldAt b 8 8, g, lid, fieldAt b 0x10 8, fieldAt b 0x18 4⟩
        let s := { s with storage := s.storage.adj pair fun p => { p with out := p.out ++ [r] } }
        postUsed p.hostQueue buf 64 (countServed pair (loseEligibility lid s))
  | [] => s

/-- STORAGE_REQUEST_SERVE (R253): the next request of a pair, in signal order, once a buffer of the host queue stands ready. -/
def execStorageRequestServe (pair : Nat) (s : State) : Outcome State Fault Refusal :=
  .next (match s.storage.get? pair with
    | none => s
    | some p =>
      let a := p.subRing + 64 * (p.served % p.entries)
      if pairValue s p false p.subSig ≤ p.served then s
      else match rangeOf s (hubView s p.ctx) false a 64 with
        | .bad _ | .miss _ => s
        | .ok ps =>
          let b := readPieces s ps
          let q := posterOf p p.served
          (match requestCause s p b (q.map fun q => (sqd s q).lid) with
           | some c => failRequest pair c a b q s
           | none => passRequest pair b s))

/-! ### STORAGE_DONE (R253, R351) -/

def ruleStorageDone : CmdRule := { opcode := 0x000F, length := 24, mgmt := false, fn0 := false, feature := some 10 }

/-- A pair of the command's function. -/
def ownsPair (s : State) (q pair : Nat) : Bool :=
  match s.storage.get? pair with
  | some p => fnOfPart (some (s.contexts.getD p.ctx default).part) == fnOfQueue s q
  | none => false

/-- The binding that a generation names has not ended. -/
def bindingLive (s : State) (r : StorageReq) : Bool :=
  let l := launchOf s r.lid
  isRunning l && l.generation == r.gen

/-- A completion of the driver: written and signalled, or absorbed when its binding has ended. Held objects may then return. -/
def finishRequest (c : CmdId) (pair gen tag : Nat) (s : State) : State :=
  match (s.storage.getD pair default).out.find? fun r => r.gen == gen && r.tag == tag with
  | none => complete c 0x0C 0 0 s
  | some r =>
    let part := (s.contexts.getD (s.storage.getD pair default).ctx default).part
    let live := bindingLive s r
    let s := { s with storage := s.storage.adj pair fun p => { p with out := p.out.erase r } }
    let s := if live then writeDone pair r.slot tag (argAt s c 16 4) (argAt s c 20 4) s else s
    complete c (if live then 0 else 0x0C) 0 0 (releaseHeld part s)

def execStorageDone (queue buf : Nat) (s : State) : Outcome State Fault Refusal :=
  let c := (queue, buf)
  .next (runCommand c ruleStorageDone (fun s =>
    checkFields c [(0, !ownsPair s queue (argAt s c 0 4))] (finishRequest c (argAt s c 0 4) (argAt s c 4 4) (argAt s c 8 8)) s) s)

end Sys2Proof.Machine
end

