-- ==== Sys2Proof/Machine/Debug.lean ====
section
/-! DEFINITION. The debugger's commands (19 R321; 20 R329; 21 R357, R362, R377). -/

namespace Sys2Proof.Machine

open Host (Outcome)

def ruleDebug : CmdRule := { opcode := 0x0010, length := 40, mgmt := false, fn0 := false, feature := some 12 }

def everySquad : Nat := 0xFFFFFFFF

/-- A live launch of the command's function. -/
def launchOk (s : State) (q lid : Nat) : Bool :=
  match s.launches.get? lid with
  | some l => !l.ended && fnOfPart (some l.part) == fnOfQueue s q
  | none => false

/-- The named squads of a launch that have been loaded, in squad order (Table 21.3). -/
def namedSquads (s : State) (lid g : Nat) : List Nat :=
  sortBy (fun a b => (sqd s a).gsq ≤ (sqd s b).gsq) ((squadsOf s lid).filter fun q => g == everySquad || (sqd s q).gsq == g)

/-- The global numbers that name squads of a launch of which none is loaded yet: those of the cores it may be bound to, or is (R10, R357). -/
def unloadedNumbers (s : State) (lid g : Nat) : List Nat :=
  let h := (launchOf s lid).hdr
  let all := (List.range (h.clusters * 8)).flatMap fun c => (List.range h.squads).map fun i => c * 16 + i
  (all.filter fun n => g == everySquad || g == n).filter fun n => (squadNamed s lid n).isNone

/-- A DEBUG command of operation `op` in hand: `run` gets the launch and the squad named. -/
def debugCommand (op : Nat) (queue buf : Nat) (run : CmdId → Nat → Nat → State → State) (s : State) : Outcome State Fault Refusal :=
  let c := (queue, buf)
  .next (runCommand c ruleDebug (fun s =>
    let k := argAt s c 0 1
    let lid := argAt s c 4 4
    if k ≠ op ∧ 1 ≤ k ∧ k ≤ 7 then s
    else checkFields c [(0, k != op), reservedAt s c 1 3, (4, op != 7 && !launchOk s queue lid),
        (12, op == 7 && !ctxOk s queue (argAt s c 12 4)), (16, (op == 5 || op == 7) && argAt s c 16 8 % 16 != 0),
        (24, op == 5 && argAt s c 24 8 < 64), reservedAt s c 36 4]
      (run c lid (argAt s c 8 4)) s) s)

/-- DEBUG_HALT: a named squad that is not loaded yet stops as it is (R357). -/
def execDebugHalt (queue buf : Nat) (s : State) : Outcome State Fault Refusal :=
  debugCommand 1 queue buf (fun c lid g s =>
    let later := unloadedNumbers s lid g
    let s := modLaunch lid (fun l => { l with halted := (l.halted ++ later).eraseDups }) s
    complete c 0 0 0 ((namedSquads s lid g).foldl (fun s q => stopForDebugger q s) s)) s

/-- DEBUG_RESUME. -/
def execDebugResume (queue buf : Nat) (s : State) : Outcome State Fault Refusal :=
  debugCommand 2 queue buf (fun c lid g s =>
    let qs := namedSquads s lid g
    let s := modLaunch lid (fun l => { l with halted := l.halted.filter fun n => g != everySquad && g != n }) (release qs s)
    complete c 0 0 0 ((settle (qs.foldl (fun s q =>
      startCount (sqd s q).core lid ((liveOf s q).foldl readyThread s)) s)))) s

/-! ### STEP (R321) -/

/-- A thread that a step advances: stopped by the debugger, outside a wave and waiting for nothing. -/
def steppable (s : State) (t : Nat) : Bool :=
  let th := thr s t
  th.live && th.dbg && !th.inWave && !heldInSlow s t && th.wait.isNone && th.frozen.isNone && (th.susp.isNone || th.inHandler) && !th.stopped && !th.pri && (sqd s (squadOf t)).state = .resident

/-- A slot number that no wave has, beyond the issue slots. -/
def stepSlot (s : State) (c : Nat) : Nat := 4 + ((cor s c).slots.map fun e => e.1 + 1).sum

/-- The group of a squad's threads at one address, as a slow-gear wave of one word. -/
def stepGroup (c : CmdId) (q : Nat) (ts : List Nat) (s : State) : State :=
  let core := (sqd s q).core
  let ts := byLane ts
  let pc := (thr s (ts.headD 0)).pc
  let (id, s) := newId s
  let w : Wave :=
    { id := id, start := pc, pc := pc, all := ts, threads := ts, faults := [], writes := [], got := [], ending := []
      slow := some { Slow.ofThreads ts [] pc with one := some c }, entry := squadEntries s ts }
  let k := stepSlot s core
  modCore core (fun x => { x with slots := x.slots.put k w }) (enterWave ts (fun th => { th.enter with age := th.age }) s)

def stepSquad (c : CmdId) (q : Nat) (s : State) : State :=
  let ts := (threadsOf s q).filter (steppable s)
  ((ts.map fun t => (thr s t).pc.toNat).eraseDups).foldl (fun s' p =>
    stepGroup c q (ts.filter fun t => (thr s t).pc.toNat == p) s') s

/-- DEBUG_STEP: the groups of each squad are formed, and the words follow as SLOW_GEAR_WORD steps; with the last of them the command
completes. -/
def execDebugStep (queue buf : Nat) (s : State) : Outcome State Fault Refusal :=
  debugCommand 3 queue buf (fun c lid g s =>
    let qs := namedSquads s lid g
    if qs.all fun q => ((threadsOf s q).filter (steppable s)).isEmpty then complete c 0 0 0 s
    else markInFlight c (qs.foldl (fun s q => stepSquad c q s) (release qs s))) s

/-! ### CLAIM, READ, KILL, SET_DUMP -/

/-- DEBUG_CLAIM. -/
def execDebugClaim (queue buf : Nat) (s : State) : Outcome State Fault Refusal :=
  debugCommand 4 queue buf (fun c lid _ s =>
    complete c 0 0 0 { s with claims := (s.claims.filter fun x => x.1 != lid) ++ [(lid, argAt s c 32 4)] }) s

/-- DEBUG_READ (R362): the dump written at the output address of the launch's context; the value is the bytes written. -/
def execDebugRead (queue buf : Nat) (s : State) : Outcome State Fault Refusal :=
  debugCommand 5 queue buf (fun c lid g s =>
    let b := dumpOf s lid g (namedSquads s lid g) (argAt s c 24 8)
    withRange (launchOf s lid).ctx true (argAt s c 16 8) b.length (badAddress c)
      (fun ps s => complete c 0 0 b.length (hubStore (queueAgent queue) (argAt s c 16 8) ps b s)) s) s

/-- A squad that is not loaded yet is killed: at once where its block is bound, otherwise when it is (R357). -/
def killLater (lid : Nat) (s : State) (g : Nat) : State :=
  match unloadedNamed s lid g with
  | some (b, i) => killIndex b i s
  | none => modLaunch lid (fun l => { l with dead := (l.dead ++ [g]).eraseDups }) s

/-- DEBUG_KILL: an ordinary kill; the launch is a killed launch (R329, R377). -/
def execDebugKill (queue buf : Nat) (s : State) : Outcome State Fault Refusal :=
  debugCommand 6 queue buf (fun c lid g s =>
    let later := unloadedNumbers s lid g
    let s := (namedSquads s lid g).foldl (fun s q => killSquad q s) (loseEligibility lid s)
    let s := if g = everySquad then (launchOf s lid).blocks.foldl (fun s b => killUnloaded b s) s else later.foldl (killLater lid) s
    complete c 0 0 0 (modLaunch lid (fun l => { l with
      killed := true, whole := l.whole || g == everySquad, killCode := 0x08, killDetail := g % 2 ^ 16 * 2 ^ 16 }) s)) s

/-- DEBUG_SET_DUMP: for launches of the context that reach stage 6 afterwards; a size of 0 removes the buffer. -/
def execDebugSetDump (queue buf : Nat) (s : State) : Outcome State Fault Refusal :=
  debugCommand 7 queue buf (fun c _ _ s =>
    let ctx := argAt s c 12 4
    let a := argAt s c 16 8
    let n := argAt s c 24 8
    if n ≠ 0 ∧ inWindows a then badAddress c a s
    else complete c 0 0 0 { s with contexts := s.contexts.adj ctx fun k => { k with
      dump := if n = 0 then none else some (BitVec.ofNat 64 a, n) } }) s

end Sys2Proof.Machine
end

