-- ==== Sys2Proof/Machine/Dispatcher.lean ====
section
/-! DEFINITION. The dispatcher's binding and the core's picker (01 R22 to R28; 02 R48 to R50, R61; 03 R74; 18 R303; 19 R318). -/

namespace Sys2Proof.Machine

open Host (Outcome)

/-! ### Binding (R48 to R50) -/

/-- A fill is under way that names the die of a cluster (R74). -/
def beingFilled (s : State) (p k : Nat) : Bool := s.fills.any fun f => f.part == p && f.dies.contains (dieOf (k * 8))

/-- Launches that hold block contexts of a cluster. -/
def clusterHolders (s : State) (k : Nat) : Nat := ((clusterCores k).flatMap (holders s)).eraseDups.length

/-- The clusters a launch would be bound to now (R49, R74). -/
def chooseClusters (s : State) (l : Launch) : Option (List Nat) :=
  let free (k : Nat) : Bool := clusterOpen s l.hdr.prio k && !beingFilled s l.part k
  if l.hdr.explicit then
    let ks := clustersIn l.hdr.set
    if ks.all fun k => free k && (partOf s l.part).clusters.contains k then some ks else none
  else
    let plain (k : Nat) : Bool := (clusterCores k).all (openPlain s)
    let before (a b : Nat) : Bool :=
      if plain a != plain b then plain a
      else if clusterHolders s a != clusterHolders s b then clusterHolders s a < clusterHolders s b
      else a ≤ b
    let ks := (sortBy before ((partOf s l.part).clusters.filter free)).take l.hdr.clusters
    if ks.length = l.hdr.clusters then some (sortBy (fun a b => a ≤ b) ks) else none

/-- A barrier with a count and nothing arrived (R205). -/
def Barrier.new (count : Nat) : Barrier := { count := count, arrivals := 0, phase := 0, rels := [], doneRels := [] }

/-- A channel as its launch header presets it (R43, R207). -/
def Channel.preset (c : Nat) : Channel :=
  { base := BitVec.ofNat 32 (chanBase c), cap := chanCap c, head := 0, count := 0, allow := chanCap c, rels := [] }

/-- A block as it begins, before any of its squads is loaded. -/
def newBlock (h : Header) (lid core gang order : Nat) : Block :=
  { lid := lid, core := core, ctx := 0, gang := gang, order := order
    bars := (List.range 16).map fun n => (n, Barrier.new (h.bars.getD n 0))
    chans := (List.range 16).map fun n => (n, Channel.preset (h.chans.getD n 0))
    guards := [], armings := 0, resolved := [], q0 := [], q1 := [], q2 := [], q3 := [], q4 := [], q5 := []
    q6 := if h.dimx = 0 then [BitVec.allOnes 64] else [], data := [], claims := []
    exhausted := false, legacies := [], saveArea := none, backing := none }

/-- The array of a core takes the spare rows that the record and the log give it: a launch is bound to it (R333). -/
def remapRows (c : Nat) (s : State) : State := modCore c (fun x => { x with spares := spareMap s c }) s

/-- A gang and its eight blocks on a cluster (R8, R9). -/
def bindCluster (lid k : Nat) (s : State) : State :=
  let h := (launchOf s lid).hdr
  let (g, s) := newId s
  let s := { s with gangs := s.gangs.put g { lid := lid, cluster := k, bar := Barrier.new h.gbar } }
  let s := modLaunch lid (fun l => { l with gangs := l.gangs ++ [g] }) s
  (clusterCores k).foldl (fun s c =>
    let (b, s) := newId s
    wake c (remapRows c (modLaunch lid (fun l => { l with blocks := l.blocks ++ [b] })
      { s with blocks := s.blocks.put b (newBlock h lid c g b) }))) s

/-- Room for the launch's block on a core (R50). -/
def makeRoomFor (lid c : Nat) (s : State) : Option State :=
  match s.blocks.find? fun e => e.2.lid == lid && e.2.core == c with
  | none => some s
  | some e => makeRoom c e.1 s

/-- The launch at the head of the highest FIFO that holds one (R48). -/
def headLaunch (s : State) : Option Nat := ((s.fifos.reverse.filter fun e => !e.2.isEmpty).head?.map (·.2)).bind List.head?

/-- The generations of bindings and of requests at the host (R351). -/
def generations (s : State) : List Nat :=
  s.launches.map (fun e => e.2.generation) ++ s.storage.flatMap fun p => p.2.out.map fun r => r.gen

/-- The squads of a launch that the debugger has killed before it was bound have ended (R357). -/
def killDead (lid : Nat) (s : State) : State :=
  (launchOf s lid).dead.foldl (fun s g => match unloadedNamed s lid g with
    | some (b, i) => killIndex b i s
    | none => s) s

/-- A launch leaves its FIFO and is bound: a gang for each cluster, a fresh generation (log 20), the acquires of R74 and R330, room on each
core, and the event of class 9 (R48, R351, R365). Nothing happens where the save region cannot hold what must be evicted (R354). -/
def bindLaunch (lid : Nat) (ks : List Nat) (s : State) : Option State :=
  let l := launchOf s lid
  let (n, s) := freeId 0 (generations s) s
  let (g, s) := newId s
  let s := { s with fifos := s.fifos.map fun e => (e.1, e.2.filter (· != lid)) }
  let s := modLaunch lid (fun l => { l with
    stage := 7, clusters := ks, blocks := [], gangs := [], boundAt := g, generation := n
    eligible := l.hdr.rollback, acqRels := l.acqRels ++ unstored (partOf s l.part).fillRels }) s
  let s := killDead lid (ks.foldl (fun s k => bindCluster lid k s) s)
  ((ks.flatMap clusterCores).foldl (fun o c => o.bind (makeRoomFor lid c)) (some s)).map fun s =>
    raiseEvent ⟨9, 1, lid, some l.part, 0, l.hdr.clusters % 256 + l.hdr.prio * 256, 0⟩ s

/-- LAUNCH_BIND (R48). -/
def execLaunchBind (s : State) : Outcome State Fault Refusal :=
  .next (match headLaunch s with
    | none => s
    | some lid =>
      if (partOf s (launchOf s lid).part).frozen then s
      else match chooseClusters s (launchOf s lid) with
        | none => s
        | some ks => ((bindLaunch lid ks s).map testHolds).getD s)

/-! ### The picker (R25 to R27) -/

/-- A thread is ready, but for the exclusion of R27 (R25); also one whose next attempt is a direct re-run (R303). -/
def ready (s : State) (t : Nat) : Bool :=
  let th := thr s t
  th.live && (sqd s (squadOf t)).state = .resident && !th.inWave && th.wait.isNone && !th.stopped && !th.dbg && !th.pri &&
    !th.inRun && !heldInSlow s t

/-- The threads of the squads in a core's rows. -/
def coreThreads (s : State) (c : Nat) : List Nat := (rowSquads s c []).flatMap (threadsOf s)

/-- The threads of the squads of a core, saved ones among them. -/
def boundThreads (s : State) (c : Nat) : List Nat := ((s.squads.filter fun e => e.2.core == c).map (·.1)).flatMap (threadsOf s)

/-- The threads that a pick takes into account: those ready and not excluded; or all, where every one would be excluded (R27). -/
def candidates (s : State) (c : Nat) : List Nat :=
  let all := (coreThreads s c).filter (ready s)
  let fresh := all.filter fun t => !(thr s t).yielded
  if fresh.isEmpty then all else fresh

def lidOf (s : State) (t : Nat) : Nat := (sqd s (squadOf t)).lid

/-- The order of a launch's block on a core, for ties (R26). -/
def launchOrder (s : State) (c lid : Nat) : Nat :=
  match s.blocks.find? fun e => e.2.lid == lid && e.2.core == c with
  | some e => e.2.order
  | none => 0

/-- The launch that is due, of those with threads among `ts` (R26). -/
def dueLaunch (s : State) (c : Nat) (ts : List Nat) : Option Nat :=
  let count (l : Nat) : Nat := (cor s c).without.getD l 0
  let due := ((ts.map (lidOf s)).eraseDups).filter fun l => 63 ≤ count l
  let before (a b : Nat) : Bool := count b < count a || (count a == count b && launchOrder s c a ≤ launchOrder s c b)
  (sortBy before due).head?

/-- The threads that the launch rule leaves to be considered (R26). -/
def considered (s : State) (c : Nat) (ts : List Nat) : List Nat :=
  match dueLaunch s c ts with
  | some l => ts.filter fun t => lidOf s t == l
  | none => ts

/-- The older of two threads comes first; on equal ages, the one whose squad comes first in squad order (R26, R29). -/
def olderFirst (s : State) (a b : Nat) : Bool :=
  let key (t : Nat) : Nat × Nat := ((blk s (sqd s (squadOf t)).block).order, (sqd s (squadOf t)).gsq)
  (thr s b).age < (thr s a).age || ((thr s a).age == (thr s b).age &&
    ((key a).1 < (key b).1 || ((key a).1 == (key b).1 && (key a).2 ≤ (key b).2)))

/-- The wave of a pick (R22, R26). -/
def chooseWave (s : State) (ts : List Nat) : List Nat :=
  let age := ts.foldl (fun m t => max m (thr s t).age) 0
  let pcs := ((ts.filter fun t => (thr s t).age == age).map fun t => (thr s t).pc.toNat).eraseDups
  let count (p : Nat) : Nat := (ts.filter fun t => (thr s t).pc.toNat == p).length
  let before (a b : Nat) : Bool := count b < count a || (count a == count b && a ≤ b)
  match sortBy before pcs with
  | [] => []
  | p :: _ =>
    match sortBy (olderFirst s) (ts.filter fun t => (thr s t).pc.toNat == p) with
    | [] => []
    | o :: rest =>
      let ctx (t : Nat) : Nat := (launchOf s (lidOf s t)).ctx
      let same := (o :: rest).filter fun t => ctx t == ctx o
      (List.range 32).filterMap fun L => same.find? fun t => laneOf t == L

/-- A wave in a slot, its threads in it (R24, R25). -/
def formWave (c k : Nat) (ts : List Nat) (slow : Option Slow) (s : State) : State :=
  let pc := match ts with
    | t :: _ => (thr s t).pc
    | [] => 0
  let (id, s) := newId s
  let w : Wave :=
    { id := id, start := pc, pc := pc, all := ts, threads := ts, faults := [], writes := [], got := [], ending := [], slow := slow
      entry := if slow.isSome then squadEntries s ts else [] }
  modCore c (fun x => { x with slots := x.slots.put k w }) (enterWave ts Thread.enter s)

/-- The launches' counts of picks gone through without one, after a pick whose wave holds `ts`, for each launch that is bound to the
core and has had a ready thread there (R26). -/
def countPick (s : State) (c : Nat) (cands ts : List Nat) : Tbl Nat :=
  let seen := ((cor s c).without.keys ++ cands.map (lidOf s)).eraseDups
  (seen.filter (boundTo s c).contains).foldl (fun t l =>
    t.put l (if ts.any fun x => lidOf s x == l then 0 else (cor s c).without.getD l 0 + 1)) []

/-- A pick of the threads `ts` (R24 to R27): the wave is formed; the other ready threads age; exclusions are spent, those of threads
whose squads are saved among them. -/
def pickWave (c k : Nat) (ts : List Nat) (slow : Option Slow) (s : State) : State :=
  let cands := candidates s c
  let counts := countPick s c cands ts
  let s := mapThreads (boundThreads s c) (fun t th =>
    { th with yielded := false, age := if cands.contains t && !ts.contains t then th.age + 1 else th.age }) s
  let s := modCore c (fun x => { x with picks := x.picks + 1, sinceRotation := x.sinceRotation + 1, without := counts }) s
  formWave c k ts slow s

/-- Slow gear from the start for a wave that holds threads whose next attempt is a direct re-run: their discarded runs stand as
the first attempt (R303; log 22). -/
def directGear (s : State) (ts : List Nat) : Option Slow :=
  let first := ts.filter fun t => (thr s t).direct
  if first.isEmpty then none else some (Slow.ofThreads ts first (thr s (ts.headD 0)).pc)

/-- A pick (R26). -/
def pick (c k : Nat) (s : State) : State :=
  let ts := chooseWave s (considered s c (candidates s c))
  if ts.isEmpty then s else pickWave c k ts (directGear s ts) s

/-- A thread that stands inside a run after HRET (R318). -/
def resumable (s : State) (t : Nat) : Bool :=
  let th := thr s t
  th.live && (sqd s (squadOf t)).state = .resident && !th.inWave && th.wait.isNone && !th.stopped && !th.dbg && !th.pri &&
    th.inRun && !heldInSlow s t

/-- The threads that complete a run together with `t`: those of its squad at its word whose lanes are set in sr.amask (R318). -/
def runGroup (s : State) (t : Nat) : List Nat :=
  let th := thr s t
  if th.alone then [t]
  else (threadsOf s (squadOf t)).filter fun u => resumable s u && (thr s u).pc == th.pc && !(thr s u).alone

/-- The core makes no pick: its island is in retention or changes its point, or its partition is frozen (R61, R293, R350). -/
def picksStopped (s : State) (c : Nat) : Bool :=
  let i := islandAt s (islandOf c)
  i.retention || i.target.isSome ||
    ((boundTo s c).any fun l => (partOf s (launchOf s l).part).frozen && (launchOf s l).stage < 9)

/-- PICK (R26): for a free slot. With `resume`, the group of that thread, which stands inside a run and is not ready, takes the slot in
slow gear; that is no pick, and counts as none (R318; log 22). -/
def execPick (core slot : Nat) (resume : Option Nat) (s : State) : Outcome State Fault Refusal :=
  .next (if 4 ≤ slot || ((cor s core).slots.get? slot).isSome || picksStopped s core then s
    else match resume with
      | none => pick core slot s
      | some t =>
        if (coreThreads s core).contains t && resumable s t then
          let ts := byLane (runGroup s t)
          formWave core slot ts (some (Slow.ofThreads ts (ts.filter fun u => (thr s u).direct) (thr s t).pc)) s
        else s)

end Sys2Proof.Machine
end

