-- ==== Sys2Proof/Machine/MlKem.lean ====
section
/-! DEFINITION. ML-KEM-1024 as FIPS 203 gives it: the Strongroom's encapsulation key, and the secrets encapsulated to it (11 R255; log 10). -/

namespace Sys2Proof.Machine

/-! ### Polynomials over the integers modulo 3329 -/

/-- The modulus. -/
def kemQ : Nat := 3329

/-- 256 coefficients, or as many values of the transform. -/
abbrev Poly := List Nat

/-- A vector of four polynomials. -/
abbrev PolyVec := List Poly

def powQ (b : Nat) : Nat → Nat
  | 0 => 1
  | e + 1 => powQ b e * b % kemQ

/-- The numbers of `d` bits that a byte string holds, lowest bits first. -/
def unpack (d : Nat) (b : List Byte) : Poly :=
  let x := leNat b
  (List.range (8 * b.length / d)).map fun i => x / 2 ^ (d * i) % 2 ^ d

def pack (d : Nat) (p : Poly) : List Byte := natLe (p.length * d / 8) (p.foldr (fun c n => c + 2 ^ d * n) 0)

def addPoly (a b : Poly) : Poly := List.zipWith (fun x y => (x + y) % kemQ) a b
def subPoly (a b : Poly) : Poly := List.zipWith (fun x y => (x + kemQ - y) % kemQ) a b

/-! ### The transform -/

/-- The even and the odd places of a list. -/
def evenOdd : List Nat → List Nat × List Nat
  | a :: b :: r => (a :: (evenOdd r).1, b :: (evenOdd r).2)
  | _ => ([], [])

/-- The roots of the 128 factors X^2 - r: the odd powers of 17, by the reversed bits of their places. -/
def rootQ (i : Nat) : Nat := powQ 17 (2 * ((List.range 7).foldl (fun n j => 2 * n + i / 2 ^ j % 2) 0) + 1)
def rootsQ : List Nat := (List.range 128).map rootQ

/-- A polynomial's residue modulo each factor. -/
def toFactors (p : Poly) : Poly :=
  let at' (r : Nat) (h : List Nat) : Nat := h.foldr (fun c n => (c + r * n) % kemQ) 0
  rootsQ.flatMap fun r => [at' r (evenOdd p).1, at' r (evenOdd p).2]

/-- 1/128 of the sums of `w`, of `w` times `v`, of that times `v`, and so on. -/
def powerSums (v : List Nat) : Nat → List Nat → List Nat
  | 0, _ => []
  | n + 1, w => 3303 * w.sum % kemQ :: powerSums v n (List.zipWith (fun x y => x * y % kemQ) w v)

/-- The polynomial with given residues. -/
def fromFactors (p : Poly) : Poly :=
  let back := rootsQ.map fun r => powQ r 255
  let half (h : List Nat) : List Nat := powerSums back 128 h
  ((half (evenOdd p).1).zip (half (evenOdd p).2)).flatMap fun e => [e.1, e.2]

/-- The product of two lists of residues: modulo X^2 - r, a pair at a time. -/
def mulFactors : List Nat → Poly → Poly → Poly
  | r :: rs, a :: b :: p, c :: d :: q => (a * c + b * d % kemQ * r) % kemQ :: (a * d + b * c) % kemQ :: mulFactors rs p q
  | _, _, _ => []

/-- The inner product of two vectors of residues. -/
def dotFactors (a b : PolyVec) : Poly :=
  (List.zipWith (mulFactors rootsQ) a b).foldl addPoly (List.replicate 256 0)

/-! ### Samples and rounding -/

def sha3of256 (m : List Byte) : List Byte := sponge 136 0x06 32 m
/-- The two halves of SHA3-512. -/
def sha3of512 (m : List Byte) : List Byte × List Byte := ((sponge 72 0x06 64 m).take 32, (sponge 72 0x06 64 m).drop 32)

/-- Residues drawn from SHAKE128, 12 bits at a time; FIPS 203 lets 280 triples of bytes be the most that are looked at. -/
def sampleFactors (seed : List Byte) : Poly := ((unpack 12 (sponge 168 0x1F 840 seed)).filter (· < kemQ)).take 256

/-- An element of the public matrix: a row and a column of it. -/
def matrixAt (rho : List Byte) (row col : Nat) : Poly := sampleFactors (rho ++ natLe 1 col ++ natLe 1 row)

/-- Small coefficients: of each four bits, the first two less the last two. -/
def sampleSmall (seed : List Byte) (n : Nat) : Poly :=
  (unpack 4 (shakeBytes 128 (seed ++ natLe 1 n))).map fun x => (x % 2 + x / 2 % 2 + kemQ - x / 4 % 2 - x / 8) % kemQ

/-- Coefficients rounded to `d` bits, and brought back. -/
def roundTo (d : Nat) (p : Poly) : Poly := p.map fun x => (2 ^ (d + 1) * x + kemQ) / (2 * kemQ) % 2 ^ d
def roundBack (d : Nat) (p : Poly) : Poly := p.map fun x => (2 * kemQ * x + 2 ^ d) / 2 ^ (d + 1)

/-! ### Keys, encryption and decapsulation -/

/-- The secret vector of a key pair, and its encapsulation key of 1,568 bytes. -/
def kemKeys (d : List Byte) : PolyVec × List Byte :=
  let (rho, sigma) := sha3of512 (d ++ [4])
  let sec := (List.range 4).map fun i => toFactors (sampleSmall sigma i)
  let row (i : Nat) : Poly := addPoly (dotFactors ((List.range 4).map (matrixAt rho i)) sec) (toFactors (sampleSmall sigma (4 + i)))
  (sec, ((List.range 4).flatMap fun i => pack 12 (row i)) ++ rho)

/-- The four polynomials of a packed vector. -/
def unpackVec (d : Nat) (b : List Byte) : PolyVec := (List.range 4).map fun i => unpack d ((b.drop (32 * d * i)).take (32 * d))

/-- A message of 32 bytes encrypted to a key with the coins `r`: 1,568 bytes. -/
def kemEncrypt (ek m r : List Byte) : List Byte :=
  let rho := ek.drop 1536
  let y := (List.range 4).map fun i => toFactors (sampleSmall r i)
  let u (i : Nat) : Poly :=
    addPoly (fromFactors (dotFactors ((List.range 4).map fun j => matrixAt rho j i) y)) (sampleSmall r (4 + i))
  let v := addPoly (addPoly (fromFactors (dotFactors (unpackVec 12 ek) y)) (sampleSmall r 8)) (roundBack 1 (unpack 1 m))
  ((List.range 4).flatMap fun i => pack 11 (roundTo 11 (u i))) ++ pack 5 (roundTo 5 v)

/-- The message of a ciphertext. -/
def kemDecrypt (sec : PolyVec) (c : List Byte) : List Byte :=
  let u := (unpackVec 11 c).map fun p => toFactors (roundBack 11 p)
  pack 1 (roundTo 1 (subPoly (roundBack 5 (unpack 5 (c.drop 1408))) (fromFactors (dotFactors sec u))))

/-- The shared secret of a ciphertext of 1,568 bytes under the key pair of the seeds `d` and `z`: another secret for one that no
encapsulation made. -/
def kemDecap (d z c : List Byte) : List Byte :=
  let (sec, ek) := kemKeys d
  let m := kemDecrypt sec c
  let (k, r) := sha3of512 (m ++ sha3of256 ek)
  if kemEncrypt ek m r = c then k else shakeBytes 32 (z ++ c)

end Sys2Proof.Machine
end

