-- ==== Sys2Proof/Machine/KeyWrap.lean ====
section
/-! DEFINITION. AES-256 and the unwrapping of owner keys, as FIPS 197 and RFC 5649 give them, with the Strongroom's own keys (11 R255; log 10). -/

namespace Sys2Proof.Machine

/-! ### Bytes as elements of the field of AES -/

/-- A byte times X, modulo X^8 + X^4 + X^3 + X + 1. -/
def timesX (b : Byte) : Byte := (b <<< 1) ^^^ (if b.msb then 0x1B else 0)

def mulByte (a b : Byte) : Byte := (List.range 8).foldr (fun i r => timesX r ^^^ (if b.getLsbD i then a else 0)) 0

/-- The inverse: the power 254. -/
def invByte (b : Byte) : Byte :=
  let sq := (List.range 7).foldl (fun w _ => (mulByte w.1 w.1, mulByte w.2 (mulByte w.1 w.1))) (b, (1 : Byte))
  sq.2

def subByte (b : Byte) : Byte :=
  let x := invByte b
  x ^^^ x.rotateLeft 1 ^^^ x.rotateLeft 2 ^^^ x.rotateLeft 3 ^^^ x.rotateLeft 4 ^^^ 0x63

def unsubByte (b : Byte) : Byte := invByte (b.rotateLeft 1 ^^^ b.rotateLeft 3 ^^^ b.rotateLeft 6 ^^^ 0x05)

/-! ### The inverse cipher -/

/-- What a word of the key schedule adds to the word eight places before it: `t` is the word before it. -/
def keyStep (i : Nat) (t : List Byte) : List Byte :=
  if i % 8 = 0 then xorBytes ((t.drop 1 ++ t.take 1).map subByte) [BitVec.ofNat 8 (2 ^ (i / 8 - 1)), 0, 0, 0]
  else if i % 8 = 4 then t.map subByte
  else t

/-- The 60 words of four bytes of a key's schedule. -/
def keySchedule (k : List Byte) : List (List Byte) :=
  let first := (List.range 8).map fun i => (k.drop (4 * i)).take 4
  (List.range 52).foldl (fun w n => w ++ [xorBytes (w.getD n []) (keyStep (n + 8) (w.getD (n + 7) []))]) first

def roundKey (w : List (List Byte)) (r : Nat) : List Byte := ((w.drop (4 * r)).take 4).flatten

/-- The rows moved back, each byte then replaced. -/
def unshift (b : List Byte) : List Byte :=
  (List.range 16).map fun i => unsubByte (b.getD (4 * ((i / 4 + 4 - i % 4) % 4) + i % 4) 0)

/-- The columns unmixed. -/
def unmix (b : List Byte) : List Byte :=
  (List.range 16).map fun i =>
    let of (n : Nat) (c : Byte) : Byte := mulByte c (b.getD (i / 4 * 4 + (i + n) % 4) 0)
    of 0 0x0E ^^^ of 1 0x0B ^^^ of 2 0x0D ^^^ of 3 0x09

/-- A block of 16 bytes decrypted under a key of 32. -/
def aesDecrypt (k b : List Byte) : List Byte :=
  let w := keySchedule k
  let b := (List.range 13).foldl (fun b n => unmix (xorBytes (unshift b) (roundKey w (13 - n)))) (xorBytes b (roundKey w 14))
  xorBytes (unshift b) (roundKey w 0)

/-! ### Key unwrap -/

/-- One step back of the wrapping: the check value and the four parts of the key. -/
def unwrapStep (k : List Byte) (w : List Byte × List (List Byte)) (t : Nat) : List Byte × List (List Byte) :=
  let i := (t + 3) % 4
  let b := aesDecrypt k (xorBytes w.1 (natBe 8 t) ++ w.2.getD i [])
  (b.take 8, w.2.set i (b.drop 8))

/-- An AES-256 key of 32 bytes from the 40 bytes it was wrapped in; none where the check value is not that of such a key. -/
def unwrapKey (k c : List Byte) : Option (List Byte) :=
  let parts := (List.range 4).map fun i => (c.drop (8 * (i + 1))).take 8
  let w := (List.range 24).foldl (fun w n => unwrapStep k w (24 - n)) (c.take 8, parts)
  if w.1 = [0xA6, 0x59, 0x59, 0xA6] ++ natBe 4 32 then some w.2.flatten else none

/-! ### The Strongroom's keys -/

/-- The seeds of the Strongroom's encapsulation key: of the key pair, and of the secret that a false ciphertext gives. -/
def encapSeed (z : Bool) : List Byte := (Config.encapSeed z ++ List.replicate 32 0).take 32

/-- What the Strongroom publishes: its encapsulation key, and the signature of it (R255). -/
def publishedKey : List Byte := (kemKeys (encapSeed false)).2 ++ Config.encapSignature

/-- The owner key of a KEY_INSTALL: `b` is the ciphertext and the wrapped key (R255). -/
def ownerKeyOf (b : List Byte) : Option (List Byte) :=
  unwrapKey (kemDecap (encapSeed false) (encapSeed true) (b.take 1568)) ((b.drop 1568).take 40)

end Sys2Proof.Machine
end

