-- ==== Sys2Proof/Machine/Fabric.lean ====
section
/-! DEFINITION. Fabric windows, keys, requests of peers, and the Ternath ports (11 R254 to R257; 20 R339 to R343; 21 R350). -/

namespace Sys2Proof.Machine

open Host (Outcome)

/-! ### WINDOW_EXPORT (R254) -/

def ruleWindowExport : CmdRule := { opcode := 0x000A, length := 24, mgmt := false, fn0 := false, feature := some 7 }

/-- Devices of a domain (Table 11.3). -/
def deviceCount : Nat := 1152

def execWindowExport (queue buf : Nat) (s : State) : Outcome State Fault Refusal :=
  let c := (queue, buf)
  .next (runCommand c ruleWindowExport (fun s =>
    let base := argAt s c 0 8
    let size := argAt s c 8 8
    let dev := argAt s c 16 2
    let part := argAt s c 18 1
    let flags := argAt s c 19 1
    let ctx := argAt s c 20 4
    checkFields c [(0, base % 65536 != 0), (8, size == 0 || size % 65536 != 0), (16, deviceCount ≤ dev), (18, 8 ≤ part),
        (19, 2 ≤ flags), ctxAt s c 20]
      (fun s =>
        if !canonical base || inWindows base then badAddress c base s else
        let (n, s) := freeId 0 s.exports.keys s
        let x : Export :=
          { base := BitVec.ofNat 64 base, size := BitVec.ofNat 64 size, impDev := dev, impPart := part, write := flags == 1
            ctx := ctx, part := (s.contexts.getD ctx default).part, gen := 1 }
        complete c 0 0 n { s with exports := s.exports.put n x }) s) s)

/-! ### WINDOW_GRANT (R254) -/

def ruleWindowGrant : CmdRule := { opcode := 0x000B, length := 16, mgmt := false, fn0 := false, feature := some 7 }

/-- What the target's Strongroom answers about an export: it agrees, its base, size, partition, generation and WRITE. -/
structure Answer where
  ok : Bool
  base : Nat
  size : Nat
  part : Nat
  gen : Nat
  write : Bool
  deriving DecidableEq, Repr

/-- The answer of this device's own Strongroom, to an importer. -/
def ownAnswer (s : State) (x dev part : Nat) : Answer :=
  match s.exports.get? x with
  | some e => ⟨e.impDev == dev && e.impPart == part, e.base.toNat, e.size.toNat, e.part, e.gen, e.write⟩
  | none => ⟨false, 0, 0, 0, 0, false⟩

/-- A window-table entry put in its place; requests made through the one that stood there go on (R257). -/
def putWindow (p win : Nat) (w : FabWin) (s : State) : State :=
  modPart p (fun q => { q with
    fabric := q.fabric.put win w
    replaced := (q.fabric.get? win).toList ++ q.replaced }) s

/-- The window-table entry written, or the grant refused (log 35). -/
def grant (c : CmdId) (p : Nat) (a : Answer) (s : State) : State :=
  let key := argAt s c 8 2
  if !a.ok || ((partOf s p).keys.get? key).isNone || 8 ≤ p then complete c 0x02 0 0 s
  else
    let (n, s) := newId s
    let w : FabWin :=
      { tbase := BitVec.ofNat 64 a.base, tsize := BitVec.ofNat 64 a.size, tdev := argAt s c 4 2, tpart := a.part, valid := true
        write := a.write, strict := argAt s c 10 1 == 4, keyidx := key, gen := a.gen, exportId := argAt s c 0 4, revoked := false, serial := n }
    complete c 0 0 a.gen (putWindow p (argAt s c 6 2) w s)

/-- `ok` and what follows is the answer of the target's Strongroom, where the target is another device. -/
def execWindowGrant (queue buf : Nat) (ok : Bool) (base size part gen : Nat) (write : Bool) (s : State) :
    Outcome State Fault Refusal :=
  let c := (queue, buf)
  .next (runCommand c ruleWindowGrant (fun s =>
    let p := (partOfQueue s queue).getD noPart
    let dev := argAt s c 4 2
    let far : Answer := ⟨ok && base % 65536 == 0 && size % 65536 == 0, base, size, part % 8, gen % 2 ^ 32, write⟩
    checkFields c [(4, deviceCount ≤ dev), (6, 4096 ≤ argAt s c 6 2), (8, 4096 ≤ argAt s c 8 2),
        (10, argAt s c 10 1 != 0 && argAt s c 10 1 != 4), reservedAt s c 11 5]
      (fun s => grant c p (if dev = s.devnum then ownAnswer s (argAt s c 0 4) s.devnum p else far) s) s) s)

/-! ### WINDOW_REVOKE (R257) -/

def ruleWindowRevoke : CmdRule := { opcode := 0x000C, length := 16, mgmt := false, fn0 := false, feature := some 7 }

/-- The export's generation incremented: requests with the old one are performed no more. -/
def revokeExport (x : Nat) (s : State) : State := { s with exports := s.exports.adj x fun e => { e with gen := (e.gen + 1) % 2 ^ 32 } }

/-- Requests of an export that are held at the ports of a frozen partition (R350). -/
def heldFor (s : State) (x : Nat) : Bool := s.heldReqs.any fun r => r.head? == some x

/-- The entry stands for generation `gen` of an export of a device. -/
def FabWin.of (w : FabWin) (dev x gen : Nat) : Bool := w.valid && w.tdev == dev && w.exportId == x && w.gen == gen

/-- The serial numbers of this device's entries, replaced ones among them, for a generation of an export. -/
def entriesFor (s : State) (dev x gen : Nat) : List Nat :=
  s.partitions.flatMap fun p => ((p.2.fabric.map (·.2) ++ p.2.replaced).filter fun w => w.of dev x gen).map (·.serial)

/-- A request made through one of those entries has not completed: a load, a store or an atomic still to be performed at its home. -/
def underWay (s : State) (serials : List Nat) : Bool :=
  let mine (w : Option WinRef) : Bool := w.any fun k => serials.contains k.serial
  (s.agents.any fun e => (e.2.loads.any fun l => l.left.any fun p => mine p.2.win) || e.2.all.any fun x => mine x.win) ||
    s.cores.any fun c => c.2.pending.any fun p => mine p.win

/-- A revocation has been made: its command completes when every request with the old generation has (log 65). -/
def awaitRevoked (c : CmdId) (value : Nat) (serials : List Nat) (s : State) : State :=
  if underWay s serials then markInFlight c { s with revokes := s.revokes ++ [⟨c.1, c.2, value, serials⟩] }
  else complete c 0 0 value s

/-- An export of this device revoked, once no request of it is held (R350): its new generation is the value. -/
def revokeNear (c : CmdId) (x : Nat) (s : State) : State :=
  if heldFor s x then s
  else
    let old := entriesFor s s.devnum x (s.exports.getD x default).gen
    let s := revokeExport x s
    awaitRevoked c (s.exports.getD x default).gen old s

/-- A generation of an export of another device revoked: the value is that generation plus 1 (log 65). -/
def revokeFar (c : CmdId) (p : Nat) (w : FabWin) (s : State) : State :=
  let old := entriesFor s w.tdev w.exportId w.gen
  let mark (e : FabWin) : FabWin := if e.of w.tdev w.exportId w.gen then { e with revoked := true } else e
  awaitRevoked c ((w.gen + 1) % 2 ^ 32) old (modPart p (fun q => { q with
    fabric := q.fabric.map fun e => (e.1, mark e.2)
    replaced := q.replaced.map mark }) s)

/-- By the importer's owner. -/
def revokeImport (c : CmdId) (p win : Nat) (s : State) : State :=
  let w := fabWin s (p, win)
  if w.tdev = s.devnum then revokeNear c w.exportId s else revokeFar c p w s

/-- An export of the command's function. -/
def exportOk (s : State) (q x : Nat) : Bool :=
  match s.exports.get? x with
  | some e => fnOfPart (some e.part) == fnOfQueue s q
  | none => false

/-- A WINDOW_REVOKE taken up: by either owner (R257). -/
def beginRevoke (c : CmdId) (s : State) : State :=
  let p := (partOfQueue s c.1).getD noPart
  let win := argAt s c 2 2
  let side := argAt s c 4 1
  let x := argAt s c 8 4
  let w := fabWin s (p, win)
  checkFields c [(0, side == 0 && (!w.valid || w.tdev != argAt s c 0 2)), (2, side == 1 && win != 0), (4, 2 ≤ side),
      reservedAt s c 5 3, (8, if side = 0 then x != 0 else !exportOk s c.1 x), reservedAt s c 12 4]
    (if side = 0 then revokeImport c p win else revokeNear c x) s

/-- One that waits completes once no request with the old generation is left. -/
def endRevoke (r : Revoking) (s : State) : State :=
  if underWay s r.serials then s
  else complete (r.queue, r.buf) 0 0 r.value { s with revokes := s.revokes.filter (· != r) }

def execWindowRevoke (queue buf : Nat) (s : State) : Outcome State Fault Refusal :=
  .next (match s.revokes.find? fun r => r.queue == queue && r.buf == buf with
    | some r => endRevoke r s
    | none => runCommand (queue, buf) ruleWindowRevoke (beginRevoke (queue, buf)) s)

/-- STRONGROOM_MANAGEMENT_REQUEST (R254, R257): a peer's Strongroom checks a grant, which changes nothing here, or revokes; as by the
owners here, once no request of the export is held at the ports (R350). -/
def execStrongroomManagementRequest (x : Nat) (revoke : Bool) (s : State) : Outcome State Fault Refusal :=
  .next (if revoke && !heldFor s x then revokeExport x s else s)

/-! ### KEY_INSTALL (R255, R340) -/

def ruleKeyInstall : CmdRule := { opcode := 0x000D, length := 1616, mgmt := false, fn0 := false, feature := some 7 }

/-- What names a key at a port: the window's importer, and the key's index there (R255). -/
structure KeyTriple where
  dev : Nat
  part : Nat
  idx : Nat
  deriving DecidableEq, Repr

/-- The key that this device's ports hold under a triple: the importing partition's, where that is on this device, or that of a partition
which exports to the importer, all of which have installed the same one (R255; log 94). -/
def portKey (s : State) (t : KeyTriple) : Option (List Byte) :=
  (keyHolders s (importerOf t.dev t.part) t.idx).head?.bind fun p => (partOf s p).keys.get? t.idx

/-- The 96-bit IV of a flit group: the sending link, the triple, and the group's number since the key was installed (R256; log 94). -/
def groupIv (link : Nat) (t : KeyTriple) (n : Nat) : Nat :=
  link * 2 ^ 80 + t.dev * 2 ^ 69 + t.part * 2 ^ 66 + t.idx * 2 ^ 48 + n

/-- A key installed at an index of a partition: the links on which one of its triples was suspended carry it again (R255, R340). -/
def installKey (p key : Nat) (k : List Byte) (s : State) : State :=
  let back := (partOf s p).suspended.filter fun k => k.1 % 4096 == key
  let s := modPart p (fun q => { q with
    keys := q.keys.put key k
    suspended := q.suspended.filter fun k => k.1 % 4096 != key }) s
  back.foldl (fun s k => raiseEvent ⟨5, 2, 0, some p, 0, key + k.2 * 2 ^ 32, 0⟩ s) s

/-- KEY_INSTALL: a wrapped key whose check value is not that of an AES-256 key makes the command malformed at offset 8 (log 35). -/
def execKeyInstall (queue buf : Nat) (s : State) : Outcome State Fault Refusal :=
  let c := (queue, buf)
  .next (runCommand c ruleKeyInstall (fun s =>
    let key := argAt s c 0 2
    checkFields c [(0, 4096 ≤ key), reservedAt s c 2 6]
      (fun s => match ownerKeyOf ((bodyOf s c).drop 8), partOfQueue s queue with
        | none, _ => complete c 0x01 8 0 s
        | some k, some p => complete c 0 0 0 (installKey p key k s)
        | some _, none => complete c 0x02 0 0 s) s) s)

/-! ### Requests of peers (R257, R350) -/

/-- A write of a peer performed at home, behind the export's pages; the poison bit of its flits comes with it (R324). No access of a program
reaches a save region (R182). -/
def peerWrite (e : Export) (off : Nat) (bs : List Byte) (poison : Bool) (s : State) : State :=
  match rangeOf s (hubView s e.ctx) true (e.base.toNat + off) bs.length with
  | .ok ps => if ps.any fun p => barred s p.addr then s else hubStore peerAgent (e.base.toNat + off) ps (bs.map fun b => (b, poison)) s
  | .bad _ | .miss _ => s

/-- The atomic operation of a request; others are stores and loads. -/
def peerOp (op : Nat) : Option AtomOp :=
  [AtomOp.xch, .cas, .add, .imin, .imax, .umin, .umax, .and, .or, .xor, .fadd][op]?

/-- An atomic of a peer performed at home as one move; one that finds poison stores nothing, and its issuer consumes the poison (R326). -/
def peerAtomic (e : Export) (o : AtomOp) (off : Nat) (x y : Word) (s : State) : State :=
  match translate s (hubView s e.ctx) none (.atomic o) (e.base.toNat + off) 4 with
  | .ok (p :: _) =>
    if isPoisoned s p.addr 4 || barred s p.addr then s else
    (match (groupResult o (BitVec.ofNat 32 (leNat (readPieces s [p]))) [(x, y)]).2 with
     | some v => hubStore peerAgent (e.base.toNat + off) [p] ((natLe 4 v.toNat).map fun b => (b, false)) s
     | none => s)
  | .ok [] | .bad _ | .miss _ => s

/-- A request performed by the target: a load changes nothing here, a signal's waiters are tested again after any write. -/
def performRequest (x gen word op off len data : Nat) (s : State) : State :=
  let kind := word % 4
  match s.exports.get? x with
  | none => s
  | some e =>
    if gen ≠ e.gen || e.size.toNat < off + len then s
    else if kind = 1 then (if e.write then settle (advanceLaunches (fireWatches (peerWrite e off (natLe len data) (4 ≤ word) s))) else s)
    else if kind = 2 then
      (match peerOp op with
       | some o => if e.write then
            settle (advanceLaunches (fireWatches (peerAtomic e o off (BitVec.ofNat 32 data) (BitVec.ofNat 32 (data / 2 ^ 32)) s)))
          else s
       | none => s)
    else if kind = 3 && e.write then
      (match translate s (hubView s e.ctx) none (.signal true) (e.base.toNat + off) 8 with
       | .ok (p :: _) => if barred s p.addr then s else hubSignal peerAgent p data 0 s
       | .ok [] | .bad _ | .miss _ => s)
    else s

/-- FABRIC_REQUEST_RECEIVE (R257, R350): `kind` 0 a load, 1 a store of `len` bytes, 2 an atomic, 3 a SIGADD; 4 more for a
store whose flits carry poison. A request for a frozen
partition is held, whatever its generation. -/
def execFabricRequestReceive (x gen kind op off len data : Nat) (s : State) : Outcome State Fault Refusal :=
  .next (match s.exports.get? x with
    | none => s
    | some e =>
      if (partOf s e.part).frozen then { s with heldReqs := s.heldReqs ++ [[x, gen, kind, op, off, len, data]] }
      else performRequest x gen kind op off len data s)

/-! ### Ports (R292, R339, R340) -/

/-- A flit of some window or other that this device sends: whose it is, is free (log 101). -/
def someOwner (s : State) : (Nat × Nat) × State :=
  ((Config.freeNat s.fresh % (8 * deviceCount), Config.freeNat (s.fresh + 1) % 4096), { s with fresh := s.fresh + 2 })

/-- FLIT_CRC_FAIL (R339): a flit is refused and sent again, which the port's injector counts (R343); `again`: it is the flit that failed
last. After 8 failed retries the port retrains. -/
def execFlitCrcFail (port : Nat) (again : Bool) (s : State) : Outcome State Fault Refusal :=
  .next (if !(portOf s port).up then s
    else
      let s := crcFailed port again s
      if (portOf s port).inj.isNone then s
      else
        let (o, s) := someOwner s
        sendFlit o port (2 ^ 16) true s)

/-- PORT_RETRAIN (R339): after 8 failed retries of a flit the lanes are trained again; a third failed retraining leaves the port
down. -/
def execPortRetrain (port : Nat) (ok : Bool) (s : State) : Outcome State Fault Refusal :=
  let p := portOf s port
  .next (if !p.up || p.failed < 8 then s
    else
      let s := raiseEvent ⟨4, 1, 0, none, 0, port % 64 + (p.retrains + 1) % 256 * 256, 0⟩
        (modPort port (fun p => { p with retrains := p.retrains + 1 }) s)
      if ok then modPort port (fun p => { p with failed := 0, lost := 0 }) s
      else if p.lost < 2 then modPort port (fun p => { p with lost := p.lost + 1 }) s
      else raiseEvent ⟨4, 2, 0, none, 0, port, 0⟩ (modPort port (fun p => { p with up := false, failed := 0, lost := 0 }) s))

/-- PORT_UP (R292, R339): all 8 lanes have trained. Ports train at stage 7 (R286). -/
def execPortUp (port : Nat) (s : State) : Outcome State Fault Refusal :=
  .next (if s.stage < 7 || portCount ≤ port || (portOf s port).up then s
    else raiseEvent ⟨4, 3, 0, none, 0, port, 0⟩ (modPort port (fun p => { p with up := true, failed := 0, lost := 0 }) s))

/-- FLIT_GROUP_TAG_FAIL (R340): a group of a key triple, by its importer's number and its key index, is discarded and sent again; `again`:
the triple's last group on the link failed too. Four in succession suspend the key. -/
def execFlitGroupTagFail (port importer key : Nat) (again : Bool) (s : State) : Outcome State Fault Refusal :=
  .next (if portCount ≤ port || 4096 ≤ key || (keyHolders s importer key).isEmpty then s else tagFailed port importer key again s)

/-! ### Injectors (R342, R343) -/

def ruleInject : CmdRule := { opcode := 0x0049, length := 24, mgmt := true, fn0 := true, feature := some 13 }

def execInject (queue buf : Nat) (s : State) : Outcome State Fault Refusal :=
  let c := (queue, buf)
  .next (runCommand c ruleInject (fun s =>
    let port := argAt s c 0 1
    let lane := argAt s c 1 1
    let action := argAt s c 2 1
    let trigger := argAt s c 4 4
    let rep := argAt s c 8 4
    let mask := argAt s c 12 4
    let delay := argAt s c 16 4
    checkFields c [(0, portCount ≤ port), (1, 8 ≤ lane), (2, 5 ≤ action), reservedAt s c 3 1, (4, trigger == 0),
        (8, rep == 0 || 2 ^ 16 ≤ rep), (12, (action == 1 || action == 2) && mask == 0), (16, delay == 0 || 4096 < delay),
        reservedAt s c 20 4]
      (fun s => complete c 0 0 0 (modPort port (fun p => { p with
        inj := if action = 0 then none else some ⟨lane, action, trigger, rep, mask, delay, 0, 0⟩ }) s)) s) s)

/-- INJECTOR_FIRE (R343): flits that the model does not follow, such as responses, have brought the count to N (log 101). -/
def execInjectorFire (port : Nat) (s : State) : Outcome State Fault Refusal :=
  .next (if (portOf s port).inj.isNone then s
    else
      let (o, s) := someOwner s
      fireAt o port s)

end Sys2Proof.Machine
end

