-- ==== Sys2Proof/Machine/Images.lean ====
section
/-! DEFINITION. Firmware images and the Porters that run them (11 R259; 17 R287, R288; 21 R348, R349). -/

namespace Sys2Proof.Machine

/-! ### Images (R287, R288) -/

/-- The longest body of an image of each kind (Table 17.2). -/
def bodyLimit (kind : Nat) : Nat := if kind = 0 then 2 ^ 20 else if kind = 1 then 64 * 2 ^ 20 else 224 * 1024

def imageLength (b : List Byte) : Nat := fieldAt b 8 4

/-- The header fields lie within Table 17.2. -/
def headerOk (kind : Nat) (b : List Byte) : Bool :=
  let n := imageLength b
  let load := fieldAt b 0x10 8
  let entry := fieldAt b 0x18 8
  fieldAt b 0 4 == 0x474D495A && fieldAt b 4 2 == 1 && fieldAt b 6 1 == kind && kind < 3 &&
  (fieldAt b 7 1 == 0 || (fieldAt b 7 1 == 1 && kind == 2)) && n % 4 == 0 && n ≤ bodyLimit kind && load ≤ entry && entry < load + n &&
  fieldAt b 0x20 32 == 0

/-- The public key of a signer: Krovhar's in the boot code, or the operator's of the record, all zero when there is none (R288, R289). -/
def signerKey (s : State) (signer : Nat) : Option (List Byte) :=
  if signer = 0 then some Config.bootKey
  else if s.config.operator.all (· == 0) then none
  else some s.config.operator

/-- The signature after the body is valid under its signer's key (R287, R288). -/
def signatureOk (s : State) (b : List Byte) : Bool :=
  let n := 64 + imageLength b
  match signerKey s (fieldAt b 7 1) with
  | some k => xmssValid k (b.take n) ((b.drop n).take signatureLen)
  | none => false

/-- The bytes of a configuration record (Table 17.3). -/
def recordBytes (r : ConfigRecord) : List Byte :=
  let bits (n : Nat) (set : List Nat) : List Byte := natLe n (set.eraseDups.foldl (fun m i => m + 2 ^ i) 0)
  natLe 4 0x4746435A ++ natLe 4 r.features ++ ((List.range 3).flatMap fun i => natLe 4 (r.svnmin.getD i 0)) ++
  (r.operator ++ List.replicate 68 0).take 68 ++ bits 24 r.disabled ++
  ((List.range coreCount).flatMap fun c => (List.range 4).flatMap fun i => natLe 1 ((r.spares.getD c []).getD i 0)) ++
  ((List.range 8).flatMap fun k => bits 64 ((r.hbm.filter fun x => x.1 == k).map (·.2))) ++
  natLe 4 r.garret ++ List.replicate 508 0 ++
  (List.range 64).flatMap fun i => (r.trims.getD i [] ++ List.replicate 8 0).take 8

/-- Krovhar's signature of a record is valid, under the scheme and the key of firmware images (R287, R289). -/
def recordSigned (r : ConfigRecord) : Bool := xmssValid Config.bootKey (recordBytes r) r.sig

/-- The image runs: signature, security version and header (R288). -/
def imageOk (s : State) (kind : Nat) (b : List Byte) : Bool :=
  headerOk kind b && s.config.svnmin.getD kind 0 ≤ fieldAt b 0xC 4 && signatureOk s b

/-! ### Queues of a group that is unmapped (R349) -/

/-- The doorbell of a queue fires, or is latched while disarmed (R261). -/
def ringDoorbell (q : Nat) (s : State) : State :=
  modPorter (q / 16) (fun k =>
    if k.armed.contains (q % 16) then
      { k with armed := k.armed.filter (· != q % 16), fired := (k.fired ++ [q % 16]).eraseDups }
    else { k with latched := (k.latched ++ [q % 16]).eraseDups }) s

/-- The queues of a group, of those that have been enabled. -/
def groupQueues (s : State) (g : Nat) : List Nat := (s.queues.filter fun e => e.1 / 16 == g).map (·.1)

/-- The group's queues are unmapped; a doorbell not yet taken stands in the shadow bit. -/
def unmapGroup (g : Nat) (s : State) : State :=
  let k := porterOf s g
  (groupQueues s g).foldl (fun s q => modQueue q (fun x => { x with
    mapped := false, shadow := x.shadow || k.latched.contains (q % 16) || k.fired.contains (q % 16) }) s) s

/-- A Porter loaded with a verified image and started: its body at its load address, nothing armed (R259; log 39). What of the body lies
beyond the SRAM is not written (log 105). -/
def loadPorter (g : Nat) (b : List Byte) (s : State) : State :=
  let load := fieldAt b 0x10 8
  let body := ((b.drop 64).take (imageLength b)).take (sramSize - load)
  let s := unitWrite strongAgent (sramKey g load) body false [] s
  { s with porters := s.porters.put g { Porter.reset with
    pc := BitVec.ofNat 32 (fieldAt b 0x18 8), halted := false, image := b } }

/-- The command in hand is abandoned: it completes with 0x0D. A launch among them that has reached stage 6 keeps its chain, and runs
on; one before it ends (R348). -/
def abandonCommand (s : State) (c : CmdId) : State :=
  match s.launches.find? fun e => e.2.queue == c.1 && e.2.buf == c.2 && !e.2.ended with
  | some e => if 6 ≤ e.2.stage then s else refuseLaunch e.1 0x0D 0 0 s
  | none => complete c 0x0D 0 0 s

/-- What the commands of some queues still have to do is gone with them: the claims of EVENT_ROUTEs, the waits of WINDOW_REVOKEs, and the
moves of COPYs. -/
def dropClaims (q : Nat → Bool) (s : State) : State :=
  { s with
    claimants := s.claimants.filter fun x => !q x.queue
    revokes := s.revokes.filter fun x => !q x.queue
    hubCopies := s.hubCopies.filter fun x => !q x.queue }

/-- Every command that a Porter has fetched and not posted is abandoned. -/
def abandonGroup (g : Nat) (s : State) : State :=
  let cs := (groupQueues s g).flatMap fun q => ((queueOf s q).fetched.filter fun x => !isRecordBuffer x.2).map fun x => (q, x.1)
  let s := cs.foldl abandonCommand (dropClaims (fun q => q / 16 == g) s)
  { s with chains := s.chains.map fun e => (e.1, { e.2 with drains := e.2.drains.filter fun c => !cs.contains c }) }

end Sys2Proof.Machine
end

