-- ==== Sys2Proof/Machine/Management.lean ====
section
/-! DEFINITION. The management commands (02 R48, R54, R62; 03 R69, R78, R84; 11 R242, R247, R259, R263; 12 R266; 21 R351, R352). -/

namespace Sys2Proof.Machine

open Host (Outcome)

/-! ### Contexts (R78, R266, R351) -/

def ruleContextCreate : CmdRule := { opcode := 0x0040, length := 16, mgmt := true, fn0 := false, feature := none }

/-- CONTEXT_CREATE. The root table is one of level 0: 4 KiB aligned, in device memory (log 40). -/
def execContextCreate (queue buf : Nat) (s : State) : Outcome State Fault Refusal :=
  let c := (queue, buf)
  .next (runCommand c ruleContextCreate (fun s =>
    let root := argAt s c 0 8
    let pasid := argAt s c 8 4
    checkFields c [(0, root % 4096 != 0 || !deviceAddrOk root), (8, 2 ^ 20 ≤ pasid), reservedAt s c 12 4]
      (fun s =>
        let (n, s) := freeId 0 s.contexts.keys s
        complete c 0 0 n { s with contexts := s.contexts.put n ⟨root, pasid, (partOfQueue s queue).getD noPart, none⟩ }) s) s)

def ruleContextDestroy : CmdRule := { opcode := 0x0041, length := 4, mgmt := true, fn0 := false, feature := none }

/-- CONTEXT_DESTROY: it waits for the storage requests of the context that the host holds; its chain and its pairs end. -/
def execContextDestroy (queue buf : Nat) (s : State) : Outcome State Fault Refusal :=
  let c := (queue, buf)
  .next (runCommand c ruleContextDestroy (fun s =>
    let ctx := argAt s c 0 4
    checkFields c [ctxAt s c 0]
      (fun s =>
        if s.storage.any fun e => e.2.ctx == ctx && !e.2.out.isEmpty then s
        else complete c 0 0 0 { s with
          contexts := s.contexts.del ctx
          chains := s.chains.del ctx
          storage := s.storage.filter fun e => e.2.ctx != ctx }) s) s)

def ruleTlbInvalidate : CmdRule := { opcode := 0x0042, length := 24, mgmt := true, fn0 := false, feature := none }

/-- TLB_INVALIDATE (R84): accepted; INVALIDATION_COMPLETE completes it. An address in the window range addresses nothing (R375). -/
def execTlbInvalidate (queue buf : Nat) (s : State) : Outcome State Fault Refusal :=
  let c := (queue, buf)
  .next (runCommand c ruleTlbInvalidate (fun s =>
    checkFields c [ctxAt s c 16, reservedAt s c 20 4]
      (fun s =>
        let va := argAt s c 0 8
        if inWindows va then badAddress c va s
        else acceptInval (argAt s c 16 4) va (argAt s c 8 8) false (some c) (markInFlight c s)) s) s)

/-! ### Regions, tolerances and grants -/

def ruleSetRegions : CmdRule := { opcode := 0x0043, length := 32, mgmt := true, fn0 := false, feature := none }

/-- SET_REGIONS (R54, R202). Function 0 has no partition (log 35). -/
def execSetRegions (queue buf : Nat) (s : State) : Outcome State Fault Refusal :=
  let c := (queue, buf)
  .next (runCommand c ruleSetRegions (fun s =>
    let w (o : Nat) : DWord := BitVec.ofNat 64 (argAt s c o 8)
    match partOfQueue s queue with
    | none => complete c 0x02 0 0 s
    | some p => complete c 0 0 0 (modPart p (fun k => { k with
        save := w 0, saveSize := w 8, heap := w 16, heapSize := w 24 }) s)) s)

def ruleSetTolerance : CmdRule := { opcode := 0x0044, length := 8, mgmt := true, fn0 := false, feature := none }

/-- SET_TOLERANCE (R62). -/
def execSetTolerance (queue buf : Nat) (s : State) : Outcome State Fault Refusal :=
  let c := (queue, buf)
  .next (runCommand c ruleSetTolerance (fun s =>
    let q := queueIndex s (fnOfQueue s queue) (argAt s c 0 2)
    checkFields c [(0, q.isNone), reservedAt s c 2 2, (4, 2 ^ 24 ≤ argAt s c 4 4)]
      (fun s => testHolds (complete c 0 0 0 (modQueue (q.getD 0) (fun k => { k with tol := argAt s c 4 4 }) s))) s) s)

def ruleCellarGrant : CmdRule := { opcode := 0x0045, length := 16, mgmt := true, fn0 := true, feature := some 2 }

/-- Another partition holds some of the bytes on some of the dies (R69). -/
def grantsMeet (s : State) (p : Nat) (dies : List Nat) (base size : Nat) : Bool :=
  dies.any fun d => s.partitions.any fun e => e.1 != p &&
    (let g := e.2.cellar.getD d (0, 0)
     size != 0 && g.2 != 0 && overlaps (base * 65536) (size * 65536) g.1 g.2)

/-- The device-specific configuration structure of a function (Table 11.3). -/
def deviceConfig (s : State) (f : Nat) : List Byte :=
  let p : Partition := if f = 0 then default else partOf s (f - 1)
  let grants := (List.range 8).map fun d => p.cellar.getD d (0, 0)
  let least := grants.foldl (fun m g => min m g.2) (grants.headD (0, 0)).2
  natLe 2 s.devnum ++ natLe 1 (if f = 0 then 0xFF else f - 1) ++ natLe 1 p.clusters.length ++ natLe 2 1 ++ natLe 2 1 ++
    natLe 2 (16 * (fnOf s f).groups.length) ++ natLe 2 0 ++ natLe 4 (least / 65536) ++
    (grants.flatMap fun g => natLe 4 (if g.2 = 0 then 0 else g.1 / 65536)) ++ grants.flatMap fun g => natLe 4 (g.2 / 65536)

/-- CELLAR_GRANT (R69, R245). -/
def execCellarGrant (queue buf : Nat) (s : State) : Outcome State Fault Refusal :=
  let c := (queue, buf)
  .next (runCommand c ruleCellarGrant (fun s =>
    let p := argAt s c 0 1
    let die := argAt s c 1 1
    let dies := diesOf die
    let base := argAt s c 8 4
    let size := argAt s c 12 4
    checkFields c [(0, 8 ≤ p), (1, 8 ≤ die && die != 0xFF), reservedAt s c 2 6,
        (8, 3072 < base + size || grantsMeet s p dies base size)]
      (fun s =>
        let s' := modPart p (fun k => { k with cellar := dies.foldl (fun t d => t.put d (base * 65536, size * 65536)) k.cellar }) s
        complete c 0 0 0 (if deviceConfig s' (p + 1) = deviceConfig s (p + 1) then s' else notifyConfig (p + 1) s')) s) s)

/-! ### PARTITION (R48, R242, R289, R349) -/

def rulePartition : CmdRule := { opcode := 0x0046, length := 40, mgmt := true, fn0 := true, feature := none }

/-- A block of a live launch lies on the cluster. -/
def liveOn (s : State) (k : Nat) : Bool :=
  s.blocks.any fun e => clusterOf e.2.core == k && !(launchOf s e.2.lid).ended

/-- The clusters that leave a partition when `p` gets the set `ks`. -/
def clustersLost (s : State) (p : Nat) (ks : List Nat) : List Nat :=
  s.partitions.flatMap fun e => e.2.clusters.filter fun k => if e.1 = p then !ks.contains k else ks.contains k

/-- The groups whose function changes when function `f` gets the set `gs`. -/
def groupsMoved (s : State) (f : Nat) (gs : List Nat) : List Nat :=
  let old := (fnOf s f).groups
  (old.filter fun g => !gs.contains g) ++ gs.filter fun g => !old.contains g

/-- A queue as a reset leaves it, with the launches it has held (R347). -/
def Queue.cleared (k : Queue) : Queue :=
  { k with enabled := false, mapped := false, shadow := false, note := 0, avail := [], fetched := [], used := [], usedAt := 0
           wrap := true, inFlight := [], started := [], unreached := [], lost := false }

/-- The queues of a group. -/
def queuesOf (g : Nat) : List Nat := (List.range 16).map (16 * g + ·)

/-- The queues of a group are unmapped until they are enabled again: their group moves, or their function is reset (R349). -/
def clearGroup (g : Nat) (s : State) : State :=
  (queuesOf g).foldl (fun s q => modQueue q (fun k => { k.cleared with away := true }) s) s

def assign (p : Nat) (ks gs : List Nat) (s : State) : State :=
  let f := p + 1
  let moved := groupsMoved s f gs
  let s := modPart p (fun k => { k with clusters := ks.filter fun x => !clusterOut s x }) { s with
    partitions := s.partitions.map fun e =>
      (e.1, { e.2 with clusters := if e.1 = p then e.2.clusters else e.2.clusters.filter fun k => !ks.contains k })
    functions := s.functions.map fun e =>
      (e.1, { e.2 with groups := if e.1 = f then e.2.groups else e.2.groups.filter fun g => !gs.contains g }) }
  let s := modFn f (fun k => { k with groups := gs }) s
  let s := moved.foldl (fun s g => clearGroup g s) s
  advanceLaunches (s.partitions.keys.foldl (fun s q => retestFifos q s) s)

/-- PARTITION: refused while a cluster that it takes holds a block of a live launch; it waits until the queues of the groups that it
moves are idle (log 41). -/
def execPartition (queue buf : Nat) (s : State) : Outcome State Fault Refusal :=
  let c := (queue, buf)
  .next (runCommand c rulePartition (fun s =>
    let p := argAt s c 0 1
    let ks := clustersIn (argAt s c 8 24)
    let gs := (List.range 64).filter fun g => fld (argAt s c 32 8) g 1 == 1
    checkFields c [(0, 8 ≤ p), reservedAt s c 1 7, (32, gs.contains 0)]
      (fun s =>
        if (clustersLost s p ks).any (liveOn s) then complete c 0x02 0 0 s
        else if (groupsMoved s (p + 1) gs).any fun g => (groupQueues s g).any fun q => !(queueOf s q).fetched.isEmpty then s
        else complete c 0 0 0 (assign p ks gs s)) s) s)

/-! ### EVENT_ROUTE (R263, R352) -/

def ruleEventRoute : CmdRule := { opcode := 0x0047, length := 8, mgmt := true, fn0 := true, feature := none }

/-- The owners a class may have (Table 11.11). -/
def ownerAllowed (cls owner : Nat) : Bool :=
  if cls = 2 ∨ cls = 3 then owner == ownerHost
  else if cls = 9 then owner == ownerPorter || owner == ownerHost
  else cls < 10 && (owner == ownerHostClass || owner == ownerHost)

/-- A class is claimed by a command, unless the owner is not allowed or another claim on the class stands (R263, R352). -/
def claimClass (c : CmdId) (cls owner : Nat) (s : State) : State :=
  if !ownerAllowed cls owner || s.claimants.any (fun x => x.cls == cls) then complete c 0x02 0 0 s
  else markInFlight c { s with claimants := s.claimants ++ [⟨cls, owner, c.1, c.2⟩] }

/-- A claim takes effect, and its command completes. -/
def endClaim (x : Claimant) (s : State) : State :=
  complete (x.queue, x.buf) 0 0 0 { s with routes := s.routes.put x.cls x.owner, claimants := s.claimants.erase x }

/-- EVENT_ROUTE: its first step claims the class, and its second changes the owner and completes (R263, R352; log 92). -/
def execEventRoute (queue buf : Nat) (s : State) : Outcome State Fault Refusal :=
  let c := (queue, buf)
  .next (match s.claimants.find? fun x => x.queue == queue && x.buf == buf with
    | some x => endClaim x s
    | none => runCommand c ruleEventRoute (fun s =>
      checkFields c [reservedAt s c 2 6] (claimClass c (argAt s c 0 1) (argAt s c 1 1)) s) s)

/-! ### PORTER_IMAGE (R259) -/

def rulePorterImage : CmdRule := { opcode := 0x0048, length := 24, mgmt := true, fn0 := true, feature := none }

/-- PORTER_IMAGE: once the queues of the named groups are idle, but for this command; a refused image changes nothing (log 35), and one
that would reach beyond 224 KiB is refused (log 105). The image is read through the function's own address translation. -/
def execPorterImage (queue buf : Nat) (s : State) : Outcome State Fault Refusal :=
  let c := (queue, buf)
  .next (runCommand c rulePorterImage (fun s =>
    let n := argAt s c 8 8
    let gs := (List.range 64).filter fun g => fld (argAt s c 16 8) g 1 == 1
    let b := readBytes s (hostKey (argAt s c 0 8)) (min n (bodyLimit 2 + 64 + signatureLen))
    let busy (q : Nat) : Bool := (queueOf s q).fetched.any fun x => (q, x.1) != c
    checkFields c [(8, n != 64 + imageLength b + signatureLen)]
      (fun s =>
        if gs.any fun g => (groupQueues s g).any busy then s
        else if imageOk s 2 b && fieldAt b 0x10 8 + imageLength b ≤ bodyLimit 2 then
          complete c 0 0 0 (gs.foldl (fun s g => loadPorter g b (unmapGroup g s)) s)
        else complete c 0x02 0 0 s) s) s)

end Sys2Proof.Machine
end

