-- ==== Sys2Proof/Machine/RiscV.lean ====
section
/-! DEFINITION. The integer words of RISC-V, RV32 and RV64, that the firmware cores execute, as RISC-V gives them (11 R258; log 76, log 77). -/

namespace Sys2Proof.Machine

/-! ### Fields of a base word -/

def rvRd (w : Word) : Nat := fld w.toNat 7 5
def rvF3 (w : Word) : Nat := fld w.toNat 12 3
def rvRs1 (w : Word) : Nat := fld w.toNat 15 5
def rvRs2 (w : Word) : Nat := fld w.toNat 20 5
def rvF7 (w : Word) : Nat := fld w.toNat 25 7

/-- The immediates, for registers of `n` bits. -/
def rvImmI (n : Nat) (w : Word) : BitVec n := (w.extractLsb' 20 12).signExtend n
def rvImmS (n : Nat) (w : Word) : BitVec n := (w.extractLsb' 25 7 ++ w.extractLsb' 7 5).signExtend n
def rvImmB (n : Nat) (w : Word) : BitVec n :=
  (w.extractLsb' 31 1 ++ w.extractLsb' 7 1 ++ w.extractLsb' 25 6 ++ w.extractLsb' 8 4 ++ (0 : BitVec 1)).signExtend n
def rvImmU (n : Nat) (w : Word) : BitVec n := (w &&& 0xFFFFF000).signExtend n
def rvImmJ (n : Nat) (w : Word) : BitVec n :=
  (w.extractLsb' 31 1 ++ w.extractLsb' 12 8 ++ w.extractLsb' 20 1 ++ w.extractLsb' 21 10 ++ (0 : BitVec 1)).signExtend n

/-! ### Results -/

/-- The operations of OP and OP-IMM; `alt` is bit 30 of the word. -/
def rvAlu {n : Nat} (f3 : Nat) (alt : Bool) (a b : BitVec n) : BitVec n :=
  if f3 = 0 then (if alt then a - b else a + b)
  else if f3 = 1 then a <<< (b.toNat % n)
  else if f3 = 2 then BitVec.ofNat n (a.slt b).toNat
  else if f3 = 3 then BitVec.ofNat n (a.ult b).toNat
  else if f3 = 4 then a ^^^ b
  else if f3 = 5 then (if alt then a.sshiftRight (b.toNat % n) else a >>> (b.toNat % n))
  else if f3 = 6 then a ||| b
  else a &&& b

/-- Whether a conditional branch is taken; none where RISC-V has no branch of that number. -/
def rvTaken {n : Nat} (f3 : Nat) (a b : BitVec n) : Option Bool :=
  if f3 = 0 then some (a == b)
  else if f3 = 1 then some (a != b)
  else if f3 = 4 then some (a.slt b)
  else if f3 = 5 then some (!a.slt b)
  else if f3 = 6 then some (a.ult b)
  else if f3 = 7 then some (!a.ult b)
  else none

/-- What a load of a kind writes, from the number read; none where RISC-V has no such load. -/
def rvLoaded (n f3 x : Nat) : Option (BitVec n) :=
  if f3 = 0 then some ((BitVec.ofNat 8 x).signExtend n)
  else if f3 = 1 then some ((BitVec.ofNat 16 x).signExtend n)
  else if f3 = 2 then some ((BitVec.ofNat 32 x).signExtend n)
  else if f3 = 4 ∨ f3 = 5 ∨ (n = 64 ∧ (f3 = 3 ∨ f3 = 6)) then some (BitVec.ofNat n x)
  else none

/-- An operation exists: `f7` is the top field of its word, and only SUB and SRA set bit 30. -/
def rvOpOk (f3 f7 : Nat) : Bool := f7 == 0 || (f7 == 0x20 && (f3 == 0 || f3 == 5))

/-- Likewise one with an immediate: a shift has the field, whose lowest bit belongs to the amount in 64 bits. -/
def rvImmOk (n f3 f7 : Nat) : Bool :=
  let f := if n = 64 then f7 / 2 * 2 else f7
  if f3 = 1 then f == 0 else if f3 = 5 then f == 0 || f == 0x20 else true

/-! ### What a word does -/

/-- A core as a word sees it: its registers, its program counter, and the numbers of some bytes that it reads. -/
structure RvView (n : Nat) where
  reg : Nat → BitVec n
  pc : BitVec n
  read : Nat → Nat → Nat
  /-- Bytes of its memory. -/
  size : Nat

/-- What a word does: a register written; a jump with its link register; bytes stored; nothing but the advance; a word of SYSTEM; or an
exception. -/
inductive RvEffect (n : Nat) where
  | write (rd : Nat) (v : BitVec n)
  | jump (rd : Nat) (target : BitVec n)
  | store (a len : Nat) (v : BitVec n)
  | advance
  | system
  | trap (code : Nat)

/-- RISC-V's exceptions: 2 for a word that it does not give, 5 and 7 for a load and a store outside the core's memory. -/
def rvLoad {n : Nat} (k : RvView n) (w : Word) : RvEffect n :=
  let a := (k.reg (rvRs1 w) + rvImmI n w).toNat
  let len := 2 ^ (rvF3 w % 4)
  match rvLoaded n (rvF3 w) (k.read a len) with
  | none => .trap 2
  | some v => if k.size < a + len then .trap 5 else .write (rvRd w) v

def rvStore {n : Nat} (k : RvView n) (w : Word) : RvEffect n :=
  let a := (k.reg (rvRs1 w) + rvImmS n w).toNat
  let len := 2 ^ rvF3 w
  if n < 8 * len then .trap 2
  else if k.size < a + len then .trap 7
  else .store a len (k.reg (rvRs2 w))

def rvBranch {n : Nat} (k : RvView n) (w : Word) : RvEffect n :=
  match rvTaken (rvF3 w) (k.reg (rvRs1 w)) (k.reg (rvRs2 w)) with
  | none => .trap 2
  | some true => .jump 0 (k.pc + rvImmB n w)
  | some false => .advance

/-- OP and OP-IMM on all bits of the registers. -/
def rvOp {n : Nat} (k : RvView n) (w : Word) (imm : Bool) : RvEffect n :=
  let f3 := rvF3 w
  if if imm then rvImmOk n f3 (rvF7 w) else rvOpOk f3 (rvF7 w) then
    .write (rvRd w) (rvAlu f3 (fld w.toNat 30 1 == 1 && (!imm || f3 == 5)) (k.reg (rvRs1 w))
      (if imm then rvImmI n w else k.reg (rvRs2 w)))
  else .trap 2

/-- OP-32 and OP-IMM-32 of RV64: on the low words, the result sign-extended. -/
def rvOp32 {n : Nat} (k : RvView n) (w : Word) (imm : Bool) : RvEffect n :=
  let f3 := rvF3 w
  let low (x : BitVec n) : Word := x.setWidth 32
  if n = 64 && (f3 == 0 || f3 == 1 || f3 == 5) && (if imm then rvImmOk 32 f3 (rvF7 w) else rvOpOk f3 (rvF7 w)) then
    .write (rvRd w) ((rvAlu f3 (fld w.toNat 30 1 == 1 && (!imm || f3 == 5)) (low (k.reg (rvRs1 w)))
      (if imm then rvImmI 32 w else low (k.reg (rvRs2 w)))).signExtend n)
  else .trap 2

/-- What a base word does to a core with registers of `n` bits. -/
def rvEffect {n : Nat} (k : RvView n) (w : Word) : RvEffect n :=
  let op := fld w.toNat 0 7
  if op = 0x37 then .write (rvRd w) (rvImmU n w)
  else if op = 0x17 then .write (rvRd w) (k.pc + rvImmU n w)
  else if op = 0x6F then .jump (rvRd w) (k.pc + rvImmJ n w)
  else if op = 0x67 ∧ rvF3 w = 0 then .jump (rvRd w) ((k.reg (rvRs1 w) + rvImmI n w) &&& ~~~1)
  else if op = 0x63 then rvBranch k w
  else if op = 0x03 then rvLoad k w
  else if op = 0x23 then rvStore k w
  else if op = 0x13 then rvOp k w true
  else if op = 0x33 then rvOp k w false
  else if op = 0x1B then rvOp32 k w true
  else if op = 0x3B then rvOp32 k w false
  else if op = 0x0F ∧ rvF3 w = 0 then .advance
  else if op = 0x73 then .system
  else .trap 2

end Sys2Proof.Machine
end

