-- ==== Sys2Proof/Machine/Firmware.lean ====
section
/-! DEFINITION. The words of the Strongroom's RV32 pair and of the host-class RV64 cores (11 R258; log 77). -/

namespace Sys2Proof.Machine

/-- A register file with a register written; x0 discards. -/
def setReg {n : Nat} (x : Vector (BitVec n) 32) (rd : Nat) (v : BitVec n) : Vector (BitVec n) 32 :=
  if rd = 0 then x else x.setIfInBounds rd v

def getReg {n : Nat} (x : Vector (BitVec n) 32) (i : Nat) : BitVec n := if i = 0 then 0 else x.getD i 0

/-- A running core of either kind. -/
structure RvCore (n : Nat) where
  x : Vector (BitVec n) 32
  pc : BitVec n
  running : Bool

/-- What a word leaves of a core, and the bytes that it stores. FENCE and WFI advance. The spec gives these cores no control registers and
no handler, so the other SYSTEM words and every exception stop them (log 77). -/
def RvCore.apply {n : Nat} (k : RvCore n) (w : Word) : RvEffect n → RvCore n × Option (Nat × List Byte)
  | .write rd v => ({ k with x := setReg k.x rd v, pc := k.pc + 4 }, none)
  | .jump rd a =>
    if a.toNat % 4 ≠ 0 then ({ k with running := false }, none) else ({ k with x := setReg k.x rd (k.pc + 4), pc := a }, none)
  | .store a len v => ({ k with pc := k.pc + 4 }, some (a, natLe len v.toNat))
  | .advance => ({ k with pc := k.pc + 4 }, none)
  | .system => if w = 0x10500073 then ({ k with pc := k.pc + 4 }, none) else ({ k with running := false }, none)
  | .trap _ => ({ k with running := false }, none)

/-- The next word of a core whose memory has the key `base` at its address 0, and `size` bytes. -/
def RvCore.step {n : Nat} (k : RvCore n) (s : State) (base size : Nat) : RvCore n × Option (Nat × List Byte) :=
  if size < k.pc.toNat + 4 then ({ k with running := false }, none)
  else
    let w := BitVec.ofNat 32 (readNat s (base + k.pc.toNat) 4)
    k.apply w (rvEffect ⟨getReg k.x, k.pc, fun a n => readNat s (base + a) n, size⟩ w)

/-- Bytes of the Strongroom's private SRAM (Table 11.8). -/
def strongSize : Nat := 2 ^ 20

/-- Addresses of the host-class cores' memory. -/
def hostCoreSize : Nat := 2 ^ 64

/-- The Strongroom's next word. -/
def strongStep (s : State) : State :=
  let g := s.strongroom
  if !g.running then s
  else
    let (k, out) := RvCore.step (n := 32) ⟨g.x, g.pc, g.running⟩ s (strongKey 0) strongSize
    let s := { s with strongroom := { g with x := k.x, pc := k.pc, running := k.running } }
    match out with
    | some (a, bs) => unitWrite strongAgent (strongKey a) bs false [] s
    | none => s

/-- The next word of a host-class core. -/
def hostCoreStep (i : Nat) (s : State) : State :=
  match s.hostCores.get? i with
  | none => s
  | some g =>
    if !g.running then s
    else
      let (k, out) := RvCore.step (n := 64) ⟨g.x, g.pc, g.running⟩ s (hostClassKey 0) hostCoreSize
      let s := { s with hostCores := s.hostCores.put i { g with x := k.x, pc := k.pc, running := k.running } }
      match out with
      | some (a, bs) => unitWrite (hostCoreAgent i) (hostClassKey a) bs false [] s
      | none => s

end Sys2Proof.Machine
end

