-- ==== Sys2Proof/Machine/Power.lean ====
section
/-! DEFINITION. Bring-up, power and temperature, the PCI Express link, patrols and the Cellar's refresh (03 R71, R72; 12 R274; 17 R286 to R295; 20 R323 to R325; 21 R365). -/

namespace Sys2Proof.Machine

open Host (Outcome)

/-! ### Bring-up (R286 to R292) -/

/-- A stage of Table 17.1 that ends, if it is the next one and its conditions hold. -/
def bringUp (n : Nat) (ok : Bool) (act : State → State) (s : State) : Outcome State Fault Refusal :=
  .next (if s.stage + 1 = n && ok then act { s with stage := n } else s)

/-- Bytes of a configuration record, before its signature (Table 17.3). -/
def recordLen : Nat := 0x1E70

/-- The configuration record of its bytes, with the signature that follows them (Table 17.3, R287, R289). An entry's field [6:0] of 64 to 127,
which R290 does not give, names the row of its lowest six bits (log 105). -/
def recordOf (b : List Byte) : ConfigRecord :=
  let used (t : Tbl (List Byte)) : Tbl (List Byte) := t.filter fun e => e.2.any (· != 0)
  let at' (o n k : Nat) : Tbl (List Byte) := used ((List.range n).map fun i => (i, (b.drop (o + k * i)).take k))
  { sig := (b.drop recordLen).take signatureLen
    features := fieldAt b 4 4
    svnmin := (List.range 3).map fun i => fieldAt b (8 + 4 * i) 4
    operator := (b.drop 0x14).take 68
    disabled := clustersIn (fieldAt b 0x58 24)
    spares := (at' 0x70 coreCount 4).map fun e => (e.1, e.2.map (·.toNat))
    hbm := (List.range 8).flatMap fun k =>
      ((List.range 512).filter fun p => fld (fieldAt b (0x1870 + 64 * k) 64) p 1 == 1).map fun p => (k, p)
    garret := fieldAt b 0x1A70 4
    trims := at' 0x1C70 64 8 }

/-- A record written to flash since the last power-up takes effect at this one. Bytes without the magic of Table 17.3, or with a reserved
byte of it that is not 0, are no record (R289; log 6). -/
def installRecord (s : State) : State :=
  match Config.newRecord s.fresh with
  | some b => { s with
    fresh := s.fresh + 1, flash := if recordBytes (recordOf b) = b.take recordLen then recordOf b else s.flash }
  | none => { s with fresh := s.fresh + 1 }

/-- POWER_INPUT_VALID: stage 1. -/
def execPowerInputValid (s : State) : Outcome State Fault Refusal := bringUp 1 true installRecord s

/-- What the boot code takes of the record in flash: the minimum svn of the Strongroom's image (R289). -/
def readMinimum (s : State) : State :=
  { s with config := { s.config with svnmin := s.config.svnmin.set 0 (s.flash.svnmin.getD 0 0) } }

/-- The Strongroom started with its image: the body at its load address in its private SRAM, as much of it as lies there, and nothing held
over (R258, R286; log 90, log 105). -/
def startStrongroom (b : List Byte) (s : State) : State :=
  let load := fieldAt b 0x10 8
  let s := unitWrite strongAgent (strongKey load) (((b.drop 64).take (imageLength b)).take (strongSize - load)) false [] s
  { s with
    firmware := shake b, exports := [], routes := []
    strongroom := { Strongroom.reset with pc := BitVec.ofNat 32 (fieldAt b 0x18 8), running := true, image := b }
    partitions := s.partitions.map fun e => (e.1, { e.2 with keys := [], fabric := [], replaced := [], suspended := [] }) }

/-- STRONGROOM_BOOT: stage 2, the signature of the record and the Strongroom image, whose hash is the firmware measurement. -/
def execStrongroomBoot (s : State) : Outcome State Fault Refusal :=
  bringUp 2 (recordSigned s.flash && imageOk (readMinimum s) 0 (Config.flashImage 0))
    (fun s => startStrongroom (Config.flashImage 0) (readMinimum s)) s

/-- STRONGROOM_INIT: stage 3, once the map-out log verifies; the rest of the record is read, and the next leaf is the first of the block
that the counter names (R274, R289). The Strongroom publishes its encapsulation key from then on (R255; log 10). -/
def execStrongroomInit (s : State) : Outcome State Fault Refusal :=
  bringUp 3 Config.logValid (fun s => { s with
    config := s.flash, published := publishedKey, leafNext := s.counterMono * 1024, leafLimit := s.counterMono * 1024 }) s

/-- Host-class cores of the part (Table 11.8). -/
def hostCoreCount : Nat := 8

/-- HOST_CLASS_START: stage 4; the image's body is written at its load address in the memory of the eight cores, which start at its
entry. -/
def execHostClassStart (s : State) : Outcome State Fault Refusal :=
  let b := Config.flashImage 1
  let load := fieldAt b 0x10 8
  bringUp 4 (imageOk s 1 b) (fun s =>
    let s := unitWrite strongAgent (hostClassKey load) (((b.drop 64).take (imageLength b)).take (hostCoreSize - load)) false [] s
    { s with hostCores := (List.range hostCoreCount).map fun n =>
      (n, { HostCore.reset with pc := BitVec.ofNat 64 (fieldAt b 0x18 8), running := true, image := b }) }) s

/-- The clusters that the record disables, that the log removes, or that hold a core whose array is not used (R115, R289, R290,
Table 20.3). -/
def clustersOut (s : State) : List Nat :=
  s.config.disabled ++ ((s.mapOuts.filter fun m => m.kind == 2).map fun m => resCluster m.num) ++
    ((s.config.spares.keys.filter fun c => !arrayUsable s c).map clusterOf)

/-- Islands of the part. -/
def islandCount : Nat := 64

/-- An island at bring-up: its trims applied, powered at OP4, and at once in retention, since no squad is resident (R61, R286, R293). -/
def bringIsland (s : State) (i : Nat) : Island :=
  let x : Island := { point := 4, target := none, retention := false, volt := 0, trims := s.config.trims.getD i [] }
  { x.atPoint 4 with retention := true, volt := retentionVoltage }

/-- The cores of a cluster that is out of use. -/
def disableCluster (s : State) (k : Nat) : State :=
  (clusterCores k).foldl (fun s c => modCore c (fun x => { x with mappedOut := true }) s) s

/-- HBM_TRAIN: stage 5; the islands are powered, and the maps of spare rows, of Cellar rows and of what is out of use are loaded from the
record and the log. -/
def execHbmTrain (s : State) : Outcome State Fault Refusal :=
  bringUp 5 true (fun s =>
    let s := { s with
      islands := (List.range islandCount).map fun i => (i, bringIsland s i)
      cellSpares := ((List.range 128).map fun b => (b, cellSparesOf s b)).filter fun e => e.2 != 0 }
    let s := (List.range coreCount).foldl (fun s c => if (rowsOut s c).isEmpty then s else remapRows c s) s
    (clustersOut s).foldl disableCluster s) s

/-- PORTER_START: stage 6; every Porter starts with Krovhar's default image (log 39). -/
def execPorterStart (s : State) : Outcome State Fault Refusal :=
  bringUp 6 (imageOk s 2 (Config.flashImage 2) && fieldAt (Config.flashImage 2) 7 1 == 0)
    (fun s => (List.range 64).foldl (fun s g => loadPorter g (Config.flashImage 2) s) s) s

/-- TERNATH_TRAIN: stage 7; `ups` has a bit for each port all of whose lanes have trained, `dev` is the number the fabric gives. -/
def execTernathTrain (dev ups : Nat) (s : State) : Outcome State Fault Refusal :=
  bringUp 7 true (fun s =>
    let s := { s with devnum := if dev < deviceCount then dev else 0xFFFF }
    ((List.range portCount).filter fun n => fld ups n 1 == 1).foldl (fun s n =>
      raiseEvent ⟨4, 3, 0, none, 0, n, 0⟩ (modPort n (fun p => { p with up := true }) s)) s) s

/-- PCIE_ENABLE: stage 8; a shutdown that the Strongroom recorded is reported now (R365). -/
def execPcieEnable (s : State) : Outcome State Fault Refusal :=
  bringUp 8 true (fun s => match s.shutDown with
    | some d => raiseEvent ⟨7, 4, 0, none, 0, d, 0⟩ { s with shutDown := none }
    | none => s) s

/-- What stays when the rails are gone: module flash and the host's own memory, with what the host has been told. -/
def powerOff (s : State) : State :=
  let host (k : Nat) : Bool := 2 ^ 64 ≤ k && k < 2 ^ 100 && !(hostClassKey 0 ≤ k && k < hostClassKey hostCoreSize)
  { State.reset with
    fresh := s.fresh, agenda := s.agenda, nextId := s.nextId, mem := s.mem.filter fun c => host c.1, poison := s.poison.filter host
    events := s.events, completions := s.completions, flash := s.flash, mapOuts := s.mapOuts, counterMono := s.counterMono
    shutDown := s.shutDown, cfgReply := s.cfgReply }

/-- What stays beside it while the Strongroom's rail is up: its own core and SRAM, the record it has read, the keys, windows, exports and
routes that it keeps, and its leaves (R258, R295). -/
def railsOff (s : State) : State :=
  let own (k : Nat) : Bool := strongKey 0 ≤ k && k < strongKey (2 ^ 20)
  let kept (p : Partition) : Partition := { (default : Partition) with keys := p.keys, fabric := p.fabric, replaced := p.replaced, suspended := p.suspended }
  let off := powerOff s
  { off with
    mem := s.mem.filter (fun c => own c.1) ++ off.mem
    config := s.config, strongroom := s.strongroom, published := s.published, firmware := s.firmware, exports := s.exports, routes := s.routes
    leafNext := s.leafNext, leafLimit := s.leafLimit, partitions := s.partitions.map fun e => (e.1, kept e.2) }

/-- POWER_LOSS (R274): leaves reserved and unused are skipped at the next power-up. -/
def execPowerLoss (s : State) : Outcome State Fault Refusal := .next (powerOff s)

/-! ### The PCI Express link (R292, R324, R365) -/

/-- Lanes of the host link (Table 0.1). -/
def pcieLanes : Nat := 16

/-- PCIE_LINK_TRAIN: all lanes train at the highest rate of both ends, 7.0 or 6.0; `offer` and `lanes` are what the host has. -/
def execPcieLinkTrain (offer lanes : Nat) (s : State) : Outcome State Fault Refusal :=
  let rate := min 7 offer
  .next (if rate < 6 || lanes < pcieLanes then s
    else raiseEvent ⟨3, 1, 0, none, 0, rate + pcieLanes * 256, 0⟩ { s with pcieGen := rate })

/-- PCIE_ERROR_LOGGED. -/
def execPcieErrorLogged (fn : Nat) (correctable : Bool) (bits : Nat) (s : State) : Outcome State Fault Refusal :=
  .next (if 8 < fn then s else logAer fn correctable (bits % 2 ^ 32) s)

/-- POISONED_TLP_RECEIVED (R324): the granules that it fills are poisoned. -/
def execPoisonedTlpReceived (fn addr len : Nat) (s : State) : Outcome State Fault Refusal :=
  .next (if !deviceAddrOk addr || len = 0 || !deviceAddrOk (addr + len - 1) then s
    else raiseEvent ⟨3, 4, 0, if fn = 0 then none else some (fn - 1), 0, 0, granule addr⟩ (setPoison addr len s))

/-! ### Operating points and temperatures (R293, R295, R365) -/

/-- No wave of the island's cores holds a slot. -/
def islandQuiet (s : State) (i : Nat) : Bool := (islandCores i).all fun c => (cor s c).slots.isEmpty

/-- An island changes point; one in retention stays at the retention voltage (R293, R294). -/
def Island.change (p : Nat) (i : Island) : Island :=
  if i.retention then { i with point := p, target := none } else Island.atPoint p { i with target := none }

/-- OPERATING_POINT_CHANGE (R293): picks stop, and once no wave holds a slot the point changes and picks resume. -/
def execOperatingPointChange (island point : Nat) (s : State) : Outcome State Fault Refusal :=
  .next (match s.islands.get? island with
    | none => s
    | some i => match i.target with
      | none => modIsland island (fun i => { i with target := some (min 7 point) }) s
      | some p => if islandQuiet s island then modIsland island (Island.change p) s else s)

/-- The point that an island is at, or is changing to. -/
def Island.aim (i : Island) : Nat := i.target.getD i.point

/-- Islands are lowered: those above a point, or the highest ones where none is above it (R295). -/
def lowerIslands (point : Nat) (s : State) : State :=
  let top := s.islands.foldl (fun m e => max m e.2.aim) 0
  let p := min point (top - 1)
  { s with
    throttled := true
    islands := s.islands.map fun e => (e.1, if p < e.2.aim then { e.2 with target := some p } else e.2) }

/-- POWER_ABOVE_DESIGN: above 3,600 W. -/
def execPowerAboveDesign (watts point : Nat) (s : State) : Outcome State Fault Refusal :=
  .next (if watts ≤ 3600 then s else raiseEvent ⟨7, 1, 0, none, 0, watts % 2 ^ 16, 0⟩ (lowerIslands point s))

/-- The sensor's die and its temperature (Table 21.9). -/
def sensorDetail (die temp : Nat) : Nat := die % 16 + temp % 256 * 256

/-- THROTTLE_TEMPERATURE: 105 °C on any die. -/
def execThrottleTemperature (die temp point : Nat) (s : State) : Outcome State Fault Refusal :=
  .next (if 8 < die || temp < 105 then s else raiseEvent ⟨7, 2, 0, none, 0, sensorDetail die temp, 0⟩ (lowerIslands point s))

/-- THROTTLE_END. -/
def execThrottleEnd (s : State) : Outcome State Fault Refusal :=
  .next (if s.throttled then raiseEvent ⟨7, 3, 0, none, 0, 0, 0⟩ { s with throttled := false } else s)

/-- SHUTDOWN_TEMPERATURE: at 115 °C every rail but the Strongroom's goes, and the Strongroom records it. -/
def execShutdownTemperature (die temp : Nat) (s : State) : Outcome State Fault Refusal :=
  .next (if 8 < die || temp < 115 then s else railsOff { s with shutDown := some (sensorDetail die temp) })

/-! ### Patrols and refresh windows (R71, R72, R325) -/

/-- What a check finds at an address, and of a device address at that key: 0 no error, 1 a corrected one, 2 one that cannot be corrected,
which the owner of the frame or of the Cellar offset is told of (R323, R325, R341). -/
def checked (found res addr : Nat) (key : Option Nat) (poisonIt : State → State) (s : State) : State :=
  if found = 1 then countCorrected res key s
  else if found = 2 then raiseEvent ⟨1, 2, 0, ownerOfResource s res key, 0, res, addr⟩ (poisonIt s)
  else s

/-- Granules of a stack (R76, Table 20.1). -/
def stackGranules : Nat := 0x1800000000 / 32

/-- The granule that a stack's patrol reads next, as a device physical address: the whole stack in turn (R325; log 87). -/
def patrolNext (s : State) (stack : Nat) : Nat :=
  stack * 2 ^ 37 + (Config.patrolStart stack + s.patrol.getD stack 0) % stackGranules * 32

/-- HBM_PATROL_READ: the next granule of a stack is read and checked. `flaw` says that an error is found in it, and `corrected`
that the code corrects that error (R325). -/
def execHbmPatrolRead (stack : Nat) (flaw corrected : Bool) (s : State) : Outcome State Fault Refusal :=
  let a := patrolNext s stack
  .next (if 8 ≤ stack then s
    else checked (if flaw then if corrected then 1 else 2 else 0) (hbmResource a) a (some a) (poisonHbm a) { s with patrol := s.patrol.put stack (s.patrol.getD stack 0 + 1) })

/-- Bytes of a die's Cellar. -/
def cellarBytes : Nat := 192 * 2 ^ 20

/-- CELLAR_REFRESH_WINDOW_START: the die's counter reaches the next window, in which a granule of the bank at `off` is patrolled. -/
def execCellarRefreshWindowStart (die off found : Nat) (s : State) : Outcome State Fault Refusal :=
  let t := (s.cellPhase.getD die 0 / 1024 + 1) * 1024 % 16384
  let o := off / 64 * 64
  .next (if 8 ≤ die then s
    else
      let s := { s with cellPhase := s.cellPhase.put die t }
      if cellarBytes ≤ o || o / 4096 % 16 ≠ t / 1024 then s
      else checked found (cellarResource die o) o none (poisonCellar die o) s)

/-- CELLAR_REFRESH_WINDOW_END: the reads that waited may be performed. -/
def execCellarRefreshWindowEnd (die : Nat) (s : State) : Outcome State Fault Refusal :=
  let t := s.cellPhase.getD die 0
  .next (if 8 ≤ die || 256 ≤ t % 1024 then s else { s with cellPhase := s.cellPhase.put die (t / 1024 * 1024 + 256) })

end Sys2Proof.Machine
end

