-- ==== Sys2Proof/WellFormed.lean ====
section
/-! DEFINITION. Which terms are instructions: the operand rules a constructor's types do not carry (R118, R120, R127, R299). -/

namespace Sys2Proof

/-- Why a term is no instruction; a word of its encoding is an unimplemented encoding (R122). -/
inductive Defect where
  /-- A register group that is not aligned (R118). -/
  | groupMisaligned
  /-- A special-register index that the instruction may not name (R120). -/
  | specialIndex
  /-- A scope without an ordering bit (R127). -/
  | scopeWithoutOrdering
  /-- A UFENCE with neither part (Table 6.20). -/
  | fenceEmpty
  /-- GARM or GRES of slot 0 (Table 6.20). -/
  | guardZero
  /-- A FRAME count outside 16 to 128 or not a multiple of 8 (Table 6.16). -/
  | frameCount
  /-- A rounding mode or INF bit where the conversion does not allow it (Table 6.19). -/
  | conversion
  /-- MXSTR from q8 with a row address other than 0xC0 (Table 6.16). -/
  | queueSource
  deriving DecidableEq, Repr

/-- A register number that starts a pair (R118). -/
def even (n : Nat) : Bool := n % 2 == 0

/-- A register number that starts a group of four (R118). -/
def quad (n : Nat) : Bool := n % 4 == 0

/-- A register number that starts a group of eight (R118). -/
def oct (n : Nat) : Bool := n % 8 == 0

/-- A source read as 64 bits names an even register (R125). -/
def Src.pairOk : Src → Bool
  | .v n => even n.val
  | .s n => even n.val
  | .zero | .lane | .sq | .tid => true

/-- A base names an even register or zero (R164). -/
def Base.pairOk : Base → Bool
  | .s n => even n.val
  | .zero => true

/-- Indices MOVS may read (R120). -/
def srMovs (n : Nat) : Bool := n ≤ 0x1D && n != 0x0F

/-- Indices held per thread (Table 6.2). -/
def srPerThread (n : Nat) : Bool :=
  n == 0x00 || n == 0x01 || n == 0x0A || n == 0x0B || n == 0x12 || n == 0x13

/-- Indices URDS may read: held per squad or wider, and 0x80 to 0xBF (R120). -/
def srUrds (n : Nat) : Bool := (srMovs n && !srPerThread n) || (0x80 ≤ n && n ≤ 0xBF)

/-- Indices SRW may write (R120, Table 6.2). -/
def srSrw (n : Nat) : Bool :=
  n == 0x0E || n == 0x10 || n == 0x11 || n == 0x14 || (0x80 ≤ n && n ≤ 0xBF)

/-- With neither ordering bit the scope field is 0 (R127). -/
def Ord.defect (o : Ord) : Option Defect :=
  if o.acq || o.rel || o.scope == .thread then none else some .scopeWithoutOrdering


/-- The encoding rule of form lr3q. -/
def defectLr3q (vd : Fin 128) (xa xb : Src) : Option Defect :=
  if even vd.val && xa.pairOk && xb.pairOk then none else some .groupMisaligned

/-- The encoding rule of form lr3d. -/
def defectLr3d (vd : Fin 128) : Option Defect :=
  if even vd.val then none else some .groupMisaligned

/-- The encoding rule of form liq. -/
def defectLiq (vd : Fin 128) : Option Defect :=
  if quad vd.val then none else some .groupMisaligned

/-- The encoding rule of form lip. -/
def defectLip (va : Fin 128) : Option Defect :=
  if even va.val then none else some .groupMisaligned

/-- The encoding rule of form movs. -/
def defectMovs (idx : BitVec 8) : Option Defect :=
  if srMovs idx.toNat then none else some .specialIndex

/-- The encoding rule of form mxstr. -/
def defectMxstr (xa : Src) (q8 : Bool) : Option Defect :=
  if !q8 || xa == .zero then none else some .queueSource

/-- The encoding rule of form cvt. -/
def defectCvt (conv : Conv) (mode : RMode) (inf : Bool) : Option Defect :=
  if (mode == .rne || conv.takesMode) && (!inf || conv == .f2e5) then none else some .conversion

/-- The encoding rule of form mem. -/
def defectMem (xb : Base) : Option Defect :=
  if xb.pairOk then none else some .groupMisaligned

/-- The encoding rule of form memq. -/
def defectMemq (vd : Fin 128) (xb : Base) : Option Defect :=
  if quad vd.val && xb.pairOk then none else some .groupMisaligned

/-- The encoding rule of form memd. -/
def defectMemd (vd : Fin 128) (xb : Base) : Option Defect :=
  if even vd.val && xb.pairOk then none else some .groupMisaligned

/-- The encoding rule of form ctla. -/
def defectCtla (xa : Src) : Option Defect :=
  if xa.pairOk then none else some .groupMisaligned

/-- The encoding rule of form frame. -/
def defectFrame (n : BitVec 8) : Option Defect :=
  if 16 <= n.toNat && n.toNat <= 128 && n.toNat % 8 == 0 then none else some .frameCount

/-- The encoding rule of form ur3q. -/
def defectUr3q (sd sa sb : Fin 64) : Option Defect :=
  if even sd.val && even sa.val && even sb.val then none else some .groupMisaligned

/-- The encoding rule of form uiq. -/
def defectUiq (sd sa : Fin 64) : Option Defect :=
  if even sd.val && even sa.val then none else some .groupMisaligned

/-- The encoding rule of form uia. -/
def defectUia (sa : Fin 64) : Option Defect :=
  if even sa.val then none else some .groupMisaligned

/-- The encoding rule of form urds. -/
def defectUrds (idx : BitVec 8) : Option Defect :=
  if srUrds idx.toNat then none else some .specialIndex

/-- The encoding rule of form ufence. -/
def defectUfence (ord : Ord) : Option Defect :=
  if ord.acq || ord.rel then none else some .fenceEmpty

/-- The encoding rule of form mxlds. -/
def defectMxlds (sa : Fin 64) (ord : Ord) : Option Defect :=
  if !(quad sa.val) then some .groupMisaligned else ord.defect

/-- The encoding rule of form uecmd4. -/
def defectUecmd4 (sa : Fin 64) (ord : Ord) : Option Defect :=
  if !(quad sa.val) then some .groupMisaligned else ord.defect

/-- The encoding rule of form uecmd8. -/
def defectUecmd8 (sa : Fin 64) (ord : Ord) : Option Defect :=
  if !(oct sa.val) then some .groupMisaligned else ord.defect

/-- The encoding rule of form cpfill. -/
def defectCpfill (sa : Fin 64) (ord : Ord) : Option Defect :=
  if !(oct sa.val) then some .groupMisaligned else ord.defect

/-- The encoding rule of form alloc. -/
def defectAlloc (sd : Fin 64) : Option Defect :=
  if even sd.val then none else some .groupMisaligned

/-- The encoding rule of form uea. -/
def defectUea (sa : Fin 64) : Option Defect :=
  if even sa.val then none else some .groupMisaligned

/-- The encoding rule of form ued. -/
def defectUed (sd : Fin 64) : Option Defect :=
  if even sd.val then none else some .groupMisaligned

/-- The encoding rule of form garm. -/
def defectGarm (g : Fin 16) : Option Defect :=
  if g.val != 0 then none else some .guardZero

/-- The encoding rule of form gres. -/
def defectGres (g : Fin 16) : Option Defect :=
  if g.val != 0 then none else some .guardZero

/-- The encoding rule of form ueao. -/
def defectUeao (sa : Fin 64) (ord : Ord) : Option Defect :=
  if !(even sa.val) then some .groupMisaligned else ord.defect

/-- The encoding rule of form lktry. -/
def defectLktry (sa : Fin 64) (ord : Ord) : Option Defect :=
  if !(even sa.val) then some .groupMisaligned else ord.defect

/-- The encoding rule of form uedao. -/
def defectUedao (sa sd : Fin 64) (ord : Ord) : Option Defect :=
  if !(even sa.val && even sd.val) then some .groupMisaligned else ord.defect

/-- The encoding rule of form prwait. -/
def defectPrwait (sd sa : Fin 64) (ord : Ord) : Option Defect :=
  if !(even sa.val && even sd.val) then some .groupMisaligned else ord.defect

/-- The encoding rule of form inh. -/
def defectInh (sd : Fin 64) : Option Defect :=
  if even sd.val then none else some .groupMisaligned

/-- The encoding rule of form inhnb. -/
def defectInhnb (sd : Fin 64) : Option Defect :=
  if even sd.val then none else some .groupMisaligned

/-- The encoding rule of form srw. -/
def defectSrw (idx : BitVec 8) : Option Defect :=
  if srSrw idx.toNat then none else some .specialIndex

/-- What makes a term ill-formed, if anything: the operand rules of R118, R120, R127, R130 and R299 that a word of its encoding must keep. -/
def Instr.defect : Instr → Option Defect
  | .nop _ => none
  | .iadd _ _ _ _ => none
  | .isub _ _ _ _ => none
  | .imul _ _ _ _ => none
  | .imulh _ _ _ _ => none
  | .imulhu _ _ _ _ => none
  | .imad _ _ _ _ => none
  | .imin _ _ _ _ => none
  | .imax _ _ _ _ => none
  | .umin _ _ _ _ => none
  | .umax _ _ _ _ => none
  | .idiv _ _ _ _ => none
  | .udiv _ _ _ _ => none
  | .irem _ _ _ _ => none
  | .urem _ _ _ _ => none
  | .qpushv _ _ => none
  | .and _ _ _ _ => none
  | .or _ _ _ _ => none
  | .xor _ _ _ _ => none
  | .andn _ _ _ _ => none
  | .shl _ _ _ _ => none
  | .shr _ _ _ _ => none
  | .sar _ _ _ _ => none
  | .popc _ _ _ => none
  | .clz _ _ _ => none
  | .brev _ _ _ => none
  | .bfe _ _ _ _ => none
  | .bfi _ _ _ _ => none
  | .iaddi _ _ _ _ => none
  | .andi _ _ _ _ => none
  | .ori _ _ _ _ => none
  | .xori _ _ _ _ => none
  | .shli _ _ _ _ => none
  | .shri _ _ _ _ => none
  | .sari _ _ _ _ => none
  | .movi _ _ _ => none
  | .movhi _ _ _ => none
  | .mov _ _ _ => none
  | .sel _ _ _ _ => none
  | .movs _ _ idx => defectMovs idx
  | .icmp _ _ _ _ _ => none
  | .fcmp _ _ _ _ _ => none
  | .kand _ _ _ _ => none
  | .kor _ _ _ _ => none
  | .kxor _ _ _ _ => none
  | .kandn _ _ _ _ => none
  | .knot _ _ _ => none
  | .ktov _ _ _ => none
  | .vtok _ _ _ => none
  | .iadd64 _ vd xa xb => defectLr3q vd xa xb
  | .imulw _ vd _ _ => defectLr3d vd
  | .fadd _ _ _ _ => none
  | .fsub _ _ _ _ => none
  | .fmul _ _ _ _ => none
  | .ffma _ _ _ _ => none
  | .fmin _ _ _ _ => none
  | .fmax _ _ _ _ => none
  | .fdiv _ _ _ _ => none
  | .fabs _ _ _ => none
  | .fneg _ _ _ => none
  | .ffloor _ _ _ => none
  | .fceil _ _ _ => none
  | .ftrunc _ _ _ => none
  | .frint _ _ _ => none
  | .frcp _ _ _ => none
  | .frsq _ _ _ => none
  | .fsqrt _ _ _ => none
  | .fexp2 _ _ _ => none
  | .flog2 _ _ _ => none
  | .fsin _ _ _ => none
  | .fcos _ _ _ => none
  | .fclass _ _ _ => none
  | .fscale _ _ _ _ => none
  | .qpopv _ _ => none
  | .mxstr _ xa _ _ q8 _ => defectMxstr xa q8
  | .hadd2 _ _ _ _ => none
  | .hmul2 _ _ _ _ => none
  | .hfma2 _ _ _ _ => none
  | .badd2 _ _ _ _ => none
  | .bmul2 _ _ _ _ => none
  | .bfma2 _ _ _ _ => none
  | .iadd2 _ _ _ _ => none
  | .isub2 _ _ _ _ => none
  | .iadds2 _ _ _ _ => none
  | .isubs2 _ _ _ _ => none
  | .imax2 _ _ _ _ => none
  | .imin2 _ _ _ _ => none
  | .idp4 _ _ _ _ => none
  | .udp4 _ _ _ _ => none
  | .hdp2 _ _ _ _ => none
  | .bdp2 _ _ _ _ => none
  | .cvt _ conv mode inf _ _ => defectCvt conv mode inf
  | .pack _ _ _ _ => none
  | .shfl _ _ _ => none
  | .shflx _ _ _ => none
  | .ballot _ _ => none
  | .sred _ _ _ => none
  | .sscan _ _ _ _ => none
  | .matchLanes _ _ => none
  | .ldb _ _ _ xb => defectMem xb
  | .ldh _ _ _ xb => defectMem xb
  | .ldw _ _ _ xb => defectMem xb
  | .ldq _ vd _ xb => defectMemq vd xb
  | .stb _ _ _ xb => defectMem xb
  | .sth _ _ _ xb => defectMem xb
  | .stw _ _ _ xb => defectMem xb
  | .stq _ vd _ xb => defectMemq vd xb
  | .sldw _ _ _ _ => none
  | .sldq _ vd _ _ => defectLiq vd
  | .sstw _ _ _ _ => none
  | .sstq _ vd _ _ => defectLiq vd
  | .cldw _ _ _ _ => none
  | .cstw _ _ _ _ => none
  | .ldwp _ _ va _ => defectLip va
  | .stwp _ _ va _ => defectLip va
  | .axch _ _ xb => defectMem xb
  | .acas vd _ xb => defectMemd vd xb
  | .aadd _ _ xb => defectMem xb
  | .aimin _ _ xb => defectMem xb
  | .aimax _ _ xb => defectMem xb
  | .aumin _ _ xb => defectMem xb
  | .aumax _ _ xb => defectMem xb
  | .aand _ _ xb => defectMem xb
  | .aor _ _ xb => defectMem xb
  | .axor _ _ xb => defectMem xb
  | .afadd _ _ xb => defectMem xb
  | .br _ _ => none
  | .brn _ _ => none
  | .jmp _ => none
  | .call _ => none
  | .ret => none
  | .jr xa => defectCtla xa
  | .callr xa => defectCtla xa
  | .exit => none
  | .yield => none
  | .frame _ n => defectFrame n
  | .unop _ => none
  | .uadd _ _ _ _ => none
  | .usub _ _ _ _ => none
  | .umul _ _ _ _ => none
  | .umulh _ _ _ _ => none
  | .uand _ _ _ _ => none
  | .uor _ _ _ _ => none
  | .uxor _ _ _ _ => none
  | .ushl _ _ _ _ => none
  | .ushr _ _ _ _ => none
  | .usar _ _ _ _ => none
  | .uimin _ _ _ _ => none
  | .uimax _ _ _ _ => none
  | .uminu _ _ _ _ => none
  | .umaxu _ _ _ _ => none
  | .uaddi _ _ _ _ => none
  | .uandi _ _ _ _ => none
  | .ushli _ _ _ _ => none
  | .ushri _ _ _ _ => none
  | .umovi _ _ _ => none
  | .umovhi _ _ _ => none
  | .umov _ _ _ => none
  | .urds _ _ idx => defectUrds idx
  | .uadd64 _ sd sa sb => defectUr3q sd sa sb
  | .uaddi64 _ sd sa _ => defectUiq sd sa
  | .ucmp _ _ _ _ _ => none
  | .jand _ _ _ _ => none
  | .jor _ _ _ _ => none
  | .jxor _ _ _ _ => none
  | .jandn _ _ _ _ => none
  | .jnot _ _ _ => none
  | .ubr _ _ => none
  | .ubrn _ _ => none
  | .uldw _ _ sa _ => defectUia sa
  | .uldd _ sd sa _ => defectUiq sd sa
  | .ustw _ _ sa _ => defectUia sa
  | .ufence ord => defectUfence ord
  | .qpush _ _ => none
  | .qpop _ _ => none
  | .qtry _ _ _ => none
  | .mxlds sa _ _ ord => defectMxlds sa ord
  | .mxswap _ => none
  | .mxdrn _ sa _ ord => defectUecmd4 sa ord
  | .mxzero _ _ => none
  | .cpcopy _ sa _ ord => defectUecmd8 sa ord
  | .cpgath _ sa _ ord => defectUecmd8 sa ord
  | .cpscat _ sa _ ord => defectUecmd8 sa ord
  | .cpfill _ sa _ _ ord => defectCpfill sa ord
  | .alloc sd _ => defectAlloc sd
  | .free sa => defectUea sa
  | .fetch sd => defectUed sd
  | .bars _ => none
  | .bara _ => none
  | .barw _ => none
  | .gbar => none
  | .chinit _ _ _ => none
  | .chpush _ _ => none
  | .chpop _ _ => none
  | .garm g => defectGarm g
  | .gres g _ => defectGres g
  | .lkacq sa ord => defectUeao sa ord
  | .lktry _ sa ord => defectLktry sa ord
  | .lkrel sa ord => defectUeao sa ord
  | .prmake sa => defectUea sa
  | .prset sa sd ord => defectUedao sa sd ord
  | .prwait sd _ sa ord => defectPrwait sd sa ord
  | .setheir _ => none
  | .inherit sd => defectInh sd
  | .inheritNb sd _ => defectInhnb sd
  | .waitsig sa sd ord => defectUedao sa sd ord
  | .sigadd sa sd ord => defectUedao sa sd ord
  | .publish _ => none
  | .trap _ => none
  | .hret => none
  | .bkpt _ => none
  | .srw idx _ => defectSrw idx
  | .rfetch _ _ => none
  | .rpost _ _ => none
  | .bfx _ _ _ _ _ => none
  | .bfiPorter _ _ _ _ _ => none
  | .swait _ _ => none
  | .sarm _ _ => none
  | .disp _ _ _ => none
  | .dstat _ _ => none
  | .unimplementedEncoding _ => none
  | .porterException _ => none
  | .launch _ _ => none
  | .launchMeasured _ => none
  | .holdExpire _ => none
  | .launchBind => none
  | .rowLoad _ _ => none
  | .rowLoadComplete _ => none
  | .pick _ _ _ => none
  | .runFault _ _ => none
  | .slowGearWord _ _ => none
  | .handlerEntry _ => none
  | .escalationKill _ => none
  | .convey _ => none
  | .rowDrainComplete _ => none
  | .evictSaveComplete _ => none
  | .rotation _ => none
  | .restoreComplete _ => none
  | .foregroundSwap _ => none
  | .launchEnd _ => none
  | .launchCommit _ => none
  | .snapshotCopy _ _ => none
  | .rollbackKill _ _ => none
  | .hbmPatrolRead _ _ _ => none
  | .cellarRefreshWindowStart _ _ _ => none
  | .cellarRefreshWindowEnd _ => none
  | .storeLeave _ _ => none
  | .releasePerform _ => none
  | .storeCarry _ _ _ _ => none
  | .copyDrop _ _ => none
  | .loadPerform _ _ => none
  | .atomicPerform _ _ => none
  | .pageWalkComplete _ _ _ => none
  | .atsTranslationCompletion _ _ _ _ _ _ _ => none
  | .priResponseSuccess _ _ => none
  | .priResponseInvalid _ _ => none
  | .priResponseFailure _ _ => none
  | .atsInvalidateRequest _ _ _ => none
  | .invalidationComplete _ => none
  | .mxldsCommandRun _ => none
  | .mxswapCommandRun _ => none
  | .streamRowFeed _ _ => none
  | .mxdrnCommandRun _ => none
  | .mxzeroCommandRun _ => none
  | .copyCommandComplete _ => none
  | .storekeeperReply _ _ => none
  | .storekeeperFree _ => none
  | .dispenserRefill _ => none
  | .publicationPerform _ => none
  | .cellarFill _ _ => none
  | .cellarFillEnd _ => none
  | .copy _ _ => none
  | .signalSet _ _ => none
  | .signalWait _ _ => none
  | .pubCreate _ _ => none
  | .pubDestroy _ _ => none
  | .receiptSeal _ _ => none
  | .receiptRequest _ _ _ => none
  | .windowExport _ _ => none
  | .windowGrant _ _ _ _ _ _ _ _ => none
  | .windowRevoke _ _ => none
  | .keyInstall _ _ => none
  | .storageBind _ _ => none
  | .storageRequestServe _ => none
  | .storageDone _ _ => none
  | .debugHalt _ _ => none
  | .debugResume _ _ => none
  | .debugStep _ _ => none
  | .debugClaim _ _ => none
  | .debugRead _ _ => none
  | .debugKill _ _ => none
  | .debugSetDump _ _ => none
  | .contextCreate _ _ => none
  | .contextDestroy _ _ => none
  | .tlbInvalidate _ _ => none
  | .setRegions _ _ => none
  | .setTolerance _ _ => none
  | .cellarGrant _ _ => none
  | .partition _ _ => none
  | .eventRoute _ _ => none
  | .porterImage _ _ => none
  | .inject _ _ => none
  | .injectorFire _ => none
  | .queueNotify _ _ _ _ _ _ => none
  | .featuresOk _ _ => none
  | .functionReset _ => none
  | .queueReset _ => none
  | .queueRemap _ => none
  | .partitionFreeze _ => none
  | .partitionResume _ => none
  | .fabricRequestReceive _ _ _ _ _ _ _ => none
  | .flitCrcFail _ _ => none
  | .portRetrain _ _ => none
  | .portUp _ => none
  | .flitGroupTagFail _ _ _ _ => none
  | .pcieLinkTrain _ _ => none
  | .pcieErrorLogged _ _ _ => none
  | .poisonedTlpReceived _ _ _ => none
  | .operatingPointChange _ _ => none
  | .powerAboveDesign _ _ => none
  | .throttleTemperature _ _ _ => none
  | .throttleEnd => none
  | .shutdownTemperature _ _ => none
  | .powerInputValid => none
  | .strongroomBoot => none
  | .strongroomInit => none
  | .hostClassStart => none
  | .hbmTrain => none
  | .porterStart => none
  | .ternathTrain _ _ => none
  | .pcieEnable => none
  | .tlbEntryDrop _ _ _ => none
  | .priReenable _ => none
  | .queueEnable _ _ => none
  | .powerLoss => none
  | .configurationRequest _ _ _ _ => none
  | .strongroomManagementRequest _ _ => none

/-- A term that a word can stand for. -/
def Instr.wf (i : Instr) : Bool := i.defect == none

end Sys2Proof
end

