-- ==== Sys2Proof/Decode.lean ====
section
/-! DEFINITION. The decoder and the encoder of both instruction sets and of the Porter extension (06 R121 to R132; 11 R260). -/

namespace Sys2Proof

/-- Why a word is an unimplemented encoding (R122). -/
inductive Reject where
  /-- A reserved major opcode. -/
  | majorReserved
  /-- A reserved function, condition, format, scope or source code. -/
  | codeReserved
  /-- A field the tables mark 0 is not 0. -/
  | fieldNotZero
  /-- A word of a class of Table 1.4 whose B flag is 0. -/
  | runPosition
  /-- The term breaks an operand rule. -/
  | illFormed (d : Defect)
  /-- A Porter word outside the extension (R260). -/
  | notExtension
  deriving DecidableEq, Repr

/-- Scope and ordering bits of form UE; none for scope code 7 (R127, R299). -/
def Ord.ofField? (f : Nat) : Option Ord :=
  match Scope.ofCode? (fld f 4 3) with
  | some sc => some ⟨sc, fld f 3 1 == 1, fld f 2 1 == 1⟩
  | none => none

/-- A word of Table 1.4 ends its run (R18, R122). -/
def ending (b : Bool) (r : Except Reject Instr) : Except Reject Instr :=
  if b then r else .error .runPosition

/-- A decoded term is an instruction only if it is well-formed (R122). -/
def checked (r : Except Reject Instr) : Except Reject Instr :=
  match r with
  | .ok i =>
    match i.defect with
    | none => .ok i
    | some d => .error (.illFormed d)
  | .error x => .error x


/-- Fields of form nop (R123, R126). -/
def decNop (f : Nat) (mk : Instr) : Except Reject Instr :=
  if fld f 0 23 == 0 then
    .ok mk
  else .error .fieldNotZero

/-- Fields of form zero (R123, R126). -/
def decZero (f : Nat) (mk : Instr) : Except Reject Instr :=
  if fld f 0 23 == 0 then
    .ok mk
  else .error .fieldNotZero

/-- Fields of form lr3 (R123, R126). -/
def decLr3 (f : Nat) (mk : Fin 128 → Src → Src → Instr) : Except Reject Instr :=
  match Src.ofCode? (fld f 8 8), Src.ofCode? (fld f 0 8) with
    | some xa, some xb => .ok (mk (finAt 128 (fld f 16 7)) xa xb)
    | _, _ => .error .codeReserved

/-- Fields of form lr3q (R123, R126). -/
def decLr3q (f : Nat) (mk : Fin 128 → Src → Src → Instr) : Except Reject Instr :=
  match Src.ofCode? (fld f 8 8), Src.ofCode? (fld f 0 8) with
    | some xa, some xb => .ok (mk (finAt 128 (fld f 16 7)) xa xb)
    | _, _ => .error .codeReserved

/-- Fields of form lr3d (R123, R126). -/
def decLr3d (f : Nat) (mk : Fin 128 → Src → Src → Instr) : Except Reject Instr :=
  match Src.ofCode? (fld f 8 8), Src.ofCode? (fld f 0 8) with
    | some xa, some xb => .ok (mk (finAt 128 (fld f 16 7)) xa xb)
    | _, _ => .error .codeReserved

/-- Fields of form lr2 (R123, R126). -/
def decLr2 (f : Nat) (mk : Fin 128 → Src → Instr) : Except Reject Instr :=
  if fld f 0 8 == 0 then
    match Src.ofCode? (fld f 8 8) with
    | some xa => .ok (mk (finAt 128 (fld f 16 7)) xa)
    | none => .error .codeReserved
  else .error .fieldNotZero

/-- Fields of form li (R123, R126). -/
def decLi (f : Nat) (mk : Fin 128 → Src → BitVec 8 → Instr) : Except Reject Instr :=
  match Src.ofCode? (fld f 8 8) with
    | some xa => .ok (mk (finAt 128 (fld f 16 7)) xa (BitVec.ofNat 8 (fld f 0 8)))
    | none => .error .codeReserved

/-- Fields of form liq (R123, R126). -/
def decLiq (f : Nat) (mk : Fin 128 → Src → BitVec 8 → Instr) : Except Reject Instr :=
  match Src.ofCode? (fld f 8 8) with
    | some xa => .ok (mk (finAt 128 (fld f 16 7)) xa (BitVec.ofNat 8 (fld f 0 8)))
    | none => .error .codeReserved

/-- Fields of form lip (R123, R126). -/
def decLip (f : Nat) (mk : Fin 128 → Fin 128 → BitVec 8 → Instr) : Except Reject Instr :=
  if fld f 15 1 == 0 then .ok (mk (finAt 128 (fld f 16 7)) (finAt 128 (fld f 8 7)) (BitVec.ofNat 8 (fld f 0 8)))
  else .error .codeReserved

/-- Fields of form lm (R123, R126). -/
def decLm (f : Nat) (mk : Fin 128 → BitVec 16 → Instr) : Except Reject Instr :=
  .ok (mk (finAt 128 (fld f 16 7)) (BitVec.ofNat 16 (fld f 0 16)))

/-- Fields of form movs (R123, R126). -/
def decMovs (f : Nat) (mk : Fin 128 → BitVec 8 → Instr) : Except Reject Instr :=
  if fld f 0 8 == 0 then
    .ok (mk (finAt 128 (fld f 16 7)) (BitVec.ofNat 8 (fld f 8 8)))
  else .error .fieldNotZero

/-- Fields of form icmp (R123, R126). -/
def decIcmp (f : Nat) (mk : ICond → Fin 8 → Src → Src → Instr) : Except Reject Instr :=
  match ICond.ofCode? (fld f 19 4), Src.ofCode? (fld f 8 8), Src.ofCode? (fld f 0 8) with
    | some cc, some xa, some xb => .ok (mk cc (finAt 8 (fld f 16 3)) xa xb)
    | _, _, _ => .error .codeReserved

/-- Fields of form fcmp (R123, R126). -/
def decFcmp (f : Nat) (mk : FCond → Fin 8 → Src → Src → Instr) : Except Reject Instr :=
  match FCond.ofCode? (fld f 19 4), Src.ofCode? (fld f 8 8), Src.ofCode? (fld f 0 8) with
    | some cc, some xa, some xb => .ok (mk cc (finAt 8 (fld f 16 3)) xa xb)
    | _, _, _ => .error .codeReserved

/-- Fields of form kop (R123, R126). -/
def decKop (f : Nat) (mk : Fin 8 → Fin 8 → Fin 8 → Instr) : Except Reject Instr :=
  if fld f 11 5 == 0 && fld f 3 5 == 0 then
    .ok (mk (finAt 8 (fld f 16 3)) (finAt 8 (fld f 8 3)) (finAt 8 (fld f 0 3)))
  else .error .fieldNotZero

/-- Fields of form knot (R123, R126). -/
def decKnot (f : Nat) (mk : Fin 8 → Fin 8 → Instr) : Except Reject Instr :=
  if fld f 11 5 == 0 && fld f 0 8 == 0 then
    .ok (mk (finAt 8 (fld f 16 3)) (finAt 8 (fld f 8 3)))
  else .error .fieldNotZero

/-- Fields of form ktov (R123, R126). -/
def decKtov (f : Nat) (mk : Fin 128 → Fin 8 → Instr) : Except Reject Instr :=
  if fld f 11 5 == 0 && fld f 0 8 == 0 then
    .ok (mk (finAt 128 (fld f 16 7)) (finAt 8 (fld f 8 3)))
  else .error .fieldNotZero

/-- Fields of form vtok (R123, R126). -/
def decVtok (f : Nat) (mk : Fin 8 → Src → Instr) : Except Reject Instr :=
  if fld f 19 4 == 0 && fld f 0 8 == 0 then
    match Src.ofCode? (fld f 8 8) with
    | some xa => .ok (mk (finAt 8 (fld f 16 3)) xa)
    | none => .error .codeReserved
  else .error .fieldNotZero

/-- Fields of form fun (R123, R126). -/
def decFun (f : Nat) (mk : Fin 128 → Src → Instr) : Except Reject Instr :=
  match Src.ofCode? (fld f 8 8) with
    | some xa => .ok (mk (finAt 128 (fld f 16 7)) xa)
    | none => .error .codeReserved

/-- Fields of form qpushv (R123, R126). -/
def decQpushv (f : Nat) (mk : Fin 16 → Fin 128 → Instr) : Except Reject Instr :=
  if fld f 8 8 == 0 && fld f 4 4 == 0 then
    .ok (mk (finAt 16 (fld f 0 4)) (finAt 128 (fld f 16 7)))
  else .error .fieldNotZero

/-- Fields of form qpopv (R123, R126). -/
def decQpopv (f : Nat) (mk : Fin 128 → Fin 16 → Instr) : Except Reject Instr :=
  if fld f 8 8 == 0 && fld f 4 4 == 0 then
    .ok (mk (finAt 128 (fld f 16 7)) (finAt 16 (fld f 0 4)))
  else .error .fieldNotZero

/-- Fields of form mxstr (R123, R126). -/
def decMxstr (f : Nat) (mk : Fin 8 → Src → Fin 128 → BitVec 2 → Bool → Bool → Instr) : Except Reject Instr :=
  if fld f 7 1 == 0 then
    match Src.ofCode? (fld f 8 8) with
    | some xa => .ok (mk (finAt 8 (fld f 0 3)) xa (finAt 128 (fld f 16 7)) (BitVec.ofNat 2 (fld f 3 2)) (fld f 5 1 == 1) (fld f 6 1 == 1))
    | none => .error .codeReserved
  else .error .fieldNotZero

/-- Fields of form cvt (R123, R126). -/
def decCvt (f : Nat) (mk : Conv → RMode → Bool → Fin 128 → Src → Instr) : Except Reject Instr :=
  if fld f 7 1 == 0 then
    match Conv.ofCode? (fld f 0 4), RMode.ofCode? (fld f 4 2), Src.ofCode? (fld f 8 8) with
    | some conv, some mode, some xa => .ok (mk conv mode (fld f 6 1 == 1) (finAt 128 (fld f 16 7)) xa)
    | _, _, _ => .error .codeReserved
  else .error .fieldNotZero

/-- Fields of form sred (R123, R126). -/
def decSred (f : Nat) (mk : RedOp → Fin 128 → Src → Instr) : Except Reject Instr :=
  if fld f 4 4 == 0 then
    match RedOp.ofCode? (fld f 0 4), Src.ofCode? (fld f 8 8) with
    | some op, some xa => .ok (mk op (finAt 128 (fld f 16 7)) xa)
    | _, _ => .error .codeReserved
  else .error .fieldNotZero

/-- Fields of form sscan (R123, R126). -/
def decSscan (f : Nat) (mk : RedOp → Bool → Fin 128 → Src → Instr) : Except Reject Instr :=
  if fld f 5 3 == 0 then
    match RedOp.ofCode? (fld f 0 4), Src.ofCode? (fld f 8 8) with
    | some op, some xa => .ok (mk op (fld f 4 1 == 1) (finAt 128 (fld f 16 7)) xa)
    | _, _ => .error .codeReserved
  else .error .fieldNotZero

/-- Fields of form mem (R123, R126). -/
def decMem (f : Nat) (mk : Fin 128 → Src → Base → Instr) : Except Reject Instr :=
  match Src.ofCode? (fld f 8 8), Base.ofCode? (fld f 0 8) with
    | some xa, some xb => .ok (mk (finAt 128 (fld f 16 7)) xa xb)
    | _, _ => .error .codeReserved

/-- Fields of form memq (R123, R126). -/
def decMemq (f : Nat) (mk : Fin 128 → Src → Base → Instr) : Except Reject Instr :=
  match Src.ofCode? (fld f 8 8), Base.ofCode? (fld f 0 8) with
    | some xa, some xb => .ok (mk (finAt 128 (fld f 16 7)) xa xb)
    | _, _ => .error .codeReserved

/-- Fields of form memd (R123, R126). -/
def decMemd (f : Nat) (mk : Fin 128 → Src → Base → Instr) : Except Reject Instr :=
  match Src.ofCode? (fld f 8 8), Base.ofCode? (fld f 0 8) with
    | some xa, some xb => .ok (mk (finAt 128 (fld f 16 7)) xa xb)
    | _, _ => .error .codeReserved

/-- Fields of form br (R123, R126). -/
def decBr (f : Nat) (mk : Fin 8 → BitVec 20 → Instr) : Except Reject Instr :=
  .ok (mk (finAt 8 (fld f 20 3)) (BitVec.ofNat 20 (fld f 0 20)))

/-- Fields of form jmp (R123, R126). -/
def decJmp (f : Nat) (mk : BitVec 20 → Instr) : Except Reject Instr :=
  if fld f 20 3 == 0 then
    .ok (mk (BitVec.ofNat 20 (fld f 0 20)))
  else .error .fieldNotZero

/-- Fields of form ctl0 (R123, R126). -/
def decCtl0 (f : Nat) (mk : Instr) : Except Reject Instr :=
  if fld f 16 7 == 0 && fld f 8 8 == 0 then
    .ok mk
  else .error .fieldNotZero

/-- Fields of form ctla (R123, R126). -/
def decCtla (f : Nat) (mk : Src → Instr) : Except Reject Instr :=
  if fld f 16 7 == 0 then
    match Src.ofCode? (fld f 8 8) with
    | some xa => .ok (mk xa)
    | none => .error .codeReserved
  else .error .fieldNotZero

/-- Fields of form frame (R123, R126). -/
def decFrame (f : Nat) (mk : BitVec 8 → Instr) : Except Reject Instr :=
  if fld f 16 7 == 0 then
    .ok (mk (BitVec.ofNat 8 (fld f 8 8)))
  else .error .fieldNotZero

/-- Fields of form ur3 (R123, R126). -/
def decUr3 (f : Nat) (mk : Fin 64 → Fin 64 → Fin 64 → Instr) : Except Reject Instr :=
  if fld f 6 5 == 0 then
    .ok (mk (finAt 64 (fld f 17 6)) (finAt 64 (fld f 11 6)) (finAt 64 (fld f 0 6)))
  else .error .fieldNotZero

/-- Fields of form ur3q (R123, R126). -/
def decUr3q (f : Nat) (mk : Fin 64 → Fin 64 → Fin 64 → Instr) : Except Reject Instr :=
  if fld f 6 5 == 0 then
    .ok (mk (finAt 64 (fld f 17 6)) (finAt 64 (fld f 11 6)) (finAt 64 (fld f 0 6)))
  else .error .fieldNotZero

/-- Fields of form ur2 (R123, R126). -/
def decUr2 (f : Nat) (mk : Fin 64 → Fin 64 → Instr) : Except Reject Instr :=
  if fld f 0 11 == 0 then
    .ok (mk (finAt 64 (fld f 17 6)) (finAt 64 (fld f 11 6)))
  else .error .fieldNotZero

/-- Fields of form ui (R123, R126). -/
def decUi (f : Nat) (mk : Fin 64 → Fin 64 → BitVec 11 → Instr) : Except Reject Instr :=
  .ok (mk (finAt 64 (fld f 17 6)) (finAt 64 (fld f 11 6)) (BitVec.ofNat 11 (fld f 0 11)))

/-- Fields of form uiq (R123, R126). -/
def decUiq (f : Nat) (mk : Fin 64 → Fin 64 → BitVec 11 → Instr) : Except Reject Instr :=
  .ok (mk (finAt 64 (fld f 17 6)) (finAt 64 (fld f 11 6)) (BitVec.ofNat 11 (fld f 0 11)))

/-- Fields of form uia (R123, R126). -/
def decUia (f : Nat) (mk : Fin 64 → Fin 64 → BitVec 11 → Instr) : Except Reject Instr :=
  .ok (mk (finAt 64 (fld f 17 6)) (finAt 64 (fld f 11 6)) (BitVec.ofNat 11 (fld f 0 11)))

/-- Fields of form um (R123, R126). -/
def decUm (f : Nat) (mk : Fin 64 → BitVec 16 → Instr) : Except Reject Instr :=
  if fld f 16 1 == 0 then
    .ok (mk (finAt 64 (fld f 17 6)) (BitVec.ofNat 16 (fld f 0 16)))
  else .error .fieldNotZero

/-- Fields of form urds (R123, R126). -/
def decUrds (f : Nat) (mk : Fin 64 → BitVec 8 → Instr) : Except Reject Instr :=
  if fld f 8 3 == 0 && fld f 11 6 == 0 then
    .ok (mk (finAt 64 (fld f 17 6)) (BitVec.ofNat 8 (fld f 0 8)))
  else .error .fieldNotZero

/-- Fields of form ucmp (R123, R126). -/
def decUcmp (f : Nat) (mk : ICond → Fin 8 → Fin 64 → Fin 64 → Instr) : Except Reject Instr :=
  if fld f 20 3 == 0 then
    match ICond.ofCode? (fld f 6 5) with
    | some cc => .ok (mk cc (finAt 8 (fld f 17 3)) (finAt 64 (fld f 11 6)) (finAt 64 (fld f 0 6)))
    | none => .error .codeReserved
  else .error .fieldNotZero

/-- Fields of form jop (R123, R126). -/
def decJop (f : Nat) (mk : Fin 8 → Fin 8 → Fin 8 → Instr) : Except Reject Instr :=
  if fld f 20 3 == 0 && fld f 14 3 == 0 && fld f 3 3 == 0 then
    .ok (mk (finAt 8 (fld f 17 3)) (finAt 8 (fld f 11 3)) (finAt 8 (fld f 0 3)))
  else .error .fieldNotZero

/-- Fields of form jnot (R123, R126). -/
def decJnot (f : Nat) (mk : Fin 8 → Fin 8 → Instr) : Except Reject Instr :=
  if fld f 20 3 == 0 && fld f 14 3 == 0 && fld f 0 6 == 0 then
    .ok (mk (finAt 8 (fld f 17 3)) (finAt 8 (fld f 11 3)))
  else .error .fieldNotZero

/-- Fields of form ufence (R123, R126). -/
def decUfence (f : Nat) (mk : Ord → Instr) : Except Reject Instr :=
  if fld f 7 16 == 0 && fld f 0 2 == 0 then
    match Ord.ofField? f with
    | some ord => .ok (mk ord)
    | none => .error .codeReserved
  else .error .fieldNotZero

/-- Fields of form qpush (R123, R126). -/
def decQpush (f : Nat) (mk : Fin 16 → Fin 64 → Instr) : Except Reject Instr :=
  if fld f 21 2 == 0 && fld f 0 11 == 0 then
    .ok (mk (finAt 16 (fld f 17 4)) (finAt 64 (fld f 11 6)))
  else .error .fieldNotZero

/-- Fields of form qpop (R123, R126). -/
def decQpop (f : Nat) (mk : Fin 64 → Fin 16 → Instr) : Except Reject Instr :=
  if fld f 15 2 == 0 && fld f 0 11 == 0 then
    .ok (mk (finAt 64 (fld f 17 6)) (finAt 16 (fld f 11 4)))
  else .error .fieldNotZero

/-- Fields of form qtry (R123, R126). -/
def decQtry (f : Nat) (mk : Fin 64 → Fin 8 → Fin 16 → Instr) : Except Reject Instr :=
  if fld f 15 2 == 0 && fld f 3 8 == 0 then
    .ok (mk (finAt 64 (fld f 17 6)) (finAt 8 (fld f 0 3)) (finAt 16 (fld f 11 4)))
  else .error .fieldNotZero

/-- Fields of form mxlds (R123, R126). -/
def decMxlds (f : Nat) (mk : Fin 64 → WFmt → Fin 16 → Ord → Instr) : Except Reject Instr :=
  if fld f 18 5 == 0 then
    match WFmt.ofCode? (fld f 17 1 * 4 + fld f 0 2), Ord.ofField? f with
    | some fmt, some ord => .ok (mk (finAt 64 (fld f 11 6)) fmt (finAt 16 (fld f 7 4)) ord)
    | _, _ => .error .codeReserved
  else .error .fieldNotZero

/-- Fields of form ueg (R123, R126). -/
def decUeg (f : Nat) (mk : Fin 16 → Instr) : Except Reject Instr :=
  if fld f 11 12 == 0 && fld f 0 7 == 0 then
    .ok (mk (finAt 16 (fld f 7 4)))
  else .error .fieldNotZero

/-- Fields of form uecmd4 (R123, R126). -/
def decUecmd4 (f : Nat) (mk : Fin 64 → Fin 64 → Fin 16 → Ord → Instr) : Except Reject Instr :=
  if fld f 0 2 == 0 then
    match Ord.ofField? f with
    | some ord => .ok (mk (finAt 64 (fld f 17 6)) (finAt 64 (fld f 11 6)) (finAt 16 (fld f 7 4)) ord)
    | none => .error .codeReserved
  else .error .fieldNotZero

/-- Fields of form uecmd8 (R123, R126). -/
def decUecmd8 (f : Nat) (mk : Fin 64 → Fin 64 → Fin 16 → Ord → Instr) : Except Reject Instr :=
  if fld f 0 2 == 0 then
    match Ord.ofField? f with
    | some ord => .ok (mk (finAt 64 (fld f 17 6)) (finAt 64 (fld f 11 6)) (finAt 16 (fld f 7 4)) ord)
    | none => .error .codeReserved
  else .error .fieldNotZero

/-- Fields of form cpfill (R123, R126). -/
def decCpfill (f : Nat) (mk : Fin 64 → Fin 64 → ElemSize → Fin 16 → Ord → Instr) : Except Reject Instr :=
  match ElemSize.ofCode? (fld f 0 2), Ord.ofField? f with
    | some size, some ord => .ok (mk (finAt 64 (fld f 17 6)) (finAt 64 (fld f 11 6)) size (finAt 16 (fld f 7 4)) ord)
    | _, _ => .error .codeReserved

/-- Fields of form mxzero (R123, R126). -/
def decMxzero (f : Nat) (mk : Fin 8 → Fin 16 → Instr) : Except Reject Instr :=
  if fld f 14 9 == 0 && fld f 0 7 == 0 then
    .ok (mk (finAt 8 (fld f 11 3)) (finAt 16 (fld f 7 4)))
  else .error .fieldNotZero

/-- Fields of form alloc (R123, R126). -/
def decAlloc (f : Nat) (mk : Fin 64 → Fin 64 → Instr) : Except Reject Instr :=
  if fld f 0 11 == 0 then
    .ok (mk (finAt 64 (fld f 17 6)) (finAt 64 (fld f 11 6)))
  else .error .fieldNotZero

/-- Fields of form uea (R123, R126). -/
def decUea (f : Nat) (mk : Fin 64 → Instr) : Except Reject Instr :=
  if fld f 17 6 == 0 && fld f 0 11 == 0 then
    .ok (mk (finAt 64 (fld f 11 6)))
  else .error .fieldNotZero

/-- Fields of form ue1 (R123, R126). -/
def decUe1 (f : Nat) (mk : Fin 64 → Instr) : Except Reject Instr :=
  if fld f 17 6 == 0 && fld f 0 11 == 0 then
    .ok (mk (finAt 64 (fld f 11 6)))
  else .error .fieldNotZero

/-- Fields of form ued (R123, R126). -/
def decUed (f : Nat) (mk : Fin 64 → Instr) : Except Reject Instr :=
  if fld f 0 17 == 0 then
    .ok (mk (finAt 64 (fld f 17 6)))
  else .error .fieldNotZero

/-- Fields of form bar (R123, R126). -/
def decBar (f : Nat) (mk : Fin 16 → Instr) : Except Reject Instr :=
  if fld f 4 19 == 0 then
    .ok (mk (finAt 16 (fld f 0 4)))
  else .error .fieldNotZero

/-- Fields of form chinit (R123, R126). -/
def decChinit (f : Nat) (mk : Fin 16 → Fin 64 → Fin 64 → Instr) : Except Reject Instr :=
  if fld f 21 2 == 0 && fld f 6 5 == 0 then
    .ok (mk (finAt 16 (fld f 17 4)) (finAt 64 (fld f 11 6)) (finAt 64 (fld f 0 6)))
  else .error .fieldNotZero

/-- Fields of form chpush (R123, R126). -/
def decChpush (f : Nat) (mk : Fin 16 → Fin 64 → Instr) : Except Reject Instr :=
  if fld f 21 2 == 0 && fld f 0 11 == 0 then
    .ok (mk (finAt 16 (fld f 17 4)) (finAt 64 (fld f 11 6)))
  else .error .fieldNotZero

/-- Fields of form chpop (R123, R126). -/
def decChpop (f : Nat) (mk : Fin 64 → Fin 16 → Instr) : Except Reject Instr :=
  if fld f 11 6 == 0 && fld f 4 7 == 0 then
    .ok (mk (finAt 64 (fld f 17 6)) (finAt 16 (fld f 0 4)))
  else .error .fieldNotZero

/-- Fields of form garm (R123, R126). -/
def decGarm (f : Nat) (mk : Fin 16 → Instr) : Except Reject Instr :=
  if fld f 11 12 == 0 && fld f 0 7 == 0 then
    .ok (mk (finAt 16 (fld f 7 4)))
  else .error .fieldNotZero

/-- Fields of form gres (R123, R126). -/
def decGres (f : Nat) (mk : Fin 16 → Fin 8 → Instr) : Except Reject Instr :=
  if fld f 20 3 == 0 && fld f 11 6 == 0 && fld f 0 7 == 0 then
    .ok (mk (finAt 16 (fld f 7 4)) (finAt 8 (fld f 17 3)))
  else .error .fieldNotZero

/-- Fields of form ueao (R123, R126). -/
def decUeao (f : Nat) (mk : Fin 64 → Ord → Instr) : Except Reject Instr :=
  if fld f 17 6 == 0 && fld f 7 4 == 0 && fld f 0 2 == 0 then
    match Ord.ofField? f with
    | some ord => .ok (mk (finAt 64 (fld f 11 6)) ord)
    | none => .error .codeReserved
  else .error .fieldNotZero

/-- Fields of form lktry (R123, R126). -/
def decLktry (f : Nat) (mk : Fin 8 → Fin 64 → Ord → Instr) : Except Reject Instr :=
  if fld f 20 3 == 0 && fld f 7 4 == 0 && fld f 0 2 == 0 then
    match Ord.ofField? f with
    | some ord => .ok (mk (finAt 8 (fld f 17 3)) (finAt 64 (fld f 11 6)) ord)
    | none => .error .codeReserved
  else .error .fieldNotZero

/-- Fields of form uedao (R123, R126). -/
def decUedao (f : Nat) (mk : Fin 64 → Fin 64 → Ord → Instr) : Except Reject Instr :=
  if fld f 7 4 == 0 && fld f 0 2 == 0 then
    match Ord.ofField? f with
    | some ord => .ok (mk (finAt 64 (fld f 11 6)) (finAt 64 (fld f 17 6)) ord)
    | none => .error .codeReserved
  else .error .fieldNotZero

/-- Fields of form prwait (R123, R126). -/
def decPrwait (f : Nat) (mk : Fin 64 → Fin 8 → Fin 64 → Ord → Instr) : Except Reject Instr :=
  if fld f 10 1 == 0 && fld f 0 2 == 0 then
    match Ord.ofField? f with
    | some ord => .ok (mk (finAt 64 (fld f 17 6)) (finAt 8 (fld f 7 3)) (finAt 64 (fld f 11 6)) ord)
    | none => .error .codeReserved
  else .error .fieldNotZero

/-- Fields of form inh (R123, R126). -/
def decInh (f : Nat) (mk : Fin 64 → Instr) : Except Reject Instr :=
  if fld f 2 15 == 0 then
    .ok (mk (finAt 64 (fld f 17 6)))
  else .error .fieldNotZero

/-- Fields of form inhnb (R123, R126). -/
def decInhnb (f : Nat) (mk : Fin 64 → Fin 8 → Instr) : Except Reject Instr :=
  if fld f 10 7 == 0 && fld f 2 5 == 0 then
    .ok (mk (finAt 64 (fld f 17 6)) (finAt 8 (fld f 7 3)))
  else .error .fieldNotZero

/-- Fields of form ui0 (R123, R126). -/
def decUi0 (f : Nat) (mk : BitVec 11 → Instr) : Except Reject Instr :=
  if fld f 11 12 == 0 then
    .ok (mk (BitVec.ofNat 11 (fld f 0 11)))
  else .error .fieldNotZero

/-- Fields of form srw (R123, R126). -/
def decSrw (f : Nat) (mk : BitVec 8 → Fin 64 → Instr) : Except Reject Instr :=
  if fld f 17 6 == 0 && fld f 8 3 == 0 then
    .ok (mk (BitVec.ofNat 8 (fld f 0 8)) (finAt 64 (fld f 11 6)))
  else .error .fieldNotZero

/-- Opcodes 0x00 to 0x07 of the lane set, by the opcode's low three bits (R129). -/
def decodeLane00 (op : Nat) (b : Bool) (f : Nat) : Except Reject Instr :=
  match op with
  | 0 => decNop f (.nop b)
  | 1 => decLr3 f (.iadd b)
  | 2 => decLr3 f (.isub b)
  | 3 => decLr3 f (.imul b)
  | 4 => decLr3 f (.imulh b)
  | 5 => decLr3 f (.imulhu b)
  | 6 => decLr3 f (.imad b)
  | 7 => decLr3 f (.imin b)
  | _ => .error .majorReserved

/-- Opcodes 0x08 to 0x0F of the lane set, by the opcode's low three bits (R129). -/
def decodeLane08 (op : Nat) (b : Bool) (f : Nat) : Except Reject Instr :=
  match op with
  | 0 => decLr3 f (.imax b)
  | 1 => decLr3 f (.umin b)
  | 2 => decLr3 f (.umax b)
  | 3 => decLr3 f (.idiv b)
  | 4 => decLr3 f (.udiv b)
  | 5 => decLr3 f (.irem b)
  | 6 => decLr3 f (.urem b)
  | 7 => ending b (decQpushv f .qpushv)
  | _ => .error .majorReserved

/-- Opcodes 0x10 to 0x17 of the lane set, by the opcode's low three bits (R129). -/
def decodeLane10 (op : Nat) (b : Bool) (f : Nat) : Except Reject Instr :=
  match op with
  | 0 => decLr3 f (.and b)
  | 1 => decLr3 f (.or b)
  | 2 => decLr3 f (.xor b)
  | 3 => decLr3 f (.andn b)
  | 4 => decLr3 f (.shl b)
  | 5 => decLr3 f (.shr b)
  | 6 => decLr3 f (.sar b)
  | 7 => decLr2 f (.popc b)
  | _ => .error .majorReserved

/-- Opcodes 0x18 to 0x1F of the lane set, by the opcode's low three bits (R129). -/
def decodeLane18 (op : Nat) (b : Bool) (f : Nat) : Except Reject Instr :=
  match op with
  | 0 => decLr2 f (.clz b)
  | 1 => decLr2 f (.brev b)
  | 2 => decLr3 f (.bfe b)
  | 3 => decLr3 f (.bfi b)
  | 4 => decLi f (.iaddi b)
  | 5 => decLi f (.andi b)
  | 6 => decLi f (.ori b)
  | 7 => decLi f (.xori b)
  | _ => .error .majorReserved

/-- Opcodes 0x20 to 0x27 of the lane set, by the opcode's low three bits (R129). -/
def decodeLane20 (op : Nat) (b : Bool) (f : Nat) : Except Reject Instr :=
  match op with
  | 0 => decLi f (.shli b)
  | 1 => decLi f (.shri b)
  | 2 => decLi f (.sari b)
  | 3 => decLm f (.movi b)
  | 4 => decLm f (.movhi b)
  | 5 => decLr2 f (.mov b)
  | 6 => decLr3 f (.sel b)
  | 7 => decMovs f (.movs b)
  | _ => .error .majorReserved

/-- Opcodes 0x28 to 0x2F of the lane set, by the opcode's low three bits (R129). -/
def decodeLane28 (op : Nat) (b : Bool) (f : Nat) : Except Reject Instr :=
  match op with
  | 0 => decIcmp f (.icmp b)
  | 1 => decFcmp f (.fcmp b)
  | 2 =>
    match fld f 19 4 with
    | 0 => decKop f (.kand b)
    | 1 => decKop f (.kor b)
    | 2 => decKop f (.kxor b)
    | 3 => decKop f (.kandn b)
    | 4 => decKnot f (.knot b)
    | _ => .error .codeReserved
  | 3 => decKtov f (.ktov b)
  | 4 => decVtok f (.vtok b)
  | 5 => decLr3q f (.iadd64 b)
  | 6 => decLr3d f (.imulw b)
  | _ => .error .majorReserved

/-- Opcodes 0x30 to 0x37 of the lane set, by the opcode's low three bits (R129). -/
def decodeLane30 (op : Nat) (b : Bool) (f : Nat) : Except Reject Instr :=
  match op with
  | 0 => decLr3 f (.fadd b)
  | 1 => decLr3 f (.fsub b)
  | 2 => decLr3 f (.fmul b)
  | 3 => decLr3 f (.ffma b)
  | 4 => decLr3 f (.fmin b)
  | 5 => decLr3 f (.fmax b)
  | 6 => decLr3 f (.fdiv b)
  | 7 =>
    match fld f 0 8 with
    | 0 => decFun f (.fabs b)
    | 1 => decFun f (.fneg b)
    | 2 => decFun f (.ffloor b)
    | 3 => decFun f (.fceil b)
    | 4 => decFun f (.ftrunc b)
    | 5 => decFun f (.frint b)
    | 6 => decFun f (.frcp b)
    | 7 => decFun f (.frsq b)
    | 8 => decFun f (.fsqrt b)
    | 9 => decFun f (.fexp2 b)
    | 10 => decFun f (.flog2 b)
    | 11 => decFun f (.fsin b)
    | 12 => decFun f (.fcos b)
    | 13 => decFun f (.fclass b)
    | _ => .error .codeReserved
  | _ => .error .majorReserved

/-- Opcodes 0x38 to 0x3F of the lane set, by the opcode's low three bits (R129). -/
def decodeLane38 (op : Nat) (b : Bool) (f : Nat) : Except Reject Instr :=
  match op with
  | 0 => decLr3 f (.fscale b)
  | 1 => ending b (decQpopv f .qpopv)
  | 2 => ending b (decMxstr f .mxstr)
  | _ => .error .majorReserved

/-- Opcodes 0x40 to 0x47 of the lane set, by the opcode's low three bits (R129). -/
def decodeLane40 (op : Nat) (b : Bool) (f : Nat) : Except Reject Instr :=
  match op with
  | 0 => decLr3 f (.hadd2 b)
  | 1 => decLr3 f (.hmul2 b)
  | 2 => decLr3 f (.hfma2 b)
  | 3 => decLr3 f (.badd2 b)
  | 4 => decLr3 f (.bmul2 b)
  | 5 => decLr3 f (.bfma2 b)
  | 6 => decLr3 f (.iadd2 b)
  | 7 => decLr3 f (.isub2 b)
  | _ => .error .majorReserved

/-- Opcodes 0x48 to 0x4F of the lane set, by the opcode's low three bits (R129). -/
def decodeLane48 (op : Nat) (b : Bool) (f : Nat) : Except Reject Instr :=
  match op with
  | 0 => decLr3 f (.iadds2 b)
  | 1 => decLr3 f (.isubs2 b)
  | 2 => decLr3 f (.imax2 b)
  | 3 => decLr3 f (.imin2 b)
  | 4 => decLr3 f (.idp4 b)
  | 5 => decLr3 f (.udp4 b)
  | 6 => decLr3 f (.hdp2 b)
  | 7 => decLr3 f (.bdp2 b)
  | _ => .error .majorReserved

/-- Opcodes 0x50 to 0x57 of the lane set, by the opcode's low three bits (R129). -/
def decodeLane50 (op : Nat) (b : Bool) (f : Nat) : Except Reject Instr :=
  match op with
  | 0 => decCvt f (.cvt b)
  | 1 => decLr3 f (.pack b)
  | _ => .error .majorReserved

/-- Opcodes 0x58 to 0x5F of the lane set, by the opcode's low three bits (R129). -/
def decodeLane58 (op : Nat) (b : Bool) (f : Nat) : Except Reject Instr :=
  match op with
  | 0 => ending b (decLr3 f .shfl)
  | 1 => ending b (decLr3 f .shflx)
  | 2 => ending b (decLr2 f .ballot)
  | 3 => ending b (decSred f .sred)
  | 4 => ending b (decSscan f .sscan)
  | 5 => ending b (decLr2 f .matchLanes)
  | _ => .error .majorReserved

/-- Opcodes 0x60 to 0x67 of the lane set, by the opcode's low three bits (R129). -/
def decodeLane60 (op : Nat) (b : Bool) (f : Nat) : Except Reject Instr :=
  match op with
  | 0 => decMem f (.ldb b)
  | 1 => decMem f (.ldh b)
  | 2 => decMem f (.ldw b)
  | 3 => decMemq f (.ldq b)
  | 4 => decMem f (.stb b)
  | 5 => decMem f (.sth b)
  | 6 => decMem f (.stw b)
  | 7 => decMemq f (.stq b)
  | _ => .error .majorReserved

/-- Opcodes 0x68 to 0x6F of the lane set, by the opcode's low three bits (R129). -/
def decodeLane68 (op : Nat) (b : Bool) (f : Nat) : Except Reject Instr :=
  match op with
  | 0 => decLi f (.sldw b)
  | 1 => decLiq f (.sldq b)
  | 2 => decLi f (.sstw b)
  | 3 => decLiq f (.sstq b)
  | 4 => decLi f (.cldw b)
  | 5 => decLi f (.cstw b)
  | 6 => decLip f (.ldwp b)
  | 7 => decLip f (.stwp b)
  | _ => .error .majorReserved

/-- Opcodes 0x70 to 0x77 of the lane set, by the opcode's low three bits (R129). -/
def decodeLane70 (op : Nat) (b : Bool) (f : Nat) : Except Reject Instr :=
  match op with
  | 0 => ending b (decMem f .axch)
  | 1 => ending b (decMemd f .acas)
  | 2 => ending b (decMem f .aadd)
  | 3 => ending b (decMem f .aimin)
  | 4 => ending b (decMem f .aimax)
  | 5 => ending b (decMem f .aumin)
  | 6 => ending b (decMem f .aumax)
  | 7 => ending b (decMem f .aand)
  | _ => .error .majorReserved

/-- Opcodes 0x78 to 0x7F of the lane set, by the opcode's low three bits (R129). -/
def decodeLane78 (op : Nat) (b : Bool) (f : Nat) : Except Reject Instr :=
  match op with
  | 0 => ending b (decMem f .aor)
  | 1 => ending b (decMem f .axor)
  | 2 => ending b (decMem f .afadd)
  | 3 => ending b (decBr f .br)
  | 4 => ending b (decBr f .brn)
  | 5 => ending b (decJmp f .jmp)
  | 6 => ending b (decJmp f .call)
  | 7 =>
    match fld f 0 8 with
    | 0 => ending b (decCtl0 f .ret)
    | 1 => ending b (decCtla f .jr)
    | 2 => ending b (decCtla f .callr)
    | 3 => ending b (decCtl0 f .exit)
    | 4 => ending b (decCtl0 f .yield)
    | 5 => decFrame f (.frame b)
    | _ => .error .codeReserved
  | _ => .error .majorReserved

/-- The lane-set opcode map (R129): major opcode, B flag, bits [22:0]. -/
def decodeLane (op : Nat) (b : Bool) (f : Nat) : Except Reject Instr :=
  match op / 8 with
  | 0 => decodeLane00 (op % 8) b f
  | 1 => decodeLane08 (op % 8) b f
  | 2 => decodeLane10 (op % 8) b f
  | 3 => decodeLane18 (op % 8) b f
  | 4 => decodeLane20 (op % 8) b f
  | 5 => decodeLane28 (op % 8) b f
  | 6 => decodeLane30 (op % 8) b f
  | 7 => decodeLane38 (op % 8) b f
  | 8 => decodeLane40 (op % 8) b f
  | 9 => decodeLane48 (op % 8) b f
  | 10 => decodeLane50 (op % 8) b f
  | 11 => decodeLane58 (op % 8) b f
  | 12 => decodeLane60 (op % 8) b f
  | 13 => decodeLane68 (op % 8) b f
  | 14 => decodeLane70 (op % 8) b f
  | 15 => decodeLane78 (op % 8) b f
  | _ => .error .majorReserved

/-- Opcodes 0x00 to 0x07 of the squad set, by the opcode's low three bits (R131). -/
def decodeSquad00 (op : Nat) (b : Bool) (f : Nat) : Except Reject Instr :=
  match op with
  | 0 => decNop f (.unop b)
  | 1 => decUr3 f (.uadd b)
  | 2 => decUr3 f (.usub b)
  | 3 => decUr3 f (.umul b)
  | 4 => decUr3 f (.umulh b)
  | 5 => decUr3 f (.uand b)
  | 6 => decUr3 f (.uor b)
  | 7 => decUr3 f (.uxor b)
  | _ => .error .majorReserved

/-- Opcodes 0x08 to 0x0F of the squad set, by the opcode's low three bits (R131). -/
def decodeSquad08 (op : Nat) (b : Bool) (f : Nat) : Except Reject Instr :=
  match op with
  | 0 => decUr3 f (.ushl b)
  | 1 => decUr3 f (.ushr b)
  | 2 => decUr3 f (.usar b)
  | 3 => decUr3 f (.uimin b)
  | 4 => decUr3 f (.uimax b)
  | 5 => decUr3 f (.uminu b)
  | 6 => decUr3 f (.umaxu b)
  | _ => .error .majorReserved

/-- Opcodes 0x10 to 0x17 of the squad set, by the opcode's low three bits (R131). -/
def decodeSquad10 (op : Nat) (b : Bool) (f : Nat) : Except Reject Instr :=
  match op with
  | 0 => decUi f (.uaddi b)
  | 1 => decUi f (.uandi b)
  | 2 => decUi f (.ushli b)
  | 3 => decUi f (.ushri b)
  | 4 => decUm f (.umovi b)
  | 5 => decUm f (.umovhi b)
  | 6 => decUr2 f (.umov b)
  | 7 => decUrds f (.urds b)
  | _ => .error .majorReserved

/-- Opcodes 0x18 to 0x1F of the squad set, by the opcode's low three bits (R131). -/
def decodeSquad18 (op : Nat) (b : Bool) (f : Nat) : Except Reject Instr :=
  match op with
  | 0 => decUr3q f (.uadd64 b)
  | 1 => decUiq f (.uaddi64 b)
  | 2 => decUcmp f (.ucmp b)
  | 3 =>
    match fld f 6 5 with
    | 0 => decJop f (.jand b)
    | 1 => decJop f (.jor b)
    | 2 => decJop f (.jxor b)
    | 3 => decJop f (.jandn b)
    | 4 => decJnot f (.jnot b)
    | _ => .error .codeReserved
  | 4 => ending b (decBr f .ubr)
  | 5 => ending b (decBr f .ubrn)
  | 6 => decUia f (.uldw b)
  | 7 => decUiq f (.uldd b)
  | _ => .error .majorReserved

/-- Opcodes 0x20 to 0x27 of the squad set, by the opcode's low three bits (R131). -/
def decodeSquad20 (op : Nat) (b : Bool) (f : Nat) : Except Reject Instr :=
  match op with
  | 0 => decUia f (.ustw b)
  | 1 => ending b (decUfence f .ufence)
  | 2 => ending b (decQpush f .qpush)
  | 3 => ending b (decQpop f .qpop)
  | 4 => ending b (decQtry f .qtry)
  | 5 => ending b (decMxlds f .mxlds)
  | 6 => ending b (decUeg f .mxswap)
  | 7 => ending b (decUecmd4 f .mxdrn)
  | _ => .error .majorReserved

/-- Opcodes 0x28 to 0x2F of the squad set, by the opcode's low three bits (R131). -/
def decodeSquad28 (op : Nat) (b : Bool) (f : Nat) : Except Reject Instr :=
  match op with
  | 0 => ending b (decMxzero f .mxzero)
  | 1 => ending b (decUecmd8 f .cpcopy)
  | 2 => ending b (decUecmd8 f .cpgath)
  | 3 => ending b (decUecmd8 f .cpscat)
  | 4 => ending b (decCpfill f .cpfill)
  | 5 => ending b (decAlloc f .alloc)
  | 6 => ending b (decUea f .free)
  | 7 => ending b (decUed f .fetch)
  | _ => .error .majorReserved

/-- Opcodes 0x30 to 0x37 of the squad set, by the opcode's low three bits (R131). -/
def decodeSquad30 (op : Nat) (b : Bool) (f : Nat) : Except Reject Instr :=
  match op with
  | 0 => ending b (decBar f .bars)
  | 1 => ending b (decBar f .bara)
  | 2 => ending b (decBar f .barw)
  | 3 => ending b (decZero f .gbar)
  | 4 => ending b (decChinit f .chinit)
  | 5 => ending b (decChpush f .chpush)
  | 6 => ending b (decChpop f .chpop)
  | 7 => ending b (decGarm f .garm)
  | _ => .error .majorReserved

/-- Opcodes 0x38 to 0x3F of the squad set, by the opcode's low three bits (R131). -/
def decodeSquad38 (op : Nat) (b : Bool) (f : Nat) : Except Reject Instr :=
  match op with
  | 0 => ending b (decGres f .gres)
  | 1 => ending b (decUeao f .lkacq)
  | 2 => ending b (decLktry f .lktry)
  | 3 => ending b (decUeao f .lkrel)
  | 4 => ending b (decUea f .prmake)
  | 5 => ending b (decUedao f .prset)
  | 6 => ending b (decPrwait f .prwait)
  | 7 => ending b (decUe1 f .setheir)
  | _ => .error .majorReserved

/-- Opcodes 0x40 to 0x47 of the squad set, by the opcode's low three bits (R131). -/
def decodeSquad40 (op : Nat) (b : Bool) (f : Nat) : Except Reject Instr :=
  match op with
  | 0 =>
    match fld f 0 2 with
    | 0 => ending b (decInh f .inherit)
    | 1 => ending b (decInhnb f .inheritNb)
    | _ => .error .codeReserved
  | 1 => ending b (decUedao f .waitsig)
  | 2 => ending b (decUedao f .sigadd)
  | 3 => ending b (decUe1 f .publish)
  | 4 => ending b (decUi0 f .trap)
  | 5 => ending b (decZero f .hret)
  | 6 => ending b (decUi0 f .bkpt)
  | 7 => ending b (decSrw f .srw)
  | _ => .error .majorReserved

/-- The squad-set opcode map (R131): major opcode, B flag, bits [22:0]. -/
def decodeSquad (op : Nat) (b : Bool) (f : Nat) : Except Reject Instr :=
  match op / 8 with
  | 0 => decodeSquad00 (op % 8) b f
  | 1 => decodeSquad08 (op % 8) b f
  | 2 => decodeSquad10 (op % 8) b f
  | 3 => decodeSquad18 (op % 8) b f
  | 4 => decodeSquad20 (op % 8) b f
  | 5 => decodeSquad28 (op % 8) b f
  | 6 => decodeSquad30 (op % 8) b f
  | 7 => decodeSquad38 (op % 8) b f
  | 8 => decodeSquad40 (op % 8) b f
  | _ => .error .majorReserved

/-- The decoder of the cores: total on every word (R121, R122). -/
def decode (w : Word) : Except Reject Instr :=
  let n := w.toNat
  checked (if fld n 31 1 = 0 then decodeLane (fld n 23 7) (fld n 30 1 == 1) (fld n 0 23)
    else decodeSquad (fld n 23 7) (fld n 30 1 == 1) (fld n 0 23))

/-- The decoder of the Porter extension (R260); the RV32 base words are no part of it. -/
def decodePorter (w : Word) : Except Reject Instr :=
  let n := w.toNat
  let rd := finAt 32 (fld n 7 5)
  let rs := finAt 32 (fld n 15 5)
  let rt := finAt 32 (fld n 20 5)
  let ln := finAt 32 (fld n 25 5)
  let hi := finAt 4 (fld n 30 2)
  if fld n 0 7 != 0x0B then .error .notExtension else
  match fld n 12 3 with
  | 0 => if fld n 20 12 == 0 then .ok (.rfetch rd rs) else .error .fieldNotZero
  | 1 => if fld n 25 7 == 0 && fld n 7 5 == 0 then .ok (.rpost rs rt) else .error .fieldNotZero
  | 2 => .ok (.bfx rd rs rt ln hi)
  | 3 => .ok (.bfiPorter rd rs rt ln hi)
  | 4 => if fld n 20 12 == 0 then .ok (.swait rd rs) else .error .fieldNotZero
  | 5 => if fld n 25 7 == 0 && fld n 7 5 == 0 then .ok (.sarm rs rt) else .error .fieldNotZero
  | 6 => if fld n 25 7 == 0 then .ok (.disp rd rs rt) else .error .fieldNotZero
  | 7 => if fld n 20 12 == 0 then .ok (.dstat rd rs) else .error .fieldNotZero
  | _ => .error .codeReserved

/-- A word read from four bytes in memory order (R3, R121). -/
def wordOfBytes (b0 b1 b2 b3 : Byte) : Word :=
  BitVec.ofNat 32 (b0.toNat + b1.toNat * 2 ^ 8 + b2.toNat * 2 ^ 16 + b3.toNat * 2 ^ 24)

/-- The four bytes of a word in memory order (R3). -/
def bytesOfWord (w : Word) : List Byte :=
  [BitVec.ofNat 8 (fld w.toNat 0 8), BitVec.ofNat 8 (fld w.toNat 8 8),
   BitVec.ofNat 8 (fld w.toNat 16 8), BitVec.ofNat 8 (fld w.toNat 24 8)]

/-- The decoder over bytes in memory order. -/
def decodeBytes : List Byte → Except Reject Instr
  | [b0, b1, b2, b3] => decode (wordOfBytes b0 b1 b2 b3)
  | _ => .error .fieldNotZero

/-- Whether a word that both instruction sets admit stands for a Porter row in the table's numbering: custom-0 words, but
for the FUN group of the lane set, whose FSIN has the same low byte (log 8). -/
def tablePorter (w : Word) : Bool :=
  match decodePorter w, decode w with
  | .ok _, .ok (.fsin ..) => false
  | .ok (.bfx _ _ _ _ hi), _ => hi == 0
  | .ok (.bfiPorter _ _ _ _ hi), _ => hi == 0
  | .ok _, _ => true
  | .error _, _ => false

/-- The instruction the decoders read from the `nbits` bits `w` of a table row; none where they refuse. -/
def decodeTableWord (nbits w : Nat) : Option Instr :=
  if nbits = 0 then none else
  let x : Word := BitVec.ofNat 32 (w % 2 ^ nbits)
  match bytesOfWord x with
  | [b0, b1, b2, b3] =>
    match (if tablePorter x then decodePorter (wordOfBytes b0 b1 b2 b3) else decodeBytes [b0, b1, b2, b3]) with
    | .ok i => some i
    | .error _ => none
  | _ => none

/-- A word of the cores: set bit S, B flag, major opcode, bits [22:0] (R121). -/
def setWord (s : Nat) (b : Bool) (op f : Nat) : Word :=
  BitVec.ofNat 32 (s * 2 ^ 31 + b.toNat * 2 ^ 30 + op * 2 ^ 23 + f)

/-- A word of the Porter extension in the R-type layout (R260). -/
def porterWord (fn rd rs1 rs2 f7 : Nat) : Word :=
  BitVec.ofNat 32 (f7 * 2 ^ 25 + rs2 * 2 ^ 20 + rs1 * 2 ^ 15 + fn * 2 ^ 12 + rd * 2 ^ 7 + 0x0B)


/-- Bits [22:0] of form nop. -/
def encNop : Nat := 0

/-- Bits [22:0] of form zero. -/
def encZero : Nat := 0

/-- Bits [22:0] of form lr3. -/
def encLr3 (vd : Fin 128) (xa xb : Src) : Nat :=
  vd.val * 2 ^ 16 + xa.code * 2 ^ 8 + xb.code

/-- Bits [22:0] of form lr3q. -/
def encLr3q (vd : Fin 128) (xa xb : Src) : Nat :=
  vd.val * 2 ^ 16 + xa.code * 2 ^ 8 + xb.code

/-- Bits [22:0] of form lr3d. -/
def encLr3d (vd : Fin 128) (xa xb : Src) : Nat :=
  vd.val * 2 ^ 16 + xa.code * 2 ^ 8 + xb.code

/-- Bits [22:0] of form lr2. -/
def encLr2 (vd : Fin 128) (xa : Src) : Nat :=
  vd.val * 2 ^ 16 + xa.code * 2 ^ 8

/-- Bits [22:0] of form li. -/
def encLi (vd : Fin 128) (xa : Src) (imm : BitVec 8) : Nat :=
  vd.val * 2 ^ 16 + xa.code * 2 ^ 8 + imm.toNat

/-- Bits [22:0] of form liq. -/
def encLiq (vd : Fin 128) (xa : Src) (imm : BitVec 8) : Nat :=
  vd.val * 2 ^ 16 + xa.code * 2 ^ 8 + imm.toNat

/-- Bits [22:0] of form lip. -/
def encLip (vd va : Fin 128) (imm : BitVec 8) : Nat :=
  vd.val * 2 ^ 16 + va.val * 2 ^ 8 + imm.toNat

/-- Bits [22:0] of form lm. -/
def encLm (vd : Fin 128) (imm : BitVec 16) : Nat :=
  vd.val * 2 ^ 16 + imm.toNat

/-- Bits [22:0] of form movs. -/
def encMovs (vd : Fin 128) (idx : BitVec 8) : Nat :=
  vd.val * 2 ^ 16 + idx.toNat * 2 ^ 8

/-- Bits [22:0] of form icmp. -/
def encIcmp (cc : ICond) (kd : Fin 8) (xa xb : Src) : Nat :=
  cc.code * 2 ^ 19 + kd.val * 2 ^ 16 + xa.code * 2 ^ 8 + xb.code

/-- Bits [22:0] of form fcmp. -/
def encFcmp (cc : FCond) (kd : Fin 8) (xa xb : Src) : Nat :=
  cc.code * 2 ^ 19 + kd.val * 2 ^ 16 + xa.code * 2 ^ 8 + xb.code

/-- Bits [22:0] of form kop. -/
def encKop (fn : Nat) (kd ka kb : Fin 8) : Nat :=
  fn * 2 ^ 19 + kd.val * 2 ^ 16 + ka.val * 2 ^ 8 + kb.val

/-- Bits [22:0] of form knot. -/
def encKnot (fn : Nat) (kd ka : Fin 8) : Nat :=
  fn * 2 ^ 19 + kd.val * 2 ^ 16 + ka.val * 2 ^ 8

/-- Bits [22:0] of form ktov. -/
def encKtov (vd : Fin 128) (ka : Fin 8) : Nat :=
  vd.val * 2 ^ 16 + ka.val * 2 ^ 8

/-- Bits [22:0] of form vtok. -/
def encVtok (kd : Fin 8) (xa : Src) : Nat :=
  kd.val * 2 ^ 16 + xa.code * 2 ^ 8

/-- Bits [22:0] of form fun. -/
def encFun (vd : Fin 128) (xa : Src) (fn : Nat) : Nat :=
  vd.val * 2 ^ 16 + xa.code * 2 ^ 8 + fn

/-- Bits [22:0] of form qpushv. -/
def encQpushv (q : Fin 16) (vd : Fin 128) : Nat :=
  q.val + vd.val * 2 ^ 16

/-- Bits [22:0] of form qpopv. -/
def encQpopv (vd : Fin 128) (q : Fin 16) : Nat :=
  vd.val * 2 ^ 16 + q.val

/-- Bits [22:0] of form mxstr. -/
def encMxstr (tile : Fin 8) (xa : Src) (vd : Fin 128) (bsel : BitVec 2) (q8 zf : Bool) : Nat :=
  tile.val + xa.code * 2 ^ 8 + vd.val * 2 ^ 16 + bsel.toNat * 2 ^ 3 + q8.toNat * 2 ^ 5 + zf.toNat * 2 ^ 6

/-- Bits [22:0] of form cvt. -/
def encCvt (conv : Conv) (mode : RMode) (inf : Bool) (vd : Fin 128) (xa : Src) : Nat :=
  conv.code + mode.code * 2 ^ 4 + inf.toNat * 2 ^ 6 + vd.val * 2 ^ 16 + xa.code * 2 ^ 8

/-- Bits [22:0] of form sred. -/
def encSred (op : RedOp) (vd : Fin 128) (xa : Src) : Nat :=
  op.code + vd.val * 2 ^ 16 + xa.code * 2 ^ 8

/-- Bits [22:0] of form sscan. -/
def encSscan (op : RedOp) (excl : Bool) (vd : Fin 128) (xa : Src) : Nat :=
  op.code + excl.toNat * 2 ^ 4 + vd.val * 2 ^ 16 + xa.code * 2 ^ 8

/-- Bits [22:0] of form mem. -/
def encMem (vd : Fin 128) (xa : Src) (xb : Base) : Nat :=
  vd.val * 2 ^ 16 + xa.code * 2 ^ 8 + xb.code

/-- Bits [22:0] of form memq. -/
def encMemq (vd : Fin 128) (xa : Src) (xb : Base) : Nat :=
  vd.val * 2 ^ 16 + xa.code * 2 ^ 8 + xb.code

/-- Bits [22:0] of form memd. -/
def encMemd (vd : Fin 128) (xa : Src) (xb : Base) : Nat :=
  vd.val * 2 ^ 16 + xa.code * 2 ^ 8 + xb.code

/-- Bits [22:0] of form br. -/
def encBr (k : Fin 8) (off : BitVec 20) : Nat :=
  k.val * 2 ^ 20 + off.toNat

/-- Bits [22:0] of form jmp. -/
def encJmp (off : BitVec 20) : Nat :=
  off.toNat

/-- Bits [22:0] of form ctl0. -/
def encCtl0 (fn : Nat) : Nat :=
  fn

/-- Bits [22:0] of form ctla. -/
def encCtla (xa : Src) (fn : Nat) : Nat :=
  xa.code * 2 ^ 8 + fn

/-- Bits [22:0] of form frame. -/
def encFrame (n : BitVec 8) (fn : Nat) : Nat :=
  n.toNat * 2 ^ 8 + fn

/-- Bits [22:0] of form ur3. -/
def encUr3 (sd sa sb : Fin 64) : Nat :=
  sd.val * 2 ^ 17 + sa.val * 2 ^ 11 + sb.val

/-- Bits [22:0] of form ur3q. -/
def encUr3q (sd sa sb : Fin 64) : Nat :=
  sd.val * 2 ^ 17 + sa.val * 2 ^ 11 + sb.val

/-- Bits [22:0] of form ur2. -/
def encUr2 (sd sa : Fin 64) : Nat :=
  sd.val * 2 ^ 17 + sa.val * 2 ^ 11

/-- Bits [22:0] of form ui. -/
def encUi (sd sa : Fin 64) (imm : BitVec 11) : Nat :=
  sd.val * 2 ^ 17 + sa.val * 2 ^ 11 + imm.toNat

/-- Bits [22:0] of form uiq. -/
def encUiq (sd sa : Fin 64) (imm : BitVec 11) : Nat :=
  sd.val * 2 ^ 17 + sa.val * 2 ^ 11 + imm.toNat

/-- Bits [22:0] of form uia. -/
def encUia (sd sa : Fin 64) (imm : BitVec 11) : Nat :=
  sd.val * 2 ^ 17 + sa.val * 2 ^ 11 + imm.toNat

/-- Bits [22:0] of form um. -/
def encUm (sd : Fin 64) (imm : BitVec 16) : Nat :=
  sd.val * 2 ^ 17 + imm.toNat

/-- Bits [22:0] of form urds. -/
def encUrds (sd : Fin 64) (idx : BitVec 8) : Nat :=
  sd.val * 2 ^ 17 + idx.toNat

/-- Bits [22:0] of form ucmp. -/
def encUcmp (cc : ICond) (jd : Fin 8) (sa sb : Fin 64) : Nat :=
  cc.code * 2 ^ 6 + jd.val * 2 ^ 17 + sa.val * 2 ^ 11 + sb.val

/-- Bits [22:0] of form jop. -/
def encJop (fn : Nat) (jd ja jb : Fin 8) : Nat :=
  fn * 2 ^ 6 + jd.val * 2 ^ 17 + ja.val * 2 ^ 11 + jb.val

/-- Bits [22:0] of form jnot. -/
def encJnot (fn : Nat) (jd ja : Fin 8) : Nat :=
  fn * 2 ^ 6 + jd.val * 2 ^ 17 + ja.val * 2 ^ 11

/-- Bits [22:0] of form ufence. -/
def encUfence (ord : Ord) : Nat :=
  ord.scope.code * 2 ^ 4 + ord.acq.toNat * 2 ^ 3 + ord.rel.toNat * 2 ^ 2

/-- Bits [22:0] of form qpush. -/
def encQpush (q : Fin 16) (sa : Fin 64) : Nat :=
  q.val * 2 ^ 17 + sa.val * 2 ^ 11

/-- Bits [22:0] of form qpop. -/
def encQpop (sd : Fin 64) (q : Fin 16) : Nat :=
  sd.val * 2 ^ 17 + q.val * 2 ^ 11

/-- Bits [22:0] of form qtry. -/
def encQtry (sd : Fin 64) (jd : Fin 8) (q : Fin 16) : Nat :=
  sd.val * 2 ^ 17 + jd.val + q.val * 2 ^ 11

/-- Bits [22:0] of form mxlds. -/
def encMxlds (sa : Fin 64) (fmt : WFmt) (g : Fin 16) (ord : Ord) : Nat :=
  sa.val * 2 ^ 11 + fmt.hi * 2 ^ 17 + fmt.lo + g.val * 2 ^ 7 + ord.scope.code * 2 ^ 4 + ord.acq.toNat * 2 ^ 3 + ord.rel.toNat * 2 ^ 2

/-- Bits [22:0] of form ueg. -/
def encUeg (g : Fin 16) : Nat :=
  g.val * 2 ^ 7

/-- Bits [22:0] of form uecmd4. -/
def encUecmd4 (sd sa : Fin 64) (g : Fin 16) (ord : Ord) : Nat :=
  sd.val * 2 ^ 17 + sa.val * 2 ^ 11 + g.val * 2 ^ 7 + ord.scope.code * 2 ^ 4 + ord.acq.toNat * 2 ^ 3 + ord.rel.toNat * 2 ^ 2

/-- Bits [22:0] of form uecmd8. -/
def encUecmd8 (sd sa : Fin 64) (g : Fin 16) (ord : Ord) : Nat :=
  sd.val * 2 ^ 17 + sa.val * 2 ^ 11 + g.val * 2 ^ 7 + ord.scope.code * 2 ^ 4 + ord.acq.toNat * 2 ^ 3 + ord.rel.toNat * 2 ^ 2

/-- Bits [22:0] of form cpfill. -/
def encCpfill (sd sa : Fin 64) (size : ElemSize) (g : Fin 16) (ord : Ord) : Nat :=
  sd.val * 2 ^ 17 + sa.val * 2 ^ 11 + size.code + g.val * 2 ^ 7 + ord.scope.code * 2 ^ 4 + ord.acq.toNat * 2 ^ 3 + ord.rel.toNat * 2 ^ 2

/-- Bits [22:0] of form mxzero. -/
def encMxzero (tile : Fin 8) (g : Fin 16) : Nat :=
  tile.val * 2 ^ 11 + g.val * 2 ^ 7

/-- Bits [22:0] of form alloc. -/
def encAlloc (sd sa : Fin 64) : Nat :=
  sd.val * 2 ^ 17 + sa.val * 2 ^ 11

/-- Bits [22:0] of form uea. -/
def encUea (sa : Fin 64) : Nat :=
  sa.val * 2 ^ 11

/-- Bits [22:0] of form ue1. -/
def encUe1 (sa : Fin 64) : Nat :=
  sa.val * 2 ^ 11

/-- Bits [22:0] of form ued. -/
def encUed (sd : Fin 64) : Nat :=
  sd.val * 2 ^ 17

/-- Bits [22:0] of form bar. -/
def encBar (n : Fin 16) : Nat :=
  n.val

/-- Bits [22:0] of form chinit. -/
def encChinit (ch : Fin 16) (sa sb : Fin 64) : Nat :=
  ch.val * 2 ^ 17 + sa.val * 2 ^ 11 + sb.val

/-- Bits [22:0] of form chpush. -/
def encChpush (ch : Fin 16) (sa : Fin 64) : Nat :=
  ch.val * 2 ^ 17 + sa.val * 2 ^ 11

/-- Bits [22:0] of form chpop. -/
def encChpop (sd : Fin 64) (ch : Fin 16) : Nat :=
  sd.val * 2 ^ 17 + ch.val

/-- Bits [22:0] of form garm. -/
def encGarm (g : Fin 16) : Nat :=
  g.val * 2 ^ 7

/-- Bits [22:0] of form gres. -/
def encGres (g : Fin 16) (jd : Fin 8) : Nat :=
  g.val * 2 ^ 7 + jd.val * 2 ^ 17

/-- Bits [22:0] of form ueao. -/
def encUeao (sa : Fin 64) (ord : Ord) : Nat :=
  sa.val * 2 ^ 11 + ord.scope.code * 2 ^ 4 + ord.acq.toNat * 2 ^ 3 + ord.rel.toNat * 2 ^ 2

/-- Bits [22:0] of form lktry. -/
def encLktry (jd : Fin 8) (sa : Fin 64) (ord : Ord) : Nat :=
  jd.val * 2 ^ 17 + sa.val * 2 ^ 11 + ord.scope.code * 2 ^ 4 + ord.acq.toNat * 2 ^ 3 + ord.rel.toNat * 2 ^ 2

/-- Bits [22:0] of form uedao. -/
def encUedao (sa sd : Fin 64) (ord : Ord) : Nat :=
  sa.val * 2 ^ 11 + sd.val * 2 ^ 17 + ord.scope.code * 2 ^ 4 + ord.acq.toNat * 2 ^ 3 + ord.rel.toNat * 2 ^ 2

/-- Bits [22:0] of form prwait. -/
def encPrwait (sd : Fin 64) (jd : Fin 8) (sa : Fin 64) (ord : Ord) : Nat :=
  sd.val * 2 ^ 17 + jd.val * 2 ^ 7 + sa.val * 2 ^ 11 + ord.scope.code * 2 ^ 4 + ord.acq.toNat * 2 ^ 3 + ord.rel.toNat * 2 ^ 2

/-- Bits [22:0] of form inh. -/
def encInh (fn : Nat) (sd : Fin 64) : Nat :=
  fn + sd.val * 2 ^ 17

/-- Bits [22:0] of form inhnb. -/
def encInhnb (fn : Nat) (sd : Fin 64) (jd : Fin 8) : Nat :=
  fn + sd.val * 2 ^ 17 + jd.val * 2 ^ 7

/-- Bits [22:0] of form ui0. -/
def encUi0 (imm : BitVec 11) : Nat :=
  imm.toNat

/-- Bits [22:0] of form srw. -/
def encSrw (idx : BitVec 8) (sa : Fin 64) : Nat :=
  idx.toNat + sa.val * 2 ^ 11

/-- The word of an instruction, from the encoding tables (06, 11); a step with no encoding has none. -/
def encode : Instr → Option Word
  | .nop e => some (setWord 0 e 0x00 encNop)
  | .iadd e vd xa xb => some (setWord 0 e 0x01 (encLr3 vd xa xb))
  | .isub e vd xa xb => some (setWord 0 e 0x02 (encLr3 vd xa xb))
  | .imul e vd xa xb => some (setWord 0 e 0x03 (encLr3 vd xa xb))
  | .imulh e vd xa xb => some (setWord 0 e 0x04 (encLr3 vd xa xb))
  | .imulhu e vd xa xb => some (setWord 0 e 0x05 (encLr3 vd xa xb))
  | .imad e vd xa xb => some (setWord 0 e 0x06 (encLr3 vd xa xb))
  | .imin e vd xa xb => some (setWord 0 e 0x07 (encLr3 vd xa xb))
  | .imax e vd xa xb => some (setWord 0 e 0x08 (encLr3 vd xa xb))
  | .umin e vd xa xb => some (setWord 0 e 0x09 (encLr3 vd xa xb))
  | .umax e vd xa xb => some (setWord 0 e 0x0A (encLr3 vd xa xb))
  | .idiv e vd xa xb => some (setWord 0 e 0x0B (encLr3 vd xa xb))
  | .udiv e vd xa xb => some (setWord 0 e 0x0C (encLr3 vd xa xb))
  | .irem e vd xa xb => some (setWord 0 e 0x0D (encLr3 vd xa xb))
  | .urem e vd xa xb => some (setWord 0 e 0x0E (encLr3 vd xa xb))
  | .qpushv q vd => some (setWord 0 true 0x0F (encQpushv q vd))
  | .and e vd xa xb => some (setWord 0 e 0x10 (encLr3 vd xa xb))
  | .or e vd xa xb => some (setWord 0 e 0x11 (encLr3 vd xa xb))
  | .xor e vd xa xb => some (setWord 0 e 0x12 (encLr3 vd xa xb))
  | .andn e vd xa xb => some (setWord 0 e 0x13 (encLr3 vd xa xb))
  | .shl e vd xa xb => some (setWord 0 e 0x14 (encLr3 vd xa xb))
  | .shr e vd xa xb => some (setWord 0 e 0x15 (encLr3 vd xa xb))
  | .sar e vd xa xb => some (setWord 0 e 0x16 (encLr3 vd xa xb))
  | .popc e vd xa => some (setWord 0 e 0x17 (encLr2 vd xa))
  | .clz e vd xa => some (setWord 0 e 0x18 (encLr2 vd xa))
  | .brev e vd xa => some (setWord 0 e 0x19 (encLr2 vd xa))
  | .bfe e vd xa xb => some (setWord 0 e 0x1A (encLr3 vd xa xb))
  | .bfi e vd xa xb => some (setWord 0 e 0x1B (encLr3 vd xa xb))
  | .iaddi e vd xa imm => some (setWord 0 e 0x1C (encLi vd xa imm))
  | .andi e vd xa imm => some (setWord 0 e 0x1D (encLi vd xa imm))
  | .ori e vd xa imm => some (setWord 0 e 0x1E (encLi vd xa imm))
  | .xori e vd xa imm => some (setWord 0 e 0x1F (encLi vd xa imm))
  | .shli e vd xa imm => some (setWord 0 e 0x20 (encLi vd xa imm))
  | .shri e vd xa imm => some (setWord 0 e 0x21 (encLi vd xa imm))
  | .sari e vd xa imm => some (setWord 0 e 0x22 (encLi vd xa imm))
  | .movi e vd imm => some (setWord 0 e 0x23 (encLm vd imm))
  | .movhi e vd imm => some (setWord 0 e 0x24 (encLm vd imm))
  | .mov e vd xa => some (setWord 0 e 0x25 (encLr2 vd xa))
  | .sel e vd xa xb => some (setWord 0 e 0x26 (encLr3 vd xa xb))
  | .movs e vd idx => some (setWord 0 e 0x27 (encMovs vd idx))
  | .icmp e cc kd xa xb => some (setWord 0 e 0x28 (encIcmp cc kd xa xb))
  | .fcmp e cc kd xa xb => some (setWord 0 e 0x29 (encFcmp cc kd xa xb))
  | .kand e kd ka kb => some (setWord 0 e 0x2A (encKop 0 kd ka kb))
  | .kor e kd ka kb => some (setWord 0 e 0x2A (encKop 1 kd ka kb))
  | .kxor e kd ka kb => some (setWord 0 e 0x2A (encKop 2 kd ka kb))
  | .kandn e kd ka kb => some (setWord 0 e 0x2A (encKop 3 kd ka kb))
  | .knot e kd ka => some (setWord 0 e 0x2A (encKnot 4 kd ka))
  | .ktov e vd ka => some (setWord 0 e 0x2B (encKtov vd ka))
  | .vtok e kd xa => some (setWord 0 e 0x2C (encVtok kd xa))
  | .iadd64 e vd xa xb => some (setWord 0 e 0x2D (encLr3q vd xa xb))
  | .imulw e vd xa xb => some (setWord 0 e 0x2E (encLr3d vd xa xb))
  | .fadd e vd xa xb => some (setWord 0 e 0x30 (encLr3 vd xa xb))
  | .fsub e vd xa xb => some (setWord 0 e 0x31 (encLr3 vd xa xb))
  | .fmul e vd xa xb => some (setWord 0 e 0x32 (encLr3 vd xa xb))
  | .ffma e vd xa xb => some (setWord 0 e 0x33 (encLr3 vd xa xb))
  | .fmin e vd xa xb => some (setWord 0 e 0x34 (encLr3 vd xa xb))
  | .fmax e vd xa xb => some (setWord 0 e 0x35 (encLr3 vd xa xb))
  | .fdiv e vd xa xb => some (setWord 0 e 0x36 (encLr3 vd xa xb))
  | .fabs e vd xa => some (setWord 0 e 0x37 (encFun vd xa 0))
  | .fneg e vd xa => some (setWord 0 e 0x37 (encFun vd xa 1))
  | .ffloor e vd xa => some (setWord 0 e 0x37 (encFun vd xa 2))
  | .fceil e vd xa => some (setWord 0 e 0x37 (encFun vd xa 3))
  | .ftrunc e vd xa => some (setWord 0 e 0x37 (encFun vd xa 4))
  | .frint e vd xa => some (setWord 0 e 0x37 (encFun vd xa 5))
  | .frcp e vd xa => some (setWord 0 e 0x37 (encFun vd xa 6))
  | .frsq e vd xa => some (setWord 0 e 0x37 (encFun vd xa 7))
  | .fsqrt e vd xa => some (setWord 0 e 0x37 (encFun vd xa 8))
  | .fexp2 e vd xa => some (setWord 0 e 0x37 (encFun vd xa 9))
  | .flog2 e vd xa => some (setWord 0 e 0x37 (encFun vd xa 10))
  | .fsin e vd xa => some (setWord 0 e 0x37 (encFun vd xa 11))
  | .fcos e vd xa => some (setWord 0 e 0x37 (encFun vd xa 12))
  | .fclass e vd xa => some (setWord 0 e 0x37 (encFun vd xa 13))
  | .fscale e vd xa xb => some (setWord 0 e 0x38 (encLr3 vd xa xb))
  | .qpopv vd q => some (setWord 0 true 0x39 (encQpopv vd q))
  | .mxstr tile xa vd bsel q8 zf => some (setWord 0 true 0x3A (encMxstr tile xa vd bsel q8 zf))
  | .hadd2 e vd xa xb => some (setWord 0 e 0x40 (encLr3 vd xa xb))
  | .hmul2 e vd xa xb => some (setWord 0 e 0x41 (encLr3 vd xa xb))
  | .hfma2 e vd xa xb => some (setWord 0 e 0x42 (encLr3 vd xa xb))
  | .badd2 e vd xa xb => some (setWord 0 e 0x43 (encLr3 vd xa xb))
  | .bmul2 e vd xa xb => some (setWord 0 e 0x44 (encLr3 vd xa xb))
  | .bfma2 e vd xa xb => some (setWord 0 e 0x45 (encLr3 vd xa xb))
  | .iadd2 e vd xa xb => some (setWord 0 e 0x46 (encLr3 vd xa xb))
  | .isub2 e vd xa xb => some (setWord 0 e 0x47 (encLr3 vd xa xb))
  | .iadds2 e vd xa xb => some (setWord 0 e 0x48 (encLr3 vd xa xb))
  | .isubs2 e vd xa xb => some (setWord 0 e 0x49 (encLr3 vd xa xb))
  | .imax2 e vd xa xb => some (setWord 0 e 0x4A (encLr3 vd xa xb))
  | .imin2 e vd xa xb => some (setWord 0 e 0x4B (encLr3 vd xa xb))
  | .idp4 e vd xa xb => some (setWord 0 e 0x4C (encLr3 vd xa xb))
  | .udp4 e vd xa xb => some (setWord 0 e 0x4D (encLr3 vd xa xb))
  | .hdp2 e vd xa xb => some (setWord 0 e 0x4E (encLr3 vd xa xb))
  | .bdp2 e vd xa xb => some (setWord 0 e 0x4F (encLr3 vd xa xb))
  | .cvt e conv mode inf vd xa => some (setWord 0 e 0x50 (encCvt conv mode inf vd xa))
  | .pack e vd xa xb => some (setWord 0 e 0x51 (encLr3 vd xa xb))
  | .shfl vd xa xb => some (setWord 0 true 0x58 (encLr3 vd xa xb))
  | .shflx vd xa xb => some (setWord 0 true 0x59 (encLr3 vd xa xb))
  | .ballot vd xa => some (setWord 0 true 0x5A (encLr2 vd xa))
  | .sred op vd xa => some (setWord 0 true 0x5B (encSred op vd xa))
  | .sscan op excl vd xa => some (setWord 0 true 0x5C (encSscan op excl vd xa))
  | .matchLanes vd xa => some (setWord 0 true 0x5D (encLr2 vd xa))
  | .ldb e vd xa xb => some (setWord 0 e 0x60 (encMem vd xa xb))
  | .ldh e vd xa xb => some (setWord 0 e 0x61 (encMem vd xa xb))
  | .ldw e vd xa xb => some (setWord 0 e 0x62 (encMem vd xa xb))
  | .ldq e vd xa xb => some (setWord 0 e 0x63 (encMemq vd xa xb))
  | .stb e vd xa xb => some (setWord 0 e 0x64 (encMem vd xa xb))
  | .sth e vd xa xb => some (setWord 0 e 0x65 (encMem vd xa xb))
  | .stw e vd xa xb => some (setWord 0 e 0x66 (encMem vd xa xb))
  | .stq e vd xa xb => some (setWord 0 e 0x67 (encMemq vd xa xb))
  | .sldw e vd xa imm => some (setWord 0 e 0x68 (encLi vd xa imm))
  | .sldq e vd xa imm => some (setWord 0 e 0x69 (encLiq vd xa imm))
  | .sstw e vd xa imm => some (setWord 0 e 0x6A (encLi vd xa imm))
  | .sstq e vd xa imm => some (setWord 0 e 0x6B (encLiq vd xa imm))
  | .cldw e vd xa imm => some (setWord 0 e 0x6C (encLi vd xa imm))
  | .cstw e vd xa imm => some (setWord 0 e 0x6D (encLi vd xa imm))
  | .ldwp e vd va imm => some (setWord 0 e 0x6E (encLip vd va imm))
  | .stwp e vd va imm => some (setWord 0 e 0x6F (encLip vd va imm))
  | .axch vd xa xb => some (setWord 0 true 0x70 (encMem vd xa xb))
  | .acas vd xa xb => some (setWord 0 true 0x71 (encMemd vd xa xb))
  | .aadd vd xa xb => some (setWord 0 true 0x72 (encMem vd xa xb))
  | .aimin vd xa xb => some (setWord 0 true 0x73 (encMem vd xa xb))
  | .aimax vd xa xb => some (setWord 0 true 0x74 (encMem vd xa xb))
  | .aumin vd xa xb => some (setWord 0 true 0x75 (encMem vd xa xb))
  | .aumax vd xa xb => some (setWord 0 true 0x76 (encMem vd xa xb))
  | .aand vd xa xb => some (setWord 0 true 0x77 (encMem vd xa xb))
  | .aor vd xa xb => some (setWord 0 true 0x78 (encMem vd xa xb))
  | .axor vd xa xb => some (setWord 0 true 0x79 (encMem vd xa xb))
  | .afadd vd xa xb => some (setWord 0 true 0x7A (encMem vd xa xb))
  | .br k off => some (setWord 0 true 0x7B (encBr k off))
  | .brn k off => some (setWord 0 true 0x7C (encBr k off))
  | .jmp off => some (setWord 0 true 0x7D (encJmp off))
  | .call off => some (setWord 0 true 0x7E (encJmp off))
  | .ret => some (setWord 0 true 0x7F (encCtl0 0))
  | .jr xa => some (setWord 0 true 0x7F (encCtla xa 1))
  | .callr xa => some (setWord 0 true 0x7F (encCtla xa 2))
  | .exit => some (setWord 0 true 0x7F (encCtl0 3))
  | .yield => some (setWord 0 true 0x7F (encCtl0 4))
  | .frame e n => some (setWord 0 e 0x7F (encFrame n 5))
  | .unop e => some (setWord 1 e 0x00 encNop)
  | .uadd e sd sa sb => some (setWord 1 e 0x01 (encUr3 sd sa sb))
  | .usub e sd sa sb => some (setWord 1 e 0x02 (encUr3 sd sa sb))
  | .umul e sd sa sb => some (setWord 1 e 0x03 (encUr3 sd sa sb))
  | .umulh e sd sa sb => some (setWord 1 e 0x04 (encUr3 sd sa sb))
  | .uand e sd sa sb => some (setWord 1 e 0x05 (encUr3 sd sa sb))
  | .uor e sd sa sb => some (setWord 1 e 0x06 (encUr3 sd sa sb))
  | .uxor e sd sa sb => some (setWord 1 e 0x07 (encUr3 sd sa sb))
  | .ushl e sd sa sb => some (setWord 1 e 0x08 (encUr3 sd sa sb))
  | .ushr e sd sa sb => some (setWord 1 e 0x09 (encUr3 sd sa sb))
  | .usar e sd sa sb => some (setWord 1 e 0x0A (encUr3 sd sa sb))
  | .uimin e sd sa sb => some (setWord 1 e 0x0B (encUr3 sd sa sb))
  | .uimax e sd sa sb => some (setWord 1 e 0x0C (encUr3 sd sa sb))
  | .uminu e sd sa sb => some (setWord 1 e 0x0D (encUr3 sd sa sb))
  | .umaxu e sd sa sb => some (setWord 1 e 0x0E (encUr3 sd sa sb))
  | .uaddi e sd sa imm => some (setWord 1 e 0x10 (encUi sd sa imm))
  | .uandi e sd sa imm => some (setWord 1 e 0x11 (encUi sd sa imm))
  | .ushli e sd sa imm => some (setWord 1 e 0x12 (encUi sd sa imm))
  | .ushri e sd sa imm => some (setWord 1 e 0x13 (encUi sd sa imm))
  | .umovi e sd imm => some (setWord 1 e 0x14 (encUm sd imm))
  | .umovhi e sd imm => some (setWord 1 e 0x15 (encUm sd imm))
  | .umov e sd sa => some (setWord 1 e 0x16 (encUr2 sd sa))
  | .urds e sd idx => some (setWord 1 e 0x17 (encUrds sd idx))
  | .uadd64 e sd sa sb => some (setWord 1 e 0x18 (encUr3q sd sa sb))
  | .uaddi64 e sd sa imm => some (setWord 1 e 0x19 (encUiq sd sa imm))
  | .ucmp e cc jd sa sb => some (setWord 1 e 0x1A (encUcmp cc jd sa sb))
  | .jand e jd ja jb => some (setWord 1 e 0x1B (encJop 0 jd ja jb))
  | .jor e jd ja jb => some (setWord 1 e 0x1B (encJop 1 jd ja jb))
  | .jxor e jd ja jb => some (setWord 1 e 0x1B (encJop 2 jd ja jb))
  | .jandn e jd ja jb => some (setWord 1 e 0x1B (encJop 3 jd ja jb))
  | .jnot e jd ja => some (setWord 1 e 0x1B (encJnot 4 jd ja))
  | .ubr k off => some (setWord 1 true 0x1C (encBr k off))
  | .ubrn k off => some (setWord 1 true 0x1D (encBr k off))
  | .uldw e sd sa imm => some (setWord 1 e 0x1E (encUia sd sa imm))
  | .uldd e sd sa imm => some (setWord 1 e 0x1F (encUiq sd sa imm))
  | .ustw e sd sa imm => some (setWord 1 e 0x20 (encUia sd sa imm))
  | .ufence ord => some (setWord 1 true 0x21 (encUfence ord))
  | .qpush q sa => some (setWord 1 true 0x22 (encQpush q sa))
  | .qpop sd q => some (setWord 1 true 0x23 (encQpop sd q))
  | .qtry sd jd q => some (setWord 1 true 0x24 (encQtry sd jd q))
  | .mxlds sa fmt g ord => some (setWord 1 true 0x25 (encMxlds sa fmt g ord))
  | .mxswap g => some (setWord 1 true 0x26 (encUeg g))
  | .mxdrn sd sa g ord => some (setWord 1 true 0x27 (encUecmd4 sd sa g ord))
  | .mxzero tile g => some (setWord 1 true 0x28 (encMxzero tile g))
  | .cpcopy sd sa g ord => some (setWord 1 true 0x29 (encUecmd8 sd sa g ord))
  | .cpgath sd sa g ord => some (setWord 1 true 0x2A (encUecmd8 sd sa g ord))
  | .cpscat sd sa g ord => some (setWord 1 true 0x2B (encUecmd8 sd sa g ord))
  | .cpfill sd sa size g ord => some (setWord 1 true 0x2C (encCpfill sd sa size g ord))
  | .alloc sd sa => some (setWord 1 true 0x2D (encAlloc sd sa))
  | .free sa => some (setWord 1 true 0x2E (encUea sa))
  | .fetch sd => some (setWord 1 true 0x2F (encUed sd))
  | .bars n => some (setWord 1 true 0x30 (encBar n))
  | .bara n => some (setWord 1 true 0x31 (encBar n))
  | .barw n => some (setWord 1 true 0x32 (encBar n))
  | .gbar => some (setWord 1 true 0x33 encZero)
  | .chinit ch sa sb => some (setWord 1 true 0x34 (encChinit ch sa sb))
  | .chpush ch sa => some (setWord 1 true 0x35 (encChpush ch sa))
  | .chpop sd ch => some (setWord 1 true 0x36 (encChpop sd ch))
  | .garm g => some (setWord 1 true 0x37 (encGarm g))
  | .gres g jd => some (setWord 1 true 0x38 (encGres g jd))
  | .lkacq sa ord => some (setWord 1 true 0x39 (encUeao sa ord))
  | .lktry jd sa ord => some (setWord 1 true 0x3A (encLktry jd sa ord))
  | .lkrel sa ord => some (setWord 1 true 0x3B (encUeao sa ord))
  | .prmake sa => some (setWord 1 true 0x3C (encUea sa))
  | .prset sa sd ord => some (setWord 1 true 0x3D (encUedao sa sd ord))
  | .prwait sd jd sa ord => some (setWord 1 true 0x3E (encPrwait sd jd sa ord))
  | .setheir sa => some (setWord 1 true 0x3F (encUe1 sa))
  | .inherit sd => some (setWord 1 true 0x40 (encInh 0 sd))
  | .inheritNb sd jd => some (setWord 1 true 0x40 (encInhnb 1 sd jd))
  | .waitsig sa sd ord => some (setWord 1 true 0x41 (encUedao sa sd ord))
  | .sigadd sa sd ord => some (setWord 1 true 0x42 (encUedao sa sd ord))
  | .publish sa => some (setWord 1 true 0x43 (encUe1 sa))
  | .trap imm => some (setWord 1 true 0x44 (encUi0 imm))
  | .hret => some (setWord 1 true 0x45 encZero)
  | .bkpt imm => some (setWord 1 true 0x46 (encUi0 imm))
  | .srw idx sa => some (setWord 1 true 0x47 (encSrw idx sa))
  | .rfetch rd rs => some (porterWord 0 rd.val rs.val 0 0)
  | .rpost rs rt => some (porterWord 1 0 rs.val rt.val 0)
  | .bfx rd rs pos len hi => some (porterWord 2 rd.val rs.val pos.val (hi.val * 32 + len.val))
  | .bfiPorter rd rs pos len hi => some (porterWord 3 rd.val rs.val pos.val (hi.val * 32 + len.val))
  | .swait rd rs => some (porterWord 4 rd.val rs.val 0 0)
  | .sarm rs rt => some (porterWord 5 0 rs.val rt.val 0)
  | .disp rd rs rt => some (porterWord 6 rd.val rs.val rt.val 0)
  | .dstat rd rs => some (porterWord 7 rd.val rs.val 0 0)
  | .unimplementedEncoding _ => none
  | .porterException _ => none
  | .launch _ _ => none
  | .launchMeasured _ => none
  | .holdExpire _ => none
  | .launchBind => none
  | .rowLoad _ _ => none
  | .rowLoadComplete _ => none
  | .pick _ _ _ => none
  | .runFault _ _ => none
  | .slowGearWord _ _ => none
  | .handlerEntry _ => none
  | .escalationKill _ => none
  | .convey _ => none
  | .rowDrainComplete _ => none
  | .evictSaveComplete _ => none
  | .rotation _ => none
  | .restoreComplete _ => none
  | .foregroundSwap _ => none
  | .launchEnd _ => none
  | .launchCommit _ => none
  | .snapshotCopy _ _ => none
  | .rollbackKill _ _ => none
  | .hbmPatrolRead _ _ _ => none
  | .cellarRefreshWindowStart _ _ _ => none
  | .cellarRefreshWindowEnd _ => none
  | .storeLeave _ _ => none
  | .releasePerform _ => none
  | .storeCarry _ _ _ _ => none
  | .copyDrop _ _ => none
  | .loadPerform _ _ => none
  | .atomicPerform _ _ => none
  | .pageWalkComplete _ _ _ => none
  | .atsTranslationCompletion _ _ _ _ _ _ _ => none
  | .priResponseSuccess _ _ => none
  | .priResponseInvalid _ _ => none
  | .priResponseFailure _ _ => none
  | .atsInvalidateRequest _ _ _ => none
  | .invalidationComplete _ => none
  | .mxldsCommandRun _ => none
  | .mxswapCommandRun _ => none
  | .streamRowFeed _ _ => none
  | .mxdrnCommandRun _ => none
  | .mxzeroCommandRun _ => none
  | .copyCommandComplete _ => none
  | .storekeeperReply _ _ => none
  | .storekeeperFree _ => none
  | .dispenserRefill _ => none
  | .publicationPerform _ => none
  | .cellarFill _ _ => none
  | .cellarFillEnd _ => none
  | .copy _ _ => none
  | .signalSet _ _ => none
  | .signalWait _ _ => none
  | .pubCreate _ _ => none
  | .pubDestroy _ _ => none
  | .receiptSeal _ _ => none
  | .receiptRequest _ _ _ => none
  | .windowExport _ _ => none
  | .windowGrant _ _ _ _ _ _ _ _ => none
  | .windowRevoke _ _ => none
  | .keyInstall _ _ => none
  | .storageBind _ _ => none
  | .storageRequestServe _ => none
  | .storageDone _ _ => none
  | .debugHalt _ _ => none
  | .debugResume _ _ => none
  | .debugStep _ _ => none
  | .debugClaim _ _ => none
  | .debugRead _ _ => none
  | .debugKill _ _ => none
  | .debugSetDump _ _ => none
  | .contextCreate _ _ => none
  | .contextDestroy _ _ => none
  | .tlbInvalidate _ _ => none
  | .setRegions _ _ => none
  | .setTolerance _ _ => none
  | .cellarGrant _ _ => none
  | .partition _ _ => none
  | .eventRoute _ _ => none
  | .porterImage _ _ => none
  | .inject _ _ => none
  | .injectorFire _ => none
  | .queueNotify _ _ _ _ _ _ => none
  | .featuresOk _ _ => none
  | .functionReset _ => none
  | .queueReset _ => none
  | .queueRemap _ => none
  | .partitionFreeze _ => none
  | .partitionResume _ => none
  | .fabricRequestReceive _ _ _ _ _ _ _ => none
  | .flitCrcFail _ _ => none
  | .portRetrain _ _ => none
  | .portUp _ => none
  | .flitGroupTagFail _ _ _ _ => none
  | .pcieLinkTrain _ _ => none
  | .pcieErrorLogged _ _ _ => none
  | .poisonedTlpReceived _ _ _ => none
  | .operatingPointChange _ _ => none
  | .powerAboveDesign _ _ => none
  | .throttleTemperature _ _ _ => none
  | .throttleEnd => none
  | .shutdownTemperature _ _ => none
  | .powerInputValid => none
  | .strongroomBoot => none
  | .strongroomInit => none
  | .hostClassStart => none
  | .hbmTrain => none
  | .porterStart => none
  | .ternathTrain _ _ => none
  | .pcieEnable => none
  | .tlbEntryDrop _ _ _ => none
  | .priReenable _ => none
  | .queueEnable _ _ => none
  | .powerLoss => none
  | .configurationRequest _ _ _ _ => none
  | .strongroomManagementRequest _ _ => none

end Sys2Proof
end

