-- ==== Sys2Proof/Machine/Sync.lean ====
section
/-! DEFINITION. Barriers, channels, guards, locks, promises, estates, signals and publication (09 R205 to R219). -/

namespace Sys2Proof.Machine

open Host (Outcome)

/-! ### Barriers -/

/-- The arrivals of a squad's threads in the wave at a block barrier: each is a release at block scope, and they are counted in
home-lane order (R205). From the issue each thread has arrived. -/
def arriveBar (q n : Nat) (ts : List Nat) (s : State) : State :=
  let s := mapThreads ts (fun _ th => { th with arrivals := th.arrivals.put n (arrivalMade (th.arrivals.get? n)) }) s
  startSync (ts.map fun t => (thr s t).agent) .block false (.barArrive (sqd s q).block n ts) s

/-- The threads of a squad wait for the phases of their last arrivals, each on its own (R205). -/
def awaitBar (q n : Nat) (ts : List Nat) (s : State) : State :=
  ts.foldl (fun s t => waitSquad q [t] (.bar (sqd s q).block n) s) s

/-- BARS (R205). -/
def execBars (n : Fin 16) (s : State) : Outcome State Fault Refusal :=
  .next (commandWord (fun _ _ _ => none) (fun q ts s =>
    let ts := byLane ts
    awaitBar q n.val ts (arriveBar q n.val ts (leaveRuns ts (fun _ => s.cur.pc) s))) s)

/-- BARA (R205). -/
def execBara (n : Fin 16) (s : State) : Outcome State Fault Refusal :=
  .next (commandWord (fun _ _ _ => none) (fun q ts s =>
    arriveBar q n.val (byLane ts) (leaveRuns ts (fun _ => s.cur.pc + 4) s)) s)

/-- BARW (R205). -/
def execBarw (n : Fin 16) (s : State) : Outcome State Fault Refusal :=
  .next (commandWord (fun _ _ _ => none) (fun q ts s => awaitBar q n.val (byLane ts) s) s)

/-- GBAR (R206). -/
def execGbar (s : State) : Outcome State Fault Refusal :=
  .next (commandWord (fun _ _ _ => none) (fun q ts s =>
    let ts := byLane ts
    let g := (blk s (sqd s q).block).gang
    let s := leaveRuns ts (fun _ => s.cur.pc) s
    let s := mapThreads ts (fun _ th => { th with gbarPhase := some (arrivalMade th.gbarPhase) }) s
    let s := startSync (ts.map fun t => (thr s t).agent) .cluster false (.gbarArrive g ts) s
    ts.foldl (fun s t => waitSquad q [t] (.gbar g) s) s) s)

/-! ### Channels -/

/-- A thread waits at the channel (R207). -/
def channelInUse (s : State) (b n : Nat) : Bool :=
  s.waits.any fun e => !(waiters s e.1 e.2).isEmpty &&
    match e.2.kind with
    | .chPush x m _ => x == b && m == n
    | .chPop x m _ => x == b && m == n
    | _ => false

/-- The ring of a channel lies within its window (R207). -/
def ringOk (s : State) (b : Nat) (base : Word) (cap : Nat) : Bool :=
  let o := base.toNat % 2 ^ 31
  o + 4 * cap ≤ (if base.toNat < 2 ^ 31 then localSize s b else clusterSize s b)

/-- The causes of CHINIT (Table 18.6). -/
def chinitCause (s : State) (q n : Nat) (base cap : Word) : Option Cause :=
  let b := (sqd s q).block
  causeIf (channelInUse s b n || !(1 ≤ cap.toNat && cap.toNat ≤ 64) || base.toNat % 4 != 0 || !ringOk s b base cap.toNat) 0x08

/-- A channel's entries are discarded, those still behind their release among them (R207). -/
def discardEntries (b n : Nat) (s : State) : State :=
  { s with syncs := s.syncs.map fun e => match e.2.op with
    | .chEnter x m _ => if x = b ∧ m = n then (e.1, { e.2 with op := .fence }) else e
    | _ => e }

/-- CHINIT (R207). -/
def execChinit (ch : Fin 16) (sa sb : Fin 64) (s : State) : Outcome State Fault Refusal :=
  .next (commandWord
    (fun s q _ => operandCause s { sr := [sa.val, sb.val] } q
      (chinitCause s q ch.val (readS s false q sa.val) (readS s false q sb.val)))
    (fun q ts s =>
      let cap := (readS s false q sb.val).toNat
      let s := leaveRuns ts (fun _ => s.cur.pc + 4) s
      let c : Channel := { base := readS s false q sa.val, cap := cap, head := 0, count := 0, allow := cap, rels := [] }
      modChan (sqd s q).block ch.val (fun _ => c) (discardEntries (sqd s q).block ch.val s)) s)

/-- Channel misuse: a channel of capacity 0 (R207). -/
def channelCause (s : State) (q n : Nat) : Option Cause := causeIf ((chanOf s (sqd s q).block n).cap == 0) 0x08

/-- CHPUSH (R208). -/
def execChpush (ch : Fin 16) (sa : Fin 64) (s : State) : Outcome State Fault Refusal :=
  .next (commandWord (fun s q _ => operandCause s (useDesc 1 sa) q (channelCause s q ch.val))
    (fun q ts s => waitSquad q ts (.chPush (sqd s q).block ch.val (readS s false q sa.val)) s) s)

/-- CHPOP (R208). -/
def execChpop (sd : Fin 64) (ch : Fin 16) (s : State) : Outcome State Fault Refusal :=
  .next (commandWord (fun s q _ => channelCause s q ch.val)
    (fun q ts s => waitSquad q ts (.chPop (sqd s q).block ch.val sd.val) s) s)

/-! ### Guard slots (R135, R136, R209) -/

def isArmed : Guard → Bool
  | .armed _ => true
  | .opened | .shut => false

/-- GARM: a new arming of a slot that is not armed (Table 6.23). -/
def execGarm (g : Fin 16) (s : State) : Outcome State Fault Refusal :=
  .next (commandWord (fun s q _ => causeIf (isArmed (guardOf s (sqd s q).block g.val)) 0x09)
    (fun q ts s => modBlock (sqd s q).block
      (fun k => { k with guards := k.guards.put g.val (.armed k.armings), armings := k.armings + 1 })
      (leaveRuns ts (fun _ => s.cur.pc + 4) s)) s)

/-- A slot resolved: its arming and its state become OPEN or SHUT (Table 6.23). -/
def Block.resolve (g : Nat) (open' : Bool) (k : Block) : Block :=
  match k.guards.getD g .opened with
  | .armed n => { k with guards := k.guards.put g (if open' then .opened else .shut), resolved := k.resolved.put n open' }
  | .opened | .shut => k

/-- GRES: a further execution in a mixed wave meets a resolved slot (R136). -/
def execGres (g : Fin 16) (jd : Fin 8) (s : State) : Outcome State Fault Refusal :=
  .next (commandWord (fun s q _ => operandCause s { jr := [jd.val] } q
      (causeIf (!isArmed (guardOf s (sqd s q).block g.val)) 0x09))
    (fun q ts s =>
      let j := readJ s false q jd.val
      modBlock (sqd s q).block (Block.resolve g.val j) (leaveRuns ts (fun _ => s.cur.pc + 4) s)) s)

/-! ### Objects in memory -/

/-- The cause of a reference to an object of `len` bytes at S64(q, sa): of its address, its window, or poison that the instruction would
read (R302, R326, R340). -/
def refCause (s : State) (q : Nat) (sa : Fin 64) (a : Access) (len : Nat) : Option Cause :=
  let tr := translate s (viewOf s q) none a (readS64 s false q sa.val).toNat len
  lowest [transCause tr (readS64 s false q sa.val), strictCause s tr (readS64 s false q sa.val),
    poisonCause s ((transPieces tr).filter fun p => !winDead s p.win)]

/-- That reference: its memory key, its address and its page's kind. -/
def refOf (s : State) (q : Nat) (sa : Fin 64) (a : Access) (len : Nat) : Ref :=
  match transPieces (translate s (viewOf s q) none a (readS64 s false q sa.val).toNat len) with
  | p :: _ => ⟨p.addr, readS64 s false q sa.val, p.ord, p.win⟩
  | [] => ⟨0, readS64 s false q sa.val, .rc, none⟩

/-- The acquire of an instruction's ordering bits. -/
def Ord.acquires (o : Ord) : Option Scope := if o.acq then some o.scope else none

/-- The release of an instruction's ordering bits. -/
def Ord.releases (o : Ord) : Option Scope := if o.rel then some o.scope else none

/-- A move on the `len` bytes of an object, behind the release of the ordering bits, if they have one (R97). An instruction that does
not wait acquires at that move; one that waits, when it completes. -/
def moveObject (ts : List Nat) (o : Ord) (op : SyncOp) (r : Ref) (len : Nat) (s : State) : State :=
  let acq := match op with
    | .lkRel .. | .prSet .. | .sigAdd .. => Ord.acquires o
    | .fence | .barArrive .. | .gbarArrive .. | .chEnter .. | .arm _ | .lkTry .. | .prMake .. | .publish .. | .free _ | .cmdStart _
    | .cmdDone _ => none
  startObject (ts.map fun t => (thr s t).agent) (Ord.releases o) acq op [(r.key, len)] r s

/-- A wait whose first test is a move on an object (R97). -/
def waitOnObject (q : Nat) (ts : List Nat) (o : Ord) (kind : WaitKind) (r : Ref) (len : Nat) (s : State) : State :=
  let id := s.nextId
  leaveWaiting ts (moveObject ts o (.arm id) r len (addWait ts q kind false (ts.foldl (fun s t => leaveRun t s.cur.pc false s) s)))

/-- The acquire of an instruction that does not wait holds the threads' later accesses back until the move of synchronisation `y` (R92,
R97). -/
def holdUntilMove (y : Nat) (ts : List Nat) (o : Ord) (s : State) : State :=
  if o.acq then ts.foldl (fun s t => modAgent (thr s t).agent (fun g => { g with
    holds := g.holds ++ [⟨g.nextSeq, o.scope, false, none, false, some y⟩], nextSeq := g.nextSeq + 1 }) s) s
  else s

/-- The move of an instruction that does not wait, with the hold of its acquire. -/
def moveAndHold (ts : List Nat) (o : Ord) (op : SyncOp) (r : Ref) (len : Nat) (s : State) : State :=
  holdUntilMove s.nextId ts o (moveObject ts o op r len s)

/-! ### Locks (R211) -/

/-- LKACQ. -/
def execLkacq (sa : Fin 64) (ord : Ord) (s : State) : Outcome State Fault Refusal :=
  .next (commandWord
    (fun s q _ => operandCause s (useDesc 2 sa) q (lowest [refCause s q sa (.cell true) 8, estateCause s q]))
    (fun q ts s =>
      let r := refOf s q sa (.cell true) 8
      waitOnObject q ts ord (.lkAcq r (Ord.acquires ord)) r 8 s) s)

/-- LKTRY: jd is pending until the attempt has been made. -/
def execLktry (jd : Fin 8) (sa : Fin 64) (ord : Ord) (s : State) : Outcome State Fault Refusal :=
  .next (commandWord
    (fun s q _ => operandCause s (useDesc 2 sa) q (lowest [refCause s q sa (.cell true) 8, estateCause s q]))
    (fun q ts s =>
      let r := refOf s q sa (.cell true) 8
      let s := leaveRuns ts (fun _ => s.cur.pc + 4) s
      let s := modSquad q (fun sq => { sq with pendJ := jd.val :: sq.pendJ }) s
      moveAndHold ts ord (.lkTry q jd.val r (Ord.acquires ord) ts (cor s s.cur.core).issue) r 8 s) s)

/-- LKREL: the squad must hold the lock; the holding ends at issue. -/
def execLkrel (sa : Fin 64) (ord : Ord) (s : State) : Outcome State Fault Refusal :=
  .next (commandWord
    (fun s q _ => operandCause s (useDesc 2 sa) q (lowest [refCause s q sa (.cell true) 8,
      if holds s q .lock (refOf s q sa (.cell true) 8).key then none else some ⟨0x05, readS64 s false q sa.val, none⟩]))
    (fun q ts s =>
      let r := refOf s q sa (.cell true) 8
      let s := leaveRuns ts (fun _ => s.cur.pc + 4) s
      moveAndHold ts ord (.lkRel q r.key (holdingOf? s q .lock r.key)) r 8 (dropHolding q .lock r.key s)) s)

/-! ### Promises (R212, R213) -/

/-- The cell is an unfulfilled promise held by a squad, behind the PRMAKEs that have not arrived at it and the PRSETs of squad `q`
that have not. -/
def heldPromise (s : State) (q k : Nat) : Bool :=
  s.syncs.foldl (fun b e => match e.2.op with
    | .prMake _ x => b || x == k
    | .prSet p x _ _ => b && !(p == q && x == k)
    | _ => b) (readNat s (k + 12) 4 != 0 && readNat s (k + 8) 4 % 2 == 0)

/-- PRMAKE. -/
def execPrmake (sa : Fin 64) (s : State) : Outcome State Fault Refusal :=
  .next (commandWord
    (fun s q _ => operandCause s (useDesc 2 sa) q (lowest [refCause s q sa (.cell true) 16, estateCause s q,
      if (refCause s q sa (.cell true) 16).isNone && heldPromise s q (refOf s q sa (.cell true) 16).key then
        some ⟨0x05, readS64 s false q sa.val, none⟩ else none]))
    (fun q ts s =>
      let r := refOf s q sa (.cell true) 16
      let s := leaveRuns ts (fun _ => s.cur.pc + 4) s
      addHolding q .promise r.va r.key false (moveObject ts ⟨.thread, false, false⟩ (.prMake q r.key) r 16 s)) s)

/-- PRSET: the squad must hold the promise; the holding ends at issue. -/
def execPrset (sa sd : Fin 64) (ord : Ord) (s : State) : Outcome State Fault Refusal :=
  .next (commandWord
    (fun s q _ => operandCause s { sr := group sa.val 2 ++ group sd.val 2 } q (lowest [refCause s q sa (.cell true) 16,
      if holds s q .promise (refOf s q sa (.cell true) 16).key then none else some ⟨0x05, readS64 s false q sa.val, none⟩]))
    (fun q ts s =>
      let r := refOf s q sa (.cell true) 16
      let v := readS64 s false q sd.val
      let s := leaveRuns ts (fun _ => s.cur.pc + 4) s
      moveAndHold ts ord (.prSet q r.key v (holdingOf? s q .promise r.key)) r 16 (dropHolding q .promise r.key s)) s)

/-- PRWAIT. -/
def execPrwait (sd : Fin 64) (jd : Fin 8) (sa : Fin 64) (ord : Ord) (s : State) : Outcome State Fault Refusal :=
  .next (commandWord
    (fun s q _ => operandCause s { sr := group sa.val 2 } q (refCause s q sa (.cell false) 16))
    (fun q ts s =>
      let r := refOf s q sa (.cell false) 16
      waitOnObject q ts ord (.prWait r.key sd.val jd.val (Ord.acquires ord)) r 16 s) s)

/-! ### Estates (R215, R217) -/

/-- SETHEIR. -/
def execSetheir (sa : Fin 64) (s : State) : Outcome State Fault Refusal :=
  .next (commandWord (fun s q _ => operandCause s (useDesc 1 sa) q none)
    (fun q ts s =>
      let h := (readS s false q sa.val).toNat
      modSquad q (fun sq => { sq with heir := h }) (leaveRuns ts (fun _ => s.cur.pc + 4) s)) s)

/-- INHERIT. -/
def execInherit (sd : Fin 64) (s : State) : Outcome State Fault Refusal :=
  .next (commandWord (fun _ _ _ => none) (fun q ts s => waitSquad q ts (.inherit sd.val) s) s)

/-- INHERIT.NB: it never waits; sd and jd are written with the run. -/
def execInheritNb (sd : Fin 64) (jd : Fin 8) (s : State) : Outcome State Fault Refusal :=
  .next (commandWord (fun _ _ _ => none) (fun q ts s =>
    match (sqd s q).q7 with
    | n :: r =>
      let s := writeJ q jd.val true true (writeS64 q sd.val n.val n.val s)
      let s := modSquad q (fun sq => { sq with q7 := r }) (commitWrites s)
      acquireAll ts .device (unstored n.rels) (leaveRuns ts (fun _ => s.cur.pc + 4) s)
    | [] => leaveRuns ts (fun _ => s.cur.pc + 4) (commitWrites (writeJ q jd.val false false s))) s)

/-! ### Signals and publication (R218, R219) -/

/-- WAITSIG. -/
def execWaitsig (sa sd : Fin 64) (ord : Ord) (s : State) : Outcome State Fault Refusal :=
  .next (commandWord
    (fun s q _ => operandCause s { sr := group sa.val 2 ++ group sd.val 2 } q (refCause s q sa (.signal false) 8))
    (fun q ts s =>
      let r := refOf s q sa (.signal false) 8
      waitOnObject q ts ord (.waitSig r (readS64 s false q sd.val) (Ord.acquires ord)) r 8 s) s)

/-- SIGADD. -/
def execSigadd (sa sd : Fin 64) (ord : Ord) (s : State) : Outcome State Fault Refusal :=
  .next (commandWord
    (fun s q _ => operandCause s { sr := group sa.val 2 ++ group sd.val 2 } q (refCause s q sa (.signal true) 8))
    (fun q ts s =>
      let r := refOf s q sa (.signal true) 8
      let v := readS64 s false q sd.val
      moveAndHold ts ord (.sigAdd q r.key v) r 8 (leaveRuns ts (fun _ => s.cur.pc + 4) s)) s)

/-- PUBLISH names a window of the launch header of a launch with PUBLISH set (R219). -/
def publishCause (s : State) (q : Nat) (w : Word) : Option Cause :=
  let h := (launchOf s (sqd s q).lid).hdr
  causeIf (!(h.publish && w != 0 && h.windows.contains w.toNat)) 0x05

/-- PUBLISH: a release at system scope; the thread does not wait. The publication takes its place in issue order, and is performed
behind the release (R99, R219). -/
def execPublish (sa : Fin 64) (s : State) : Outcome State Fault Refusal :=
  .next (commandWord (fun s q _ => operandCause s (useDesc 1 sa) q (publishCause s q (readS s false q sa.val)))
    (fun q ts s =>
      let w := (readS s false q sa.val).toNat
      let s := leaveRuns ts (fun _ => s.cur.pc + 4) s
      let (id, s) := newId s
      startSync (ts.map fun t => (thr s t).agent) .system false (.publish w id) (issuePublish (sqd s q).lid w id s)) s)

end Sys2Proof.Machine
end

