-- ==== Sys2Proof/Machine/System.lean ====
section
/-! DEFINITION. Traps, breakpoints, the return from a handler, special-register writes and unimplemented encodings (06 R122; 09 R220 to R222; 18 R299). -/

namespace Sys2Proof.Machine

open Host (Outcome)

/-- A trap taken by a squad's threads in the wave: their runs end, each stands at `pc`, and the squad enters its handler (R220).
While an entry is pending they stand at the word itself, which comes again (R317). In slow gear the threads stop, and the squad
reports when the re-run ends (R311). -/
def trapSquad (code : Nat) (pc : DWord) (q : Nat) (ts : List Nat) (s : State) : State :=
  let stand := if entryPending s q then s.cur.pc else pc
  let inside := stand == s.cur.pc && insideRun s q (curWave s) s.cur.pc
  let s' := mapThreads ts (fun _ th => { th with inRun := inside }) (leaveRuns ts (fun _ => stand) s)
  let fs := ts.map fun t => faultAt s t (noAddr code) true
  if s.cur.slow then
    stopSquad q fs (modWave (fun w => { w with slow := w.slow.map fun k => { k with stopped := k.stopped ++ fs } }) s')
  else raise q (reportOf s q (curWave s).all fs) (dropThreads ts s')

/-- TRAP: sr.hpc is the next word (R220). The trap code stands in the word, and so in sr.ximm. -/
def execTrap (_ : BitVec 11) (s : State) : Outcome State Fault Refusal :=
  .next (commandWord (fun _ _ _ => none) (fun q ts s => trapSquad 0x10 (s.cur.pc + 4) q ts s) s)

/-- BKPT: sr.hpc is the word itself (R220). Where a debugger has claimed breakpoints its threads stop for the debugger. -/
def execBkpt (_ : BitVec 11) (s : State) : Outcome State Fault Refusal :=
  .next (commandWord (fun _ _ _ => none) (fun q ts s => trapSquad 0x11 s.cur.pc q ts s) s)

/-- HRET: the threads of the squad in the wave return at their sr.hpc (R221, R318). -/
def execHret (s : State) : Outcome State Fault Refusal :=
  .next (commandWord (fun s q _ => causeIf ((sqd s q).entry != .inProgress) 0x01)
    (fun q ts s => returnFrom q ts (leaveRuns ts (fun _ => s.cur.pc) s)) s)

/-- sr.hpc of a lane with one half replaced; the write clears the thread's mark (R222, R315). -/
def writeHpc (q lane : Nat) (high : Bool) (x : Word) (s : State) : State :=
  if (sqd s q).present.contains lane then
    modThread (threadKey q lane) (fun th => { th with
      hpc := if high then join64 (lowWord th.hpc) x else join64 x (highWord th.hpc), mark := false }) s
  else s

/-- A special register written with a value (R120, R222). -/
def writeSpecial (q idx : Nat) (x : Word) (s : State) : State :=
  if 0x80 ≤ idx ∧ idx < 0xA0 then writeHpc q (idx - 0x80) false x s
  else if 0xA0 ≤ idx ∧ idx < 0xC0 then writeHpc q (idx - 0xA0) true x s
  else match idx with
    | 0x10 => modSquad q (fun sq => { sq with hvec := join64 (x &&& 0xFFFFFFFC) (highWord sq.hvec) }) s
    | 0x11 => modSquad q (fun sq => { sq with hvec := join64 (lowWord sq.hvec) x }) s
    | 0x14 => modSquad q (fun sq => { sq with amask := x &&& laneMask (threadsOf s q) }) s
    | 0x0E => modSquad q (fun sq => { sq with wrev := 0 }) s
    | _ => s

/-- SRW: the write takes effect at issue (R222). -/
def execSrw (idx : BitVec 8) (sa : Fin 64) (s : State) : Outcome State Fault Refusal :=
  .next (commandWord (fun s q _ => operandCause s (useDesc 1 sa) q none)
    (fun q ts s =>
      let x := readS s false q sa.val
      writeSpecial q idx.toNat x (leaveRuns ts (fun _ => s.cur.pc + 4) s)) s)

/-- A word that is no instruction: cause 0x01 for every thread, in class P when the word ends its run and in class R otherwise
(R122, R299). A word of a run-ending class without its B flag is in class R. -/
def execUnimplementedEncoding (w : Word) (s : State) : Outcome State Fault Refusal :=
  let s := { s with cur := { s.cur with word := w } }
  let fs := s.cur.threads.map fun t => faultAt s t (noAddr 0x01) true
  .next (if s.cur.slow then
      match fs with
      | f :: _ => slowStop f s
      | [] => s
    else if w.getLsbD 30 then classP fs (commitWrites s) else noteFaults fs s)

end Sys2Proof.Machine
end

