-- ==== Sys2Proof/Machine/Fetch.lean ====
section
/-! DEFINITION. Fetching a word and letting it issue: the scoreboard, tokens and the cursor (01 R19 to R24; 04 R96; 07 R138; 18 R301; 19 R308). -/

namespace Sys2Proof.Machine

/-- What a fetch gives. -/
inductive Fetched where
  | word (w : Word)
  /-- A cause, with the poison that it blames, by memory key (R333). -/
  | bad (cause : Nat) (key : Option Nat)
  | miss (pages : List Nat)
  deriving DecidableEq, Repr

/-- The word at an address, as a thread fetches it (R301). -/
def fetchAt (s : State) (t : Nat) (a : DWord) : Fetched :=
  if a.toNat % 4 ≠ 0 then .bad 0x03 none
  else match translate s (viewOf s (squadOf t)) (thr s t).deny .fetch a.toNat 4 with
    | .bad c => .bad c none
    | .miss ps => .miss ps
    | .ok ps =>
      if ps.any fun p => strictDead s p.win then .bad 0x0F none
      else if ps.any fun p => winDead s p.win then .word 0
      else match poisonIn s ps with
        | some g => .bad 0x0D (some g)
        | none => .word (BitVec.ofNat 32 (leNat (readPieces s ps)))

/-! ### The scoreboard (R19, R138) -/

/-- A squad load of a thread in the wave is outstanding to an s register. -/
def loadPendS (s : State) (q n : Nat) : Bool :=
  (curWave s).threads.any fun t => squadOf t == q &&
    (agt s (thr s t).agent).loads.any fun l =>
      match l.dst with
      | .s r m => r == q && m ≤ n && n < m + l.words
      | .v _ _ | .none => false

/-- An instruction that some of the squad's threads wait in will write the register. -/
def waitPend (s : State) (q : Nat) (regs : WaitKind → List Nat) (n : Nat) : Bool :=
  s.waits.any fun e => e.2.squad == q && (regs e.2.kind).contains n && !(waiters s e.1 e.2).isEmpty

/-- Every register that a word reads or writes is available in the thread (R138). -/
def available (s : State) (u : Uses) (t : Nat) : Bool :=
  let q := squadOf t
  let sq := sqd s q
  (u.vr ++ u.vw).all (fun n => !(thr s t).pendV.contains n) &&
  (u.sr ++ u.sw).all (fun n => !(sq.pendS.contains n || loadPendS s q n || waitPend s q (writesS s) n)) &&
  (u.jr ++ u.jw).all (fun n => !(sq.pendJ.contains n || waitPend s q WaitKind.writesJ n))

/-- Each thread's first read of a token register is an acquire that synchronises with the command's release (R96). -/
def readTokens (u : Uses) (s : State) : State :=
  s.cur.threads.foldl (fun s t =>
    let q := squadOf t
    ((sqd s q).tokens.filter fun k => u.sr.contains k.reg && (runWrite? s q false k.reg).isNone).foldl (fun s k =>
      if (thr s t).tokSeen.contains k.id then s
      else modThread t (fun th => { th with tokSeen := k.id :: th.tokSeen }) (acquire (thr s t).agent k.scope (unstored k.rels) s)) s) s

/-- A thread of the wave has a load outstanding. -/
def loadsOut (s : State) (ts : List Nat) : Bool := ts.any fun t => !(agt s (thr s t).agent).loads.isEmpty

/-- The cursor put at a wave's word. -/
def setCursor (c k : Nat) (ts : List Nat) (pc : DWord) (w : Word) (slow : Bool) (s : State) : State :=
  { s with cur := ⟨c, k, ts, pc, w, slow⟩ }

/-- The word takes its place in the core's issue order (R23, R30). -/
def countIssue (s : State) : State := modCore s.cur.core (fun c => { c with issue := c.issue + 1 }) s

/-- The fault of a fetch: in class P at the run start, otherwise in class R (R301). -/
def fetchFault (cause : Nat) (key : Option Nat) (s : State) : State :=
  let fs := s.cur.threads.map fun t => faultAt s t ⟨cause, s.cur.pc, key⟩ false
  if s.cur.slow then
    match fs with
    | f :: _ => slowStop f s
    | [] => s
  else if s.cur.pc = (curWave s).start then classP fs s else noteFaults fs s

/-- What a word in hand becomes: an instruction, or an encoding that is none (R122). -/
def instrOf (w : Word) : Instr :=
  match decode w with
  | .ok i => i
  | .error _ => .unimplementedEncoding w

/-- Whether a word may issue now: its registers are available, and a last word waits until every earlier word of the run has
completed and no thread has a run fault (R308). -/
def mayIssue (s : State) (w : Word) : Bool :=
  let v := curWave s
  (!w.getLsbD 30 || (v.faults.isEmpty && !loadsOut s v.threads)) &&
  s.cur.threads.all (available s (usesOf (instrOf w)))

/-- What an issue slot's next step is: nothing, a state already reached, or an instruction to execute. -/
inductive Issue where
  | idle
  | done (s : State)
  | run (i : Instr) (s : State)

/-- The next word of the wave in a slot (R23, R301, R308). The words of a wave issue in program order, and a run longer than R17 allows
goes on as any other (log 95). -/
def issueNext (c k : Nat) (s : State) : Issue :=
  match (cor s c).slots.get? k with
  | none => .idle
  | some v =>
    match v.active with
    | [] => .idle
    | t :: _ =>
      if v.slow.isSome then .idle
      else if !v.ending.isEmpty then
        -- the loads still out belonged to threads whose runs have been discarded (R309)
        (if loadsOut s v.ending then .idle else .done (endLoads (setCursor c k v.ending v.pc 0 false s)))
      else
      match fetchAt s t v.pc with
      | .miss ps => .done (askFor t false ps s)
      | .bad cause key => .done (fetchFault cause key (setCursor c k v.active v.pc 0 false s))
      | .word w =>
        let s := setCursor c k v.active v.pc w false s
        if mayIssue s w then
          .run (instrOf w) (countIssue (readTokens (usesOf (instrOf w)) s))
        else .idle

/-- The next word of a Porter: outside its SRAM, a word that is none of the extension, or an instruction (R258, R260). -/
inductive PorterNext where
  | idle
  | outside
  | base (w : Word)
  | run (i : Instr) (s : State)

def porterNext (p : Nat) (s : State) : PorterNext :=
  let k := porterOf s p
  if k.halted then .idle
  else if sramSize < k.pc.toNat + 4 ∨ k.pc.toNat % 4 ≠ 0 then .outside
  else
    let w := BitVec.ofNat 32 (readNat s (sramKey p k.pc.toNat) 4)
    match decodePorter w with
    | .ok i => .run i { s with cur := ⟨p, 0, [], k.pc.zeroExtend 64, w, false⟩ }
    | .error _ => .base w

end Sys2Proof.Machine
end

