-- ==== Sys2Proof/Machine/Words.lean ====
section
/-! DEFINITION. The words of the cores, executed outside the issue slots, and which constructors are steps with no encoding (19 R310, R321). -/

namespace Sys2Proof.Machine

/-- A word executed on the cursor for slow gear or a debugger step; a constructor that is no word of the cores changes nothing. -/
def execWord (i : Instr) (s : State) : Host.Outcome State Fault Refusal :=
  match i with
  | .nop e => Sys2Proof.Machine.execNop e s
  | .iadd e vd xa xb => Sys2Proof.Machine.execIadd e vd xa xb s
  | .isub e vd xa xb => Sys2Proof.Machine.execIsub e vd xa xb s
  | .imul e vd xa xb => Sys2Proof.Machine.execImul e vd xa xb s
  | .imulh e vd xa xb => Sys2Proof.Machine.execImulh e vd xa xb s
  | .imulhu e vd xa xb => Sys2Proof.Machine.execImulhu e vd xa xb s
  | .imad e vd xa xb => Sys2Proof.Machine.execImad e vd xa xb s
  | .imin e vd xa xb => Sys2Proof.Machine.execImin e vd xa xb s
  | .imax e vd xa xb => Sys2Proof.Machine.execImax e vd xa xb s
  | .umin e vd xa xb => Sys2Proof.Machine.execUmin e vd xa xb s
  | .umax e vd xa xb => Sys2Proof.Machine.execUmax e vd xa xb s
  | .idiv e vd xa xb => Sys2Proof.Machine.execIdiv e vd xa xb s
  | .udiv e vd xa xb => Sys2Proof.Machine.execUdiv e vd xa xb s
  | .irem e vd xa xb => Sys2Proof.Machine.execIrem e vd xa xb s
  | .urem e vd xa xb => Sys2Proof.Machine.execUrem e vd xa xb s
  | .qpushv q vd => Sys2Proof.Machine.execQpushv q vd s
  | .and e vd xa xb => Sys2Proof.Machine.execAnd e vd xa xb s
  | .or e vd xa xb => Sys2Proof.Machine.execOr e vd xa xb s
  | .xor e vd xa xb => Sys2Proof.Machine.execXor e vd xa xb s
  | .andn e vd xa xb => Sys2Proof.Machine.execAndn e vd xa xb s
  | .shl e vd xa xb => Sys2Proof.Machine.execShl e vd xa xb s
  | .shr e vd xa xb => Sys2Proof.Machine.execShr e vd xa xb s
  | .sar e vd xa xb => Sys2Proof.Machine.execSar e vd xa xb s
  | .popc e vd xa => Sys2Proof.Machine.execPopc e vd xa s
  | .clz e vd xa => Sys2Proof.Machine.execClz e vd xa s
  | .brev e vd xa => Sys2Proof.Machine.execBrev e vd xa s
  | .bfe e vd xa xb => Sys2Proof.Machine.execBfe e vd xa xb s
  | .bfi e vd xa xb => Sys2Proof.Machine.execBfi e vd xa xb s
  | .iaddi e vd xa imm => Sys2Proof.Machine.execIaddi e vd xa imm s
  | .andi e vd xa imm => Sys2Proof.Machine.execAndi e vd xa imm s
  | .ori e vd xa imm => Sys2Proof.Machine.execOri e vd xa imm s
  | .xori e vd xa imm => Sys2Proof.Machine.execXori e vd xa imm s
  | .shli e vd xa imm => Sys2Proof.Machine.execShli e vd xa imm s
  | .shri e vd xa imm => Sys2Proof.Machine.execShri e vd xa imm s
  | .sari e vd xa imm => Sys2Proof.Machine.execSari e vd xa imm s
  | .movi e vd imm => Sys2Proof.Machine.execMovi e vd imm s
  | .movhi e vd imm => Sys2Proof.Machine.execMovhi e vd imm s
  | .mov e vd xa => Sys2Proof.Machine.execMov e vd xa s
  | .sel e vd xa xb => Sys2Proof.Machine.execSel e vd xa xb s
  | .movs e vd idx => Sys2Proof.Machine.execMovs e vd idx s
  | .icmp e cc kd xa xb => Sys2Proof.Machine.execIcmp e cc kd xa xb s
  | .fcmp e cc kd xa xb => Sys2Proof.Machine.execFcmp e cc kd xa xb s
  | .kand e kd ka kb => Sys2Proof.Machine.execKand e kd ka kb s
  | .kor e kd ka kb => Sys2Proof.Machine.execKor e kd ka kb s
  | .kxor e kd ka kb => Sys2Proof.Machine.execKxor e kd ka kb s
  | .kandn e kd ka kb => Sys2Proof.Machine.execKandn e kd ka kb s
  | .knot e kd ka => Sys2Proof.Machine.execKnot e kd ka s
  | .ktov e vd ka => Sys2Proof.Machine.execKtov e vd ka s
  | .vtok e kd xa => Sys2Proof.Machine.execVtok e kd xa s
  | .iadd64 e vd xa xb => Sys2Proof.Machine.execIadd64 e vd xa xb s
  | .imulw e vd xa xb => Sys2Proof.Machine.execImulw e vd xa xb s
  | .fadd e vd xa xb => Sys2Proof.Machine.execFadd e vd xa xb s
  | .fsub e vd xa xb => Sys2Proof.Machine.execFsub e vd xa xb s
  | .fmul e vd xa xb => Sys2Proof.Machine.execFmul e vd xa xb s
  | .ffma e vd xa xb => Sys2Proof.Machine.execFfma e vd xa xb s
  | .fmin e vd xa xb => Sys2Proof.Machine.execFmin e vd xa xb s
  | .fmax e vd xa xb => Sys2Proof.Machine.execFmax e vd xa xb s
  | .fdiv e vd xa xb => Sys2Proof.Machine.execFdiv e vd xa xb s
  | .fabs e vd xa => Sys2Proof.Machine.execFabs e vd xa s
  | .fneg e vd xa => Sys2Proof.Machine.execFneg e vd xa s
  | .ffloor e vd xa => Sys2Proof.Machine.execFfloor e vd xa s
  | .fceil e vd xa => Sys2Proof.Machine.execFceil e vd xa s
  | .ftrunc e vd xa => Sys2Proof.Machine.execFtrunc e vd xa s
  | .frint e vd xa => Sys2Proof.Machine.execFrint e vd xa s
  | .frcp e vd xa => Sys2Proof.Machine.execFrcp e vd xa s
  | .frsq e vd xa => Sys2Proof.Machine.execFrsq e vd xa s
  | .fsqrt e vd xa => Sys2Proof.Machine.execFsqrt e vd xa s
  | .fexp2 e vd xa => Sys2Proof.Machine.execFexp2 e vd xa s
  | .flog2 e vd xa => Sys2Proof.Machine.execFlog2 e vd xa s
  | .fsin e vd xa => Sys2Proof.Machine.execFsin e vd xa s
  | .fcos e vd xa => Sys2Proof.Machine.execFcos e vd xa s
  | .fclass e vd xa => Sys2Proof.Machine.execFclass e vd xa s
  | .fscale e vd xa xb => Sys2Proof.Machine.execFscale e vd xa xb s
  | .qpopv vd q => Sys2Proof.Machine.execQpopv vd q s
  | .mxstr tile xa vd bsel q8 zf => Sys2Proof.Machine.execMxstr tile xa vd bsel q8 zf s
  | .hadd2 e vd xa xb => Sys2Proof.Machine.execHadd2 e vd xa xb s
  | .hmul2 e vd xa xb => Sys2Proof.Machine.execHmul2 e vd xa xb s
  | .hfma2 e vd xa xb => Sys2Proof.Machine.execHfma2 e vd xa xb s
  | .badd2 e vd xa xb => Sys2Proof.Machine.execBadd2 e vd xa xb s
  | .bmul2 e vd xa xb => Sys2Proof.Machine.execBmul2 e vd xa xb s
  | .bfma2 e vd xa xb => Sys2Proof.Machine.execBfma2 e vd xa xb s
  | .iadd2 e vd xa xb => Sys2Proof.Machine.execIadd2 e vd xa xb s
  | .isub2 e vd xa xb => Sys2Proof.Machine.execIsub2 e vd xa xb s
  | .iadds2 e vd xa xb => Sys2Proof.Machine.execIadds2 e vd xa xb s
  | .isubs2 e vd xa xb => Sys2Proof.Machine.execIsubs2 e vd xa xb s
  | .imax2 e vd xa xb => Sys2Proof.Machine.execImax2 e vd xa xb s
  | .imin2 e vd xa xb => Sys2Proof.Machine.execImin2 e vd xa xb s
  | .idp4 e vd xa xb => Sys2Proof.Machine.execIdp4 e vd xa xb s
  | .udp4 e vd xa xb => Sys2Proof.Machine.execUdp4 e vd xa xb s
  | .hdp2 e vd xa xb => Sys2Proof.Machine.execHdp2 e vd xa xb s
  | .bdp2 e vd xa xb => Sys2Proof.Machine.execBdp2 e vd xa xb s
  | .cvt e conv mode inf vd xa => Sys2Proof.Machine.execCvt e conv mode inf vd xa s
  | .pack e vd xa xb => Sys2Proof.Machine.execPack e vd xa xb s
  | .shfl vd xa xb => Sys2Proof.Machine.execShfl vd xa xb s
  | .shflx vd xa xb => Sys2Proof.Machine.execShflx vd xa xb s
  | .ballot vd xa => Sys2Proof.Machine.execBallot vd xa s
  | .sred op vd xa => Sys2Proof.Machine.execSred op vd xa s
  | .sscan op excl vd xa => Sys2Proof.Machine.execSscan op excl vd xa s
  | .matchLanes vd xa => Sys2Proof.Machine.execMatchLanes vd xa s
  | .ldb e vd xa xb => Sys2Proof.Machine.execLdb e vd xa xb s
  | .ldh e vd xa xb => Sys2Proof.Machine.execLdh e vd xa xb s
  | .ldw e vd xa xb => Sys2Proof.Machine.execLdw e vd xa xb s
  | .ldq e vd xa xb => Sys2Proof.Machine.execLdq e vd xa xb s
  | .stb e vd xa xb => Sys2Proof.Machine.execStb e vd xa xb s
  | .sth e vd xa xb => Sys2Proof.Machine.execSth e vd xa xb s
  | .stw e vd xa xb => Sys2Proof.Machine.execStw e vd xa xb s
  | .stq e vd xa xb => Sys2Proof.Machine.execStq e vd xa xb s
  | .sldw e vd xa imm => Sys2Proof.Machine.execSldw e vd xa imm s
  | .sldq e vd xa imm => Sys2Proof.Machine.execSldq e vd xa imm s
  | .sstw e vd xa imm => Sys2Proof.Machine.execSstw e vd xa imm s
  | .sstq e vd xa imm => Sys2Proof.Machine.execSstq e vd xa imm s
  | .cldw e vd xa imm => Sys2Proof.Machine.execCldw e vd xa imm s
  | .cstw e vd xa imm => Sys2Proof.Machine.execCstw e vd xa imm s
  | .ldwp e vd va imm => Sys2Proof.Machine.execLdwp e vd va imm s
  | .stwp e vd va imm => Sys2Proof.Machine.execStwp e vd va imm s
  | .axch vd xa xb => Sys2Proof.Machine.execAxch vd xa xb s
  | .acas vd xa xb => Sys2Proof.Machine.execAcas vd xa xb s
  | .aadd vd xa xb => Sys2Proof.Machine.execAadd vd xa xb s
  | .aimin vd xa xb => Sys2Proof.Machine.execAimin vd xa xb s
  | .aimax vd xa xb => Sys2Proof.Machine.execAimax vd xa xb s
  | .aumin vd xa xb => Sys2Proof.Machine.execAumin vd xa xb s
  | .aumax vd xa xb => Sys2Proof.Machine.execAumax vd xa xb s
  | .aand vd xa xb => Sys2Proof.Machine.execAand vd xa xb s
  | .aor vd xa xb => Sys2Proof.Machine.execAor vd xa xb s
  | .axor vd xa xb => Sys2Proof.Machine.execAxor vd xa xb s
  | .afadd vd xa xb => Sys2Proof.Machine.execAfadd vd xa xb s
  | .br k off => Sys2Proof.Machine.execBr k off s
  | .brn k off => Sys2Proof.Machine.execBrn k off s
  | .jmp off => Sys2Proof.Machine.execJmp off s
  | .call off => Sys2Proof.Machine.execCall off s
  | .ret => Sys2Proof.Machine.execRet s
  | .jr xa => Sys2Proof.Machine.execJr xa s
  | .callr xa => Sys2Proof.Machine.execCallr xa s
  | .exit => Sys2Proof.Machine.execExit s
  | .yield => Sys2Proof.Machine.execYield s
  | .frame e n => Sys2Proof.Machine.execFrame e n s
  | .unop e => Sys2Proof.Machine.execUnop e s
  | .uadd e sd sa sb => Sys2Proof.Machine.execUadd e sd sa sb s
  | .usub e sd sa sb => Sys2Proof.Machine.execUsub e sd sa sb s
  | .umul e sd sa sb => Sys2Proof.Machine.execUmul e sd sa sb s
  | .umulh e sd sa sb => Sys2Proof.Machine.execUmulh e sd sa sb s
  | .uand e sd sa sb => Sys2Proof.Machine.execUand e sd sa sb s
  | .uor e sd sa sb => Sys2Proof.Machine.execUor e sd sa sb s
  | .uxor e sd sa sb => Sys2Proof.Machine.execUxor e sd sa sb s
  | .ushl e sd sa sb => Sys2Proof.Machine.execUshl e sd sa sb s
  | .ushr e sd sa sb => Sys2Proof.Machine.execUshr e sd sa sb s
  | .usar e sd sa sb => Sys2Proof.Machine.execUsar e sd sa sb s
  | .uimin e sd sa sb => Sys2Proof.Machine.execUimin e sd sa sb s
  | .uimax e sd sa sb => Sys2Proof.Machine.execUimax e sd sa sb s
  | .uminu e sd sa sb => Sys2Proof.Machine.execUminu e sd sa sb s
  | .umaxu e sd sa sb => Sys2Proof.Machine.execUmaxu e sd sa sb s
  | .uaddi e sd sa imm => Sys2Proof.Machine.execUaddi e sd sa imm s
  | .uandi e sd sa imm => Sys2Proof.Machine.execUandi e sd sa imm s
  | .ushli e sd sa imm => Sys2Proof.Machine.execUshli e sd sa imm s
  | .ushri e sd sa imm => Sys2Proof.Machine.execUshri e sd sa imm s
  | .umovi e sd imm => Sys2Proof.Machine.execUmovi e sd imm s
  | .umovhi e sd imm => Sys2Proof.Machine.execUmovhi e sd imm s
  | .umov e sd sa => Sys2Proof.Machine.execUmov e sd sa s
  | .urds e sd idx => Sys2Proof.Machine.execUrds e sd idx s
  | .uadd64 e sd sa sb => Sys2Proof.Machine.execUadd64 e sd sa sb s
  | .uaddi64 e sd sa imm => Sys2Proof.Machine.execUaddi64 e sd sa imm s
  | .ucmp e cc jd sa sb => Sys2Proof.Machine.execUcmp e cc jd sa sb s
  | .jand e jd ja jb => Sys2Proof.Machine.execJand e jd ja jb s
  | .jor e jd ja jb => Sys2Proof.Machine.execJor e jd ja jb s
  | .jxor e jd ja jb => Sys2Proof.Machine.execJxor e jd ja jb s
  | .jandn e jd ja jb => Sys2Proof.Machine.execJandn e jd ja jb s
  | .jnot e jd ja => Sys2Proof.Machine.execJnot e jd ja s
  | .ubr k off => Sys2Proof.Machine.execUbr k off s
  | .ubrn k off => Sys2Proof.Machine.execUbrn k off s
  | .uldw e sd sa imm => Sys2Proof.Machine.execUldw e sd sa imm s
  | .uldd e sd sa imm => Sys2Proof.Machine.execUldd e sd sa imm s
  | .ustw e sd sa imm => Sys2Proof.Machine.execUstw e sd sa imm s
  | .ufence ord => Sys2Proof.Machine.execUfence ord s
  | .qpush q sa => Sys2Proof.Machine.execQpush q sa s
  | .qpop sd q => Sys2Proof.Machine.execQpop sd q s
  | .qtry sd jd q => Sys2Proof.Machine.execQtry sd jd q s
  | .mxlds sa fmt g ord => Sys2Proof.Machine.execMxlds sa fmt g ord s
  | .mxswap g => Sys2Proof.Machine.execMxswap g s
  | .mxdrn sd sa g ord => Sys2Proof.Machine.execMxdrn sd sa g ord s
  | .mxzero tile g => Sys2Proof.Machine.execMxzero tile g s
  | .cpcopy sd sa g ord => Sys2Proof.Machine.execCpcopy sd sa g ord s
  | .cpgath sd sa g ord => Sys2Proof.Machine.execCpgath sd sa g ord s
  | .cpscat sd sa g ord => Sys2Proof.Machine.execCpscat sd sa g ord s
  | .cpfill sd sa size g ord => Sys2Proof.Machine.execCpfill sd sa size g ord s
  | .alloc sd sa => Sys2Proof.Machine.execAlloc sd sa s
  | .free sa => Sys2Proof.Machine.execFree sa s
  | .fetch sd => Sys2Proof.Machine.execFetch sd s
  | .bars n => Sys2Proof.Machine.execBars n s
  | .bara n => Sys2Proof.Machine.execBara n s
  | .barw n => Sys2Proof.Machine.execBarw n s
  | .gbar => Sys2Proof.Machine.execGbar s
  | .chinit ch sa sb => Sys2Proof.Machine.execChinit ch sa sb s
  | .chpush ch sa => Sys2Proof.Machine.execChpush ch sa s
  | .chpop sd ch => Sys2Proof.Machine.execChpop sd ch s
  | .garm g => Sys2Proof.Machine.execGarm g s
  | .gres g jd => Sys2Proof.Machine.execGres g jd s
  | .lkacq sa ord => Sys2Proof.Machine.execLkacq sa ord s
  | .lktry jd sa ord => Sys2Proof.Machine.execLktry jd sa ord s
  | .lkrel sa ord => Sys2Proof.Machine.execLkrel sa ord s
  | .prmake sa => Sys2Proof.Machine.execPrmake sa s
  | .prset sa sd ord => Sys2Proof.Machine.execPrset sa sd ord s
  | .prwait sd jd sa ord => Sys2Proof.Machine.execPrwait sd jd sa ord s
  | .setheir sa => Sys2Proof.Machine.execSetheir sa s
  | .inherit sd => Sys2Proof.Machine.execInherit sd s
  | .inheritNb sd jd => Sys2Proof.Machine.execInheritNb sd jd s
  | .waitsig sa sd ord => Sys2Proof.Machine.execWaitsig sa sd ord s
  | .sigadd sa sd ord => Sys2Proof.Machine.execSigadd sa sd ord s
  | .publish sa => Sys2Proof.Machine.execPublish sa s
  | .trap imm => Sys2Proof.Machine.execTrap imm s
  | .hret => Sys2Proof.Machine.execHret s
  | .bkpt imm => Sys2Proof.Machine.execBkpt imm s
  | .srw idx sa => Sys2Proof.Machine.execSrw idx sa s
  | .rfetch _ _ => .next s
  | .rpost _ _ => .next s
  | .bfx _ _ _ _ _ => .next s
  | .bfiPorter _ _ _ _ _ => .next s
  | .swait _ _ => .next s
  | .sarm _ _ => .next s
  | .disp _ _ _ => .next s
  | .dstat _ _ => .next s
  | .unimplementedEncoding w => Sys2Proof.Machine.execUnimplementedEncoding w s
  | .porterException _ => .next s
  | .launch _ _ => .next s
  | .launchMeasured _ => .next s
  | .holdExpire _ => .next s
  | .launchBind => .next s
  | .rowLoad _ _ => .next s
  | .rowLoadComplete _ => .next s
  | .pick _ _ _ => .next s
  | .runFault _ _ => .next s
  | .slowGearWord _ _ => .next s
  | .handlerEntry _ => .next s
  | .escalationKill _ => .next s
  | .convey _ => .next s
  | .rowDrainComplete _ => .next s
  | .evictSaveComplete _ => .next s
  | .rotation _ => .next s
  | .restoreComplete _ => .next s
  | .foregroundSwap _ => .next s
  | .launchEnd _ => .next s
  | .launchCommit _ => .next s
  | .snapshotCopy _ _ => .next s
  | .rollbackKill _ _ => .next s
  | .hbmPatrolRead _ _ _ => .next s
  | .cellarRefreshWindowStart _ _ _ => .next s
  | .cellarRefreshWindowEnd _ => .next s
  | .storeLeave _ _ => .next s
  | .releasePerform _ => .next s
  | .storeCarry _ _ _ _ => .next s
  | .copyDrop _ _ => .next s
  | .loadPerform _ _ => .next s
  | .atomicPerform _ _ => .next s
  | .pageWalkComplete _ _ _ => .next s
  | .atsTranslationCompletion _ _ _ _ _ _ _ => .next s
  | .priResponseSuccess _ _ => .next s
  | .priResponseInvalid _ _ => .next s
  | .priResponseFailure _ _ => .next s
  | .atsInvalidateRequest _ _ _ => .next s
  | .invalidationComplete _ => .next s
  | .mxldsCommandRun _ => .next s
  | .mxswapCommandRun _ => .next s
  | .streamRowFeed _ _ => .next s
  | .mxdrnCommandRun _ => .next s
  | .mxzeroCommandRun _ => .next s
  | .copyCommandComplete _ => .next s
  | .storekeeperReply _ _ => .next s
  | .storekeeperFree _ => .next s
  | .dispenserRefill _ => .next s
  | .publicationPerform _ => .next s
  | .cellarFill _ _ => .next s
  | .cellarFillEnd _ => .next s
  | .copy _ _ => .next s
  | .signalSet _ _ => .next s
  | .signalWait _ _ => .next s
  | .pubCreate _ _ => .next s
  | .pubDestroy _ _ => .next s
  | .receiptSeal _ _ => .next s
  | .receiptRequest _ _ _ => .next s
  | .windowExport _ _ => .next s
  | .windowGrant _ _ _ _ _ _ _ _ => .next s
  | .windowRevoke _ _ => .next s
  | .keyInstall _ _ => .next s
  | .storageBind _ _ => .next s
  | .storageRequestServe _ => .next s
  | .storageDone _ _ => .next s
  | .debugHalt _ _ => .next s
  | .debugResume _ _ => .next s
  | .debugStep _ _ => .next s
  | .debugClaim _ _ => .next s
  | .debugRead _ _ => .next s
  | .debugKill _ _ => .next s
  | .debugSetDump _ _ => .next s
  | .contextCreate _ _ => .next s
  | .contextDestroy _ _ => .next s
  | .tlbInvalidate _ _ => .next s
  | .setRegions _ _ => .next s
  | .setTolerance _ _ => .next s
  | .cellarGrant _ _ => .next s
  | .partition _ _ => .next s
  | .eventRoute _ _ => .next s
  | .porterImage _ _ => .next s
  | .inject _ _ => .next s
  | .injectorFire _ => .next s
  | .queueNotify _ _ _ _ _ _ => .next s
  | .featuresOk _ _ => .next s
  | .functionReset _ => .next s
  | .queueReset _ => .next s
  | .queueRemap _ => .next s
  | .partitionFreeze _ => .next s
  | .partitionResume _ => .next s
  | .fabricRequestReceive _ _ _ _ _ _ _ => .next s
  | .flitCrcFail _ _ => .next s
  | .portRetrain _ _ => .next s
  | .portUp _ => .next s
  | .flitGroupTagFail _ _ _ _ => .next s
  | .pcieLinkTrain _ _ => .next s
  | .pcieErrorLogged _ _ _ => .next s
  | .poisonedTlpReceived _ _ _ => .next s
  | .operatingPointChange _ _ => .next s
  | .powerAboveDesign _ _ => .next s
  | .throttleTemperature _ _ _ => .next s
  | .throttleEnd => .next s
  | .shutdownTemperature _ _ => .next s
  | .powerInputValid => .next s
  | .strongroomBoot => .next s
  | .strongroomInit => .next s
  | .hostClassStart => .next s
  | .hbmTrain => .next s
  | .porterStart => .next s
  | .ternathTrain _ _ => .next s
  | .pcieEnable => .next s
  | .tlbEntryDrop _ _ _ => .next s
  | .priReenable _ => .next s
  | .queueEnable _ _ => .next s
  | .powerLoss => .next s
  | .configurationRequest _ _ _ _ => .next s
  | .strongroomManagementRequest _ _ => .next s

/-- The constructors that are steps of the device, the host or a peer: they have no encoding. -/
def isEvent (i : Instr) : Bool :=
  match i with
  | .nop _ => false
  | .iadd _ _ _ _ => false
  | .isub _ _ _ _ => false
  | .imul _ _ _ _ => false
  | .imulh _ _ _ _ => false
  | .imulhu _ _ _ _ => false
  | .imad _ _ _ _ => false
  | .imin _ _ _ _ => false
  | .imax _ _ _ _ => false
  | .umin _ _ _ _ => false
  | .umax _ _ _ _ => false
  | .idiv _ _ _ _ => false
  | .udiv _ _ _ _ => false
  | .irem _ _ _ _ => false
  | .urem _ _ _ _ => false
  | .qpushv _ _ => false
  | .and _ _ _ _ => false
  | .or _ _ _ _ => false
  | .xor _ _ _ _ => false
  | .andn _ _ _ _ => false
  | .shl _ _ _ _ => false
  | .shr _ _ _ _ => false
  | .sar _ _ _ _ => false
  | .popc _ _ _ => false
  | .clz _ _ _ => false
  | .brev _ _ _ => false
  | .bfe _ _ _ _ => false
  | .bfi _ _ _ _ => false
  | .iaddi _ _ _ _ => false
  | .andi _ _ _ _ => false
  | .ori _ _ _ _ => false
  | .xori _ _ _ _ => false
  | .shli _ _ _ _ => false
  | .shri _ _ _ _ => false
  | .sari _ _ _ _ => false
  | .movi _ _ _ => false
  | .movhi _ _ _ => false
  | .mov _ _ _ => false
  | .sel _ _ _ _ => false
  | .movs _ _ _ => false
  | .icmp _ _ _ _ _ => false
  | .fcmp _ _ _ _ _ => false
  | .kand _ _ _ _ => false
  | .kor _ _ _ _ => false
  | .kxor _ _ _ _ => false
  | .kandn _ _ _ _ => false
  | .knot _ _ _ => false
  | .ktov _ _ _ => false
  | .vtok _ _ _ => false
  | .iadd64 _ _ _ _ => false
  | .imulw _ _ _ _ => false
  | .fadd _ _ _ _ => false
  | .fsub _ _ _ _ => false
  | .fmul _ _ _ _ => false
  | .ffma _ _ _ _ => false
  | .fmin _ _ _ _ => false
  | .fmax _ _ _ _ => false
  | .fdiv _ _ _ _ => false
  | .fabs _ _ _ => false
  | .fneg _ _ _ => false
  | .ffloor _ _ _ => false
  | .fceil _ _ _ => false
  | .ftrunc _ _ _ => false
  | .frint _ _ _ => false
  | .frcp _ _ _ => false
  | .frsq _ _ _ => false
  | .fsqrt _ _ _ => false
  | .fexp2 _ _ _ => false
  | .flog2 _ _ _ => false
  | .fsin _ _ _ => false
  | .fcos _ _ _ => false
  | .fclass _ _ _ => false
  | .fscale _ _ _ _ => false
  | .qpopv _ _ => false
  | .mxstr _ _ _ _ _ _ => false
  | .hadd2 _ _ _ _ => false
  | .hmul2 _ _ _ _ => false
  | .hfma2 _ _ _ _ => false
  | .badd2 _ _ _ _ => false
  | .bmul2 _ _ _ _ => false
  | .bfma2 _ _ _ _ => false
  | .iadd2 _ _ _ _ => false
  | .isub2 _ _ _ _ => false
  | .iadds2 _ _ _ _ => false
  | .isubs2 _ _ _ _ => false
  | .imax2 _ _ _ _ => false
  | .imin2 _ _ _ _ => false
  | .idp4 _ _ _ _ => false
  | .udp4 _ _ _ _ => false
  | .hdp2 _ _ _ _ => false
  | .bdp2 _ _ _ _ => false
  | .cvt _ _ _ _ _ _ => false
  | .pack _ _ _ _ => false
  | .shfl _ _ _ => false
  | .shflx _ _ _ => false
  | .ballot _ _ => false
  | .sred _ _ _ => false
  | .sscan _ _ _ _ => false
  | .matchLanes _ _ => false
  | .ldb _ _ _ _ => false
  | .ldh _ _ _ _ => false
  | .ldw _ _ _ _ => false
  | .ldq _ _ _ _ => false
  | .stb _ _ _ _ => false
  | .sth _ _ _ _ => false
  | .stw _ _ _ _ => false
  | .stq _ _ _ _ => false
  | .sldw _ _ _ _ => false
  | .sldq _ _ _ _ => false
  | .sstw _ _ _ _ => false
  | .sstq _ _ _ _ => false
  | .cldw _ _ _ _ => false
  | .cstw _ _ _ _ => false
  | .ldwp _ _ _ _ => false
  | .stwp _ _ _ _ => false
  | .axch _ _ _ => false
  | .acas _ _ _ => false
  | .aadd _ _ _ => false
  | .aimin _ _ _ => false
  | .aimax _ _ _ => false
  | .aumin _ _ _ => false
  | .aumax _ _ _ => false
  | .aand _ _ _ => false
  | .aor _ _ _ => false
  | .axor _ _ _ => false
  | .afadd _ _ _ => false
  | .br _ _ => false
  | .brn _ _ => false
  | .jmp _ => false
  | .call _ => false
  | .ret => false
  | .jr _ => false
  | .callr _ => false
  | .exit => false
  | .yield => false
  | .frame _ _ => false
  | .unop _ => false
  | .uadd _ _ _ _ => false
  | .usub _ _ _ _ => false
  | .umul _ _ _ _ => false
  | .umulh _ _ _ _ => false
  | .uand _ _ _ _ => false
  | .uor _ _ _ _ => false
  | .uxor _ _ _ _ => false
  | .ushl _ _ _ _ => false
  | .ushr _ _ _ _ => false
  | .usar _ _ _ _ => false
  | .uimin _ _ _ _ => false
  | .uimax _ _ _ _ => false
  | .uminu _ _ _ _ => false
  | .umaxu _ _ _ _ => false
  | .uaddi _ _ _ _ => false
  | .uandi _ _ _ _ => false
  | .ushli _ _ _ _ => false
  | .ushri _ _ _ _ => false
  | .umovi _ _ _ => false
  | .umovhi _ _ _ => false
  | .umov _ _ _ => false
  | .urds _ _ _ => false
  | .uadd64 _ _ _ _ => false
  | .uaddi64 _ _ _ _ => false
  | .ucmp _ _ _ _ _ => false
  | .jand _ _ _ _ => false
  | .jor _ _ _ _ => false
  | .jxor _ _ _ _ => false
  | .jandn _ _ _ _ => false
  | .jnot _ _ _ => false
  | .ubr _ _ => false
  | .ubrn _ _ => false
  | .uldw _ _ _ _ => false
  | .uldd _ _ _ _ => false
  | .ustw _ _ _ _ => false
  | .ufence _ => false
  | .qpush _ _ => false
  | .qpop _ _ => false
  | .qtry _ _ _ => false
  | .mxlds _ _ _ _ => false
  | .mxswap _ => false
  | .mxdrn _ _ _ _ => false
  | .mxzero _ _ => false
  | .cpcopy _ _ _ _ => false
  | .cpgath _ _ _ _ => false
  | .cpscat _ _ _ _ => false
  | .cpfill _ _ _ _ _ => false
  | .alloc _ _ => false
  | .free _ => false
  | .fetch _ => false
  | .bars _ => false
  | .bara _ => false
  | .barw _ => false
  | .gbar => false
  | .chinit _ _ _ => false
  | .chpush _ _ => false
  | .chpop _ _ => false
  | .garm _ => false
  | .gres _ _ => false
  | .lkacq _ _ => false
  | .lktry _ _ _ => false
  | .lkrel _ _ => false
  | .prmake _ => false
  | .prset _ _ _ => false
  | .prwait _ _ _ _ => false
  | .setheir _ => false
  | .inherit _ => false
  | .inheritNb _ _ => false
  | .waitsig _ _ _ => false
  | .sigadd _ _ _ => false
  | .publish _ => false
  | .trap _ => false
  | .hret => false
  | .bkpt _ => false
  | .srw _ _ => false
  | .rfetch _ _ => false
  | .rpost _ _ => false
  | .bfx _ _ _ _ _ => false
  | .bfiPorter _ _ _ _ _ => false
  | .swait _ _ => false
  | .sarm _ _ => false
  | .disp _ _ _ => false
  | .dstat _ _ => false
  | .unimplementedEncoding _ => false
  | .porterException _ => true
  | .launch _ _ => true
  | .launchMeasured _ => true
  | .holdExpire _ => true
  | .launchBind => true
  | .rowLoad _ _ => true
  | .rowLoadComplete _ => true
  | .pick _ _ _ => true
  | .runFault _ _ => true
  | .slowGearWord _ _ => true
  | .handlerEntry _ => true
  | .escalationKill _ => true
  | .convey _ => true
  | .rowDrainComplete _ => true
  | .evictSaveComplete _ => true
  | .rotation _ => true
  | .restoreComplete _ => true
  | .foregroundSwap _ => true
  | .launchEnd _ => true
  | .launchCommit _ => true
  | .snapshotCopy _ _ => true
  | .rollbackKill _ _ => true
  | .hbmPatrolRead _ _ _ => true
  | .cellarRefreshWindowStart _ _ _ => true
  | .cellarRefreshWindowEnd _ => true
  | .storeLeave _ _ => true
  | .releasePerform _ => true
  | .storeCarry _ _ _ _ => true
  | .copyDrop _ _ => true
  | .loadPerform _ _ => true
  | .atomicPerform _ _ => true
  | .pageWalkComplete _ _ _ => true
  | .atsTranslationCompletion _ _ _ _ _ _ _ => true
  | .priResponseSuccess _ _ => true
  | .priResponseInvalid _ _ => true
  | .priResponseFailure _ _ => true
  | .atsInvalidateRequest _ _ _ => true
  | .invalidationComplete _ => true
  | .mxldsCommandRun _ => true
  | .mxswapCommandRun _ => true
  | .streamRowFeed _ _ => true
  | .mxdrnCommandRun _ => true
  | .mxzeroCommandRun _ => true
  | .copyCommandComplete _ => true
  | .storekeeperReply _ _ => true
  | .storekeeperFree _ => true
  | .dispenserRefill _ => true
  | .publicationPerform _ => true
  | .cellarFill _ _ => true
  | .cellarFillEnd _ => true
  | .copy _ _ => true
  | .signalSet _ _ => true
  | .signalWait _ _ => true
  | .pubCreate _ _ => true
  | .pubDestroy _ _ => true
  | .receiptSeal _ _ => true
  | .receiptRequest _ _ _ => true
  | .windowExport _ _ => true
  | .windowGrant _ _ _ _ _ _ _ _ => true
  | .windowRevoke _ _ => true
  | .keyInstall _ _ => true
  | .storageBind _ _ => true
  | .storageRequestServe _ => true
  | .storageDone _ _ => true
  | .debugHalt _ _ => true
  | .debugResume _ _ => true
  | .debugStep _ _ => true
  | .debugClaim _ _ => true
  | .debugRead _ _ => true
  | .debugKill _ _ => true
  | .debugSetDump _ _ => true
  | .contextCreate _ _ => true
  | .contextDestroy _ _ => true
  | .tlbInvalidate _ _ => true
  | .setRegions _ _ => true
  | .setTolerance _ _ => true
  | .cellarGrant _ _ => true
  | .partition _ _ => true
  | .eventRoute _ _ => true
  | .porterImage _ _ => true
  | .inject _ _ => true
  | .injectorFire _ => true
  | .queueNotify _ _ _ _ _ _ => true
  | .featuresOk _ _ => true
  | .functionReset _ => true
  | .queueReset _ => true
  | .queueRemap _ => true
  | .partitionFreeze _ => true
  | .partitionResume _ => true
  | .fabricRequestReceive _ _ _ _ _ _ _ => true
  | .flitCrcFail _ _ => true
  | .portRetrain _ _ => true
  | .portUp _ => true
  | .flitGroupTagFail _ _ _ _ => true
  | .pcieLinkTrain _ _ => true
  | .pcieErrorLogged _ _ _ => true
  | .poisonedTlpReceived _ _ _ => true
  | .operatingPointChange _ _ => true
  | .powerAboveDesign _ _ => true
  | .throttleTemperature _ _ _ => true
  | .throttleEnd => true
  | .shutdownTemperature _ _ => true
  | .powerInputValid => true
  | .strongroomBoot => true
  | .strongroomInit => true
  | .hostClassStart => true
  | .hbmTrain => true
  | .porterStart => true
  | .ternathTrain _ _ => true
  | .pcieEnable => true
  | .tlbEntryDrop _ _ _ => true
  | .priReenable _ => true
  | .queueEnable _ _ => true
  | .powerLoss => true
  | .configurationRequest _ _ _ _ => true
  | .strongroomManagementRequest _ _ => true

end Sys2Proof.Machine
end

