-- ==== Sys2Proof/Machine/SlowGear.lean ====
section
/-! DEFINITION. Run faults, slow gear and handler entry (19 R308 to R315). -/

namespace Sys2Proof.Machine

open Host (Outcome)

/-! ### The run fault (R308, R309) -/

/-- The wave stands before its run's last word with every earlier word complete, or no thread of it goes on (R308). -/
def attemptOver (s : State) (w : Wave) : Bool :=
  w.ending.isEmpty && !loadsOut s w.threads &&
  match w.active with
  | [] => true
  | t :: _ => (match fetchAt s t w.pc with
    | .word x => x.getLsbD 30
    | .bad _ _ | .miss _ => false)

/-- The threads of a wave that faulted while their squad's entry is pending: their runs are restored without slow gear (R317). -/
def pendingFaults (s : State) (w : Wave) : List Nat :=
  (w.faults.map (·.thread)).eraseDups.filter fun t => entryPending s (squadOf t)

/-- Every thread's entry state is restored, and the wave begins its re-run in slow gear at the run's start (R309, R310). -/
def restoreWave (c k : Nat) (w : Wave) (s : State) : State :=
  let gone := pendingFaults s w
  let first := ((w.faults.map (·.thread)).eraseDups).filter fun t => !gone.contains t
  let s := discardRuns gone s
  let ts := byLane (w.threads.filter fun t => !gone.contains t)
  let s := ts.foldl (fun s t => restoreThread t s) s
  let entry := squadEntries s ts
  let s := modCore c (fun x => { x with slots := x.slots.adj k fun w => { w with
    pc := w.start, threads := ts, faults := [], writes := [], got := [], slow := some (Slow.ofThreads ts first w.start)
    entry := entry } }) s
  if ts.isEmpty then modCore c (fun x => { x with slots := x.slots.del k }) s else s

/-- RUN_FAULT (R309). -/
def execRunFault (core slot : Nat) (s : State) : Outcome State Fault Refusal :=
  .next (match (cor s core).slots.get? slot with
    | some w => if w.slow.isNone && !w.faults.isEmpty && attemptOver s w then restoreWave core slot w s else s
    | none => s)

/-! ### The re-run (R310 to R313) -/

/-- A squad of the wave all of whose threads have reached the last squad-set word or left (R311). -/
def squadAtEnd (k : Slow) : Option Nat :=
  ((k.atEnd.map squadOf).find? fun q => !(k.todo.any fun t => squadOf t == q))

/-- The re-run of a squad in which no thread stopped makes its faults vanish (R313, R356). -/
def vanishFor (q : Nat) (s : State) : State :=
  let sq := sqd s q
  let s := modSquad q (fun sq => { sq with vanish := sq.vanish + 1 }) s
  if (launchOf s sq.lid).hdr.vanrep then
    raiseEvent ⟨0, 2, sq.lid, some (launchOf s sq.lid).part, 0, sq.gsq * 2 ^ 16 + (sq.vanish + 1).toNat * 2 ^ 32, 0⟩ s
  else s

/-- Causes of a squad whose entry has come to be pending meanwhile are not recorded: each thread stands at its word, a trap
included (R317). -/
def standAtWords (q : Nat) (w : Wave) (fs : List RunFault) (s : State) : State :=
  if entryPending s q then
    fs.foldl (fun s f => modThread f.thread (fun th => { th with pc := f.pc, inRun := insideRun s q w f.pc }) s) s
  else s

/-- The re-run is over: each squad with a stopped thread enters its handler, and in the others faults have vanished (R312, R313). -/
def endSlow (c slot : Nat) (w : Wave) (k : Slow) (s : State) : State :=
  let s := modCore c (fun x => { x with slots := x.slots.del slot }) s
  (squadsIn s (k.first ++ k.stopped.map (·.thread))).foldl (fun s q =>
    if (sqd s q).killed then s else
    match k.stopped.filter fun f => f.squad == q with
    | [] => vanishFor q s
    | fs => raise q (reportOf s q w.all fs) (standAtWords q w fs s)) s

/-- With the last group of a step its command completes (R321, R357). -/
def endStep (k : Slow) (s : State) : State :=
  match k.one with
  | none => s
  | some c =>
    if s.cores.any fun x => x.2.slots.any fun e => match e.2.slow with
      | some j => j.one == some c
      | none => false
    then s else complete c 0 0 0 s

/-- A word executed for some threads of the wave in slow gear, once its registers are available (R310). -/
def slowExec (c slot : Nat) (ts : List Nat) (pc : DWord) (x : Word) (s : State) : Outcome State Fault Refusal :=
  let s' := setCursor c slot ts pc x true s
  let i := instrOf x
  if ts.all (available s' (usesOf i)) then execWord i (countIssue (readTokens (usesOf i) s')) else .next s

/-- The thread meets a squad-set word that another thread has already executed, or that raised a cause, for its squad (R311). -/
def slowMod (c slot : Nat) (f : Slow → Slow) (s : State) : State :=
  modCore c (fun x => { x with slots := x.slots.adj slot fun w => { w with slow := w.slow.map f } }) s

/-- The next word of the thread in progress (R310, R311). -/
def slowThread (c slot : Nat) (k : Slow) (t : Nat) (s : State) : Outcome State Fault Refusal :=
  let q := squadOf t
  match fetchAt s t k.pc with
  | .miss ps => .next (askFor t false ps s)
  | .bad cause key => .next (fetchFault cause key (setCursor c slot [t] k.pc 0 true s))
  | .word x =>
    if x.getLsbD 31 && !x.getLsbD 30 && k.done.contains (q, k.pc) then
      .next (slowMod c slot (fun k => { k with pc := k.pc + 4 }) s)
    else if x.getLsbD 31 && !x.getLsbD 30 && k.caused.contains (q, k.pc) then
      match k.stopped.find? fun f => f.squad == q && f.pc == k.pc with
      | some f => .next (slowStop { f with thread := t } (setCursor c slot [t] k.pc x true s))
      | none => .next s
    else if x.getLsbD 31 && x.getLsbD 30 then
      .next (slowMod c slot (fun k => { k with
        todo := k.todo.filter (· != t), atEnd := k.atEnd ++ [t], endPc := k.pc
        pc := ((cor s c).slots.getD slot default).start }) s)
    else slowExec c slot [t] k.pc x s

/-- The last squad-set word, executed for the threads of a squad that reached it (R311). -/
def slowSquad (c slot : Nat) (k : Slow) (q : Nat) (s : State) : Outcome State Fault Refusal :=
  let ts := ofSquad q k.atEnd
  match ts with
  | [] => .next s
  | t :: _ => match fetchAt s t k.endPc with
    | .miss ps => .next (askFor t false ps s)
    | .bad cause key => .next (fetchFault cause key (setCursor c slot ts k.endPc 0 true s))
    | .word x => slowExec c slot ts k.endPc x s

/-- A debugger's step has executed the thread's word, which is not its run's last: the prefix is retired, and the thread stands
stopped inside the run (R321). -/
def stepped (c slot : Nat) (pc : DWord) (t : Nat) (s : State) : State :=
  dropThreads [t] (leaveRun t pc true (commitWrites (setCursor c slot [t] pc 0 true s)))

/-- The groups of a step are taken together, in ascending home-lane order (R321). -/
def stepTurn (s : State) (c t : Nat) : Bool :=
  (cor s c).slots.all fun e => match e.2.slow with
    | some k => k.one.isNone || k.todo.all fun u => squadOf u != squadOf t || laneOf t ≤ laneOf u
    | none => true

/-- The next thing a thread of a re-run or of a step does. -/
def slowNext (c slot : Nat) (w : Wave) (k : Slow) (t : Nat) (s : State) : Outcome State Fault Refusal :=
  if k.one.isNone then slowThread c slot k t s
  else if k.pc ≠ w.start then .next (stepped c slot k.pc t s)
  else if stepTurn s c t then slowThread c slot k t s
  else .next s

/-- SLOW_GEAR_WORD (R310): nothing happens while an earlier word of the thread is not complete. -/
def execSlowGearWord (core slot : Nat) (s : State) : Outcome State Fault Refusal :=
  match (cor s core).slots.get? slot with
  | none => .next s
  | some w => match w.slow with
    | none => .next s
    | some k =>
      if !w.ending.isEmpty then .next s
      else match squadAtEnd k with
        | some q => if loadsOut s (ofSquad q k.atEnd) then .next s else slowSquad core slot k q s
        | none => match k.todo with
          | t :: _ => if loadsOut s [t] then .next s else slowNext core slot w k t s
          | [] => .next (endStep k (endSlow core slot w k s))

/-- HANDLER_ENTRY (R315). -/
def execHandlerEntry (squad : Nat) (s : State) : Outcome State Fault Refusal := .next (tryEntry squad s)

end Sys2Proof.Machine
end

