-- ==== Sys2Proof/Machine/Transport.lean ====
section
/-! DEFINITION. The virtio transport, driver errors, Porter recovery and migration (11 R242 to R244, R261, R262; 17 R286; 21 R347 to R350). -/

namespace Sys2Proof.Machine

open Host (Outcome)

/-! ### Configuration and features -/

/-- The identity of every function: virtio's vendor ID, and the device ID of device type 60 (R241). -/
def vendorId : Nat := 0x1AF4
def deviceType : Nat := 60
def deviceId : Nat := 0x1040 + deviceType

/-- CONFIGURATION_REQUEST (R83, R241, R245, R286): before stage 8 ends it is answered with Configuration Request Retry Status; afterwards
the host's write sets a function's ATS and PRI enables and its Outstanding Page Request Allocation, and the answer gives its identity and
its device configuration structure (log 93). -/
def execConfigurationRequest (fn : Nat) (ats pri : Bool) (alloc : Nat) (s : State) : Outcome State Fault Refusal :=
  .next (if 8 < fn then s
    else if s.stage < 8 then { s with cfgReply := s.cfgReply.put fn none }
    else
      let s := promote fn (modFn fn (fun f => { f with ats := ats, pri := pri, priAlloc := alloc }) s)
      { s with cfgReply := s.cfgReply.put fn (some (natLe 2 vendorId ++ natLe 2 deviceId ++ deviceConfig s fn)) })

/-- The transport bits of Table 11.1. -/
def transportBits (fn : Nat) : List Nat := [28, 29, 32, 33, 34, 36, 38] ++ (if fn = 0 then [37] else [])

/-- The device bits that a function offers: as Table 11.2 gives, where the configuration record enables them. -/
def deviceBits (s : State) (fn : Nat) : List Nat :=
  ([0, 1, 2, 3, 4, 5, 6, 7, 8, 9, 10, 12] ++ (if fn = 0 then [11, 13] else [])).filter fun n => fld s.config.features n 1 == 1

def mustAccept : List Nat := [0, 32, 33, 34, 36]

/-- The conditions of R244 on the accepted set. -/
def acceptable (s : State) (fn accepted : Nat) : Bool :=
  let bits := (List.range 64).filter fun n => fld accepted n 1 == 1
  mustAccept.all bits.contains && (bits.all fun n => (transportBits fn ++ deviceBits s fn).contains n) && accepted < 2 ^ 64 &&
  (!bits.contains 9 || ((fnOf s fn).ats && (fnOf s fn).pri))

/-- FEATURES_OK (R244): the status bit is set, and the set fixed until a reset, when the conditions hold. -/
def execFeaturesOk (fn accepted : Nat) (s : State) : Outcome State Fault Refusal :=
  .next (if s.stage < 8 || 8 < fn || fld (fnOf s fn).status 3 1 == 1 || !acceptable s fn accepted then s
    else modFn fn (fun f => { f with features := accepted, status := f.status ||| 8 }) s)

/-! ### Queues -/

/-- Where a queue is a function's management queue, the records that wait take its buffers, and the driver is told what it has not been of
pseudo-channels that hold no frames (R264, R291). -/
def servesRecords (queue : Nat) (s : State) : State :=
  let f := fnOfQueue s queue
  if mgmtQueue s f = some queue then tellFrames f (deliverRecords f s) else s

/-- QUEUE_ENABLE (R242, R262): a queue of a function, of 64 to 1,024 entries, is enabled and mapped, and TILES distances count from
here (R46). A notification that arrived meanwhile fires its doorbell. -/
def execQueueEnable (queue : Nat) (setup : QueueSetup) (s : State) : Outcome State Fault Refusal :=
  let k := queueOf s queue
  .next (if 1024 ≤ queue || setup.size < 64 || 1024 < setup.size || k.enabled || !queueHeld s queue ||
      fld (fnOf s (fnOfQueue s queue)).status 3 1 == 0 then s
    else
      let s' := servesRecords queue (modQueue queue (fun k => { k with
        enabled := true, mapped := true, shadow := false, away := false, size := setup.size, usedAt := 0, wrap := true, base := k.launches
        driverArea := setup.area % 2 ^ 64 }) s)
      if k.shadow then ringDoorbell queue s' else s')

/-- A queue that the host has made a chain available on, with what the device finds of it later: by `bad` % 3, 1 the buffer of the chain's
descriptor `bad` / 3 cannot be reached, and 0, but for `bad` = 0, its used elements cannot be written (R347; log 50). -/
def Queue.offered (k : Queue) (buf : Nat) (descs : Descriptors) (bad : Nat) : Queue :=
  { k with
    avail := if descs.isEmpty then k.avail else k.avail ++ [(buf, descs)]
    unreached := if bad % 3 = 1 then k.unreached ++ (descs[bad / 3]?.map fun d => (buf, d.1.toNat)).toList else k.unreached
    lost := k.lost || (bad % 3 == 0 && bad != 0) }

/-- Bytes that the host stores to its own memory. -/
def hostWrite (s : State) (x : Nat × List Byte) : State :=
  unitWrite hostAgent (hostKey (x.1 % 2 ^ 64)) (x.2.take (2 ^ 64 - x.1 % 2 ^ 64)) false [] s

/-- QUEUE_NOTIFY (R261, R349): the host has stored to its memory and made a chain available; the doorbell fires or is latched, or while
the queue is unmapped its shadow bit is set. With `bad` % 3 = 2 the ring cannot be read (R347). -/
def execQueueNotify (queue data buf : Nat) (descs : Descriptors) (stores : HostStores) (bad : Nat) (s : State) :
    Outcome State Fault Refusal :=
  let s := stores.foldl hostWrite s
  let note (s : State) : State := modQueue queue (fun k => { k with shadow := true, note := data }) s
  .next (if !(queueOf s queue).enabled then (if (queueOf s queue).away then note s else s)
    else if bad % 3 = 2 then needReset (fnOfQueue s queue) s
    else
      let s := modQueue queue (fun k => k.offered (buf % 2 ^ 16) descs bad) s
      if (queueOf s queue).mapped then servesRecords queue (ringDoorbell queue s) else note s)

/-- A queue mapped again: a set shadow bit fires its doorbell (R349). -/
def remap (q : Nat) (s : State) : State :=
  let k := queueOf s q
  if k.mapped || !k.enabled then s
  else
    let s' := modQueue q (fun k => { k with mapped := true, shadow := false }) s
    servesRecords q (if k.shadow then ringDoorbell q s' else s')

/-- QUEUE_REMAP (R349): once the cause of the unmapping is over. -/
def execQueueRemap (queue : Nat) (s : State) : Outcome State Fault Refusal :=
  .next (if (match partOfQueue s queue with | some p => (partOf s p).frozen | none => false) || (porterOf s (queue / 16)).halted then s
    else remap queue s)

/-! ### Resets (R347) -/

/-- Live launches of some queues are killed by the host: no rollback, and no used element (R319, R329). -/
def killFrom (q : Nat → Bool) (s : State) : State :=
  ((s.launches.filter fun e => q e.2.queue && !e.2.ended).map (·.1)).foldl (fun s l =>
    modLaunch l (fun l => { l with abandoned := true }) (killLaunch l 0x08 0 (loseEligibility l s))) s

/-- The requests with DRAIN of some queues are gone. -/
def dropDrains (q : Nat → Bool) (s : State) : State :=
  { s with chains := s.chains.map fun e => (e.1, { e.2 with drains := e.2.drains.filter fun c => !q c.1 }) }

/-- The commands that the Porter has fetched from a queue, but for launches, are abandoned (R345, R347). -/
def abandonQueue (q : Nat) (s : State) : State :=
  let launch (b : Nat) : Bool := s.launches.any fun e => e.2.queue == q && e.2.buf == b && e.2.abandoned
  ((queueOf s q).fetched.filter fun x => !isRecordBuffer x.2 && !launch x.1).foldl (fun s x => complete (q, x.1) 0x0D 0 0 s) s

/-- QUEUE_RESET. -/
def execQueueReset (queue : Nat) (s : State) : Outcome State Fault Refusal :=
  .next (modQueue queue Queue.cleared
    (abandonQueue queue (dropClaims (· == queue) (dropDrains (· == queue) (killFrom (· == queue) s)))))

/-- FUNCTION_RESET: the negotiation is cleared, and every queue is disabled. The records that wait go, and their count goes on (log 104). -/
def execFunctionReset (fn : Nat) (s : State) : Outcome State Fault Refusal :=
  let mine (q : Nat) : Bool := (fnOf s fn).groups.contains (q / 16)
  let s := dropClaims mine (dropDrains mine (killFrom mine s))
  let s := (fnOf s fn).groups.foldl (fun s g => clearGroup g s) s
  .next (modFn fn (fun f => { f with features := 0, status := 0, needsReset := false, records := [], told := [] }) s)

/-! ### Porter faults (R348) -/

/-- PORTER_EXCEPTION: a halted Porter is reloaded with its last verified image, and the commands it had fetched are abandoned; an
exception that the image handles is reported, once, with LASTING clear: the image asks for it. Class 6 has codes 24 to 31 alone
(Table 21.2). -/
def execPorterException (p : Nat) (s : State) : Outcome State Fault Refusal :=
  let k := porterOf s p
  .next (if k.halted then
      (if k.image.isEmpty then s else abandonGroup p (loadPorter p k.image (unmapGroup p s)))
    else if k.inException && !k.reported && 24 ≤ k.mcause.toNat && k.mcause.toNat < 32 then
      raiseEvent ⟨6, k.mcause.toNat, 0, none, 0, p, k.mepc.toNat⟩ (modPorter p (fun k => { k with reported := true }) s)
    else s)

/-! ### Migration (R350) -/

/-- The queues of a partition's function. -/
def partQueues (s : State) (p : Nat) : List Nat := (s.queues.keys).filter fun q => (fnOf s (p + 1)).groups.contains (q / 16)

/-- PARTITION_FREEZE. -/
def execPartitionFreeze (p : Nat) (s : State) : Outcome State Fault Refusal :=
  .next (if (s.partitions.get? p).isNone || !hasFeature s 0 11 then s
    else (partQueues s p).foldl (fun s q => modQueue q (fun k => { k with mapped := false }) s)
      (modPart p (fun k => { k with frozen := true }) s))

/-- A held request goes on, when its export is the partition's. -/
def forward (p : Nat) (s : State) (r : List Nat) : State :=
  match r with
  | [x, gen, kind, op, off, len, data] =>
    (match s.exports.get? x with
     | some e => if e.part = p then performRequest x gen kind op off len data
          { s with heldReqs := s.heldReqs.erase r } else s
     | none => { s with heldReqs := s.heldReqs.erase r })
  | _ => s

/-- PARTITION_RESUME: held requests are forwarded in arrival order, the queues are mapped, and waits on signals are tested again. -/
def execPartitionResume (p : Nat) (s : State) : Outcome State Fault Refusal :=
  .next (if !(partOf s p).frozen then s
    else
      let s := modPart p (fun k => { k with frozen := false }) s
      let s := s.heldReqs.foldl (forward p) s
      settle (advanceLaunches (fireWatches ((partQueues s p).foldl (fun s q => remap q s) s))))

end Sys2Proof.Machine
end

