-- ==== Sys2Proof/Machine/Dispatch.lean ====
section
/-! DEFINITION. The meaning of each instruction: one arm per constructor. -/

namespace Sys2Proof.Machine

open Sys2Proof

def exec (i : Instr) (s : State) : Host.Outcome State Fault Refusal :=
  match i with
  | .nop e => Sys2Proof.Machine.execNop e s
  | .iadd e vd xa xb => Sys2Proof.Machine.execIadd e vd xa xb s
  | .isub e vd xa xb => Sys2Proof.Machine.execIsub e vd xa xb s
  | .imul e vd xa xb => Sys2Proof.Machine.execImul e vd xa xb s
  | .imulh e vd xa xb => Sys2Proof.Machine.execImulh e vd xa xb s
  | .imulhu e vd xa xb => Sys2Proof.Machine.execImulhu e vd xa xb s
  | .imad e vd xa xb => Sys2Proof.Machine.execImad e vd xa xb s
  | .imin e vd xa xb => Sys2Proof.Machine.execImin e vd xa xb s
  | .imax e vd xa xb => Sys2Proof.Machine.execImax e vd xa xb s
  | .umin e vd xa xb => Sys2Proof.Machine.execUmin e vd xa xb s
  | .umax e vd xa xb => Sys2Proof.Machine.execUmax e vd xa xb s
  | .idiv e vd xa xb => Sys2Proof.Machine.execIdiv e vd xa xb s
  | .udiv e vd xa xb => Sys2Proof.Machine.execUdiv e vd xa xb s
  | .irem e vd xa xb => Sys2Proof.Machine.execIrem e vd xa xb s
  | .urem e vd xa xb => Sys2Proof.Machine.execUrem e vd xa xb s
  | .qpushv q vd => Sys2Proof.Machine.execQpushv q vd s
  | .and e vd xa xb => Sys2Proof.Machine.execAnd e vd xa xb s
  | .or e vd xa xb => Sys2Proof.Machine.execOr e vd xa xb s
  | .xor e vd xa xb => Sys2Proof.Machine.execXor e vd xa xb s
  | .andn e vd xa xb => Sys2Proof.Machine.execAndn e vd xa xb s
  | .shl e vd xa xb => Sys2Proof.Machine.execShl e vd xa xb s
  | .shr e vd xa xb => Sys2Proof.Machine.execShr e vd xa xb s
  | .sar e vd xa xb => Sys2Proof.Machine.execSar e vd xa xb s
  | .popc e vd xa => Sys2Proof.Machine.execPopc e vd xa s
  | .clz e vd xa => Sys2Proof.Machine.execClz e vd xa s
  | .brev e vd xa => Sys2Proof.Machine.execBrev e vd xa s
  | .bfe e vd xa xb => Sys2Proof.Machine.execBfe e vd xa xb s
  | .bfi e vd xa xb => Sys2Proof.Machine.execBfi e vd xa xb s
  | .iaddi e vd xa imm => Sys2Proof.Machine.execIaddi e vd xa imm s
  | .andi e vd xa imm => Sys2Proof.Machine.execAndi e vd xa imm s
  | .ori e vd xa imm => Sys2Proof.Machine.execOri e vd xa imm s
  | .xori e vd xa imm => Sys2Proof.Machine.execXori e vd xa imm s
  | .shli e vd xa imm => Sys2Proof.Machine.execShli e vd xa imm s
  | .shri e vd xa imm => Sys2Proof.Machine.execShri e vd xa imm s
  | .sari e vd xa imm => Sys2Proof.Machine.execSari e vd xa imm s
  | .movi e vd imm => Sys2Proof.Machine.execMovi e vd imm s
  | .movhi e vd imm => Sys2Proof.Machine.execMovhi e vd imm s
  | .mov e vd xa => Sys2Proof.Machine.execMov e vd xa s
  | .sel e vd xa xb => Sys2Proof.Machine.execSel e vd xa xb s
  | .movs e vd idx => Sys2Proof.Machine.execMovs e vd idx s
  | .icmp e cc kd xa xb => Sys2Proof.Machine.execIcmp e cc kd xa xb s
  | .fcmp e cc kd xa xb => Sys2Proof.Machine.execFcmp e cc kd xa xb s
  | .kand e kd ka kb => Sys2Proof.Machine.execKand e kd ka kb s
  | .kor e kd ka kb => Sys2Proof.Machine.execKor e kd ka kb s
  | .kxor e kd ka kb => Sys2Proof.Machine.execKxor e kd ka kb s
  | .kandn e kd ka kb => Sys2Proof.Machine.execKandn e kd ka kb s
  | .knot e kd ka => Sys2Proof.Machine.execKnot e kd ka s
  | .ktov e vd ka => Sys2Proof.Machine.execKtov e vd ka s
  | .vtok e kd xa => Sys2Proof.Machine.execVtok e kd xa s
  | .iadd64 e vd xa xb => Sys2Proof.Machine.execIadd64 e vd xa xb s
  | .imulw e vd xa xb => Sys2Proof.Machine.execImulw e vd xa xb s
  | .fadd e vd xa xb => Sys2Proof.Machine.execFadd e vd xa xb s
  | .fsub e vd xa xb => Sys2Proof.Machine.execFsub e vd xa xb s
  | .fmul e vd xa xb => Sys2Proof.Machine.execFmul e vd xa xb s
  | .ffma e vd xa xb => Sys2Proof.Machine.execFfma e vd xa xb s
  | .fmin e vd xa xb => Sys2Proof.Machine.execFmin e vd xa xb s
  | .fmax e vd xa xb => Sys2Proof.Machine.execFmax e vd xa xb s
  | .fdiv e vd xa xb => Sys2Proof.Machine.execFdiv e vd xa xb s
  | .fabs e vd xa => Sys2Proof.Machine.execFabs e vd xa s
  | .fneg e vd xa => Sys2Proof.Machine.execFneg e vd xa s
  | .ffloor e vd xa => Sys2Proof.Machine.execFfloor e vd xa s
  | .fceil e vd xa => Sys2Proof.Machine.execFceil e vd xa s
  | .ftrunc e vd xa => Sys2Proof.Machine.execFtrunc e vd xa s
  | .frint e vd xa => Sys2Proof.Machine.execFrint e vd xa s
  | .frcp e vd xa => Sys2Proof.Machine.execFrcp e vd xa s
  | .frsq e vd xa => Sys2Proof.Machine.execFrsq e vd xa s
  | .fsqrt e vd xa => Sys2Proof.Machine.execFsqrt e vd xa s
  | .fexp2 e vd xa => Sys2Proof.Machine.execFexp2 e vd xa s
  | .flog2 e vd xa => Sys2Proof.Machine.execFlog2 e vd xa s
  | .fsin e vd xa => Sys2Proof.Machine.execFsin e vd xa s
  | .fcos e vd xa => Sys2Proof.Machine.execFcos e vd xa s
  | .fclass e vd xa => Sys2Proof.Machine.execFclass e vd xa s
  | .fscale e vd xa xb => Sys2Proof.Machine.execFscale e vd xa xb s
  | .qpopv vd q => Sys2Proof.Machine.execQpopv vd q s
  | .mxstr tile xa vd bsel q8 zf => Sys2Proof.Machine.execMxstr tile xa vd bsel q8 zf s
  | .hadd2 e vd xa xb => Sys2Proof.Machine.execHadd2 e vd xa xb s
  | .hmul2 e vd xa xb => Sys2Proof.Machine.execHmul2 e vd xa xb s
  | .hfma2 e vd xa xb => Sys2Proof.Machine.execHfma2 e vd xa xb s
  | .badd2 e vd xa xb => Sys2Proof.Machine.execBadd2 e vd xa xb s
  | .bmul2 e vd xa xb => Sys2Proof.Machine.execBmul2 e vd xa xb s
  | .bfma2 e vd xa xb => Sys2Proof.Machine.execBfma2 e vd xa xb s
  | .iadd2 e vd xa xb => Sys2Proof.Machine.execIadd2 e vd xa xb s
  | .isub2 e vd xa xb => Sys2Proof.Machine.execIsub2 e vd xa xb s
  | .iadds2 e vd xa xb => Sys2Proof.Machine.execIadds2 e vd xa xb s
  | .isubs2 e vd xa xb => Sys2Proof.Machine.execIsubs2 e vd xa xb s
  | .imax2 e vd xa xb => Sys2Proof.Machine.execImax2 e vd xa xb s
  | .imin2 e vd xa xb => Sys2Proof.Machine.execImin2 e vd xa xb s
  | .idp4 e vd xa xb => Sys2Proof.Machine.execIdp4 e vd xa xb s
  | .udp4 e vd xa xb => Sys2Proof.Machine.execUdp4 e vd xa xb s
  | .hdp2 e vd xa xb => Sys2Proof.Machine.execHdp2 e vd xa xb s
  | .bdp2 e vd xa xb => Sys2Proof.Machine.execBdp2 e vd xa xb s
  | .cvt e conv mode inf vd xa => Sys2Proof.Machine.execCvt e conv mode inf vd xa s
  | .pack e vd xa xb => Sys2Proof.Machine.execPack e vd xa xb s
  | .shfl vd xa xb => Sys2Proof.Machine.execShfl vd xa xb s
  | .shflx vd xa xb => Sys2Proof.Machine.execShflx vd xa xb s
  | .ballot vd xa => Sys2Proof.Machine.execBallot vd xa s
  | .sred op vd xa => Sys2Proof.Machine.execSred op vd xa s
  | .sscan op excl vd xa => Sys2Proof.Machine.execSscan op excl vd xa s
  | .matchLanes vd xa => Sys2Proof.Machine.execMatchLanes vd xa s
  | .ldb e vd xa xb => Sys2Proof.Machine.execLdb e vd xa xb s
  | .ldh e vd xa xb => Sys2Proof.Machine.execLdh e vd xa xb s
  | .ldw e vd xa xb => Sys2Proof.Machine.execLdw e vd xa xb s
  | .ldq e vd xa xb => Sys2Proof.Machine.execLdq e vd xa xb s
  | .stb e vd xa xb => Sys2Proof.Machine.execStb e vd xa xb s
  | .sth e vd xa xb => Sys2Proof.Machine.execSth e vd xa xb s
  | .stw e vd xa xb => Sys2Proof.Machine.execStw e vd xa xb s
  | .stq e vd xa xb => Sys2Proof.Machine.execStq e vd xa xb s
  | .sldw e vd xa imm => Sys2Proof.Machine.execSldw e vd xa imm s
  | .sldq e vd xa imm => Sys2Proof.Machine.execSldq e vd xa imm s
  | .sstw e vd xa imm => Sys2Proof.Machine.execSstw e vd xa imm s
  | .sstq e vd xa imm => Sys2Proof.Machine.execSstq e vd xa imm s
  | .cldw e vd xa imm => Sys2Proof.Machine.execCldw e vd xa imm s
  | .cstw e vd xa imm => Sys2Proof.Machine.execCstw e vd xa imm s
  | .ldwp e vd va imm => Sys2Proof.Machine.execLdwp e vd va imm s
  | .stwp e vd va imm => Sys2Proof.Machine.execStwp e vd va imm s
  | .axch vd xa xb => Sys2Proof.Machine.execAxch vd xa xb s
  | .acas vd xa xb => Sys2Proof.Machine.execAcas vd xa xb s
  | .aadd vd xa xb => Sys2Proof.Machine.execAadd vd xa xb s
  | .aimin vd xa xb => Sys2Proof.Machine.execAimin vd xa xb s
  | .aimax vd xa xb => Sys2Proof.Machine.execAimax vd xa xb s
  | .aumin vd xa xb => Sys2Proof.Machine.execAumin vd xa xb s
  | .aumax vd xa xb => Sys2Proof.Machine.execAumax vd xa xb s
  | .aand vd xa xb => Sys2Proof.Machine.execAand vd xa xb s
  | .aor vd xa xb => Sys2Proof.Machine.execAor vd xa xb s
  | .axor vd xa xb => Sys2Proof.Machine.execAxor vd xa xb s
  | .afadd vd xa xb => Sys2Proof.Machine.execAfadd vd xa xb s
  | .br k off => Sys2Proof.Machine.execBr k off s
  | .brn k off => Sys2Proof.Machine.execBrn k off s
  | .jmp off => Sys2Proof.Machine.execJmp off s
  | .call off => Sys2Proof.Machine.execCall off s
  | .ret => Sys2Proof.Machine.execRet s
  | .jr xa => Sys2Proof.Machine.execJr xa s
  | .callr xa => Sys2Proof.Machine.execCallr xa s
  | .exit => Sys2Proof.Machine.execExit s
  | .yield => Sys2Proof.Machine.execYield s
  | .frame e n => Sys2Proof.Machine.execFrame e n s
  | .unop e => Sys2Proof.Machine.execUnop e s
  | .uadd e sd sa sb => Sys2Proof.Machine.execUadd e sd sa sb s
  | .usub e sd sa sb => Sys2Proof.Machine.execUsub e sd sa sb s
  | .umul e sd sa sb => Sys2Proof.Machine.execUmul e sd sa sb s
  | .umulh e sd sa sb => Sys2Proof.Machine.execUmulh e sd sa sb s
  | .uand e sd sa sb => Sys2Proof.Machine.execUand e sd sa sb s
  | .uor e sd sa sb => Sys2Proof.Machine.execUor e sd sa sb s
  | .uxor e sd sa sb => Sys2Proof.Machine.execUxor e sd sa sb s
  | .ushl e sd sa sb => Sys2Proof.Machine.execUshl e sd sa sb s
  | .ushr e sd sa sb => Sys2Proof.Machine.execUshr e sd sa sb s
  | .usar e sd sa sb => Sys2Proof.Machine.execUsar e sd sa sb s
  | .uimin e sd sa sb => Sys2Proof.Machine.execUimin e sd sa sb s
  | .uimax e sd sa sb => Sys2Proof.Machine.execUimax e sd sa sb s
  | .uminu e sd sa sb => Sys2Proof.Machine.execUminu e sd sa sb s
  | .umaxu e sd sa sb => Sys2Proof.Machine.execUmaxu e sd sa sb s
  | .uaddi e sd sa imm => Sys2Proof.Machine.execUaddi e sd sa imm s
  | .uandi e sd sa imm => Sys2Proof.Machine.execUandi e sd sa imm s
  | .ushli e sd sa imm => Sys2Proof.Machine.execUshli e sd sa imm s
  | .ushri e sd sa imm => Sys2Proof.Machine.execUshri e sd sa imm s
  | .umovi e sd imm => Sys2Proof.Machine.execUmovi e sd imm s
  | .umovhi e sd imm => Sys2Proof.Machine.execUmovhi e sd imm s
  | .umov e sd sa => Sys2Proof.Machine.execUmov e sd sa s
  | .urds e sd idx => Sys2Proof.Machine.execUrds e sd idx s
  | .uadd64 e sd sa sb => Sys2Proof.Machine.execUadd64 e sd sa sb s
  | .uaddi64 e sd sa imm => Sys2Proof.Machine.execUaddi64 e sd sa imm s
  | .ucmp e cc jd sa sb => Sys2Proof.Machine.execUcmp e cc jd sa sb s
  | .jand e jd ja jb => Sys2Proof.Machine.execJand e jd ja jb s
  | .jor e jd ja jb => Sys2Proof.Machine.execJor e jd ja jb s
  | .jxor e jd ja jb => Sys2Proof.Machine.execJxor e jd ja jb s
  | .jandn e jd ja jb => Sys2Proof.Machine.execJandn e jd ja jb s
  | .jnot e jd ja => Sys2Proof.Machine.execJnot e jd ja s
  | .ubr k off => Sys2Proof.Machine.execUbr k off s
  | .ubrn k off => Sys2Proof.Machine.execUbrn k off s
  | .uldw e sd sa imm => Sys2Proof.Machine.execUldw e sd sa imm s
  | .uldd e sd sa imm => Sys2Proof.Machine.execUldd e sd sa imm s
  | .ustw e sd sa imm => Sys2Proof.Machine.execUstw e sd sa imm s
  | .ufence ord => Sys2Proof.Machine.execUfence ord s
  | .qpush q sa => Sys2Proof.Machine.execQpush q sa s
  | .qpop sd q => Sys2Proof.Machine.execQpop sd q s
  | .qtry sd jd q => Sys2Proof.Machine.execQtry sd jd q s
  | .mxlds sa fmt g ord => Sys2Proof.Machine.execMxlds sa fmt g ord s
  | .mxswap g => Sys2Proof.Machine.execMxswap g s
  | .mxdrn sd sa g ord => Sys2Proof.Machine.execMxdrn sd sa g ord s
  | .mxzero tile g => Sys2Proof.Machine.execMxzero tile g s
  | .cpcopy sd sa g ord => Sys2Proof.Machine.execCpcopy sd sa g ord s
  | .cpgath sd sa g ord => Sys2Proof.Machine.execCpgath sd sa g ord s
  | .cpscat sd sa g ord => Sys2Proof.Machine.execCpscat sd sa g ord s
  | .cpfill sd sa size g ord => Sys2Proof.Machine.execCpfill sd sa size g ord s
  | .alloc sd sa => Sys2Proof.Machine.execAlloc sd sa s
  | .free sa => Sys2Proof.Machine.execFree sa s
  | .fetch sd => Sys2Proof.Machine.execFetch sd s
  | .bars n => Sys2Proof.Machine.execBars n s
  | .bara n => Sys2Proof.Machine.execBara n s
  | .barw n => Sys2Proof.Machine.execBarw n s
  | .gbar => Sys2Proof.Machine.execGbar s
  | .chinit ch sa sb => Sys2Proof.Machine.execChinit ch sa sb s
  | .chpush ch sa => Sys2Proof.Machine.execChpush ch sa s
  | .chpop sd ch => Sys2Proof.Machine.execChpop sd ch s
  | .garm g => Sys2Proof.Machine.execGarm g s
  | .gres g jd => Sys2Proof.Machine.execGres g jd s
  | .lkacq sa ord => Sys2Proof.Machine.execLkacq sa ord s
  | .lktry jd sa ord => Sys2Proof.Machine.execLktry jd sa ord s
  | .lkrel sa ord => Sys2Proof.Machine.execLkrel sa ord s
  | .prmake sa => Sys2Proof.Machine.execPrmake sa s
  | .prset sa sd ord => Sys2Proof.Machine.execPrset sa sd ord s
  | .prwait sd jd sa ord => Sys2Proof.Machine.execPrwait sd jd sa ord s
  | .setheir sa => Sys2Proof.Machine.execSetheir sa s
  | .inherit sd => Sys2Proof.Machine.execInherit sd s
  | .inheritNb sd jd => Sys2Proof.Machine.execInheritNb sd jd s
  | .waitsig sa sd ord => Sys2Proof.Machine.execWaitsig sa sd ord s
  | .sigadd sa sd ord => Sys2Proof.Machine.execSigadd sa sd ord s
  | .publish sa => Sys2Proof.Machine.execPublish sa s
  | .trap imm => Sys2Proof.Machine.execTrap imm s
  | .hret => Sys2Proof.Machine.execHret s
  | .bkpt imm => Sys2Proof.Machine.execBkpt imm s
  | .srw idx sa => Sys2Proof.Machine.execSrw idx sa s
  | .rfetch rd rs => Sys2Proof.Machine.execRfetch rd rs s
  | .rpost rs rt => Sys2Proof.Machine.execRpost rs rt s
  | .bfx rd rs pos len hi => Sys2Proof.Machine.execBfx rd rs pos len hi s
  | .bfiPorter rd rs pos len hi => Sys2Proof.Machine.execBfiPorter rd rs pos len hi s
  | .swait rd rs => Sys2Proof.Machine.execSwait rd rs s
  | .sarm rs rt => Sys2Proof.Machine.execSarm rs rt s
  | .disp rd rs rt => Sys2Proof.Machine.execDisp rd rs rt s
  | .dstat rd rs => Sys2Proof.Machine.execDstat rd rs s
  | .unimplementedEncoding w => Sys2Proof.Machine.execUnimplementedEncoding w s
  | .porterException p => Sys2Proof.Machine.execPorterException p s
  | .launch queue buf => Sys2Proof.Machine.execLaunch queue buf s
  | .launchMeasured lid => Sys2Proof.Machine.execLaunchMeasured lid s
  | .holdExpire lid => Sys2Proof.Machine.execHoldExpire lid s
  | .launchBind => Sys2Proof.Machine.execLaunchBind s
  | .rowLoad core row => Sys2Proof.Machine.execRowLoad core row s
  | .rowLoadComplete squad => Sys2Proof.Machine.execRowLoadComplete squad s
  | .pick core slot resume => Sys2Proof.Machine.execPick core slot resume s
  | .runFault core slot => Sys2Proof.Machine.execRunFault core slot s
  | .slowGearWord core slot => Sys2Proof.Machine.execSlowGearWord core slot s
  | .handlerEntry squad => Sys2Proof.Machine.execHandlerEntry squad s
  | .escalationKill lid => Sys2Proof.Machine.execEscalationKill lid s
  | .convey squad => Sys2Proof.Machine.execConvey squad s
  | .rowDrainComplete squad => Sys2Proof.Machine.execRowDrainComplete squad s
  | .evictSaveComplete squad => Sys2Proof.Machine.execEvictSaveComplete squad s
  | .rotation core => Sys2Proof.Machine.execRotation core s
  | .restoreComplete squad => Sys2Proof.Machine.execRestoreComplete squad s
  | .foregroundSwap core => Sys2Proof.Machine.execForegroundSwap core s
  | .launchEnd lid => Sys2Proof.Machine.execLaunchEnd lid s
  | .launchCommit lid => Sys2Proof.Machine.execLaunchCommit lid s
  | .snapshotCopy lid piece => Sys2Proof.Machine.execSnapshotCopy lid piece s
  | .rollbackKill lid resource => Sys2Proof.Machine.execRollbackKill lid resource s
  | .hbmPatrolRead stack flaw corrected => Sys2Proof.Machine.execHbmPatrolRead stack flaw corrected s
  | .cellarRefreshWindowStart die off found => Sys2Proof.Machine.execCellarRefreshWindowStart die off found s
  | .cellarRefreshWindowEnd die => Sys2Proof.Machine.execCellarRefreshWindowEnd die s
  | .storeLeave agent sid => Sys2Proof.Machine.execStoreLeave agent sid s
  | .releasePerform rel => Sys2Proof.Machine.execReleasePerform rel s
  | .storeCarry core agent sid addr => Sys2Proof.Machine.execStoreCarry core agent sid addr s
  | .copyDrop core key => Sys2Proof.Machine.execCopyDrop core key s
  | .loadPerform agent seq => Sys2Proof.Machine.execLoadPerform agent seq s
  | .atomicPerform agent sid => Sys2Proof.Machine.execAtomicPerform agent sid s
  | .pageWalkComplete core ctx va => Sys2Proof.Machine.execPageWalkComplete core ctx va s
  | .atsTranslationCompletion fn n hpa size r w x => Sys2Proof.Machine.execAtsTranslationCompletion fn n hpa size r w x s
  | .priResponseSuccess fn n => Sys2Proof.Machine.execPriResponseSuccess fn n s
  | .priResponseInvalid fn n => Sys2Proof.Machine.execPriResponseInvalid fn n s
  | .priResponseFailure fn n => Sys2Proof.Machine.execPriResponseFailure fn n s
  | .atsInvalidateRequest ctx va n => Sys2Proof.Machine.execAtsInvalidateRequest ctx va n s
  | .invalidationComplete k => Sys2Proof.Machine.execInvalidationComplete k s
  | .mxldsCommandRun core => Sys2Proof.Machine.execMxldsCommandRun core s
  | .mxswapCommandRun core => Sys2Proof.Machine.execMxswapCommandRun core s
  | .streamRowFeed core mismatch => Sys2Proof.Machine.execStreamRowFeed core mismatch s
  | .mxdrnCommandRun core => Sys2Proof.Machine.execMxdrnCommandRun core s
  | .mxzeroCommandRun core => Sys2Proof.Machine.execMxzeroCommandRun core s
  | .copyCommandComplete cmd => Sys2Proof.Machine.execCopyCommandComplete cmd s
  | .storekeeperReply block addr => Sys2Proof.Machine.execStorekeeperReply block addr s
  | .storekeeperFree block => Sys2Proof.Machine.execStorekeeperFree block s
  | .dispenserRefill block => Sys2Proof.Machine.execDispenserRefill block s
  | .publicationPerform win => Sys2Proof.Machine.execPublicationPerform win s
  | .cellarFill queue buf => Sys2Proof.Machine.execCellarFill queue buf s
  | .cellarFillEnd k => Sys2Proof.Machine.execCellarFillEnd k s
  | .copy queue buf => Sys2Proof.Machine.execCopy queue buf s
  | .signalSet queue buf => Sys2Proof.Machine.execSignalSet queue buf s
  | .signalWait queue buf => Sys2Proof.Machine.execSignalWait queue buf s
  | .pubCreate queue buf => Sys2Proof.Machine.execPubCreate queue buf s
  | .pubDestroy queue buf => Sys2Proof.Machine.execPubDestroy queue buf s
  | .receiptSeal queue buf => Sys2Proof.Machine.execReceiptSeal queue buf s
  | .receiptRequest queue buf written => Sys2Proof.Machine.execReceiptRequest queue buf written s
  | .windowExport queue buf => Sys2Proof.Machine.execWindowExport queue buf s
  | .windowGrant queue buf ok base size part gen write => Sys2Proof.Machine.execWindowGrant queue buf ok base size part gen write s
  | .windowRevoke queue buf => Sys2Proof.Machine.execWindowRevoke queue buf s
  | .keyInstall queue buf => Sys2Proof.Machine.execKeyInstall queue buf s
  | .storageBind queue buf => Sys2Proof.Machine.execStorageBind queue buf s
  | .storageRequestServe pair => Sys2Proof.Machine.execStorageRequestServe pair s
  | .storageDone queue buf => Sys2Proof.Machine.execStorageDone queue buf s
  | .debugHalt queue buf => Sys2Proof.Machine.execDebugHalt queue buf s
  | .debugResume queue buf => Sys2Proof.Machine.execDebugResume queue buf s
  | .debugStep queue buf => Sys2Proof.Machine.execDebugStep queue buf s
  | .debugClaim queue buf => Sys2Proof.Machine.execDebugClaim queue buf s
  | .debugRead queue buf => Sys2Proof.Machine.execDebugRead queue buf s
  | .debugKill queue buf => Sys2Proof.Machine.execDebugKill queue buf s
  | .debugSetDump queue buf => Sys2Proof.Machine.execDebugSetDump queue buf s
  | .contextCreate queue buf => Sys2Proof.Machine.execContextCreate queue buf s
  | .contextDestroy queue buf => Sys2Proof.Machine.execContextDestroy queue buf s
  | .tlbInvalidate queue buf => Sys2Proof.Machine.execTlbInvalidate queue buf s
  | .setRegions queue buf => Sys2Proof.Machine.execSetRegions queue buf s
  | .setTolerance queue buf => Sys2Proof.Machine.execSetTolerance queue buf s
  | .cellarGrant queue buf => Sys2Proof.Machine.execCellarGrant queue buf s
  | .partition queue buf => Sys2Proof.Machine.execPartition queue buf s
  | .eventRoute queue buf => Sys2Proof.Machine.execEventRoute queue buf s
  | .porterImage queue buf => Sys2Proof.Machine.execPorterImage queue buf s
  | .inject queue buf => Sys2Proof.Machine.execInject queue buf s
  | .injectorFire port => Sys2Proof.Machine.execInjectorFire port s
  | .queueNotify queue data buf descs stores bad => Sys2Proof.Machine.execQueueNotify queue data buf descs stores bad s
  | .featuresOk fn accepted => Sys2Proof.Machine.execFeaturesOk fn accepted s
  | .functionReset fn => Sys2Proof.Machine.execFunctionReset fn s
  | .queueReset queue => Sys2Proof.Machine.execQueueReset queue s
  | .queueRemap queue => Sys2Proof.Machine.execQueueRemap queue s
  | .partitionFreeze p => Sys2Proof.Machine.execPartitionFreeze p s
  | .partitionResume p => Sys2Proof.Machine.execPartitionResume p s
  | .fabricRequestReceive x gen kind op off len data => Sys2Proof.Machine.execFabricRequestReceive x gen kind op off len data s
  | .flitCrcFail port again => Sys2Proof.Machine.execFlitCrcFail port again s
  | .portRetrain port ok => Sys2Proof.Machine.execPortRetrain port ok s
  | .portUp port => Sys2Proof.Machine.execPortUp port s
  | .flitGroupTagFail port part key again => Sys2Proof.Machine.execFlitGroupTagFail port part key again s
  | .pcieLinkTrain gen width => Sys2Proof.Machine.execPcieLinkTrain gen width s
  | .pcieErrorLogged fn correctable bits => Sys2Proof.Machine.execPcieErrorLogged fn correctable bits s
  | .poisonedTlpReceived fn addr len => Sys2Proof.Machine.execPoisonedTlpReceived fn addr len s
  | .operatingPointChange island point => Sys2Proof.Machine.execOperatingPointChange island point s
  | .powerAboveDesign watts point => Sys2Proof.Machine.execPowerAboveDesign watts point s
  | .throttleTemperature die temp point => Sys2Proof.Machine.execThrottleTemperature die temp point s
  | .throttleEnd => Sys2Proof.Machine.execThrottleEnd s
  | .shutdownTemperature die temp => Sys2Proof.Machine.execShutdownTemperature die temp s
  | .powerInputValid => Sys2Proof.Machine.execPowerInputValid s
  | .strongroomBoot => Sys2Proof.Machine.execStrongroomBoot s
  | .strongroomInit => Sys2Proof.Machine.execStrongroomInit s
  | .hostClassStart => Sys2Proof.Machine.execHostClassStart s
  | .hbmTrain => Sys2Proof.Machine.execHbmTrain s
  | .porterStart => Sys2Proof.Machine.execPorterStart s
  | .ternathTrain dev ups => Sys2Proof.Machine.execTernathTrain dev ups s
  | .pcieEnable => Sys2Proof.Machine.execPcieEnable s
  | .tlbEntryDrop core n l2 => Sys2Proof.Machine.execTlbEntryDrop core n l2 s
  | .priReenable fn => Sys2Proof.Machine.execPriReenable fn s
  | .queueEnable queue setup => Sys2Proof.Machine.execQueueEnable queue setup s
  | .powerLoss => Sys2Proof.Machine.execPowerLoss s
  | .configurationRequest fn ats pri alloc => Sys2Proof.Machine.execConfigurationRequest fn ats pri alloc s
  | .strongroomManagementRequest x revoke => Sys2Proof.Machine.execStrongroomManagementRequest x revoke s

end Sys2Proof.Machine
end

