-- ==== Sys2Proof/Machine/PorterBase.lean ====
section
/-! DEFINITION. The RV32 base words that a Porter executes beside the extension (11 R258; 21 R348; log 76). -/

namespace Sys2Proof.Machine

/-- A control and status register that State holds. -/
def Porter.csr (n : Nat) (k : Porter) : Option Word :=
  if n = 0x305 then some k.mtvec else if n = 0x341 then some k.mepc else if n = 0x342 then some k.mcause else none

/-- Such a register written. -/
def Porter.setCsr (n : Nat) (v : Word) (k : Porter) : Porter :=
  if n = 0x305 then { k with mtvec := v } else if n = 0x341 then { k with mepc := v &&& 0xFFFFFFFC } else { k with mcause := v }

/-- MRET: the return from an exception of a Porter, to the address that mepc holds (R348). -/
def rvMret (p : Nat) (s : State) : State := modPorter p (fun k => { k with pc := k.mepc, inException := false }) s

/-- CSRRW, CSRRS and CSRRC and their immediate forms. A word that touches what the spec gives a Porter no register for is RISC-V's
exception 2. -/
def rvCsr (p : Nat) (w : Word) (s : State) : State :=
  let k := porterOf s p
  let n := fld w.toNat 20 12
  let x : Word := if 4 ≤ rvF3 w then BitVec.ofNat 32 (rvRs1 w) else k.get (rvRs1 w)
  match k.csr n with
  | none => porterTrap p 2 s
  | some old =>
    if rvF3 w % 4 = 0 then porterTrap p 2 s
    else
      let v := if rvF3 w % 4 = 1 then x else if rvF3 w % 4 = 2 then old ||| x else old &&& ~~~x
      modPorter p (fun k => (if rvF3 w % 4 ≠ 1 ∧ rvRs1 w = 0 then k else k.setCsr n v).set (rvRd w) old) s

/-- The SYSTEM words: ECALL and EBREAK raise RISC-V's exceptions 11 and 3. -/
def rvSystem (p : Nat) (w : Word) (s : State) : State :=
  if w = 0x00000073 then porterTrap p 11 s
  else if w = 0x00100073 then porterTrap p 3 s
  else if w = 0x30200073 then rvMret p s
  else if w = 0x10500073 then modPorter p Porter.next s
  else rvCsr p w s

/-- A Porter as a base word sees it: its memory is its SRAM (R258). -/
def Porter.view (p : Nat) (s : State) : RvView 32 :=
  ⟨fun n => (porterOf s p).get n, (porterOf s p).pc, fun a n => readNat s (sramKey p a) n, sramSize⟩

/-- A word of a Porter that is none of the extension (R258; log 76). A jump to an address of no word is RISC-V's exception 0. -/
def porterBase (p : Nat) (w : Word) (s : State) : State :=
  match rvEffect (Porter.view p s) w with
  | .write rd v => modPorter p (Porter.set rd v) s
  | .jump rd a => if a.toNat % 4 ≠ 0 then porterTrap p 0 s else modPorter p (fun k => { k.set rd (k.pc + 4) with pc := a }) s
  | .store a n v => modPorter p Porter.next (unitWrite (porterAgent p) (sramKey p a) (natLe n v.toNat) false [] s)
  | .advance => modPorter p Porter.next s
  | .system => rvSystem p w s
  | .trap c => porterTrap p c s

end Sys2Proof.Machine
end

