-- ==== Sys2Proof/Machine/Upsets.lean ====
section
/-! DEFINITION. Errors of storages that their check codes do not correct, and undetected changes of one copy of a protected launch (20 R322, R323, R326, R335, R336). -/

namespace Sys2Proof.Machine

def addOnce (n : Nat) (l : List Nat) : List Nat := if l.contains n then l else n :: l

/-- A poisoned squad entry kills the squad, and its launch is then treated under R330 (R326): it rolls back where it is eligible; with
ROLLBACK set and the eligibility lost, the kill is an ordinary one of all its squads (R329); without ROLLBACK the squad alone is killed
(log 89). -/
def poisonEntry (q : Nat) (s : State) : State :=
  match s.squads.get? q with
  | none => s
  | some sq =>
    let l := launchOf s sq.lid
    if sq.ended then s
    else if l.eligible then noteRoll sq.lid ⟨.killed, 0x0D, coreResource sq.core, 0, none⟩ s
    else if l.hdr.rollback then killLaunch sq.lid 0x08 (0x0D + sq.gsq % 2 ^ 16 * 2 ^ 16) s
    else killSquad q s

/-- One bit pattern of one copy of a v register changes unseen (R336). -/
def flipV (n : Nat) (shadow : Bool) (mask : Word) (th : Thread) : Thread :=
  if shadow then { th with shV := th.shV.setIfInBounds n (th.shV.getD n 0 ^^^ mask) } else { th with v := th.v.setIfInBounds n (th.v.getD n 0 ^^^ mask) }

/-- The same of a squad register or predicate (R336). -/
def flipS (n : Nat) (shadow : Bool) (mask : Word) (sq : Squad) : Squad :=
  if shadow then { sq with shS := sq.shS.setIfInBounds n (sq.shS.getD n 0 ^^^ mask) } else { sq with s := sq.s.setIfInBounds n (sq.s.getD n 0 ^^^ mask) }

def flipJ (n : Nat) (shadow : Bool) (sq : Squad) : Squad :=
  if shadow then { sq with shJ := sq.shJ.setIfInBounds n !(sq.shJ.getD n false) } else { sq with j := sq.j.setIfInBounds n !(sq.j.getD n false) }

/-- A squad or a thread is of a protected launch: it runs as two copies (R336). -/
def twoCopies (s : State) (q : Nat) : Bool := (launchOf s (sqd s q).lid).hdr.isProtected

/-- An error at a pseudo-channel or at a line of the L2 is found in a frame of it. -/
def keyInResource (r key : Nat) : Bool :=
  if resCode r = 4 then key < 2 ^ 40 && hbmResource key == r
  else if resCode r = 5 then key < 2 ^ 40 && homeDie key == resDie r
  else true

/-- What an error does to the state. Caches and TLBs discard what they find bad (Table 20.1); they need no move here. -/
def runUpset (u : Upset) (s : State) : State :=
  match u with
  | .v t n => if (s.threads.get? t).isNone then s else modThread t (fun th => { th with poisonV := addOnce n th.poisonV }) s
  | .k t n => if (s.threads.get? t).isNone then s else modThread t (fun th => { th with poisonK := addOnce n th.poisonK }) s
  | .s q n => if (s.squads.get? q).isNone then s else modSquad q (fun x => { x with poisonS := addOnce n x.poisonS }) s
  | .j q n => if (s.squads.get? q).isNone then s else modSquad q (fun x => { x with poisonJ := addOnce n x.poisonJ }) s
  | .acc q n => if (s.squads.get? q).isNone then s else modSquad q (fun x => { x with poisonAcc := addOnce n x.poisonAcc }) s
  | .entry q => poisonEntry q s
  | .mem key =>
    if key < 2 ^ 40 then poisonHbm key s
    else if 2 ^ 44 ≤ key ∧ key < 2 ^ 45 then
      (if (key - 2 ^ 44) / 2 ^ 28 < 8 then poisonCellar ((key - 2 ^ 44) / 2 ^ 28) ((key - 2 ^ 44) % 2 ^ 28) s else s)
    else setPoison key 1 s
  | .corrected r key => if isResource r && keyInResource r key then countCorrected r (some key) s else s
  | .flipV t n shadow mask => if twoCopies s (squadOf t) then modThread t (flipV n shadow mask) s else s
  | .flipS q n shadow mask => if twoCopies s q then modSquad q (flipS n shadow mask) s else s
  | .flipJ q n shadow => if twoCopies s q then modSquad q (flipJ n shadow) s else s
  | .flipWord t mask =>
    if twoCopies s (squadOf t) && (thr s t).inWave then modThread t (fun th => { th with shWord := th.shWord ^^^ mask }) s else s

end Sys2Proof.Machine
end

