-- ==== Sys2Proof/Machine/Step.lean ====
section
/-! DEFINITION. One step of the machine, and the placing of a word where the next step fetches it (01 R23; 11 R258; log 2, log 3). -/

namespace Sys2Proof.Machine

open Host (Outcome)

/-- The step that a move names: a word fetched and executed, or a step with no encoding. A move that can do nothing leaves the
state as it is (log 2). -/
def runMove (m : Move) (s : State) : Outcome State Fault Refusal :=
  match m with
  | .issue c k =>
    match issueNext c k s with
    | .idle => .next s
    | .done s' => .next s'
    | .run i s' => exec i s'
  | .porter p =>
    match porterNext p s with
    | .idle => .next s
    | .outside => .fault .porterFetch
    | .base w => .next (porterBase p w s)
    | .run i s' => exec i s'
  | .strongroom => .next (strongStep s)
  | .hostCore n => .next (hostCoreStep n s)
  | .event i => if isEvent i then exec i s else .next s
  | .upset u => .next (runUpset u s)

/-- What every step leaves behind: waits whose word has come to be poisoned have reported it, and what the squads that have stopped show
is kept for a dump (R326, R363). -/
def afterStep (s : State) : State := captureStops (failWaits s)

/-- The outcome of a move, with what every step leaves behind. -/
def settled (o : Outcome State Fault Refusal) : Outcome State Fault Refusal :=
  match o with
  | .next t => .next (afterStep t)
  | .fault f => .fault f
  | .refused r => .refused r

/-- One step: the next move of the agenda, or, where it is empty, a free choice (log 2). -/
def step (s : State) : Outcome State Fault Refusal :=
  settled (match s.agenda with
    | m :: r => runMove m { s with agenda := r }
    | [] => runMove (Config.freeMove s.fresh) { s with fresh := s.fresh + 1 })

/-! ### Placing a word (log 3) -/

/-- The page tables of the context used for placing: one leaf of 1 GiB that maps addresses to themselves, with X and W (R78). -/
def fetchTables : List (Nat × Nat) := [(0x1000, 0x2001), (0x2000, 0x3001), (0x3000, 0xC000000000000003)]

/-- The header of the launch used for placing: one role, one squad of one thread, 128 registers. -/
def fetchHeader : Header :=
  { (default : Header) with roles := [{ (default : Role) with entry := 0x10000, allot := 128, squads := 1, threads := 1 }] }

/-- A launch, block, squad and thread on core 0, with a wave in slot 0 about to execute the word at 0x10000. -/
def withWave (s : State) : State :=
  let l := { Launch.new fetchHeader 0 [] 0 0 0 1 0 with stage := 8, clusters := [0], blocks := [1] }
  let sq : Squad := { (default : Squad) with
    lid := 1, block := 1, core := 0, state := .resident, allot := 128, present := [0], ctx := 0
    s := Vector.replicate 64 0, j := Vector.replicate 8 false, shS := Vector.replicate 64 0, shJ := Vector.replicate 8 false, heir := 2 ^ 32 - 1 }
  let th : Thread := { (default : Thread) with
    v := Vector.replicate 128 0, k := Vector.replicate 8 false, shV := Vector.replicate 128 0, shK := Vector.replicate 8 false
    pc := 0x10000, live := true, agent := 1 }
  let w : Wave := { (default : Wave) with start := 0x10000, pc := 0x10000, all := [32], threads := [32] }
  { s with
    contexts := s.contexts.put 1 ⟨0x1000, 0, 0, none⟩
    launches := s.launches.put 1 l
    blocks := s.blocks.put 1 { (default : Block) with lid := 1, core := 0, ctx := 0 }
    squads := s.squads.put 1 sq
    threads := s.threads.put 32 (th.enter)
    agents := s.agents.put 1 (Agent.new ⟨true, false, 1, 1, 0⟩)
    cores := s.cores.put 0 { cor s 0 with rows := [(0, 1)], ctx := [(0, 1)], slots := [(0, w)] }
    agenda := [.issue 0 0] }

/-- The instruction placed where the next step fetches it: a word of the cores at the wave's program counter, or a word of the
Porter extension in the SRAM of Porter 0 (R258; log 3, log 8). -/
def State.withFetchWord (s : State) (nbits w : Nat) : State :=
  if tablePorter (BitVec.ofNat 32 (w % 2 ^ nbits)) then
    { writeNat (sramKey 0 0) 4 w (modPorter 0 (fun k => { k with halted := false, pc := 0 }) s) with agenda := [.porter 0] }
  else
    writeNat 0x10000 4 w (fetchTables.foldl (fun s (e : Nat × Nat) => writeNat e.1 8 e.2 s) (withWave s))

end Sys2Proof.Machine
end

