-- ==== Sys2Proof/Laws/Decode.lean ====
section
/-! SUPPORT. Each form's decoder reads back what its encoder packs. -/

namespace Sys2Proof


theorem encNop_lt : encNop < 2 ^ 23 := by decide

theorem decNop_enc (mk : Instr) :
    decNop encNop mk = .ok (mk) := by
  have h : ∀ f, fld f 0 23 = 0 → decNop f mk = .ok (mk) := by
    intro f hz0
    simp [decNop, hz0]
  have hz0 : fld encNop 0 23 = 0 := by decide
  exact h _ hz0

theorem encZero_lt : encZero < 2 ^ 23 := by decide

theorem decZero_enc (mk : Instr) :
    decZero encZero mk = .ok (mk) := by
  have h : ∀ f, fld f 0 23 = 0 → decZero f mk = .ok (mk) := by
    intro f hz0
    simp [decZero, hz0]
  have hz0 : fld encZero 0 23 = 0 := by decide
  exact h _ hz0

theorem encLr3_lt (vd : Fin 128) (xa xb : Src) : (encLr3 vd xa xb) < 2 ^ 23 := by
  have hb0 := vd.isLt
  have hb1 := xa.code_lt
  have hb2 := xb.code_lt
  simp only [encLr3]
  omega

theorem decLr3_enc (vd : Fin 128) (xa xb : Src) (mk : Fin 128 → Src → Src → Instr) :
    decLr3 (encLr3 vd xa xb) mk = .ok (mk vd xa xb) := by
  have hb0 := vd.isLt
  have hb1 := xa.code_lt
  have hb2 := xb.code_lt
  have h : ∀ f, fld f 16 7 = vd.val → fld f 8 8 = xa.code → fld f 0 8 = xb.code → decLr3 f mk = .ok (mk vd xa xb) := by
    intro f hf0 hf1 hf2
    simp [decLr3, hf0, hf1, hf2]
  have hf0 : fld (encLr3 vd xa xb) 16 7 = vd.val := by simp only [encLr3, fld]; omega
  have hf1 : fld (encLr3 vd xa xb) 8 8 = xa.code := by simp only [encLr3, fld]; omega
  have hf2 : fld (encLr3 vd xa xb) 0 8 = xb.code := by simp only [encLr3, fld]; omega
  exact h _ hf0 hf1 hf2

theorem encLr3q_lt (vd : Fin 128) (xa xb : Src) : (encLr3q vd xa xb) < 2 ^ 23 := by
  have hb0 := vd.isLt
  have hb1 := xa.code_lt
  have hb2 := xb.code_lt
  simp only [encLr3q]
  omega

theorem decLr3q_enc (vd : Fin 128) (xa xb : Src) (mk : Fin 128 → Src → Src → Instr) :
    decLr3q (encLr3q vd xa xb) mk = .ok (mk vd xa xb) := by
  have hb0 := vd.isLt
  have hb1 := xa.code_lt
  have hb2 := xb.code_lt
  have h : ∀ f, fld f 16 7 = vd.val → fld f 8 8 = xa.code → fld f 0 8 = xb.code → decLr3q f mk = .ok (mk vd xa xb) := by
    intro f hf0 hf1 hf2
    simp [decLr3q, hf0, hf1, hf2]
  have hf0 : fld (encLr3q vd xa xb) 16 7 = vd.val := by simp only [encLr3q, fld]; omega
  have hf1 : fld (encLr3q vd xa xb) 8 8 = xa.code := by simp only [encLr3q, fld]; omega
  have hf2 : fld (encLr3q vd xa xb) 0 8 = xb.code := by simp only [encLr3q, fld]; omega
  exact h _ hf0 hf1 hf2

theorem encLr3d_lt (vd : Fin 128) (xa xb : Src) : (encLr3d vd xa xb) < 2 ^ 23 := by
  have hb0 := vd.isLt
  have hb1 := xa.code_lt
  have hb2 := xb.code_lt
  simp only [encLr3d]
  omega

theorem decLr3d_enc (vd : Fin 128) (xa xb : Src) (mk : Fin 128 → Src → Src → Instr) :
    decLr3d (encLr3d vd xa xb) mk = .ok (mk vd xa xb) := by
  have hb0 := vd.isLt
  have hb1 := xa.code_lt
  have hb2 := xb.code_lt
  have h : ∀ f, fld f 16 7 = vd.val → fld f 8 8 = xa.code → fld f 0 8 = xb.code → decLr3d f mk = .ok (mk vd xa xb) := by
    intro f hf0 hf1 hf2
    simp [decLr3d, hf0, hf1, hf2]
  have hf0 : fld (encLr3d vd xa xb) 16 7 = vd.val := by simp only [encLr3d, fld]; omega
  have hf1 : fld (encLr3d vd xa xb) 8 8 = xa.code := by simp only [encLr3d, fld]; omega
  have hf2 : fld (encLr3d vd xa xb) 0 8 = xb.code := by simp only [encLr3d, fld]; omega
  exact h _ hf0 hf1 hf2

theorem encLr2_lt (vd : Fin 128) (xa : Src) : (encLr2 vd xa) < 2 ^ 23 := by
  have hb0 := vd.isLt
  have hb1 := xa.code_lt
  simp only [encLr2]
  omega

theorem decLr2_enc (vd : Fin 128) (xa : Src) (mk : Fin 128 → Src → Instr) :
    decLr2 (encLr2 vd xa) mk = .ok (mk vd xa) := by
  have hb0 := vd.isLt
  have hb1 := xa.code_lt
  have h : ∀ f, fld f 16 7 = vd.val → fld f 8 8 = xa.code → fld f 0 8 = 0 → decLr2 f mk = .ok (mk vd xa) := by
    intro f hf0 hf1 hz0
    simp [decLr2, hf0, hf1, hz0]
  have hf0 : fld (encLr2 vd xa) 16 7 = vd.val := by simp only [encLr2, fld]; omega
  have hf1 : fld (encLr2 vd xa) 8 8 = xa.code := by simp only [encLr2, fld]; omega
  have hz0 : fld (encLr2 vd xa) 0 8 = 0 := by simp only [encLr2, fld]; omega
  exact h _ hf0 hf1 hz0

theorem encLi_lt (vd : Fin 128) (xa : Src) (imm : BitVec 8) : (encLi vd xa imm) < 2 ^ 23 := by
  have hb0 := vd.isLt
  have hb1 := xa.code_lt
  have hb2 := imm.isLt
  simp only [encLi]
  omega

theorem decLi_enc (vd : Fin 128) (xa : Src) (imm : BitVec 8) (mk : Fin 128 → Src → BitVec 8 → Instr) :
    decLi (encLi vd xa imm) mk = .ok (mk vd xa imm) := by
  have hb0 := vd.isLt
  have hb1 := xa.code_lt
  have hb2 := imm.isLt
  have h : ∀ f, fld f 16 7 = vd.val → fld f 8 8 = xa.code → fld f 0 8 = imm.toNat → decLi f mk = .ok (mk vd xa imm) := by
    intro f hf0 hf1 hf2
    simp [decLi, hf0, hf1, hf2]
  have hf0 : fld (encLi vd xa imm) 16 7 = vd.val := by simp only [encLi, fld]; omega
  have hf1 : fld (encLi vd xa imm) 8 8 = xa.code := by simp only [encLi, fld]; omega
  have hf2 : fld (encLi vd xa imm) 0 8 = imm.toNat := by simp only [encLi, fld]; omega
  exact h _ hf0 hf1 hf2

theorem encLiq_lt (vd : Fin 128) (xa : Src) (imm : BitVec 8) : (encLiq vd xa imm) < 2 ^ 23 := by
  have hb0 := vd.isLt
  have hb1 := xa.code_lt
  have hb2 := imm.isLt
  simp only [encLiq]
  omega

theorem decLiq_enc (vd : Fin 128) (xa : Src) (imm : BitVec 8) (mk : Fin 128 → Src → BitVec 8 → Instr) :
    decLiq (encLiq vd xa imm) mk = .ok (mk vd xa imm) := by
  have hb0 := vd.isLt
  have hb1 := xa.code_lt
  have hb2 := imm.isLt
  have h : ∀ f, fld f 16 7 = vd.val → fld f 8 8 = xa.code → fld f 0 8 = imm.toNat → decLiq f mk = .ok (mk vd xa imm) := by
    intro f hf0 hf1 hf2
    simp [decLiq, hf0, hf1, hf2]
  have hf0 : fld (encLiq vd xa imm) 16 7 = vd.val := by simp only [encLiq, fld]; omega
  have hf1 : fld (encLiq vd xa imm) 8 8 = xa.code := by simp only [encLiq, fld]; omega
  have hf2 : fld (encLiq vd xa imm) 0 8 = imm.toNat := by simp only [encLiq, fld]; omega
  exact h _ hf0 hf1 hf2

theorem encLip_lt (vd va : Fin 128) (imm : BitVec 8) : (encLip vd va imm) < 2 ^ 23 := by
  have hb0 := vd.isLt
  have hb1 := va.isLt
  have hb2 := imm.isLt
  simp only [encLip]
  omega

theorem decLip_enc (vd va : Fin 128) (imm : BitVec 8) (mk : Fin 128 → Fin 128 → BitVec 8 → Instr) :
    decLip (encLip vd va imm) mk = .ok (mk vd va imm) := by
  have hb0 := vd.isLt
  have hb1 := va.isLt
  have hb2 := imm.isLt
  have h : ∀ f, fld f 16 7 = vd.val → fld f 15 1 = 0 → fld f 8 7 = va.val → fld f 0 8 = imm.toNat →
      decLip f mk = .ok (mk vd va imm) := by
    intro f hf0 hf hf1 hf2
    simp [decLip, hf0, hf, hf1, hf2]
  have hf0 : fld (encLip vd va imm) 16 7 = vd.val := by simp only [encLip, fld]; omega
  have hf : fld (encLip vd va imm) 15 1 = 0 := by simp only [encLip, fld]; omega
  have hf1 : fld (encLip vd va imm) 8 7 = va.val := by simp only [encLip, fld]; omega
  have hf2 : fld (encLip vd va imm) 0 8 = imm.toNat := by simp only [encLip, fld]; omega
  exact h _ hf0 hf hf1 hf2

theorem encLm_lt (vd : Fin 128) (imm : BitVec 16) : (encLm vd imm) < 2 ^ 23 := by
  have hb0 := vd.isLt
  have hb1 := imm.isLt
  simp only [encLm]
  omega

theorem decLm_enc (vd : Fin 128) (imm : BitVec 16) (mk : Fin 128 → BitVec 16 → Instr) :
    decLm (encLm vd imm) mk = .ok (mk vd imm) := by
  have hb0 := vd.isLt
  have hb1 := imm.isLt
  have h : ∀ f, fld f 16 7 = vd.val → fld f 0 16 = imm.toNat → decLm f mk = .ok (mk vd imm) := by
    intro f hf0 hf1
    simp [decLm, hf0, hf1]
  have hf0 : fld (encLm vd imm) 16 7 = vd.val := by simp only [encLm, fld]; omega
  have hf1 : fld (encLm vd imm) 0 16 = imm.toNat := by simp only [encLm, fld]; omega
  exact h _ hf0 hf1

theorem encMovs_lt (vd : Fin 128) (idx : BitVec 8) : (encMovs vd idx) < 2 ^ 23 := by
  have hb0 := vd.isLt
  have hb1 := idx.isLt
  simp only [encMovs]
  omega

theorem decMovs_enc (vd : Fin 128) (idx : BitVec 8) (mk : Fin 128 → BitVec 8 → Instr) :
    decMovs (encMovs vd idx) mk = .ok (mk vd idx) := by
  have hb0 := vd.isLt
  have hb1 := idx.isLt
  have h : ∀ f, fld f 16 7 = vd.val → fld f 8 8 = idx.toNat → fld f 0 8 = 0 → decMovs f mk = .ok (mk vd idx) := by
    intro f hf0 hf1 hz0
    simp [decMovs, hf0, hf1, hz0]
  have hf0 : fld (encMovs vd idx) 16 7 = vd.val := by simp only [encMovs, fld]; omega
  have hf1 : fld (encMovs vd idx) 8 8 = idx.toNat := by simp only [encMovs, fld]; omega
  have hz0 : fld (encMovs vd idx) 0 8 = 0 := by simp only [encMovs, fld]; omega
  exact h _ hf0 hf1 hz0

theorem encIcmp_lt (cc : ICond) (kd : Fin 8) (xa xb : Src) : (encIcmp cc kd xa xb) < 2 ^ 23 := by
  have hb0 := cc.code_lt
  have hb1 := kd.isLt
  have hb2 := xa.code_lt
  have hb3 := xb.code_lt
  simp only [encIcmp]
  omega

theorem decIcmp_enc (cc : ICond) (kd : Fin 8) (xa xb : Src) (mk : ICond → Fin 8 → Src → Src → Instr) :
    decIcmp (encIcmp cc kd xa xb) mk = .ok (mk cc kd xa xb) := by
  have hb0 := cc.code_lt
  have hb1 := kd.isLt
  have hb2 := xa.code_lt
  have hb3 := xb.code_lt
  have h : ∀ f, fld f 19 4 = cc.code → fld f 16 3 = kd.val → fld f 8 8 = xa.code → fld f 0 8 = xb.code → decIcmp f mk = .ok (mk cc kd xa xb) := by
    intro f hf0 hf1 hf2 hf3
    simp [decIcmp, hf0, hf1, hf2, hf3]
  have hf0 : fld (encIcmp cc kd xa xb) 19 4 = cc.code := by simp only [encIcmp, fld]; omega
  have hf1 : fld (encIcmp cc kd xa xb) 16 3 = kd.val := by simp only [encIcmp, fld]; omega
  have hf2 : fld (encIcmp cc kd xa xb) 8 8 = xa.code := by simp only [encIcmp, fld]; omega
  have hf3 : fld (encIcmp cc kd xa xb) 0 8 = xb.code := by simp only [encIcmp, fld]; omega
  exact h _ hf0 hf1 hf2 hf3

theorem encFcmp_lt (cc : FCond) (kd : Fin 8) (xa xb : Src) : (encFcmp cc kd xa xb) < 2 ^ 23 := by
  have hb0 := cc.code_lt
  have hb1 := kd.isLt
  have hb2 := xa.code_lt
  have hb3 := xb.code_lt
  simp only [encFcmp]
  omega

theorem decFcmp_enc (cc : FCond) (kd : Fin 8) (xa xb : Src) (mk : FCond → Fin 8 → Src → Src → Instr) :
    decFcmp (encFcmp cc kd xa xb) mk = .ok (mk cc kd xa xb) := by
  have hb0 := cc.code_lt
  have hb1 := kd.isLt
  have hb2 := xa.code_lt
  have hb3 := xb.code_lt
  have h : ∀ f, fld f 19 4 = cc.code → fld f 16 3 = kd.val → fld f 8 8 = xa.code → fld f 0 8 = xb.code → decFcmp f mk = .ok (mk cc kd xa xb) := by
    intro f hf0 hf1 hf2 hf3
    simp [decFcmp, hf0, hf1, hf2, hf3]
  have hf0 : fld (encFcmp cc kd xa xb) 19 4 = cc.code := by simp only [encFcmp, fld]; omega
  have hf1 : fld (encFcmp cc kd xa xb) 16 3 = kd.val := by simp only [encFcmp, fld]; omega
  have hf2 : fld (encFcmp cc kd xa xb) 8 8 = xa.code := by simp only [encFcmp, fld]; omega
  have hf3 : fld (encFcmp cc kd xa xb) 0 8 = xb.code := by simp only [encFcmp, fld]; omega
  exact h _ hf0 hf1 hf2 hf3

theorem encKop_lt (fn : Nat) (kd ka kb : Fin 8) (hfn : fn < 2 ^ 4) : (encKop fn kd ka kb) < 2 ^ 23 := by
  have hb0 := kd.isLt
  have hb1 := ka.isLt
  have hb2 := kb.isLt
  simp only [encKop]
  omega

theorem encKop_fn (fn : Nat) (kd ka kb : Fin 8) (hfn : fn < 2 ^ 4) : fld (encKop fn kd ka kb) 19 4 = fn := by
  have hb0 := kd.isLt
  have hb1 := ka.isLt
  have hb2 := kb.isLt
  simp only [encKop, fld]
  omega

theorem decKop_enc (fn : Nat) (kd ka kb : Fin 8) (hfn : fn < 2 ^ 4) (mk : Fin 8 → Fin 8 → Fin 8 → Instr) :
    decKop (encKop fn kd ka kb) mk = .ok (mk kd ka kb) := by
  have hb0 := kd.isLt
  have hb1 := ka.isLt
  have hb2 := kb.isLt
  have h : ∀ f, fld f 16 3 = kd.val → fld f 8 3 = ka.val → fld f 0 3 = kb.val → fld f 11 5 = 0 → fld f 3 5 = 0 → decKop f mk = .ok (mk kd ka kb) := by
    intro f hf0 hf1 hf2 hz0 hz1
    simp [decKop, hf0, hf1, hf2, hz0, hz1]
  have hf0 : fld (encKop fn kd ka kb) 16 3 = kd.val := by simp only [encKop, fld]; omega
  have hf1 : fld (encKop fn kd ka kb) 8 3 = ka.val := by simp only [encKop, fld]; omega
  have hf2 : fld (encKop fn kd ka kb) 0 3 = kb.val := by simp only [encKop, fld]; omega
  have hz0 : fld (encKop fn kd ka kb) 11 5 = 0 := by simp only [encKop, fld]; omega
  have hz1 : fld (encKop fn kd ka kb) 3 5 = 0 := by simp only [encKop, fld]; omega
  exact h _ hf0 hf1 hf2 hz0 hz1

theorem encKnot_lt (fn : Nat) (kd ka : Fin 8) (hfn : fn < 2 ^ 4) : (encKnot fn kd ka) < 2 ^ 23 := by
  have hb0 := kd.isLt
  have hb1 := ka.isLt
  simp only [encKnot]
  omega

theorem encKnot_fn (fn : Nat) (kd ka : Fin 8) (hfn : fn < 2 ^ 4) : fld (encKnot fn kd ka) 19 4 = fn := by
  have hb0 := kd.isLt
  have hb1 := ka.isLt
  simp only [encKnot, fld]
  omega

theorem decKnot_enc (fn : Nat) (kd ka : Fin 8) (hfn : fn < 2 ^ 4) (mk : Fin 8 → Fin 8 → Instr) :
    decKnot (encKnot fn kd ka) mk = .ok (mk kd ka) := by
  have hb0 := kd.isLt
  have hb1 := ka.isLt
  have h : ∀ f, fld f 16 3 = kd.val → fld f 8 3 = ka.val → fld f 11 5 = 0 → fld f 0 8 = 0 → decKnot f mk = .ok (mk kd ka) := by
    intro f hf0 hf1 hz0 hz1
    simp [decKnot, hf0, hf1, hz0, hz1]
  have hf0 : fld (encKnot fn kd ka) 16 3 = kd.val := by simp only [encKnot, fld]; omega
  have hf1 : fld (encKnot fn kd ka) 8 3 = ka.val := by simp only [encKnot, fld]; omega
  have hz0 : fld (encKnot fn kd ka) 11 5 = 0 := by simp only [encKnot, fld]; omega
  have hz1 : fld (encKnot fn kd ka) 0 8 = 0 := by simp only [encKnot, fld]; omega
  exact h _ hf0 hf1 hz0 hz1

theorem encKtov_lt (vd : Fin 128) (ka : Fin 8) : (encKtov vd ka) < 2 ^ 23 := by
  have hb0 := vd.isLt
  have hb1 := ka.isLt
  simp only [encKtov]
  omega

theorem decKtov_enc (vd : Fin 128) (ka : Fin 8) (mk : Fin 128 → Fin 8 → Instr) :
    decKtov (encKtov vd ka) mk = .ok (mk vd ka) := by
  have hb0 := vd.isLt
  have hb1 := ka.isLt
  have h : ∀ f, fld f 16 7 = vd.val → fld f 8 3 = ka.val → fld f 11 5 = 0 → fld f 0 8 = 0 → decKtov f mk = .ok (mk vd ka) := by
    intro f hf0 hf1 hz0 hz1
    simp [decKtov, hf0, hf1, hz0, hz1]
  have hf0 : fld (encKtov vd ka) 16 7 = vd.val := by simp only [encKtov, fld]; omega
  have hf1 : fld (encKtov vd ka) 8 3 = ka.val := by simp only [encKtov, fld]; omega
  have hz0 : fld (encKtov vd ka) 11 5 = 0 := by simp only [encKtov, fld]; omega
  have hz1 : fld (encKtov vd ka) 0 8 = 0 := by simp only [encKtov, fld]; omega
  exact h _ hf0 hf1 hz0 hz1

theorem encVtok_lt (kd : Fin 8) (xa : Src) : (encVtok kd xa) < 2 ^ 23 := by
  have hb0 := kd.isLt
  have hb1 := xa.code_lt
  simp only [encVtok]
  omega

theorem decVtok_enc (kd : Fin 8) (xa : Src) (mk : Fin 8 → Src → Instr) :
    decVtok (encVtok kd xa) mk = .ok (mk kd xa) := by
  have hb0 := kd.isLt
  have hb1 := xa.code_lt
  have h : ∀ f, fld f 16 3 = kd.val → fld f 8 8 = xa.code → fld f 19 4 = 0 → fld f 0 8 = 0 → decVtok f mk = .ok (mk kd xa) := by
    intro f hf0 hf1 hz0 hz1
    simp [decVtok, hf0, hf1, hz0, hz1]
  have hf0 : fld (encVtok kd xa) 16 3 = kd.val := by simp only [encVtok, fld]; omega
  have hf1 : fld (encVtok kd xa) 8 8 = xa.code := by simp only [encVtok, fld]; omega
  have hz0 : fld (encVtok kd xa) 19 4 = 0 := by simp only [encVtok, fld]; omega
  have hz1 : fld (encVtok kd xa) 0 8 = 0 := by simp only [encVtok, fld]; omega
  exact h _ hf0 hf1 hz0 hz1

theorem encFun_lt (vd : Fin 128) (xa : Src) (fn : Nat) (hfn : fn < 2 ^ 8) : (encFun vd xa fn) < 2 ^ 23 := by
  have hb0 := vd.isLt
  have hb1 := xa.code_lt
  simp only [encFun]
  omega

theorem encFun_fn (vd : Fin 128) (xa : Src) (fn : Nat) (hfn : fn < 2 ^ 8) : fld (encFun vd xa fn) 0 8 = fn := by
  have hb0 := vd.isLt
  have hb1 := xa.code_lt
  simp only [encFun, fld]
  omega

theorem decFun_enc (vd : Fin 128) (xa : Src) (fn : Nat) (hfn : fn < 2 ^ 8) (mk : Fin 128 → Src → Instr) :
    decFun (encFun vd xa fn) mk = .ok (mk vd xa) := by
  have hb0 := vd.isLt
  have hb1 := xa.code_lt
  have h : ∀ f, fld f 16 7 = vd.val → fld f 8 8 = xa.code → decFun f mk = .ok (mk vd xa) := by
    intro f hf0 hf1
    simp [decFun, hf0, hf1]
  have hf0 : fld (encFun vd xa fn) 16 7 = vd.val := by simp only [encFun, fld]; omega
  have hf1 : fld (encFun vd xa fn) 8 8 = xa.code := by simp only [encFun, fld]; omega
  exact h _ hf0 hf1

theorem encQpushv_lt (q : Fin 16) (vd : Fin 128) : (encQpushv q vd) < 2 ^ 23 := by
  have hb0 := q.isLt
  have hb1 := vd.isLt
  simp only [encQpushv]
  omega

theorem decQpushv_enc (q : Fin 16) (vd : Fin 128) (mk : Fin 16 → Fin 128 → Instr) :
    decQpushv (encQpushv q vd) mk = .ok (mk q vd) := by
  have hb0 := q.isLt
  have hb1 := vd.isLt
  have h : ∀ f, fld f 0 4 = q.val → fld f 16 7 = vd.val → fld f 8 8 = 0 → fld f 4 4 = 0 → decQpushv f mk = .ok (mk q vd) := by
    intro f hf0 hf1 hz0 hz1
    simp [decQpushv, hf0, hf1, hz0, hz1]
  have hf0 : fld (encQpushv q vd) 0 4 = q.val := by simp only [encQpushv, fld]; omega
  have hf1 : fld (encQpushv q vd) 16 7 = vd.val := by simp only [encQpushv, fld]; omega
  have hz0 : fld (encQpushv q vd) 8 8 = 0 := by simp only [encQpushv, fld]; omega
  have hz1 : fld (encQpushv q vd) 4 4 = 0 := by simp only [encQpushv, fld]; omega
  exact h _ hf0 hf1 hz0 hz1

theorem encQpopv_lt (vd : Fin 128) (q : Fin 16) : (encQpopv vd q) < 2 ^ 23 := by
  have hb0 := vd.isLt
  have hb1 := q.isLt
  simp only [encQpopv]
  omega

theorem decQpopv_enc (vd : Fin 128) (q : Fin 16) (mk : Fin 128 → Fin 16 → Instr) :
    decQpopv (encQpopv vd q) mk = .ok (mk vd q) := by
  have hb0 := vd.isLt
  have hb1 := q.isLt
  have h : ∀ f, fld f 16 7 = vd.val → fld f 0 4 = q.val → fld f 8 8 = 0 → fld f 4 4 = 0 → decQpopv f mk = .ok (mk vd q) := by
    intro f hf0 hf1 hz0 hz1
    simp [decQpopv, hf0, hf1, hz0, hz1]
  have hf0 : fld (encQpopv vd q) 16 7 = vd.val := by simp only [encQpopv, fld]; omega
  have hf1 : fld (encQpopv vd q) 0 4 = q.val := by simp only [encQpopv, fld]; omega
  have hz0 : fld (encQpopv vd q) 8 8 = 0 := by simp only [encQpopv, fld]; omega
  have hz1 : fld (encQpopv vd q) 4 4 = 0 := by simp only [encQpopv, fld]; omega
  exact h _ hf0 hf1 hz0 hz1

theorem encMxstr_lt (tile : Fin 8) (xa : Src) (vd : Fin 128) (bsel : BitVec 2) (q8 zf : Bool) : (encMxstr tile xa vd bsel q8 zf) < 2 ^ 23 := by
  have hb0 := tile.isLt
  have hb1 := xa.code_lt
  have hb2 := vd.isLt
  have hb3 := bsel.isLt
  have hb4 := Bool.toNat_lt q8
  have hb5 := Bool.toNat_lt zf
  simp only [encMxstr]
  omega

theorem decMxstr_enc (tile : Fin 8) (xa : Src) (vd : Fin 128) (bsel : BitVec 2) (q8 zf : Bool) (mk : Fin 8 → Src → Fin 128 → BitVec 2 → Bool → Bool → Instr) :
    decMxstr (encMxstr tile xa vd bsel q8 zf) mk = .ok (mk tile xa vd bsel q8 zf) := by
  have hb0 := tile.isLt
  have hb1 := xa.code_lt
  have hb2 := vd.isLt
  have hb3 := bsel.isLt
  have hb4 := Bool.toNat_lt q8
  have hb5 := Bool.toNat_lt zf
  have h : ∀ f, fld f 0 3 = tile.val → fld f 8 8 = xa.code → fld f 16 7 = vd.val → fld f 3 2 = bsel.toNat → fld f 5 1 = q8.toNat → fld f 6 1 = zf.toNat → fld f 7 1 = 0 → decMxstr f mk = .ok (mk tile xa vd bsel q8 zf) := by
    intro f hf0 hf1 hf2 hf3 hf4 hf5 hz0
    simp [decMxstr, hf0, hf1, hf2, hf3, hf4, hf5, hz0]
  have hf0 : fld (encMxstr tile xa vd bsel q8 zf) 0 3 = tile.val := by simp only [encMxstr, fld]; omega
  have hf1 : fld (encMxstr tile xa vd bsel q8 zf) 8 8 = xa.code := by simp only [encMxstr, fld]; omega
  have hf2 : fld (encMxstr tile xa vd bsel q8 zf) 16 7 = vd.val := by simp only [encMxstr, fld]; omega
  have hf3 : fld (encMxstr tile xa vd bsel q8 zf) 3 2 = bsel.toNat := by simp only [encMxstr, fld]; omega
  have hf4 : fld (encMxstr tile xa vd bsel q8 zf) 5 1 = q8.toNat := by simp only [encMxstr, fld]; omega
  have hf5 : fld (encMxstr tile xa vd bsel q8 zf) 6 1 = zf.toNat := by simp only [encMxstr, fld]; omega
  have hz0 : fld (encMxstr tile xa vd bsel q8 zf) 7 1 = 0 := by simp only [encMxstr, fld]; omega
  exact h _ hf0 hf1 hf2 hf3 hf4 hf5 hz0

theorem encCvt_lt (conv : Conv) (mode : RMode) (inf : Bool) (vd : Fin 128) (xa : Src) : (encCvt conv mode inf vd xa) < 2 ^ 23 := by
  have hb0 := conv.code_lt
  have hb1 := mode.code_lt
  have hb2 := Bool.toNat_lt inf
  have hb3 := vd.isLt
  have hb4 := xa.code_lt
  simp only [encCvt]
  omega

theorem decCvt_enc (conv : Conv) (mode : RMode) (inf : Bool) (vd : Fin 128) (xa : Src) (mk : Conv → RMode → Bool → Fin 128 → Src → Instr) :
    decCvt (encCvt conv mode inf vd xa) mk = .ok (mk conv mode inf vd xa) := by
  have hb0 := conv.code_lt
  have hb1 := mode.code_lt
  have hb2 := Bool.toNat_lt inf
  have hb3 := vd.isLt
  have hb4 := xa.code_lt
  have h : ∀ f, fld f 0 4 = conv.code → fld f 4 2 = mode.code → fld f 6 1 = inf.toNat → fld f 16 7 = vd.val → fld f 8 8 = xa.code → fld f 7 1 = 0 → decCvt f mk = .ok (mk conv mode inf vd xa) := by
    intro f hf0 hf1 hf2 hf3 hf4 hz0
    simp [decCvt, hf0, hf1, hf2, hf3, hf4, hz0]
  have hf0 : fld (encCvt conv mode inf vd xa) 0 4 = conv.code := by simp only [encCvt, fld]; omega
  have hf1 : fld (encCvt conv mode inf vd xa) 4 2 = mode.code := by simp only [encCvt, fld]; omega
  have hf2 : fld (encCvt conv mode inf vd xa) 6 1 = inf.toNat := by simp only [encCvt, fld]; omega
  have hf3 : fld (encCvt conv mode inf vd xa) 16 7 = vd.val := by simp only [encCvt, fld]; omega
  have hf4 : fld (encCvt conv mode inf vd xa) 8 8 = xa.code := by simp only [encCvt, fld]; omega
  have hz0 : fld (encCvt conv mode inf vd xa) 7 1 = 0 := by simp only [encCvt, fld]; omega
  exact h _ hf0 hf1 hf2 hf3 hf4 hz0

theorem encSred_lt (op : RedOp) (vd : Fin 128) (xa : Src) : (encSred op vd xa) < 2 ^ 23 := by
  have hb0 := op.code_lt
  have hb1 := vd.isLt
  have hb2 := xa.code_lt
  simp only [encSred]
  omega

theorem decSred_enc (op : RedOp) (vd : Fin 128) (xa : Src) (mk : RedOp → Fin 128 → Src → Instr) :
    decSred (encSred op vd xa) mk = .ok (mk op vd xa) := by
  have hb0 := op.code_lt
  have hb1 := vd.isLt
  have hb2 := xa.code_lt
  have h : ∀ f, fld f 0 4 = op.code → fld f 16 7 = vd.val → fld f 8 8 = xa.code → fld f 4 4 = 0 → decSred f mk = .ok (mk op vd xa) := by
    intro f hf0 hf1 hf2 hz0
    simp [decSred, hf0, hf1, hf2, hz0]
  have hf0 : fld (encSred op vd xa) 0 4 = op.code := by simp only [encSred, fld]; omega
  have hf1 : fld (encSred op vd xa) 16 7 = vd.val := by simp only [encSred, fld]; omega
  have hf2 : fld (encSred op vd xa) 8 8 = xa.code := by simp only [encSred, fld]; omega
  have hz0 : fld (encSred op vd xa) 4 4 = 0 := by simp only [encSred, fld]; omega
  exact h _ hf0 hf1 hf2 hz0

theorem encSscan_lt (op : RedOp) (excl : Bool) (vd : Fin 128) (xa : Src) : (encSscan op excl vd xa) < 2 ^ 23 := by
  have hb0 := op.code_lt
  have hb1 := Bool.toNat_lt excl
  have hb2 := vd.isLt
  have hb3 := xa.code_lt
  simp only [encSscan]
  omega

theorem decSscan_enc (op : RedOp) (excl : Bool) (vd : Fin 128) (xa : Src) (mk : RedOp → Bool → Fin 128 → Src → Instr) :
    decSscan (encSscan op excl vd xa) mk = .ok (mk op excl vd xa) := by
  have hb0 := op.code_lt
  have hb1 := Bool.toNat_lt excl
  have hb2 := vd.isLt
  have hb3 := xa.code_lt
  have h : ∀ f, fld f 0 4 = op.code → fld f 4 1 = excl.toNat → fld f 16 7 = vd.val → fld f 8 8 = xa.code → fld f 5 3 = 0 → decSscan f mk = .ok (mk op excl vd xa) := by
    intro f hf0 hf1 hf2 hf3 hz0
    simp [decSscan, hf0, hf1, hf2, hf3, hz0]
  have hf0 : fld (encSscan op excl vd xa) 0 4 = op.code := by simp only [encSscan, fld]; omega
  have hf1 : fld (encSscan op excl vd xa) 4 1 = excl.toNat := by simp only [encSscan, fld]; omega
  have hf2 : fld (encSscan op excl vd xa) 16 7 = vd.val := by simp only [encSscan, fld]; omega
  have hf3 : fld (encSscan op excl vd xa) 8 8 = xa.code := by simp only [encSscan, fld]; omega
  have hz0 : fld (encSscan op excl vd xa) 5 3 = 0 := by simp only [encSscan, fld]; omega
  exact h _ hf0 hf1 hf2 hf3 hz0

theorem encMem_lt (vd : Fin 128) (xa : Src) (xb : Base) : (encMem vd xa xb) < 2 ^ 23 := by
  have hb0 := vd.isLt
  have hb1 := xa.code_lt
  have hb2 := xb.code_lt
  simp only [encMem]
  omega

theorem decMem_enc (vd : Fin 128) (xa : Src) (xb : Base) (mk : Fin 128 → Src → Base → Instr) :
    decMem (encMem vd xa xb) mk = .ok (mk vd xa xb) := by
  have hb0 := vd.isLt
  have hb1 := xa.code_lt
  have hb2 := xb.code_lt
  have h : ∀ f, fld f 16 7 = vd.val → fld f 8 8 = xa.code → fld f 0 8 = xb.code → decMem f mk = .ok (mk vd xa xb) := by
    intro f hf0 hf1 hf2
    simp [decMem, hf0, hf1, hf2]
  have hf0 : fld (encMem vd xa xb) 16 7 = vd.val := by simp only [encMem, fld]; omega
  have hf1 : fld (encMem vd xa xb) 8 8 = xa.code := by simp only [encMem, fld]; omega
  have hf2 : fld (encMem vd xa xb) 0 8 = xb.code := by simp only [encMem, fld]; omega
  exact h _ hf0 hf1 hf2

theorem encMemq_lt (vd : Fin 128) (xa : Src) (xb : Base) : (encMemq vd xa xb) < 2 ^ 23 := by
  have hb0 := vd.isLt
  have hb1 := xa.code_lt
  have hb2 := xb.code_lt
  simp only [encMemq]
  omega

theorem decMemq_enc (vd : Fin 128) (xa : Src) (xb : Base) (mk : Fin 128 → Src → Base → Instr) :
    decMemq (encMemq vd xa xb) mk = .ok (mk vd xa xb) := by
  have hb0 := vd.isLt
  have hb1 := xa.code_lt
  have hb2 := xb.code_lt
  have h : ∀ f, fld f 16 7 = vd.val → fld f 8 8 = xa.code → fld f 0 8 = xb.code → decMemq f mk = .ok (mk vd xa xb) := by
    intro f hf0 hf1 hf2
    simp [decMemq, hf0, hf1, hf2]
  have hf0 : fld (encMemq vd xa xb) 16 7 = vd.val := by simp only [encMemq, fld]; omega
  have hf1 : fld (encMemq vd xa xb) 8 8 = xa.code := by simp only [encMemq, fld]; omega
  have hf2 : fld (encMemq vd xa xb) 0 8 = xb.code := by simp only [encMemq, fld]; omega
  exact h _ hf0 hf1 hf2

theorem encMemd_lt (vd : Fin 128) (xa : Src) (xb : Base) : (encMemd vd xa xb) < 2 ^ 23 := by
  have hb0 := vd.isLt
  have hb1 := xa.code_lt
  have hb2 := xb.code_lt
  simp only [encMemd]
  omega

theorem decMemd_enc (vd : Fin 128) (xa : Src) (xb : Base) (mk : Fin 128 → Src → Base → Instr) :
    decMemd (encMemd vd xa xb) mk = .ok (mk vd xa xb) := by
  have hb0 := vd.isLt
  have hb1 := xa.code_lt
  have hb2 := xb.code_lt
  have h : ∀ f, fld f 16 7 = vd.val → fld f 8 8 = xa.code → fld f 0 8 = xb.code → decMemd f mk = .ok (mk vd xa xb) := by
    intro f hf0 hf1 hf2
    simp [decMemd, hf0, hf1, hf2]
  have hf0 : fld (encMemd vd xa xb) 16 7 = vd.val := by simp only [encMemd, fld]; omega
  have hf1 : fld (encMemd vd xa xb) 8 8 = xa.code := by simp only [encMemd, fld]; omega
  have hf2 : fld (encMemd vd xa xb) 0 8 = xb.code := by simp only [encMemd, fld]; omega
  exact h _ hf0 hf1 hf2

theorem encBr_lt (k : Fin 8) (off : BitVec 20) : (encBr k off) < 2 ^ 23 := by
  have hb0 := k.isLt
  have hb1 := off.isLt
  simp only [encBr]
  omega

theorem decBr_enc (k : Fin 8) (off : BitVec 20) (mk : Fin 8 → BitVec 20 → Instr) :
    decBr (encBr k off) mk = .ok (mk k off) := by
  have hb0 := k.isLt
  have hb1 := off.isLt
  have h : ∀ f, fld f 20 3 = k.val → fld f 0 20 = off.toNat → decBr f mk = .ok (mk k off) := by
    intro f hf0 hf1
    simp [decBr, hf0, hf1]
  have hf0 : fld (encBr k off) 20 3 = k.val := by simp only [encBr, fld]; omega
  have hf1 : fld (encBr k off) 0 20 = off.toNat := by simp only [encBr, fld]; omega
  exact h _ hf0 hf1

theorem encJmp_lt (off : BitVec 20) : (encJmp off) < 2 ^ 23 := by
  have hb0 := off.isLt
  simp only [encJmp]
  omega

theorem decJmp_enc (off : BitVec 20) (mk : BitVec 20 → Instr) :
    decJmp (encJmp off) mk = .ok (mk off) := by
  have hb0 := off.isLt
  have h : ∀ f, fld f 0 20 = off.toNat → fld f 20 3 = 0 → decJmp f mk = .ok (mk off) := by
    intro f hf0 hz0
    simp [decJmp, hf0, hz0]
  have hf0 : fld (encJmp off) 0 20 = off.toNat := by simp only [encJmp, fld]; omega
  have hz0 : fld (encJmp off) 20 3 = 0 := by simp only [encJmp, fld]; omega
  exact h _ hf0 hz0

theorem encCtl0_lt (fn : Nat) (hfn : fn < 2 ^ 8) : (encCtl0 fn) < 2 ^ 23 := by
  simp only [encCtl0]
  omega

theorem encCtl0_fn (fn : Nat) (hfn : fn < 2 ^ 8) : fld (encCtl0 fn) 0 8 = fn := by
  simp only [encCtl0, fld]
  omega

theorem decCtl0_enc (fn : Nat) (hfn : fn < 2 ^ 8) (mk : Instr) :
    decCtl0 (encCtl0 fn) mk = .ok (mk) := by
  have h : ∀ f, fld f 16 7 = 0 → fld f 8 8 = 0 → decCtl0 f mk = .ok (mk) := by
    intro f hz0 hz1
    simp [decCtl0, hz0, hz1]
  have hz0 : fld (encCtl0 fn) 16 7 = 0 := by simp only [encCtl0, fld]; omega
  have hz1 : fld (encCtl0 fn) 8 8 = 0 := by simp only [encCtl0, fld]; omega
  exact h _ hz0 hz1

theorem encCtla_lt (xa : Src) (fn : Nat) (hfn : fn < 2 ^ 8) : (encCtla xa fn) < 2 ^ 23 := by
  have hb0 := xa.code_lt
  simp only [encCtla]
  omega

theorem encCtla_fn (xa : Src) (fn : Nat) (hfn : fn < 2 ^ 8) : fld (encCtla xa fn) 0 8 = fn := by
  have hb0 := xa.code_lt
  simp only [encCtla, fld]
  omega

theorem decCtla_enc (xa : Src) (fn : Nat) (hfn : fn < 2 ^ 8) (mk : Src → Instr) :
    decCtla (encCtla xa fn) mk = .ok (mk xa) := by
  have hb0 := xa.code_lt
  have h : ∀ f, fld f 8 8 = xa.code → fld f 16 7 = 0 → decCtla f mk = .ok (mk xa) := by
    intro f hf0 hz0
    simp [decCtla, hf0, hz0]
  have hf0 : fld (encCtla xa fn) 8 8 = xa.code := by simp only [encCtla, fld]; omega
  have hz0 : fld (encCtla xa fn) 16 7 = 0 := by simp only [encCtla, fld]; omega
  exact h _ hf0 hz0

theorem encFrame_lt (n : BitVec 8) (fn : Nat) (hfn : fn < 2 ^ 8) : (encFrame n fn) < 2 ^ 23 := by
  have hb0 := n.isLt
  simp only [encFrame]
  omega

theorem encFrame_fn (n : BitVec 8) (fn : Nat) (hfn : fn < 2 ^ 8) : fld (encFrame n fn) 0 8 = fn := by
  have hb0 := n.isLt
  simp only [encFrame, fld]
  omega

theorem decFrame_enc (n : BitVec 8) (fn : Nat) (hfn : fn < 2 ^ 8) (mk : BitVec 8 → Instr) :
    decFrame (encFrame n fn) mk = .ok (mk n) := by
  have hb0 := n.isLt
  have h : ∀ f, fld f 8 8 = n.toNat → fld f 16 7 = 0 → decFrame f mk = .ok (mk n) := by
    intro f hf0 hz0
    simp [decFrame, hf0, hz0]
  have hf0 : fld (encFrame n fn) 8 8 = n.toNat := by simp only [encFrame, fld]; omega
  have hz0 : fld (encFrame n fn) 16 7 = 0 := by simp only [encFrame, fld]; omega
  exact h _ hf0 hz0

theorem encUr3_lt (sd sa sb : Fin 64) : (encUr3 sd sa sb) < 2 ^ 23 := by
  have hb0 := sd.isLt
  have hb1 := sa.isLt
  have hb2 := sb.isLt
  simp only [encUr3]
  omega

theorem decUr3_enc (sd sa sb : Fin 64) (mk : Fin 64 → Fin 64 → Fin 64 → Instr) :
    decUr3 (encUr3 sd sa sb) mk = .ok (mk sd sa sb) := by
  have hb0 := sd.isLt
  have hb1 := sa.isLt
  have hb2 := sb.isLt
  have h : ∀ f, fld f 17 6 = sd.val → fld f 11 6 = sa.val → fld f 0 6 = sb.val → fld f 6 5 = 0 → decUr3 f mk = .ok (mk sd sa sb) := by
    intro f hf0 hf1 hf2 hz0
    simp [decUr3, hf0, hf1, hf2, hz0]
  have hf0 : fld (encUr3 sd sa sb) 17 6 = sd.val := by simp only [encUr3, fld]; omega
  have hf1 : fld (encUr3 sd sa sb) 11 6 = sa.val := by simp only [encUr3, fld]; omega
  have hf2 : fld (encUr3 sd sa sb) 0 6 = sb.val := by simp only [encUr3, fld]; omega
  have hz0 : fld (encUr3 sd sa sb) 6 5 = 0 := by simp only [encUr3, fld]; omega
  exact h _ hf0 hf1 hf2 hz0

theorem encUr3q_lt (sd sa sb : Fin 64) : (encUr3q sd sa sb) < 2 ^ 23 := by
  have hb0 := sd.isLt
  have hb1 := sa.isLt
  have hb2 := sb.isLt
  simp only [encUr3q]
  omega

theorem decUr3q_enc (sd sa sb : Fin 64) (mk : Fin 64 → Fin 64 → Fin 64 → Instr) :
    decUr3q (encUr3q sd sa sb) mk = .ok (mk sd sa sb) := by
  have hb0 := sd.isLt
  have hb1 := sa.isLt
  have hb2 := sb.isLt
  have h : ∀ f, fld f 17 6 = sd.val → fld f 11 6 = sa.val → fld f 0 6 = sb.val → fld f 6 5 = 0 → decUr3q f mk = .ok (mk sd sa sb) := by
    intro f hf0 hf1 hf2 hz0
    simp [decUr3q, hf0, hf1, hf2, hz0]
  have hf0 : fld (encUr3q sd sa sb) 17 6 = sd.val := by simp only [encUr3q, fld]; omega
  have hf1 : fld (encUr3q sd sa sb) 11 6 = sa.val := by simp only [encUr3q, fld]; omega
  have hf2 : fld (encUr3q sd sa sb) 0 6 = sb.val := by simp only [encUr3q, fld]; omega
  have hz0 : fld (encUr3q sd sa sb) 6 5 = 0 := by simp only [encUr3q, fld]; omega
  exact h _ hf0 hf1 hf2 hz0

theorem encUr2_lt (sd sa : Fin 64) : (encUr2 sd sa) < 2 ^ 23 := by
  have hb0 := sd.isLt
  have hb1 := sa.isLt
  simp only [encUr2]
  omega

theorem decUr2_enc (sd sa : Fin 64) (mk : Fin 64 → Fin 64 → Instr) :
    decUr2 (encUr2 sd sa) mk = .ok (mk sd sa) := by
  have hb0 := sd.isLt
  have hb1 := sa.isLt
  have h : ∀ f, fld f 17 6 = sd.val → fld f 11 6 = sa.val → fld f 0 11 = 0 → decUr2 f mk = .ok (mk sd sa) := by
    intro f hf0 hf1 hz0
    simp [decUr2, hf0, hf1, hz0]
  have hf0 : fld (encUr2 sd sa) 17 6 = sd.val := by simp only [encUr2, fld]; omega
  have hf1 : fld (encUr2 sd sa) 11 6 = sa.val := by simp only [encUr2, fld]; omega
  have hz0 : fld (encUr2 sd sa) 0 11 = 0 := by simp only [encUr2, fld]; omega
  exact h _ hf0 hf1 hz0

theorem encUi_lt (sd sa : Fin 64) (imm : BitVec 11) : (encUi sd sa imm) < 2 ^ 23 := by
  have hb0 := sd.isLt
  have hb1 := sa.isLt
  have hb2 := imm.isLt
  simp only [encUi]
  omega

theorem decUi_enc (sd sa : Fin 64) (imm : BitVec 11) (mk : Fin 64 → Fin 64 → BitVec 11 → Instr) :
    decUi (encUi sd sa imm) mk = .ok (mk sd sa imm) := by
  have hb0 := sd.isLt
  have hb1 := sa.isLt
  have hb2 := imm.isLt
  have h : ∀ f, fld f 17 6 = sd.val → fld f 11 6 = sa.val → fld f 0 11 = imm.toNat → decUi f mk = .ok (mk sd sa imm) := by
    intro f hf0 hf1 hf2
    simp [decUi, hf0, hf1, hf2]
  have hf0 : fld (encUi sd sa imm) 17 6 = sd.val := by simp only [encUi, fld]; omega
  have hf1 : fld (encUi sd sa imm) 11 6 = sa.val := by simp only [encUi, fld]; omega
  have hf2 : fld (encUi sd sa imm) 0 11 = imm.toNat := by simp only [encUi, fld]; omega
  exact h _ hf0 hf1 hf2

theorem encUiq_lt (sd sa : Fin 64) (imm : BitVec 11) : (encUiq sd sa imm) < 2 ^ 23 := by
  have hb0 := sd.isLt
  have hb1 := sa.isLt
  have hb2 := imm.isLt
  simp only [encUiq]
  omega

theorem decUiq_enc (sd sa : Fin 64) (imm : BitVec 11) (mk : Fin 64 → Fin 64 → BitVec 11 → Instr) :
    decUiq (encUiq sd sa imm) mk = .ok (mk sd sa imm) := by
  have hb0 := sd.isLt
  have hb1 := sa.isLt
  have hb2 := imm.isLt
  have h : ∀ f, fld f 17 6 = sd.val → fld f 11 6 = sa.val → fld f 0 11 = imm.toNat → decUiq f mk = .ok (mk sd sa imm) := by
    intro f hf0 hf1 hf2
    simp [decUiq, hf0, hf1, hf2]
  have hf0 : fld (encUiq sd sa imm) 17 6 = sd.val := by simp only [encUiq, fld]; omega
  have hf1 : fld (encUiq sd sa imm) 11 6 = sa.val := by simp only [encUiq, fld]; omega
  have hf2 : fld (encUiq sd sa imm) 0 11 = imm.toNat := by simp only [encUiq, fld]; omega
  exact h _ hf0 hf1 hf2

theorem encUia_lt (sd sa : Fin 64) (imm : BitVec 11) : (encUia sd sa imm) < 2 ^ 23 := by
  have hb0 := sd.isLt
  have hb1 := sa.isLt
  have hb2 := imm.isLt
  simp only [encUia]
  omega

theorem decUia_enc (sd sa : Fin 64) (imm : BitVec 11) (mk : Fin 64 → Fin 64 → BitVec 11 → Instr) :
    decUia (encUia sd sa imm) mk = .ok (mk sd sa imm) := by
  have hb0 := sd.isLt
  have hb1 := sa.isLt
  have hb2 := imm.isLt
  have h : ∀ f, fld f 17 6 = sd.val → fld f 11 6 = sa.val → fld f 0 11 = imm.toNat → decUia f mk = .ok (mk sd sa imm) := by
    intro f hf0 hf1 hf2
    simp [decUia, hf0, hf1, hf2]
  have hf0 : fld (encUia sd sa imm) 17 6 = sd.val := by simp only [encUia, fld]; omega
  have hf1 : fld (encUia sd sa imm) 11 6 = sa.val := by simp only [encUia, fld]; omega
  have hf2 : fld (encUia sd sa imm) 0 11 = imm.toNat := by simp only [encUia, fld]; omega
  exact h _ hf0 hf1 hf2

theorem encUm_lt (sd : Fin 64) (imm : BitVec 16) : (encUm sd imm) < 2 ^ 23 := by
  have hb0 := sd.isLt
  have hb1 := imm.isLt
  simp only [encUm]
  omega

theorem decUm_enc (sd : Fin 64) (imm : BitVec 16) (mk : Fin 64 → BitVec 16 → Instr) :
    decUm (encUm sd imm) mk = .ok (mk sd imm) := by
  have hb0 := sd.isLt
  have hb1 := imm.isLt
  have h : ∀ f, fld f 17 6 = sd.val → fld f 0 16 = imm.toNat → fld f 16 1 = 0 → decUm f mk = .ok (mk sd imm) := by
    intro f hf0 hf1 hz0
    simp [decUm, hf0, hf1, hz0]
  have hf0 : fld (encUm sd imm) 17 6 = sd.val := by simp only [encUm, fld]; omega
  have hf1 : fld (encUm sd imm) 0 16 = imm.toNat := by simp only [encUm, fld]; omega
  have hz0 : fld (encUm sd imm) 16 1 = 0 := by simp only [encUm, fld]; omega
  exact h _ hf0 hf1 hz0

theorem encUrds_lt (sd : Fin 64) (idx : BitVec 8) : (encUrds sd idx) < 2 ^ 23 := by
  have hb0 := sd.isLt
  have hb1 := idx.isLt
  simp only [encUrds]
  omega

theorem decUrds_enc (sd : Fin 64) (idx : BitVec 8) (mk : Fin 64 → BitVec 8 → Instr) :
    decUrds (encUrds sd idx) mk = .ok (mk sd idx) := by
  have hb0 := sd.isLt
  have hb1 := idx.isLt
  have h : ∀ f, fld f 17 6 = sd.val → fld f 0 8 = idx.toNat → fld f 8 3 = 0 → fld f 11 6 = 0 → decUrds f mk = .ok (mk sd idx) := by
    intro f hf0 hf1 hz0 hz1
    simp [decUrds, hf0, hf1, hz0, hz1]
  have hf0 : fld (encUrds sd idx) 17 6 = sd.val := by simp only [encUrds, fld]; omega
  have hf1 : fld (encUrds sd idx) 0 8 = idx.toNat := by simp only [encUrds, fld]; omega
  have hz0 : fld (encUrds sd idx) 8 3 = 0 := by simp only [encUrds, fld]; omega
  have hz1 : fld (encUrds sd idx) 11 6 = 0 := by simp only [encUrds, fld]; omega
  exact h _ hf0 hf1 hz0 hz1

theorem encUcmp_lt (cc : ICond) (jd : Fin 8) (sa sb : Fin 64) : (encUcmp cc jd sa sb) < 2 ^ 23 := by
  have hb0 := cc.code_lt
  have hb1 := jd.isLt
  have hb2 := sa.isLt
  have hb3 := sb.isLt
  simp only [encUcmp]
  omega

theorem decUcmp_enc (cc : ICond) (jd : Fin 8) (sa sb : Fin 64) (mk : ICond → Fin 8 → Fin 64 → Fin 64 → Instr) :
    decUcmp (encUcmp cc jd sa sb) mk = .ok (mk cc jd sa sb) := by
  have hb0 := cc.code_lt
  have hb1 := jd.isLt
  have hb2 := sa.isLt
  have hb3 := sb.isLt
  have h : ∀ f, fld f 6 5 = cc.code → fld f 17 3 = jd.val → fld f 11 6 = sa.val → fld f 0 6 = sb.val → fld f 20 3 = 0 → decUcmp f mk = .ok (mk cc jd sa sb) := by
    intro f hf0 hf1 hf2 hf3 hz0
    simp [decUcmp, hf0, hf1, hf2, hf3, hz0]
  have hf0 : fld (encUcmp cc jd sa sb) 6 5 = cc.code := by simp only [encUcmp, fld]; omega
  have hf1 : fld (encUcmp cc jd sa sb) 17 3 = jd.val := by simp only [encUcmp, fld]; omega
  have hf2 : fld (encUcmp cc jd sa sb) 11 6 = sa.val := by simp only [encUcmp, fld]; omega
  have hf3 : fld (encUcmp cc jd sa sb) 0 6 = sb.val := by simp only [encUcmp, fld]; omega
  have hz0 : fld (encUcmp cc jd sa sb) 20 3 = 0 := by simp only [encUcmp, fld]; omega
  exact h _ hf0 hf1 hf2 hf3 hz0

theorem encJop_lt (fn : Nat) (jd ja jb : Fin 8) (hfn : fn < 2 ^ 5) : (encJop fn jd ja jb) < 2 ^ 23 := by
  have hb0 := jd.isLt
  have hb1 := ja.isLt
  have hb2 := jb.isLt
  simp only [encJop]
  omega

theorem encJop_fn (fn : Nat) (jd ja jb : Fin 8) (hfn : fn < 2 ^ 5) : fld (encJop fn jd ja jb) 6 5 = fn := by
  have hb0 := jd.isLt
  have hb1 := ja.isLt
  have hb2 := jb.isLt
  simp only [encJop, fld]
  omega

theorem decJop_enc (fn : Nat) (jd ja jb : Fin 8) (hfn : fn < 2 ^ 5) (mk : Fin 8 → Fin 8 → Fin 8 → Instr) :
    decJop (encJop fn jd ja jb) mk = .ok (mk jd ja jb) := by
  have hb0 := jd.isLt
  have hb1 := ja.isLt
  have hb2 := jb.isLt
  have h : ∀ f, fld f 17 3 = jd.val → fld f 11 3 = ja.val → fld f 0 3 = jb.val → fld f 20 3 = 0 → fld f 14 3 = 0 → fld f 3 3 = 0 → decJop f mk = .ok (mk jd ja jb) := by
    intro f hf0 hf1 hf2 hz0 hz1 hz2
    simp [decJop, hf0, hf1, hf2, hz0, hz1, hz2]
  have hf0 : fld (encJop fn jd ja jb) 17 3 = jd.val := by simp only [encJop, fld]; omega
  have hf1 : fld (encJop fn jd ja jb) 11 3 = ja.val := by simp only [encJop, fld]; omega
  have hf2 : fld (encJop fn jd ja jb) 0 3 = jb.val := by simp only [encJop, fld]; omega
  have hz0 : fld (encJop fn jd ja jb) 20 3 = 0 := by simp only [encJop, fld]; omega
  have hz1 : fld (encJop fn jd ja jb) 14 3 = 0 := by simp only [encJop, fld]; omega
  have hz2 : fld (encJop fn jd ja jb) 3 3 = 0 := by simp only [encJop, fld]; omega
  exact h _ hf0 hf1 hf2 hz0 hz1 hz2

theorem encJnot_lt (fn : Nat) (jd ja : Fin 8) (hfn : fn < 2 ^ 5) : (encJnot fn jd ja) < 2 ^ 23 := by
  have hb0 := jd.isLt
  have hb1 := ja.isLt
  simp only [encJnot]
  omega

theorem encJnot_fn (fn : Nat) (jd ja : Fin 8) (hfn : fn < 2 ^ 5) : fld (encJnot fn jd ja) 6 5 = fn := by
  have hb0 := jd.isLt
  have hb1 := ja.isLt
  simp only [encJnot, fld]
  omega

theorem decJnot_enc (fn : Nat) (jd ja : Fin 8) (hfn : fn < 2 ^ 5) (mk : Fin 8 → Fin 8 → Instr) :
    decJnot (encJnot fn jd ja) mk = .ok (mk jd ja) := by
  have hb0 := jd.isLt
  have hb1 := ja.isLt
  have h : ∀ f, fld f 17 3 = jd.val → fld f 11 3 = ja.val → fld f 20 3 = 0 → fld f 14 3 = 0 → fld f 0 6 = 0 → decJnot f mk = .ok (mk jd ja) := by
    intro f hf0 hf1 hz0 hz1 hz2
    simp [decJnot, hf0, hf1, hz0, hz1, hz2]
  have hf0 : fld (encJnot fn jd ja) 17 3 = jd.val := by simp only [encJnot, fld]; omega
  have hf1 : fld (encJnot fn jd ja) 11 3 = ja.val := by simp only [encJnot, fld]; omega
  have hz0 : fld (encJnot fn jd ja) 20 3 = 0 := by simp only [encJnot, fld]; omega
  have hz1 : fld (encJnot fn jd ja) 14 3 = 0 := by simp only [encJnot, fld]; omega
  have hz2 : fld (encJnot fn jd ja) 0 6 = 0 := by simp only [encJnot, fld]; omega
  exact h _ hf0 hf1 hz0 hz1 hz2

theorem encUfence_lt (ord : Ord) : (encUfence ord) < 2 ^ 23 := by
  have hb0 := ord.scope.code_lt
  have hb1 := Bool.toNat_lt ord.acq
  have hb2 := Bool.toNat_lt ord.rel
  simp only [encUfence]
  omega

theorem decUfence_enc (ord : Ord) (mk : Ord → Instr) :
    decUfence (encUfence ord) mk = .ok (mk ord) := by
  have hb0 := ord.scope.code_lt
  have hb1 := Bool.toNat_lt ord.acq
  have hb2 := Bool.toNat_lt ord.rel
  have h : ∀ f, fld f 4 3 = ord.scope.code → fld f 3 1 = ord.acq.toNat → fld f 2 1 = ord.rel.toNat → fld f 7 16 = 0 → fld f 0 2 = 0 → decUfence f mk = .ok (mk ord) := by
    intro f hf0 hf1 hf2 hz0 hz1
    simp [decUfence, Ord.ofField?, hf0, hf1, hf2, hz0, hz1]
  have hf0 : fld (encUfence ord) 4 3 = ord.scope.code := by simp only [encUfence, fld]; omega
  have hf1 : fld (encUfence ord) 3 1 = ord.acq.toNat := by simp only [encUfence, fld]; omega
  have hf2 : fld (encUfence ord) 2 1 = ord.rel.toNat := by simp only [encUfence, fld]; omega
  have hz0 : fld (encUfence ord) 7 16 = 0 := by simp only [encUfence, fld]; omega
  have hz1 : fld (encUfence ord) 0 2 = 0 := by simp only [encUfence, fld]; omega
  exact h _ hf0 hf1 hf2 hz0 hz1

theorem encQpush_lt (q : Fin 16) (sa : Fin 64) : (encQpush q sa) < 2 ^ 23 := by
  have hb0 := q.isLt
  have hb1 := sa.isLt
  simp only [encQpush]
  omega

theorem decQpush_enc (q : Fin 16) (sa : Fin 64) (mk : Fin 16 → Fin 64 → Instr) :
    decQpush (encQpush q sa) mk = .ok (mk q sa) := by
  have hb0 := q.isLt
  have hb1 := sa.isLt
  have h : ∀ f, fld f 17 4 = q.val → fld f 11 6 = sa.val → fld f 21 2 = 0 → fld f 0 11 = 0 → decQpush f mk = .ok (mk q sa) := by
    intro f hf0 hf1 hz0 hz1
    simp [decQpush, hf0, hf1, hz0, hz1]
  have hf0 : fld (encQpush q sa) 17 4 = q.val := by simp only [encQpush, fld]; omega
  have hf1 : fld (encQpush q sa) 11 6 = sa.val := by simp only [encQpush, fld]; omega
  have hz0 : fld (encQpush q sa) 21 2 = 0 := by simp only [encQpush, fld]; omega
  have hz1 : fld (encQpush q sa) 0 11 = 0 := by simp only [encQpush, fld]; omega
  exact h _ hf0 hf1 hz0 hz1

theorem encQpop_lt (sd : Fin 64) (q : Fin 16) : (encQpop sd q) < 2 ^ 23 := by
  have hb0 := sd.isLt
  have hb1 := q.isLt
  simp only [encQpop]
  omega

theorem decQpop_enc (sd : Fin 64) (q : Fin 16) (mk : Fin 64 → Fin 16 → Instr) :
    decQpop (encQpop sd q) mk = .ok (mk sd q) := by
  have hb0 := sd.isLt
  have hb1 := q.isLt
  have h : ∀ f, fld f 17 6 = sd.val → fld f 11 4 = q.val → fld f 15 2 = 0 → fld f 0 11 = 0 → decQpop f mk = .ok (mk sd q) := by
    intro f hf0 hf1 hz0 hz1
    simp [decQpop, hf0, hf1, hz0, hz1]
  have hf0 : fld (encQpop sd q) 17 6 = sd.val := by simp only [encQpop, fld]; omega
  have hf1 : fld (encQpop sd q) 11 4 = q.val := by simp only [encQpop, fld]; omega
  have hz0 : fld (encQpop sd q) 15 2 = 0 := by simp only [encQpop, fld]; omega
  have hz1 : fld (encQpop sd q) 0 11 = 0 := by simp only [encQpop, fld]; omega
  exact h _ hf0 hf1 hz0 hz1

theorem encQtry_lt (sd : Fin 64) (jd : Fin 8) (q : Fin 16) : (encQtry sd jd q) < 2 ^ 23 := by
  have hb0 := sd.isLt
  have hb1 := jd.isLt
  have hb2 := q.isLt
  simp only [encQtry]
  omega

theorem decQtry_enc (sd : Fin 64) (jd : Fin 8) (q : Fin 16) (mk : Fin 64 → Fin 8 → Fin 16 → Instr) :
    decQtry (encQtry sd jd q) mk = .ok (mk sd jd q) := by
  have hb0 := sd.isLt
  have hb1 := jd.isLt
  have hb2 := q.isLt
  have h : ∀ f, fld f 17 6 = sd.val → fld f 0 3 = jd.val → fld f 11 4 = q.val → fld f 15 2 = 0 → fld f 3 8 = 0 → decQtry f mk = .ok (mk sd jd q) := by
    intro f hf0 hf1 hf2 hz0 hz1
    simp [decQtry, hf0, hf1, hf2, hz0, hz1]
  have hf0 : fld (encQtry sd jd q) 17 6 = sd.val := by simp only [encQtry, fld]; omega
  have hf1 : fld (encQtry sd jd q) 0 3 = jd.val := by simp only [encQtry, fld]; omega
  have hf2 : fld (encQtry sd jd q) 11 4 = q.val := by simp only [encQtry, fld]; omega
  have hz0 : fld (encQtry sd jd q) 15 2 = 0 := by simp only [encQtry, fld]; omega
  have hz1 : fld (encQtry sd jd q) 3 8 = 0 := by simp only [encQtry, fld]; omega
  exact h _ hf0 hf1 hf2 hz0 hz1

theorem encMxlds_lt (sa : Fin 64) (fmt : WFmt) (g : Fin 16) (ord : Ord) : (encMxlds sa fmt g ord) < 2 ^ 23 := by
  have hb0 := sa.isLt
  have hb1 := fmt.hi_lt
  have hb2 := fmt.lo_lt
  have hb3 := g.isLt
  have hb4 := ord.scope.code_lt
  have hb5 := Bool.toNat_lt ord.acq
  have hb6 := Bool.toNat_lt ord.rel
  simp only [encMxlds]
  omega

theorem decMxlds_enc (sa : Fin 64) (fmt : WFmt) (g : Fin 16) (ord : Ord) (mk : Fin 64 → WFmt → Fin 16 → Ord → Instr) :
    decMxlds (encMxlds sa fmt g ord) mk = .ok (mk sa fmt g ord) := by
  have hb0 := sa.isLt
  have hb1 := fmt.hi_lt
  have hb2 := fmt.lo_lt
  have hb3 := g.isLt
  have hb4 := ord.scope.code_lt
  have hb5 := Bool.toNat_lt ord.acq
  have hb6 := Bool.toNat_lt ord.rel
  have h : ∀ f, fld f 11 6 = sa.val → fld f 17 1 = fmt.hi → fld f 0 2 = fmt.lo → fld f 7 4 = g.val → fld f 4 3 = ord.scope.code → fld f 3 1 = ord.acq.toNat → fld f 2 1 = ord.rel.toNat → fld f 18 5 = 0 → decMxlds f mk = .ok (mk sa fmt g ord) := by
    intro f hf0 hf1 hf2 hf3 hf4 hf5 hf6 hz0
    simp [decMxlds, Ord.ofField?, hf0, hf1, hf2, hf3, hf4, hf5, hf6, hz0]
  have hf0 : fld (encMxlds sa fmt g ord) 11 6 = sa.val := by simp only [encMxlds, fld]; omega
  have hf1 : fld (encMxlds sa fmt g ord) 17 1 = fmt.hi := by simp only [encMxlds, fld]; omega
  have hf2 : fld (encMxlds sa fmt g ord) 0 2 = fmt.lo := by simp only [encMxlds, fld]; omega
  have hf3 : fld (encMxlds sa fmt g ord) 7 4 = g.val := by simp only [encMxlds, fld]; omega
  have hf4 : fld (encMxlds sa fmt g ord) 4 3 = ord.scope.code := by simp only [encMxlds, fld]; omega
  have hf5 : fld (encMxlds sa fmt g ord) 3 1 = ord.acq.toNat := by simp only [encMxlds, fld]; omega
  have hf6 : fld (encMxlds sa fmt g ord) 2 1 = ord.rel.toNat := by simp only [encMxlds, fld]; omega
  have hz0 : fld (encMxlds sa fmt g ord) 18 5 = 0 := by simp only [encMxlds, fld]; omega
  exact h _ hf0 hf1 hf2 hf3 hf4 hf5 hf6 hz0

theorem encUeg_lt (g : Fin 16) : (encUeg g) < 2 ^ 23 := by
  have hb0 := g.isLt
  simp only [encUeg]
  omega

theorem decUeg_enc (g : Fin 16) (mk : Fin 16 → Instr) :
    decUeg (encUeg g) mk = .ok (mk g) := by
  have hb0 := g.isLt
  have h : ∀ f, fld f 7 4 = g.val → fld f 11 12 = 0 → fld f 0 7 = 0 → decUeg f mk = .ok (mk g) := by
    intro f hf0 hz0 hz1
    simp [decUeg, hf0, hz0, hz1]
  have hf0 : fld (encUeg g) 7 4 = g.val := by simp only [encUeg, fld]; omega
  have hz0 : fld (encUeg g) 11 12 = 0 := by simp only [encUeg, fld]; omega
  have hz1 : fld (encUeg g) 0 7 = 0 := by simp only [encUeg, fld]; omega
  exact h _ hf0 hz0 hz1

theorem encUecmd4_lt (sd sa : Fin 64) (g : Fin 16) (ord : Ord) : (encUecmd4 sd sa g ord) < 2 ^ 23 := by
  have hb0 := sd.isLt
  have hb1 := sa.isLt
  have hb2 := g.isLt
  have hb3 := ord.scope.code_lt
  have hb4 := Bool.toNat_lt ord.acq
  have hb5 := Bool.toNat_lt ord.rel
  simp only [encUecmd4]
  omega

theorem decUecmd4_enc (sd sa : Fin 64) (g : Fin 16) (ord : Ord) (mk : Fin 64 → Fin 64 → Fin 16 → Ord → Instr) :
    decUecmd4 (encUecmd4 sd sa g ord) mk = .ok (mk sd sa g ord) := by
  have hb0 := sd.isLt
  have hb1 := sa.isLt
  have hb2 := g.isLt
  have hb3 := ord.scope.code_lt
  have hb4 := Bool.toNat_lt ord.acq
  have hb5 := Bool.toNat_lt ord.rel
  have h : ∀ f, fld f 17 6 = sd.val → fld f 11 6 = sa.val → fld f 7 4 = g.val → fld f 4 3 = ord.scope.code → fld f 3 1 = ord.acq.toNat → fld f 2 1 = ord.rel.toNat → fld f 0 2 = 0 → decUecmd4 f mk = .ok (mk sd sa g ord) := by
    intro f hf0 hf1 hf2 hf3 hf4 hf5 hz0
    simp [decUecmd4, Ord.ofField?, hf0, hf1, hf2, hf3, hf4, hf5, hz0]
  have hf0 : fld (encUecmd4 sd sa g ord) 17 6 = sd.val := by simp only [encUecmd4, fld]; omega
  have hf1 : fld (encUecmd4 sd sa g ord) 11 6 = sa.val := by simp only [encUecmd4, fld]; omega
  have hf2 : fld (encUecmd4 sd sa g ord) 7 4 = g.val := by simp only [encUecmd4, fld]; omega
  have hf3 : fld (encUecmd4 sd sa g ord) 4 3 = ord.scope.code := by simp only [encUecmd4, fld]; omega
  have hf4 : fld (encUecmd4 sd sa g ord) 3 1 = ord.acq.toNat := by simp only [encUecmd4, fld]; omega
  have hf5 : fld (encUecmd4 sd sa g ord) 2 1 = ord.rel.toNat := by simp only [encUecmd4, fld]; omega
  have hz0 : fld (encUecmd4 sd sa g ord) 0 2 = 0 := by simp only [encUecmd4, fld]; omega
  exact h _ hf0 hf1 hf2 hf3 hf4 hf5 hz0

theorem encUecmd8_lt (sd sa : Fin 64) (g : Fin 16) (ord : Ord) : (encUecmd8 sd sa g ord) < 2 ^ 23 := by
  have hb0 := sd.isLt
  have hb1 := sa.isLt
  have hb2 := g.isLt
  have hb3 := ord.scope.code_lt
  have hb4 := Bool.toNat_lt ord.acq
  have hb5 := Bool.toNat_lt ord.rel
  simp only [encUecmd8]
  omega

theorem decUecmd8_enc (sd sa : Fin 64) (g : Fin 16) (ord : Ord) (mk : Fin 64 → Fin 64 → Fin 16 → Ord → Instr) :
    decUecmd8 (encUecmd8 sd sa g ord) mk = .ok (mk sd sa g ord) := by
  have hb0 := sd.isLt
  have hb1 := sa.isLt
  have hb2 := g.isLt
  have hb3 := ord.scope.code_lt
  have hb4 := Bool.toNat_lt ord.acq
  have hb5 := Bool.toNat_lt ord.rel
  have h : ∀ f, fld f 17 6 = sd.val → fld f 11 6 = sa.val → fld f 7 4 = g.val → fld f 4 3 = ord.scope.code → fld f 3 1 = ord.acq.toNat → fld f 2 1 = ord.rel.toNat → fld f 0 2 = 0 → decUecmd8 f mk = .ok (mk sd sa g ord) := by
    intro f hf0 hf1 hf2 hf3 hf4 hf5 hz0
    simp [decUecmd8, Ord.ofField?, hf0, hf1, hf2, hf3, hf4, hf5, hz0]
  have hf0 : fld (encUecmd8 sd sa g ord) 17 6 = sd.val := by simp only [encUecmd8, fld]; omega
  have hf1 : fld (encUecmd8 sd sa g ord) 11 6 = sa.val := by simp only [encUecmd8, fld]; omega
  have hf2 : fld (encUecmd8 sd sa g ord) 7 4 = g.val := by simp only [encUecmd8, fld]; omega
  have hf3 : fld (encUecmd8 sd sa g ord) 4 3 = ord.scope.code := by simp only [encUecmd8, fld]; omega
  have hf4 : fld (encUecmd8 sd sa g ord) 3 1 = ord.acq.toNat := by simp only [encUecmd8, fld]; omega
  have hf5 : fld (encUecmd8 sd sa g ord) 2 1 = ord.rel.toNat := by simp only [encUecmd8, fld]; omega
  have hz0 : fld (encUecmd8 sd sa g ord) 0 2 = 0 := by simp only [encUecmd8, fld]; omega
  exact h _ hf0 hf1 hf2 hf3 hf4 hf5 hz0

theorem encCpfill_lt (sd sa : Fin 64) (size : ElemSize) (g : Fin 16) (ord : Ord) : (encCpfill sd sa size g ord) < 2 ^ 23 := by
  have hb0 := sd.isLt
  have hb1 := sa.isLt
  have hb2 := size.code_lt
  have hb3 := g.isLt
  have hb4 := ord.scope.code_lt
  have hb5 := Bool.toNat_lt ord.acq
  have hb6 := Bool.toNat_lt ord.rel
  simp only [encCpfill]
  omega

theorem decCpfill_enc (sd sa : Fin 64) (size : ElemSize) (g : Fin 16) (ord : Ord) (mk : Fin 64 → Fin 64 → ElemSize → Fin 16 → Ord → Instr) :
    decCpfill (encCpfill sd sa size g ord) mk = .ok (mk sd sa size g ord) := by
  have hb0 := sd.isLt
  have hb1 := sa.isLt
  have hb2 := size.code_lt
  have hb3 := g.isLt
  have hb4 := ord.scope.code_lt
  have hb5 := Bool.toNat_lt ord.acq
  have hb6 := Bool.toNat_lt ord.rel
  have h : ∀ f, fld f 17 6 = sd.val → fld f 11 6 = sa.val → fld f 0 2 = size.code → fld f 7 4 = g.val → fld f 4 3 = ord.scope.code → fld f 3 1 = ord.acq.toNat → fld f 2 1 = ord.rel.toNat → decCpfill f mk = .ok (mk sd sa size g ord) := by
    intro f hf0 hf1 hf2 hf3 hf4 hf5 hf6
    simp [decCpfill, Ord.ofField?, hf0, hf1, hf2, hf3, hf4, hf5, hf6]
  have hf0 : fld (encCpfill sd sa size g ord) 17 6 = sd.val := by simp only [encCpfill, fld]; omega
  have hf1 : fld (encCpfill sd sa size g ord) 11 6 = sa.val := by simp only [encCpfill, fld]; omega
  have hf2 : fld (encCpfill sd sa size g ord) 0 2 = size.code := by simp only [encCpfill, fld]; omega
  have hf3 : fld (encCpfill sd sa size g ord) 7 4 = g.val := by simp only [encCpfill, fld]; omega
  have hf4 : fld (encCpfill sd sa size g ord) 4 3 = ord.scope.code := by simp only [encCpfill, fld]; omega
  have hf5 : fld (encCpfill sd sa size g ord) 3 1 = ord.acq.toNat := by simp only [encCpfill, fld]; omega
  have hf6 : fld (encCpfill sd sa size g ord) 2 1 = ord.rel.toNat := by simp only [encCpfill, fld]; omega
  exact h _ hf0 hf1 hf2 hf3 hf4 hf5 hf6

theorem encMxzero_lt (tile : Fin 8) (g : Fin 16) : (encMxzero tile g) < 2 ^ 23 := by
  have hb0 := tile.isLt
  have hb1 := g.isLt
  simp only [encMxzero]
  omega

theorem decMxzero_enc (tile : Fin 8) (g : Fin 16) (mk : Fin 8 → Fin 16 → Instr) :
    decMxzero (encMxzero tile g) mk = .ok (mk tile g) := by
  have hb0 := tile.isLt
  have hb1 := g.isLt
  have h : ∀ f, fld f 11 3 = tile.val → fld f 7 4 = g.val → fld f 14 9 = 0 → fld f 0 7 = 0 → decMxzero f mk = .ok (mk tile g) := by
    intro f hf0 hf1 hz0 hz1
    simp [decMxzero, hf0, hf1, hz0, hz1]
  have hf0 : fld (encMxzero tile g) 11 3 = tile.val := by simp only [encMxzero, fld]; omega
  have hf1 : fld (encMxzero tile g) 7 4 = g.val := by simp only [encMxzero, fld]; omega
  have hz0 : fld (encMxzero tile g) 14 9 = 0 := by simp only [encMxzero, fld]; omega
  have hz1 : fld (encMxzero tile g) 0 7 = 0 := by simp only [encMxzero, fld]; omega
  exact h _ hf0 hf1 hz0 hz1

theorem encAlloc_lt (sd sa : Fin 64) : (encAlloc sd sa) < 2 ^ 23 := by
  have hb0 := sd.isLt
  have hb1 := sa.isLt
  simp only [encAlloc]
  omega

theorem decAlloc_enc (sd sa : Fin 64) (mk : Fin 64 → Fin 64 → Instr) :
    decAlloc (encAlloc sd sa) mk = .ok (mk sd sa) := by
  have hb0 := sd.isLt
  have hb1 := sa.isLt
  have h : ∀ f, fld f 17 6 = sd.val → fld f 11 6 = sa.val → fld f 0 11 = 0 → decAlloc f mk = .ok (mk sd sa) := by
    intro f hf0 hf1 hz0
    simp [decAlloc, hf0, hf1, hz0]
  have hf0 : fld (encAlloc sd sa) 17 6 = sd.val := by simp only [encAlloc, fld]; omega
  have hf1 : fld (encAlloc sd sa) 11 6 = sa.val := by simp only [encAlloc, fld]; omega
  have hz0 : fld (encAlloc sd sa) 0 11 = 0 := by simp only [encAlloc, fld]; omega
  exact h _ hf0 hf1 hz0

theorem encUea_lt (sa : Fin 64) : (encUea sa) < 2 ^ 23 := by
  have hb0 := sa.isLt
  simp only [encUea]
  omega

theorem decUea_enc (sa : Fin 64) (mk : Fin 64 → Instr) :
    decUea (encUea sa) mk = .ok (mk sa) := by
  have hb0 := sa.isLt
  have h : ∀ f, fld f 11 6 = sa.val → fld f 17 6 = 0 → fld f 0 11 = 0 → decUea f mk = .ok (mk sa) := by
    intro f hf0 hz0 hz1
    simp [decUea, hf0, hz0, hz1]
  have hf0 : fld (encUea sa) 11 6 = sa.val := by simp only [encUea, fld]; omega
  have hz0 : fld (encUea sa) 17 6 = 0 := by simp only [encUea, fld]; omega
  have hz1 : fld (encUea sa) 0 11 = 0 := by simp only [encUea, fld]; omega
  exact h _ hf0 hz0 hz1

theorem encUe1_lt (sa : Fin 64) : (encUe1 sa) < 2 ^ 23 := by
  have hb0 := sa.isLt
  simp only [encUe1]
  omega

theorem decUe1_enc (sa : Fin 64) (mk : Fin 64 → Instr) :
    decUe1 (encUe1 sa) mk = .ok (mk sa) := by
  have hb0 := sa.isLt
  have h : ∀ f, fld f 11 6 = sa.val → fld f 17 6 = 0 → fld f 0 11 = 0 → decUe1 f mk = .ok (mk sa) := by
    intro f hf0 hz0 hz1
    simp [decUe1, hf0, hz0, hz1]
  have hf0 : fld (encUe1 sa) 11 6 = sa.val := by simp only [encUe1, fld]; omega
  have hz0 : fld (encUe1 sa) 17 6 = 0 := by simp only [encUe1, fld]; omega
  have hz1 : fld (encUe1 sa) 0 11 = 0 := by simp only [encUe1, fld]; omega
  exact h _ hf0 hz0 hz1

theorem encUed_lt (sd : Fin 64) : (encUed sd) < 2 ^ 23 := by
  have hb0 := sd.isLt
  simp only [encUed]
  omega

theorem decUed_enc (sd : Fin 64) (mk : Fin 64 → Instr) :
    decUed (encUed sd) mk = .ok (mk sd) := by
  have hb0 := sd.isLt
  have h : ∀ f, fld f 17 6 = sd.val → fld f 0 17 = 0 → decUed f mk = .ok (mk sd) := by
    intro f hf0 hz0
    simp [decUed, hf0, hz0]
  have hf0 : fld (encUed sd) 17 6 = sd.val := by simp only [encUed, fld]; omega
  have hz0 : fld (encUed sd) 0 17 = 0 := by simp only [encUed, fld]; omega
  exact h _ hf0 hz0

theorem encBar_lt (n : Fin 16) : (encBar n) < 2 ^ 23 := by
  have hb0 := n.isLt
  simp only [encBar]
  omega

theorem decBar_enc (n : Fin 16) (mk : Fin 16 → Instr) :
    decBar (encBar n) mk = .ok (mk n) := by
  have hb0 := n.isLt
  have h : ∀ f, fld f 0 4 = n.val → fld f 4 19 = 0 → decBar f mk = .ok (mk n) := by
    intro f hf0 hz0
    simp [decBar, hf0, hz0]
  have hf0 : fld (encBar n) 0 4 = n.val := by simp only [encBar, fld]; omega
  have hz0 : fld (encBar n) 4 19 = 0 := by simp only [encBar, fld]; omega
  exact h _ hf0 hz0

theorem encChinit_lt (ch : Fin 16) (sa sb : Fin 64) : (encChinit ch sa sb) < 2 ^ 23 := by
  have hb0 := ch.isLt
  have hb1 := sa.isLt
  have hb2 := sb.isLt
  simp only [encChinit]
  omega

theorem decChinit_enc (ch : Fin 16) (sa sb : Fin 64) (mk : Fin 16 → Fin 64 → Fin 64 → Instr) :
    decChinit (encChinit ch sa sb) mk = .ok (mk ch sa sb) := by
  have hb0 := ch.isLt
  have hb1 := sa.isLt
  have hb2 := sb.isLt
  have h : ∀ f, fld f 17 4 = ch.val → fld f 11 6 = sa.val → fld f 0 6 = sb.val → fld f 21 2 = 0 → fld f 6 5 = 0 → decChinit f mk = .ok (mk ch sa sb) := by
    intro f hf0 hf1 hf2 hz0 hz1
    simp [decChinit, hf0, hf1, hf2, hz0, hz1]
  have hf0 : fld (encChinit ch sa sb) 17 4 = ch.val := by simp only [encChinit, fld]; omega
  have hf1 : fld (encChinit ch sa sb) 11 6 = sa.val := by simp only [encChinit, fld]; omega
  have hf2 : fld (encChinit ch sa sb) 0 6 = sb.val := by simp only [encChinit, fld]; omega
  have hz0 : fld (encChinit ch sa sb) 21 2 = 0 := by simp only [encChinit, fld]; omega
  have hz1 : fld (encChinit ch sa sb) 6 5 = 0 := by simp only [encChinit, fld]; omega
  exact h _ hf0 hf1 hf2 hz0 hz1

theorem encChpush_lt (ch : Fin 16) (sa : Fin 64) : (encChpush ch sa) < 2 ^ 23 := by
  have hb0 := ch.isLt
  have hb1 := sa.isLt
  simp only [encChpush]
  omega

theorem decChpush_enc (ch : Fin 16) (sa : Fin 64) (mk : Fin 16 → Fin 64 → Instr) :
    decChpush (encChpush ch sa) mk = .ok (mk ch sa) := by
  have hb0 := ch.isLt
  have hb1 := sa.isLt
  have h : ∀ f, fld f 17 4 = ch.val → fld f 11 6 = sa.val → fld f 21 2 = 0 → fld f 0 11 = 0 → decChpush f mk = .ok (mk ch sa) := by
    intro f hf0 hf1 hz0 hz1
    simp [decChpush, hf0, hf1, hz0, hz1]
  have hf0 : fld (encChpush ch sa) 17 4 = ch.val := by simp only [encChpush, fld]; omega
  have hf1 : fld (encChpush ch sa) 11 6 = sa.val := by simp only [encChpush, fld]; omega
  have hz0 : fld (encChpush ch sa) 21 2 = 0 := by simp only [encChpush, fld]; omega
  have hz1 : fld (encChpush ch sa) 0 11 = 0 := by simp only [encChpush, fld]; omega
  exact h _ hf0 hf1 hz0 hz1

theorem encChpop_lt (sd : Fin 64) (ch : Fin 16) : (encChpop sd ch) < 2 ^ 23 := by
  have hb0 := sd.isLt
  have hb1 := ch.isLt
  simp only [encChpop]
  omega

theorem decChpop_enc (sd : Fin 64) (ch : Fin 16) (mk : Fin 64 → Fin 16 → Instr) :
    decChpop (encChpop sd ch) mk = .ok (mk sd ch) := by
  have hb0 := sd.isLt
  have hb1 := ch.isLt
  have h : ∀ f, fld f 17 6 = sd.val → fld f 0 4 = ch.val → fld f 11 6 = 0 → fld f 4 7 = 0 → decChpop f mk = .ok (mk sd ch) := by
    intro f hf0 hf1 hz0 hz1
    simp [decChpop, hf0, hf1, hz0, hz1]
  have hf0 : fld (encChpop sd ch) 17 6 = sd.val := by simp only [encChpop, fld]; omega
  have hf1 : fld (encChpop sd ch) 0 4 = ch.val := by simp only [encChpop, fld]; omega
  have hz0 : fld (encChpop sd ch) 11 6 = 0 := by simp only [encChpop, fld]; omega
  have hz1 : fld (encChpop sd ch) 4 7 = 0 := by simp only [encChpop, fld]; omega
  exact h _ hf0 hf1 hz0 hz1

theorem encGarm_lt (g : Fin 16) : (encGarm g) < 2 ^ 23 := by
  have hb0 := g.isLt
  simp only [encGarm]
  omega

theorem decGarm_enc (g : Fin 16) (mk : Fin 16 → Instr) :
    decGarm (encGarm g) mk = .ok (mk g) := by
  have hb0 := g.isLt
  have h : ∀ f, fld f 7 4 = g.val → fld f 11 12 = 0 → fld f 0 7 = 0 → decGarm f mk = .ok (mk g) := by
    intro f hf0 hz0 hz1
    simp [decGarm, hf0, hz0, hz1]
  have hf0 : fld (encGarm g) 7 4 = g.val := by simp only [encGarm, fld]; omega
  have hz0 : fld (encGarm g) 11 12 = 0 := by simp only [encGarm, fld]; omega
  have hz1 : fld (encGarm g) 0 7 = 0 := by simp only [encGarm, fld]; omega
  exact h _ hf0 hz0 hz1

theorem encGres_lt (g : Fin 16) (jd : Fin 8) : (encGres g jd) < 2 ^ 23 := by
  have hb0 := g.isLt
  have hb1 := jd.isLt
  simp only [encGres]
  omega

theorem decGres_enc (g : Fin 16) (jd : Fin 8) (mk : Fin 16 → Fin 8 → Instr) :
    decGres (encGres g jd) mk = .ok (mk g jd) := by
  have hb0 := g.isLt
  have hb1 := jd.isLt
  have h : ∀ f, fld f 7 4 = g.val → fld f 17 3 = jd.val → fld f 20 3 = 0 → fld f 11 6 = 0 → fld f 0 7 = 0 → decGres f mk = .ok (mk g jd) := by
    intro f hf0 hf1 hz0 hz1 hz2
    simp [decGres, hf0, hf1, hz0, hz1, hz2]
  have hf0 : fld (encGres g jd) 7 4 = g.val := by simp only [encGres, fld]; omega
  have hf1 : fld (encGres g jd) 17 3 = jd.val := by simp only [encGres, fld]; omega
  have hz0 : fld (encGres g jd) 20 3 = 0 := by simp only [encGres, fld]; omega
  have hz1 : fld (encGres g jd) 11 6 = 0 := by simp only [encGres, fld]; omega
  have hz2 : fld (encGres g jd) 0 7 = 0 := by simp only [encGres, fld]; omega
  exact h _ hf0 hf1 hz0 hz1 hz2

theorem encUeao_lt (sa : Fin 64) (ord : Ord) : (encUeao sa ord) < 2 ^ 23 := by
  have hb0 := sa.isLt
  have hb1 := ord.scope.code_lt
  have hb2 := Bool.toNat_lt ord.acq
  have hb3 := Bool.toNat_lt ord.rel
  simp only [encUeao]
  omega

theorem decUeao_enc (sa : Fin 64) (ord : Ord) (mk : Fin 64 → Ord → Instr) :
    decUeao (encUeao sa ord) mk = .ok (mk sa ord) := by
  have hb0 := sa.isLt
  have hb1 := ord.scope.code_lt
  have hb2 := Bool.toNat_lt ord.acq
  have hb3 := Bool.toNat_lt ord.rel
  have h : ∀ f, fld f 11 6 = sa.val → fld f 4 3 = ord.scope.code → fld f 3 1 = ord.acq.toNat → fld f 2 1 = ord.rel.toNat → fld f 17 6 = 0 → fld f 7 4 = 0 → fld f 0 2 = 0 → decUeao f mk = .ok (mk sa ord) := by
    intro f hf0 hf1 hf2 hf3 hz0 hz1 hz2
    simp [decUeao, Ord.ofField?, hf0, hf1, hf2, hf3, hz0, hz1, hz2]
  have hf0 : fld (encUeao sa ord) 11 6 = sa.val := by simp only [encUeao, fld]; omega
  have hf1 : fld (encUeao sa ord) 4 3 = ord.scope.code := by simp only [encUeao, fld]; omega
  have hf2 : fld (encUeao sa ord) 3 1 = ord.acq.toNat := by simp only [encUeao, fld]; omega
  have hf3 : fld (encUeao sa ord) 2 1 = ord.rel.toNat := by simp only [encUeao, fld]; omega
  have hz0 : fld (encUeao sa ord) 17 6 = 0 := by simp only [encUeao, fld]; omega
  have hz1 : fld (encUeao sa ord) 7 4 = 0 := by simp only [encUeao, fld]; omega
  have hz2 : fld (encUeao sa ord) 0 2 = 0 := by simp only [encUeao, fld]; omega
  exact h _ hf0 hf1 hf2 hf3 hz0 hz1 hz2

theorem encLktry_lt (jd : Fin 8) (sa : Fin 64) (ord : Ord) : (encLktry jd sa ord) < 2 ^ 23 := by
  have hb0 := jd.isLt
  have hb1 := sa.isLt
  have hb2 := ord.scope.code_lt
  have hb3 := Bool.toNat_lt ord.acq
  have hb4 := Bool.toNat_lt ord.rel
  simp only [encLktry]
  omega

theorem decLktry_enc (jd : Fin 8) (sa : Fin 64) (ord : Ord) (mk : Fin 8 → Fin 64 → Ord → Instr) :
    decLktry (encLktry jd sa ord) mk = .ok (mk jd sa ord) := by
  have hb0 := jd.isLt
  have hb1 := sa.isLt
  have hb2 := ord.scope.code_lt
  have hb3 := Bool.toNat_lt ord.acq
  have hb4 := Bool.toNat_lt ord.rel
  have h : ∀ f, fld f 17 3 = jd.val → fld f 11 6 = sa.val → fld f 4 3 = ord.scope.code → fld f 3 1 = ord.acq.toNat → fld f 2 1 = ord.rel.toNat → fld f 20 3 = 0 → fld f 7 4 = 0 → fld f 0 2 = 0 → decLktry f mk = .ok (mk jd sa ord) := by
    intro f hf0 hf1 hf2 hf3 hf4 hz0 hz1 hz2
    simp [decLktry, Ord.ofField?, hf0, hf1, hf2, hf3, hf4, hz0, hz1, hz2]
  have hf0 : fld (encLktry jd sa ord) 17 3 = jd.val := by simp only [encLktry, fld]; omega
  have hf1 : fld (encLktry jd sa ord) 11 6 = sa.val := by simp only [encLktry, fld]; omega
  have hf2 : fld (encLktry jd sa ord) 4 3 = ord.scope.code := by simp only [encLktry, fld]; omega
  have hf3 : fld (encLktry jd sa ord) 3 1 = ord.acq.toNat := by simp only [encLktry, fld]; omega
  have hf4 : fld (encLktry jd sa ord) 2 1 = ord.rel.toNat := by simp only [encLktry, fld]; omega
  have hz0 : fld (encLktry jd sa ord) 20 3 = 0 := by simp only [encLktry, fld]; omega
  have hz1 : fld (encLktry jd sa ord) 7 4 = 0 := by simp only [encLktry, fld]; omega
  have hz2 : fld (encLktry jd sa ord) 0 2 = 0 := by simp only [encLktry, fld]; omega
  exact h _ hf0 hf1 hf2 hf3 hf4 hz0 hz1 hz2

theorem encUedao_lt (sa sd : Fin 64) (ord : Ord) : (encUedao sa sd ord) < 2 ^ 23 := by
  have hb0 := sa.isLt
  have hb1 := sd.isLt
  have hb2 := ord.scope.code_lt
  have hb3 := Bool.toNat_lt ord.acq
  have hb4 := Bool.toNat_lt ord.rel
  simp only [encUedao]
  omega

theorem decUedao_enc (sa sd : Fin 64) (ord : Ord) (mk : Fin 64 → Fin 64 → Ord → Instr) :
    decUedao (encUedao sa sd ord) mk = .ok (mk sa sd ord) := by
  have hb0 := sa.isLt
  have hb1 := sd.isLt
  have hb2 := ord.scope.code_lt
  have hb3 := Bool.toNat_lt ord.acq
  have hb4 := Bool.toNat_lt ord.rel
  have h : ∀ f, fld f 11 6 = sa.val → fld f 17 6 = sd.val → fld f 4 3 = ord.scope.code → fld f 3 1 = ord.acq.toNat → fld f 2 1 = ord.rel.toNat → fld f 7 4 = 0 → fld f 0 2 = 0 → decUedao f mk = .ok (mk sa sd ord) := by
    intro f hf0 hf1 hf2 hf3 hf4 hz0 hz1
    simp [decUedao, Ord.ofField?, hf0, hf1, hf2, hf3, hf4, hz0, hz1]
  have hf0 : fld (encUedao sa sd ord) 11 6 = sa.val := by simp only [encUedao, fld]; omega
  have hf1 : fld (encUedao sa sd ord) 17 6 = sd.val := by simp only [encUedao, fld]; omega
  have hf2 : fld (encUedao sa sd ord) 4 3 = ord.scope.code := by simp only [encUedao, fld]; omega
  have hf3 : fld (encUedao sa sd ord) 3 1 = ord.acq.toNat := by simp only [encUedao, fld]; omega
  have hf4 : fld (encUedao sa sd ord) 2 1 = ord.rel.toNat := by simp only [encUedao, fld]; omega
  have hz0 : fld (encUedao sa sd ord) 7 4 = 0 := by simp only [encUedao, fld]; omega
  have hz1 : fld (encUedao sa sd ord) 0 2 = 0 := by simp only [encUedao, fld]; omega
  exact h _ hf0 hf1 hf2 hf3 hf4 hz0 hz1

theorem encPrwait_lt (sd : Fin 64) (jd : Fin 8) (sa : Fin 64) (ord : Ord) : (encPrwait sd jd sa ord) < 2 ^ 23 := by
  have hb0 := sd.isLt
  have hb1 := jd.isLt
  have hb2 := sa.isLt
  have hb3 := ord.scope.code_lt
  have hb4 := Bool.toNat_lt ord.acq
  have hb5 := Bool.toNat_lt ord.rel
  simp only [encPrwait]
  omega

theorem decPrwait_enc (sd : Fin 64) (jd : Fin 8) (sa : Fin 64) (ord : Ord) (mk : Fin 64 → Fin 8 → Fin 64 → Ord → Instr) :
    decPrwait (encPrwait sd jd sa ord) mk = .ok (mk sd jd sa ord) := by
  have hb0 := sd.isLt
  have hb1 := jd.isLt
  have hb2 := sa.isLt
  have hb3 := ord.scope.code_lt
  have hb4 := Bool.toNat_lt ord.acq
  have hb5 := Bool.toNat_lt ord.rel
  have h : ∀ f, fld f 17 6 = sd.val → fld f 7 3 = jd.val → fld f 11 6 = sa.val → fld f 4 3 = ord.scope.code → fld f 3 1 = ord.acq.toNat → fld f 2 1 = ord.rel.toNat → fld f 10 1 = 0 → fld f 0 2 = 0 → decPrwait f mk = .ok (mk sd jd sa ord) := by
    intro f hf0 hf1 hf2 hf3 hf4 hf5 hz0 hz1
    simp [decPrwait, Ord.ofField?, hf0, hf1, hf2, hf3, hf4, hf5, hz0, hz1]
  have hf0 : fld (encPrwait sd jd sa ord) 17 6 = sd.val := by simp only [encPrwait, fld]; omega
  have hf1 : fld (encPrwait sd jd sa ord) 7 3 = jd.val := by simp only [encPrwait, fld]; omega
  have hf2 : fld (encPrwait sd jd sa ord) 11 6 = sa.val := by simp only [encPrwait, fld]; omega
  have hf3 : fld (encPrwait sd jd sa ord) 4 3 = ord.scope.code := by simp only [encPrwait, fld]; omega
  have hf4 : fld (encPrwait sd jd sa ord) 3 1 = ord.acq.toNat := by simp only [encPrwait, fld]; omega
  have hf5 : fld (encPrwait sd jd sa ord) 2 1 = ord.rel.toNat := by simp only [encPrwait, fld]; omega
  have hz0 : fld (encPrwait sd jd sa ord) 10 1 = 0 := by simp only [encPrwait, fld]; omega
  have hz1 : fld (encPrwait sd jd sa ord) 0 2 = 0 := by simp only [encPrwait, fld]; omega
  exact h _ hf0 hf1 hf2 hf3 hf4 hf5 hz0 hz1

theorem encInh_lt (fn : Nat) (sd : Fin 64) (hfn : fn < 2 ^ 2) : (encInh fn sd) < 2 ^ 23 := by
  have hb0 := sd.isLt
  simp only [encInh]
  omega

theorem encInh_fn (fn : Nat) (sd : Fin 64) (hfn : fn < 2 ^ 2) : fld (encInh fn sd) 0 2 = fn := by
  have hb0 := sd.isLt
  simp only [encInh, fld]
  omega

theorem decInh_enc (fn : Nat) (sd : Fin 64) (hfn : fn < 2 ^ 2) (mk : Fin 64 → Instr) :
    decInh (encInh fn sd) mk = .ok (mk sd) := by
  have hb0 := sd.isLt
  have h : ∀ f, fld f 17 6 = sd.val → fld f 2 15 = 0 → decInh f mk = .ok (mk sd) := by
    intro f hf0 hz0
    simp [decInh, hf0, hz0]
  have hf0 : fld (encInh fn sd) 17 6 = sd.val := by simp only [encInh, fld]; omega
  have hz0 : fld (encInh fn sd) 2 15 = 0 := by simp only [encInh, fld]; omega
  exact h _ hf0 hz0

theorem encInhnb_lt (fn : Nat) (sd : Fin 64) (jd : Fin 8) (hfn : fn < 2 ^ 2) : (encInhnb fn sd jd) < 2 ^ 23 := by
  have hb0 := sd.isLt
  have hb1 := jd.isLt
  simp only [encInhnb]
  omega

theorem encInhnb_fn (fn : Nat) (sd : Fin 64) (jd : Fin 8) (hfn : fn < 2 ^ 2) : fld (encInhnb fn sd jd) 0 2 = fn := by
  have hb0 := sd.isLt
  have hb1 := jd.isLt
  simp only [encInhnb, fld]
  omega

theorem decInhnb_enc (fn : Nat) (sd : Fin 64) (jd : Fin 8) (hfn : fn < 2 ^ 2) (mk : Fin 64 → Fin 8 → Instr) :
    decInhnb (encInhnb fn sd jd) mk = .ok (mk sd jd) := by
  have hb0 := sd.isLt
  have hb1 := jd.isLt
  have h : ∀ f, fld f 17 6 = sd.val → fld f 7 3 = jd.val → fld f 10 7 = 0 → fld f 2 5 = 0 → decInhnb f mk = .ok (mk sd jd) := by
    intro f hf0 hf1 hz0 hz1
    simp [decInhnb, hf0, hf1, hz0, hz1]
  have hf0 : fld (encInhnb fn sd jd) 17 6 = sd.val := by simp only [encInhnb, fld]; omega
  have hf1 : fld (encInhnb fn sd jd) 7 3 = jd.val := by simp only [encInhnb, fld]; omega
  have hz0 : fld (encInhnb fn sd jd) 10 7 = 0 := by simp only [encInhnb, fld]; omega
  have hz1 : fld (encInhnb fn sd jd) 2 5 = 0 := by simp only [encInhnb, fld]; omega
  exact h _ hf0 hf1 hz0 hz1

theorem encUi0_lt (imm : BitVec 11) : (encUi0 imm) < 2 ^ 23 := by
  have hb0 := imm.isLt
  simp only [encUi0]
  omega

theorem decUi0_enc (imm : BitVec 11) (mk : BitVec 11 → Instr) :
    decUi0 (encUi0 imm) mk = .ok (mk imm) := by
  have hb0 := imm.isLt
  have h : ∀ f, fld f 0 11 = imm.toNat → fld f 11 12 = 0 → decUi0 f mk = .ok (mk imm) := by
    intro f hf0 hz0
    simp [decUi0, hf0, hz0]
  have hf0 : fld (encUi0 imm) 0 11 = imm.toNat := by simp only [encUi0, fld]; omega
  have hz0 : fld (encUi0 imm) 11 12 = 0 := by simp only [encUi0, fld]; omega
  exact h _ hf0 hz0

theorem encSrw_lt (idx : BitVec 8) (sa : Fin 64) : (encSrw idx sa) < 2 ^ 23 := by
  have hb0 := idx.isLt
  have hb1 := sa.isLt
  simp only [encSrw]
  omega

theorem decSrw_enc (idx : BitVec 8) (sa : Fin 64) (mk : BitVec 8 → Fin 64 → Instr) :
    decSrw (encSrw idx sa) mk = .ok (mk idx sa) := by
  have hb0 := idx.isLt
  have hb1 := sa.isLt
  have h : ∀ f, fld f 0 8 = idx.toNat → fld f 11 6 = sa.val → fld f 17 6 = 0 → fld f 8 3 = 0 → decSrw f mk = .ok (mk idx sa) := by
    intro f hf0 hf1 hz0 hz1
    simp [decSrw, hf0, hf1, hz0, hz1]
  have hf0 : fld (encSrw idx sa) 0 8 = idx.toNat := by simp only [encSrw, fld]; omega
  have hf1 : fld (encSrw idx sa) 11 6 = sa.val := by simp only [encSrw, fld]; omega
  have hz0 : fld (encSrw idx sa) 17 6 = 0 := by simp only [encSrw, fld]; omega
  have hz1 : fld (encSrw idx sa) 8 3 = 0 := by simp only [encSrw, fld]; omega
  exact h _ hf0 hf1 hz0 hz1

theorem fld_setWord (s : Nat) (b : Bool) (op f : Nat) (hs : s < 2) (ho : op < 128) (hf : f < 2 ^ 23) :
    fld (setWord s b op f).toNat 31 1 = s ∧ fld (setWord s b op f).toNat 30 1 = b.toNat ∧
    fld (setWord s b op f).toNat 23 7 = op ∧ fld (setWord s b op f).toNat 0 23 = f := by
  have hb := Bool.toNat_lt b
  simp only [setWord, fld, BitVec.toNat_ofNat]
  omega

theorem decode_setWord_lane (b : Bool) (op f : Nat) (ho : op < 128) (hf : f < 2 ^ 23) :
    decode (setWord 0 b op f) = checked (decodeLane op b f) := by
  obtain ⟨h1, h2, h3, h4⟩ := fld_setWord 0 b op f (by decide) ho hf
  simp [decode, h1, h2, h3, h4]

theorem decode_setWord_squad (b : Bool) (op f : Nat) (ho : op < 128) (hf : f < 2 ^ 23) :
    decode (setWord 1 b op f) = checked (decodeSquad op b f) := by
  obtain ⟨h1, h2, h3, h4⟩ := fld_setWord 1 b op f (by decide) ho hf
  simp [decode, h1, h2, h3, h4]

theorem checked_ok {i : Instr} (h : i.wf = true) : checked (.ok i) = .ok i := by
  have hd : i.defect = none := by simpa [Instr.wf] using h
  simp [checked, hd]

end Sys2Proof
end

