-- ==== Sys2Proof/Laws/PerInstr.lean ====
section
/-! SUPPORT. The round trip of every constructor: its word decodes to it (R121, R122, R260). -/

namespace Sys2Proof.Laws.RoundTrip

open Sys2Proof

/-- The decoder whose instruction set holds the constructor: the Porter extension or the cores. -/
def decoderOf : Instr → Word → Except Reject Instr
  | .rfetch .. | .rpost .. | .bfx .. | .bfiPorter .. | .swait .. | .sarm .. | .disp .. | .dstat .. => decodePorter
  | _ => decode

/-- Decoding the word of a well-formed instruction gives the instruction back. -/
def Statement (i : Instr) : Prop :=
  i.wf = true → ∀ w, encode i = some w → decoderOf i w = .ok i

theorem statement_of_none {i : Instr} (h : encode i = none) : Statement i := by
  intro _ w hw
  rw [h] at hw
  cases hw

theorem roundTrip_lane {i : Instr} (b : Bool) (op f : Nat) (hd : decoderOf i = decode) (ho : op < 128)
    (hf : f < 2 ^ 23) (he : encode i = some (setWord 0 b op f)) (h : decodeLane op b f = .ok i) : Statement i := by
  intro hwf w hw
  rw [he] at hw
  cases hw
  rw [hd, decode_setWord_lane b op f ho hf, h, checked_ok hwf]

theorem roundTrip_squad {i : Instr} (b : Bool) (op f : Nat) (hd : decoderOf i = decode) (ho : op < 128)
    (hf : f < 2 ^ 23) (he : encode i = some (setWord 1 b op f)) (h : decodeSquad op b f = .ok i) : Statement i := by
  intro hwf w hw
  rw [he] at hw
  cases hw
  rw [hd, decode_setWord_squad b op f ho hf, h, checked_ok hwf]

theorem porterWord_toNat (fn rd rs1 rs2 f7 : Nat) (h0 : fn < 8) (h1 : rd < 32) (h2 : rs1 < 32) (h3 : rs2 < 32)
    (h4 : f7 < 128) : (porterWord fn rd rs1 rs2 f7).toNat =
      f7 * 2 ^ 25 + rs2 * 2 ^ 20 + rs1 * 2 ^ 15 + fn * 2 ^ 12 + rd * 2 ^ 7 + 0x0B := by
  simp only [porterWord, BitVec.toNat_ofNat]
  omega

theorem porter_fields (fn rd rs1 rs2 f7 : Nat) (h0 : fn < 8) (h1 : rd < 32) (h2 : rs1 < 32) (h3 : rs2 < 32)
    (h4 : f7 < 128) : let n := (porterWord fn rd rs1 rs2 f7).toNat
    fld n 0 7 = 0x0B ∧ fld n 12 3 = fn ∧ fld n 7 5 = rd ∧ fld n 15 5 = rs1 ∧ fld n 20 5 = rs2 ∧ fld n 25 5 = f7 % 32 ∧
      fld n 30 2 = f7 / 32 ∧ fld n 25 7 = f7 ∧ fld n 20 12 = f7 * 32 + rs2 := by
  simp only [porterWord_toNat fn rd rs1 rs2 f7 h0 h1 h2 h3 h4, fld]
  omega

theorem roundTrip_p1_0 (rd rs : Fin 32) : Statement (.rfetch rd rs) := by
  intro _ w hw
  have hw2 : w = porterWord 0 rd.val rs.val 0 0 := (Option.some.inj hw).symm
  obtain ⟨h1, h2, h3, h4, h5, h6, h7, h8, h9⟩ := porter_fields 0 rd.val rs.val 0 0 (by omega) rd.isLt rs.isLt (by omega) (by omega)
  rw [← hw2] at h1 h2 h3 h4 h5 h6 h7 h8 h9
  show decodePorter w = _
  simp [decodePorter, h1, h2, h3, h4, h5, h6, h7, h8, h9]

theorem roundTrip_p2_1 (rs rt : Fin 32) : Statement (.rpost rs rt) := by
  intro _ w hw
  have hw2 : w = porterWord 1 0 rs.val rt.val 0 := (Option.some.inj hw).symm
  obtain ⟨h1, h2, h3, h4, h5, h6, h7, h8, h9⟩ := porter_fields 1 0 rs.val rt.val 0 (by omega) (by omega) rs.isLt rt.isLt (by omega)
  rw [← hw2] at h1 h2 h3 h4 h5 h6 h7 h8 h9
  show decodePorter w = _
  simp [decodePorter, h1, h2, h3, h4, h5, h6, h7, h8, h9]

theorem roundTrip_p4_2 (rd rs pos len : Fin 32) (hi : Fin 4) : Statement (.bfx rd rs pos len hi) := by
  intro _ w hw
  have hw2 : w = porterWord 2 rd.val rs.val pos.val (hi.val * 32 + len.val) := (Option.some.inj hw).symm
  obtain ⟨h1, h2, h3, h4, h5, h6, h7, h8, h9⟩ := porter_fields 2 rd.val rs.val pos.val (hi.val * 32 + len.val) (by omega) rd.isLt rs.isLt pos.isLt (by omega)
  rw [← hw2] at h1 h2 h3 h4 h5 h6 h7 h8 h9
  have e1 : (hi.val * 32 + len.val) % 32 = len.val := by omega
  have e2 : (hi.val * 32 + len.val) / 32 = hi.val := by omega
  rw [e1] at h6
  rw [e2] at h7
  show decodePorter w = _
  simp [decodePorter, h1, h2, h3, h4, h5, h6, h7, h8, h9]

theorem roundTrip_p4_3 (rd rs pos len : Fin 32) (hi : Fin 4) : Statement (.bfiPorter rd rs pos len hi) := by
  intro _ w hw
  have hw2 : w = porterWord 3 rd.val rs.val pos.val (hi.val * 32 + len.val) := (Option.some.inj hw).symm
  obtain ⟨h1, h2, h3, h4, h5, h6, h7, h8, h9⟩ := porter_fields 3 rd.val rs.val pos.val (hi.val * 32 + len.val) (by omega) rd.isLt rs.isLt pos.isLt (by omega)
  rw [← hw2] at h1 h2 h3 h4 h5 h6 h7 h8 h9
  have e1 : (hi.val * 32 + len.val) % 32 = len.val := by omega
  have e2 : (hi.val * 32 + len.val) / 32 = hi.val := by omega
  rw [e1] at h6
  rw [e2] at h7
  show decodePorter w = _
  simp [decodePorter, h1, h2, h3, h4, h5, h6, h7, h8, h9]

theorem roundTrip_p1_4 (rd rs : Fin 32) : Statement (.swait rd rs) := by
  intro _ w hw
  have hw2 : w = porterWord 4 rd.val rs.val 0 0 := (Option.some.inj hw).symm
  obtain ⟨h1, h2, h3, h4, h5, h6, h7, h8, h9⟩ := porter_fields 4 rd.val rs.val 0 0 (by omega) rd.isLt rs.isLt (by omega) (by omega)
  rw [← hw2] at h1 h2 h3 h4 h5 h6 h7 h8 h9
  show decodePorter w = _
  simp [decodePorter, h1, h2, h3, h4, h5, h6, h7, h8, h9]

theorem roundTrip_p2_5 (rs rt : Fin 32) : Statement (.sarm rs rt) := by
  intro _ w hw
  have hw2 : w = porterWord 5 0 rs.val rt.val 0 := (Option.some.inj hw).symm
  obtain ⟨h1, h2, h3, h4, h5, h6, h7, h8, h9⟩ := porter_fields 5 0 rs.val rt.val 0 (by omega) (by omega) rs.isLt rt.isLt (by omega)
  rw [← hw2] at h1 h2 h3 h4 h5 h6 h7 h8 h9
  show decodePorter w = _
  simp [decodePorter, h1, h2, h3, h4, h5, h6, h7, h8, h9]

theorem roundTrip_p3_6 (rd rs rt : Fin 32) : Statement (.disp rd rs rt) := by
  intro _ w hw
  have hw2 : w = porterWord 6 rd.val rs.val rt.val 0 := (Option.some.inj hw).symm
  obtain ⟨h1, h2, h3, h4, h5, h6, h7, h8, h9⟩ := porter_fields 6 rd.val rs.val rt.val 0 (by omega) rd.isLt rs.isLt rt.isLt (by omega)
  rw [← hw2] at h1 h2 h3 h4 h5 h6 h7 h8 h9
  show decodePorter w = _
  simp [decodePorter, h1, h2, h3, h4, h5, h6, h7, h8, h9]

theorem roundTrip_p1_7 (rd rs : Fin 32) : Statement (.dstat rd rs) := by
  intro _ w hw
  have hw2 : w = porterWord 7 rd.val rs.val 0 0 := (Option.some.inj hw).symm
  obtain ⟨h1, h2, h3, h4, h5, h6, h7, h8, h9⟩ := porter_fields 7 rd.val rs.val 0 0 (by omega) rd.isLt rs.isLt (by omega) (by omega)
  rw [← hw2] at h1 h2 h3 h4 h5 h6 h7 h8 h9
  show decodePorter w = _
  simp [decodePorter, h1, h2, h3, h4, h5, h6, h7, h8, h9]


theorem nop (e : Bool) : Statement (.nop e) := by
  have h0 : ∀ f, decodeLane 0x00 e f = decNop f (Instr.nop e) := fun _ => rfl
  exact roundTrip_lane e 0x00 encNop rfl (by decide) (encNop_lt ) rfl ((h0 _).trans (decNop_enc (Instr.nop e)))

theorem iadd (e : Bool) (vd : Fin 128) (xa xb : Src) : Statement (.iadd e vd xa xb) := by
  have h0 : ∀ f, decodeLane 0x01 e f = decLr3 f (Instr.iadd e) := fun _ => rfl
  exact roundTrip_lane e 0x01 (encLr3 vd xa xb) rfl (by decide) (encLr3_lt vd xa xb) rfl ((h0 _).trans (decLr3_enc vd xa xb (Instr.iadd e)))

theorem isub (e : Bool) (vd : Fin 128) (xa xb : Src) : Statement (.isub e vd xa xb) := by
  have h0 : ∀ f, decodeLane 0x02 e f = decLr3 f (Instr.isub e) := fun _ => rfl
  exact roundTrip_lane e 0x02 (encLr3 vd xa xb) rfl (by decide) (encLr3_lt vd xa xb) rfl ((h0 _).trans (decLr3_enc vd xa xb (Instr.isub e)))

theorem imul (e : Bool) (vd : Fin 128) (xa xb : Src) : Statement (.imul e vd xa xb) := by
  have h0 : ∀ f, decodeLane 0x03 e f = decLr3 f (Instr.imul e) := fun _ => rfl
  exact roundTrip_lane e 0x03 (encLr3 vd xa xb) rfl (by decide) (encLr3_lt vd xa xb) rfl ((h0 _).trans (decLr3_enc vd xa xb (Instr.imul e)))

theorem imulh (e : Bool) (vd : Fin 128) (xa xb : Src) : Statement (.imulh e vd xa xb) := by
  have h0 : ∀ f, decodeLane 0x04 e f = decLr3 f (Instr.imulh e) := fun _ => rfl
  exact roundTrip_lane e 0x04 (encLr3 vd xa xb) rfl (by decide) (encLr3_lt vd xa xb) rfl ((h0 _).trans (decLr3_enc vd xa xb (Instr.imulh e)))

theorem imulhu (e : Bool) (vd : Fin 128) (xa xb : Src) : Statement (.imulhu e vd xa xb) := by
  have h0 : ∀ f, decodeLane 0x05 e f = decLr3 f (Instr.imulhu e) := fun _ => rfl
  exact roundTrip_lane e 0x05 (encLr3 vd xa xb) rfl (by decide) (encLr3_lt vd xa xb) rfl ((h0 _).trans (decLr3_enc vd xa xb (Instr.imulhu e)))

theorem imad (e : Bool) (vd : Fin 128) (xa xb : Src) : Statement (.imad e vd xa xb) := by
  have h0 : ∀ f, decodeLane 0x06 e f = decLr3 f (Instr.imad e) := fun _ => rfl
  exact roundTrip_lane e 0x06 (encLr3 vd xa xb) rfl (by decide) (encLr3_lt vd xa xb) rfl ((h0 _).trans (decLr3_enc vd xa xb (Instr.imad e)))

theorem imin (e : Bool) (vd : Fin 128) (xa xb : Src) : Statement (.imin e vd xa xb) := by
  have h0 : ∀ f, decodeLane 0x07 e f = decLr3 f (Instr.imin e) := fun _ => rfl
  exact roundTrip_lane e 0x07 (encLr3 vd xa xb) rfl (by decide) (encLr3_lt vd xa xb) rfl ((h0 _).trans (decLr3_enc vd xa xb (Instr.imin e)))

theorem imax (e : Bool) (vd : Fin 128) (xa xb : Src) : Statement (.imax e vd xa xb) := by
  have h0 : ∀ f, decodeLane 0x08 e f = decLr3 f (Instr.imax e) := fun _ => rfl
  exact roundTrip_lane e 0x08 (encLr3 vd xa xb) rfl (by decide) (encLr3_lt vd xa xb) rfl ((h0 _).trans (decLr3_enc vd xa xb (Instr.imax e)))

theorem umin (e : Bool) (vd : Fin 128) (xa xb : Src) : Statement (.umin e vd xa xb) := by
  have h0 : ∀ f, decodeLane 0x09 e f = decLr3 f (Instr.umin e) := fun _ => rfl
  exact roundTrip_lane e 0x09 (encLr3 vd xa xb) rfl (by decide) (encLr3_lt vd xa xb) rfl ((h0 _).trans (decLr3_enc vd xa xb (Instr.umin e)))

theorem umax (e : Bool) (vd : Fin 128) (xa xb : Src) : Statement (.umax e vd xa xb) := by
  have h0 : ∀ f, decodeLane 0x0A e f = decLr3 f (Instr.umax e) := fun _ => rfl
  exact roundTrip_lane e 0x0A (encLr3 vd xa xb) rfl (by decide) (encLr3_lt vd xa xb) rfl ((h0 _).trans (decLr3_enc vd xa xb (Instr.umax e)))

theorem idiv (e : Bool) (vd : Fin 128) (xa xb : Src) : Statement (.idiv e vd xa xb) := by
  have h0 : ∀ f, decodeLane 0x0B e f = decLr3 f (Instr.idiv e) := fun _ => rfl
  exact roundTrip_lane e 0x0B (encLr3 vd xa xb) rfl (by decide) (encLr3_lt vd xa xb) rfl ((h0 _).trans (decLr3_enc vd xa xb (Instr.idiv e)))

theorem udiv (e : Bool) (vd : Fin 128) (xa xb : Src) : Statement (.udiv e vd xa xb) := by
  have h0 : ∀ f, decodeLane 0x0C e f = decLr3 f (Instr.udiv e) := fun _ => rfl
  exact roundTrip_lane e 0x0C (encLr3 vd xa xb) rfl (by decide) (encLr3_lt vd xa xb) rfl ((h0 _).trans (decLr3_enc vd xa xb (Instr.udiv e)))

theorem irem (e : Bool) (vd : Fin 128) (xa xb : Src) : Statement (.irem e vd xa xb) := by
  have h0 : ∀ f, decodeLane 0x0D e f = decLr3 f (Instr.irem e) := fun _ => rfl
  exact roundTrip_lane e 0x0D (encLr3 vd xa xb) rfl (by decide) (encLr3_lt vd xa xb) rfl ((h0 _).trans (decLr3_enc vd xa xb (Instr.irem e)))

theorem urem (e : Bool) (vd : Fin 128) (xa xb : Src) : Statement (.urem e vd xa xb) := by
  have h0 : ∀ f, decodeLane 0x0E e f = decLr3 f (Instr.urem e) := fun _ => rfl
  exact roundTrip_lane e 0x0E (encLr3 vd xa xb) rfl (by decide) (encLr3_lt vd xa xb) rfl ((h0 _).trans (decLr3_enc vd xa xb (Instr.urem e)))

theorem qpushv (q : Fin 16) (vd : Fin 128) : Statement (.qpushv q vd) := by
  have h0 : ∀ f, decodeLane 0x0F true f = decQpushv f Instr.qpushv := fun _ => rfl
  exact roundTrip_lane true 0x0F (encQpushv q vd) rfl (by decide) (encQpushv_lt q vd) rfl ((h0 _).trans (decQpushv_enc q vd Instr.qpushv))

theorem and (e : Bool) (vd : Fin 128) (xa xb : Src) : Statement (.and e vd xa xb) := by
  have h0 : ∀ f, decodeLane 0x10 e f = decLr3 f (Instr.and e) := fun _ => rfl
  exact roundTrip_lane e 0x10 (encLr3 vd xa xb) rfl (by decide) (encLr3_lt vd xa xb) rfl ((h0 _).trans (decLr3_enc vd xa xb (Instr.and e)))

theorem or (e : Bool) (vd : Fin 128) (xa xb : Src) : Statement (.or e vd xa xb) := by
  have h0 : ∀ f, decodeLane 0x11 e f = decLr3 f (Instr.or e) := fun _ => rfl
  exact roundTrip_lane e 0x11 (encLr3 vd xa xb) rfl (by decide) (encLr3_lt vd xa xb) rfl ((h0 _).trans (decLr3_enc vd xa xb (Instr.or e)))

theorem xor (e : Bool) (vd : Fin 128) (xa xb : Src) : Statement (.xor e vd xa xb) := by
  have h0 : ∀ f, decodeLane 0x12 e f = decLr3 f (Instr.xor e) := fun _ => rfl
  exact roundTrip_lane e 0x12 (encLr3 vd xa xb) rfl (by decide) (encLr3_lt vd xa xb) rfl ((h0 _).trans (decLr3_enc vd xa xb (Instr.xor e)))

theorem andn (e : Bool) (vd : Fin 128) (xa xb : Src) : Statement (.andn e vd xa xb) := by
  have h0 : ∀ f, decodeLane 0x13 e f = decLr3 f (Instr.andn e) := fun _ => rfl
  exact roundTrip_lane e 0x13 (encLr3 vd xa xb) rfl (by decide) (encLr3_lt vd xa xb) rfl ((h0 _).trans (decLr3_enc vd xa xb (Instr.andn e)))

theorem shl (e : Bool) (vd : Fin 128) (xa xb : Src) : Statement (.shl e vd xa xb) := by
  have h0 : ∀ f, decodeLane 0x14 e f = decLr3 f (Instr.shl e) := fun _ => rfl
  exact roundTrip_lane e 0x14 (encLr3 vd xa xb) rfl (by decide) (encLr3_lt vd xa xb) rfl ((h0 _).trans (decLr3_enc vd xa xb (Instr.shl e)))

theorem shr (e : Bool) (vd : Fin 128) (xa xb : Src) : Statement (.shr e vd xa xb) := by
  have h0 : ∀ f, decodeLane 0x15 e f = decLr3 f (Instr.shr e) := fun _ => rfl
  exact roundTrip_lane e 0x15 (encLr3 vd xa xb) rfl (by decide) (encLr3_lt vd xa xb) rfl ((h0 _).trans (decLr3_enc vd xa xb (Instr.shr e)))

theorem sar (e : Bool) (vd : Fin 128) (xa xb : Src) : Statement (.sar e vd xa xb) := by
  have h0 : ∀ f, decodeLane 0x16 e f = decLr3 f (Instr.sar e) := fun _ => rfl
  exact roundTrip_lane e 0x16 (encLr3 vd xa xb) rfl (by decide) (encLr3_lt vd xa xb) rfl ((h0 _).trans (decLr3_enc vd xa xb (Instr.sar e)))

theorem popc (e : Bool) (vd : Fin 128) (xa : Src) : Statement (.popc e vd xa) := by
  have h0 : ∀ f, decodeLane 0x17 e f = decLr2 f (Instr.popc e) := fun _ => rfl
  exact roundTrip_lane e 0x17 (encLr2 vd xa) rfl (by decide) (encLr2_lt vd xa) rfl ((h0 _).trans (decLr2_enc vd xa (Instr.popc e)))

theorem clz (e : Bool) (vd : Fin 128) (xa : Src) : Statement (.clz e vd xa) := by
  have h0 : ∀ f, decodeLane 0x18 e f = decLr2 f (Instr.clz e) := fun _ => rfl
  exact roundTrip_lane e 0x18 (encLr2 vd xa) rfl (by decide) (encLr2_lt vd xa) rfl ((h0 _).trans (decLr2_enc vd xa (Instr.clz e)))

theorem brev (e : Bool) (vd : Fin 128) (xa : Src) : Statement (.brev e vd xa) := by
  have h0 : ∀ f, decodeLane 0x19 e f = decLr2 f (Instr.brev e) := fun _ => rfl
  exact roundTrip_lane e 0x19 (encLr2 vd xa) rfl (by decide) (encLr2_lt vd xa) rfl ((h0 _).trans (decLr2_enc vd xa (Instr.brev e)))

theorem bfe (e : Bool) (vd : Fin 128) (xa xb : Src) : Statement (.bfe e vd xa xb) := by
  have h0 : ∀ f, decodeLane 0x1A e f = decLr3 f (Instr.bfe e) := fun _ => rfl
  exact roundTrip_lane e 0x1A (encLr3 vd xa xb) rfl (by decide) (encLr3_lt vd xa xb) rfl ((h0 _).trans (decLr3_enc vd xa xb (Instr.bfe e)))

theorem bfi (e : Bool) (vd : Fin 128) (xa xb : Src) : Statement (.bfi e vd xa xb) := by
  have h0 : ∀ f, decodeLane 0x1B e f = decLr3 f (Instr.bfi e) := fun _ => rfl
  exact roundTrip_lane e 0x1B (encLr3 vd xa xb) rfl (by decide) (encLr3_lt vd xa xb) rfl ((h0 _).trans (decLr3_enc vd xa xb (Instr.bfi e)))

theorem iaddi (e : Bool) (vd : Fin 128) (xa : Src) (imm : BitVec 8) : Statement (.iaddi e vd xa imm) := by
  have h0 : ∀ f, decodeLane 0x1C e f = decLi f (Instr.iaddi e) := fun _ => rfl
  exact roundTrip_lane e 0x1C (encLi vd xa imm) rfl (by decide) (encLi_lt vd xa imm) rfl ((h0 _).trans (decLi_enc vd xa imm (Instr.iaddi e)))

theorem andi (e : Bool) (vd : Fin 128) (xa : Src) (imm : BitVec 8) : Statement (.andi e vd xa imm) := by
  have h0 : ∀ f, decodeLane 0x1D e f = decLi f (Instr.andi e) := fun _ => rfl
  exact roundTrip_lane e 0x1D (encLi vd xa imm) rfl (by decide) (encLi_lt vd xa imm) rfl ((h0 _).trans (decLi_enc vd xa imm (Instr.andi e)))

theorem ori (e : Bool) (vd : Fin 128) (xa : Src) (imm : BitVec 8) : Statement (.ori e vd xa imm) := by
  have h0 : ∀ f, decodeLane 0x1E e f = decLi f (Instr.ori e) := fun _ => rfl
  exact roundTrip_lane e 0x1E (encLi vd xa imm) rfl (by decide) (encLi_lt vd xa imm) rfl ((h0 _).trans (decLi_enc vd xa imm (Instr.ori e)))

theorem xori (e : Bool) (vd : Fin 128) (xa : Src) (imm : BitVec 8) : Statement (.xori e vd xa imm) := by
  have h0 : ∀ f, decodeLane 0x1F e f = decLi f (Instr.xori e) := fun _ => rfl
  exact roundTrip_lane e 0x1F (encLi vd xa imm) rfl (by decide) (encLi_lt vd xa imm) rfl ((h0 _).trans (decLi_enc vd xa imm (Instr.xori e)))

theorem shli (e : Bool) (vd : Fin 128) (xa : Src) (imm : BitVec 8) : Statement (.shli e vd xa imm) := by
  have h0 : ∀ f, decodeLane 0x20 e f = decLi f (Instr.shli e) := fun _ => rfl
  exact roundTrip_lane e 0x20 (encLi vd xa imm) rfl (by decide) (encLi_lt vd xa imm) rfl ((h0 _).trans (decLi_enc vd xa imm (Instr.shli e)))

theorem shri (e : Bool) (vd : Fin 128) (xa : Src) (imm : BitVec 8) : Statement (.shri e vd xa imm) := by
  have h0 : ∀ f, decodeLane 0x21 e f = decLi f (Instr.shri e) := fun _ => rfl
  exact roundTrip_lane e 0x21 (encLi vd xa imm) rfl (by decide) (encLi_lt vd xa imm) rfl ((h0 _).trans (decLi_enc vd xa imm (Instr.shri e)))

theorem sari (e : Bool) (vd : Fin 128) (xa : Src) (imm : BitVec 8) : Statement (.sari e vd xa imm) := by
  have h0 : ∀ f, decodeLane 0x22 e f = decLi f (Instr.sari e) := fun _ => rfl
  exact roundTrip_lane e 0x22 (encLi vd xa imm) rfl (by decide) (encLi_lt vd xa imm) rfl ((h0 _).trans (decLi_enc vd xa imm (Instr.sari e)))

theorem movi (e : Bool) (vd : Fin 128) (imm : BitVec 16) : Statement (.movi e vd imm) := by
  have h0 : ∀ f, decodeLane 0x23 e f = decLm f (Instr.movi e) := fun _ => rfl
  exact roundTrip_lane e 0x23 (encLm vd imm) rfl (by decide) (encLm_lt vd imm) rfl ((h0 _).trans (decLm_enc vd imm (Instr.movi e)))

theorem movhi (e : Bool) (vd : Fin 128) (imm : BitVec 16) : Statement (.movhi e vd imm) := by
  have h0 : ∀ f, decodeLane 0x24 e f = decLm f (Instr.movhi e) := fun _ => rfl
  exact roundTrip_lane e 0x24 (encLm vd imm) rfl (by decide) (encLm_lt vd imm) rfl ((h0 _).trans (decLm_enc vd imm (Instr.movhi e)))

theorem mov (e : Bool) (vd : Fin 128) (xa : Src) : Statement (.mov e vd xa) := by
  have h0 : ∀ f, decodeLane 0x25 e f = decLr2 f (Instr.mov e) := fun _ => rfl
  exact roundTrip_lane e 0x25 (encLr2 vd xa) rfl (by decide) (encLr2_lt vd xa) rfl ((h0 _).trans (decLr2_enc vd xa (Instr.mov e)))

theorem sel (e : Bool) (vd : Fin 128) (xa xb : Src) : Statement (.sel e vd xa xb) := by
  have h0 : ∀ f, decodeLane 0x26 e f = decLr3 f (Instr.sel e) := fun _ => rfl
  exact roundTrip_lane e 0x26 (encLr3 vd xa xb) rfl (by decide) (encLr3_lt vd xa xb) rfl ((h0 _).trans (decLr3_enc vd xa xb (Instr.sel e)))

theorem movs (e : Bool) (vd : Fin 128) (idx : BitVec 8) : Statement (.movs e vd idx) := by
  have h0 : ∀ f, decodeLane 0x27 e f = decMovs f (Instr.movs e) := fun _ => rfl
  exact roundTrip_lane e 0x27 (encMovs vd idx) rfl (by decide) (encMovs_lt vd idx) rfl ((h0 _).trans (decMovs_enc vd idx (Instr.movs e)))

theorem icmp (e : Bool) (cc : ICond) (kd : Fin 8) (xa xb : Src) : Statement (.icmp e cc kd xa xb) := by
  have h0 : ∀ f, decodeLane 0x28 e f = decIcmp f (Instr.icmp e) := fun _ => rfl
  exact roundTrip_lane e 0x28 (encIcmp cc kd xa xb) rfl (by decide) (encIcmp_lt cc kd xa xb) rfl ((h0 _).trans (decIcmp_enc cc kd xa xb (Instr.icmp e)))

theorem fcmp (e : Bool) (cc : FCond) (kd : Fin 8) (xa xb : Src) : Statement (.fcmp e cc kd xa xb) := by
  have h0 : ∀ f, decodeLane 0x29 e f = decFcmp f (Instr.fcmp e) := fun _ => rfl
  exact roundTrip_lane e 0x29 (encFcmp cc kd xa xb) rfl (by decide) (encFcmp_lt cc kd xa xb) rfl ((h0 _).trans (decFcmp_enc cc kd xa xb (Instr.fcmp e)))

theorem kand (e : Bool) (kd ka kb : Fin 8) : Statement (.kand e kd ka kb) := by
  refine roundTrip_lane e 0x2A (encKop 0 kd ka kb) rfl (by decide) (encKop_lt 0 kd ka kb (by decide)) rfl ?_
  have h := decKop_enc 0 kd ka kb (by decide) (Instr.kand e)
  have hf := encKop_fn 0 kd ka kb (by decide)
  have h0 : ∀ f, decodeLane 0x2A e f = decodeLane28 2 e f := fun _ => rfl
  rw [h0]
  simp only [decodeLane28, hf, ending]
  exact h

theorem kor (e : Bool) (kd ka kb : Fin 8) : Statement (.kor e kd ka kb) := by
  refine roundTrip_lane e 0x2A (encKop 1 kd ka kb) rfl (by decide) (encKop_lt 1 kd ka kb (by decide)) rfl ?_
  have h := decKop_enc 1 kd ka kb (by decide) (Instr.kor e)
  have hf := encKop_fn 1 kd ka kb (by decide)
  have h0 : ∀ f, decodeLane 0x2A e f = decodeLane28 2 e f := fun _ => rfl
  rw [h0]
  simp only [decodeLane28, hf, ending]
  exact h

theorem kxor (e : Bool) (kd ka kb : Fin 8) : Statement (.kxor e kd ka kb) := by
  refine roundTrip_lane e 0x2A (encKop 2 kd ka kb) rfl (by decide) (encKop_lt 2 kd ka kb (by decide)) rfl ?_
  have h := decKop_enc 2 kd ka kb (by decide) (Instr.kxor e)
  have hf := encKop_fn 2 kd ka kb (by decide)
  have h0 : ∀ f, decodeLane 0x2A e f = decodeLane28 2 e f := fun _ => rfl
  rw [h0]
  simp only [decodeLane28, hf, ending]
  exact h

theorem kandn (e : Bool) (kd ka kb : Fin 8) : Statement (.kandn e kd ka kb) := by
  refine roundTrip_lane e 0x2A (encKop 3 kd ka kb) rfl (by decide) (encKop_lt 3 kd ka kb (by decide)) rfl ?_
  have h := decKop_enc 3 kd ka kb (by decide) (Instr.kandn e)
  have hf := encKop_fn 3 kd ka kb (by decide)
  have h0 : ∀ f, decodeLane 0x2A e f = decodeLane28 2 e f := fun _ => rfl
  rw [h0]
  simp only [decodeLane28, hf, ending]
  exact h

theorem knot (e : Bool) (kd ka : Fin 8) : Statement (.knot e kd ka) := by
  refine roundTrip_lane e 0x2A (encKnot 4 kd ka) rfl (by decide) (encKnot_lt 4 kd ka (by decide)) rfl ?_
  have h := decKnot_enc 4 kd ka (by decide) (Instr.knot e)
  have hf := encKnot_fn 4 kd ka (by decide)
  have h0 : ∀ f, decodeLane 0x2A e f = decodeLane28 2 e f := fun _ => rfl
  rw [h0]
  simp only [decodeLane28, hf, ending]
  exact h

theorem ktov (e : Bool) (vd : Fin 128) (ka : Fin 8) : Statement (.ktov e vd ka) := by
  have h0 : ∀ f, decodeLane 0x2B e f = decKtov f (Instr.ktov e) := fun _ => rfl
  exact roundTrip_lane e 0x2B (encKtov vd ka) rfl (by decide) (encKtov_lt vd ka) rfl ((h0 _).trans (decKtov_enc vd ka (Instr.ktov e)))

theorem vtok (e : Bool) (kd : Fin 8) (xa : Src) : Statement (.vtok e kd xa) := by
  have h0 : ∀ f, decodeLane 0x2C e f = decVtok f (Instr.vtok e) := fun _ => rfl
  exact roundTrip_lane e 0x2C (encVtok kd xa) rfl (by decide) (encVtok_lt kd xa) rfl ((h0 _).trans (decVtok_enc kd xa (Instr.vtok e)))

theorem iadd64 (e : Bool) (vd : Fin 128) (xa xb : Src) : Statement (.iadd64 e vd xa xb) := by
  have h0 : ∀ f, decodeLane 0x2D e f = decLr3q f (Instr.iadd64 e) := fun _ => rfl
  exact roundTrip_lane e 0x2D (encLr3q vd xa xb) rfl (by decide) (encLr3q_lt vd xa xb) rfl ((h0 _).trans (decLr3q_enc vd xa xb (Instr.iadd64 e)))

theorem imulw (e : Bool) (vd : Fin 128) (xa xb : Src) : Statement (.imulw e vd xa xb) := by
  have h0 : ∀ f, decodeLane 0x2E e f = decLr3d f (Instr.imulw e) := fun _ => rfl
  exact roundTrip_lane e 0x2E (encLr3d vd xa xb) rfl (by decide) (encLr3d_lt vd xa xb) rfl ((h0 _).trans (decLr3d_enc vd xa xb (Instr.imulw e)))

theorem fadd (e : Bool) (vd : Fin 128) (xa xb : Src) : Statement (.fadd e vd xa xb) := by
  have h0 : ∀ f, decodeLane 0x30 e f = decLr3 f (Instr.fadd e) := fun _ => rfl
  exact roundTrip_lane e 0x30 (encLr3 vd xa xb) rfl (by decide) (encLr3_lt vd xa xb) rfl ((h0 _).trans (decLr3_enc vd xa xb (Instr.fadd e)))

theorem fsub (e : Bool) (vd : Fin 128) (xa xb : Src) : Statement (.fsub e vd xa xb) := by
  have h0 : ∀ f, decodeLane 0x31 e f = decLr3 f (Instr.fsub e) := fun _ => rfl
  exact roundTrip_lane e 0x31 (encLr3 vd xa xb) rfl (by decide) (encLr3_lt vd xa xb) rfl ((h0 _).trans (decLr3_enc vd xa xb (Instr.fsub e)))

theorem fmul (e : Bool) (vd : Fin 128) (xa xb : Src) : Statement (.fmul e vd xa xb) := by
  have h0 : ∀ f, decodeLane 0x32 e f = decLr3 f (Instr.fmul e) := fun _ => rfl
  exact roundTrip_lane e 0x32 (encLr3 vd xa xb) rfl (by decide) (encLr3_lt vd xa xb) rfl ((h0 _).trans (decLr3_enc vd xa xb (Instr.fmul e)))

theorem ffma (e : Bool) (vd : Fin 128) (xa xb : Src) : Statement (.ffma e vd xa xb) := by
  have h0 : ∀ f, decodeLane 0x33 e f = decLr3 f (Instr.ffma e) := fun _ => rfl
  exact roundTrip_lane e 0x33 (encLr3 vd xa xb) rfl (by decide) (encLr3_lt vd xa xb) rfl ((h0 _).trans (decLr3_enc vd xa xb (Instr.ffma e)))

theorem fmin (e : Bool) (vd : Fin 128) (xa xb : Src) : Statement (.fmin e vd xa xb) := by
  have h0 : ∀ f, decodeLane 0x34 e f = decLr3 f (Instr.fmin e) := fun _ => rfl
  exact roundTrip_lane e 0x34 (encLr3 vd xa xb) rfl (by decide) (encLr3_lt vd xa xb) rfl ((h0 _).trans (decLr3_enc vd xa xb (Instr.fmin e)))

theorem fmax (e : Bool) (vd : Fin 128) (xa xb : Src) : Statement (.fmax e vd xa xb) := by
  have h0 : ∀ f, decodeLane 0x35 e f = decLr3 f (Instr.fmax e) := fun _ => rfl
  exact roundTrip_lane e 0x35 (encLr3 vd xa xb) rfl (by decide) (encLr3_lt vd xa xb) rfl ((h0 _).trans (decLr3_enc vd xa xb (Instr.fmax e)))

theorem fdiv (e : Bool) (vd : Fin 128) (xa xb : Src) : Statement (.fdiv e vd xa xb) := by
  have h0 : ∀ f, decodeLane 0x36 e f = decLr3 f (Instr.fdiv e) := fun _ => rfl
  exact roundTrip_lane e 0x36 (encLr3 vd xa xb) rfl (by decide) (encLr3_lt vd xa xb) rfl ((h0 _).trans (decLr3_enc vd xa xb (Instr.fdiv e)))

theorem fabs (e : Bool) (vd : Fin 128) (xa : Src) : Statement (.fabs e vd xa) := by
  refine roundTrip_lane e 0x37 (encFun vd xa 0) rfl (by decide) (encFun_lt vd xa 0 (by decide)) rfl ?_
  have h := decFun_enc vd xa 0 (by decide) (Instr.fabs e)
  have hf := encFun_fn vd xa 0 (by decide)
  have h0 : ∀ f, decodeLane 0x37 e f = decodeLane30 7 e f := fun _ => rfl
  rw [h0]
  simp only [decodeLane30, hf, ending]
  exact h

theorem fneg (e : Bool) (vd : Fin 128) (xa : Src) : Statement (.fneg e vd xa) := by
  refine roundTrip_lane e 0x37 (encFun vd xa 1) rfl (by decide) (encFun_lt vd xa 1 (by decide)) rfl ?_
  have h := decFun_enc vd xa 1 (by decide) (Instr.fneg e)
  have hf := encFun_fn vd xa 1 (by decide)
  have h0 : ∀ f, decodeLane 0x37 e f = decodeLane30 7 e f := fun _ => rfl
  rw [h0]
  simp only [decodeLane30, hf, ending]
  exact h

theorem ffloor (e : Bool) (vd : Fin 128) (xa : Src) : Statement (.ffloor e vd xa) := by
  refine roundTrip_lane e 0x37 (encFun vd xa 2) rfl (by decide) (encFun_lt vd xa 2 (by decide)) rfl ?_
  have h := decFun_enc vd xa 2 (by decide) (Instr.ffloor e)
  have hf := encFun_fn vd xa 2 (by decide)
  have h0 : ∀ f, decodeLane 0x37 e f = decodeLane30 7 e f := fun _ => rfl
  rw [h0]
  simp only [decodeLane30, hf, ending]
  exact h

theorem fceil (e : Bool) (vd : Fin 128) (xa : Src) : Statement (.fceil e vd xa) := by
  refine roundTrip_lane e 0x37 (encFun vd xa 3) rfl (by decide) (encFun_lt vd xa 3 (by decide)) rfl ?_
  have h := decFun_enc vd xa 3 (by decide) (Instr.fceil e)
  have hf := encFun_fn vd xa 3 (by decide)
  have h0 : ∀ f, decodeLane 0x37 e f = decodeLane30 7 e f := fun _ => rfl
  rw [h0]
  simp only [decodeLane30, hf, ending]
  exact h

theorem ftrunc (e : Bool) (vd : Fin 128) (xa : Src) : Statement (.ftrunc e vd xa) := by
  refine roundTrip_lane e 0x37 (encFun vd xa 4) rfl (by decide) (encFun_lt vd xa 4 (by decide)) rfl ?_
  have h := decFun_enc vd xa 4 (by decide) (Instr.ftrunc e)
  have hf := encFun_fn vd xa 4 (by decide)
  have h0 : ∀ f, decodeLane 0x37 e f = decodeLane30 7 e f := fun _ => rfl
  rw [h0]
  simp only [decodeLane30, hf, ending]
  exact h

theorem frint (e : Bool) (vd : Fin 128) (xa : Src) : Statement (.frint e vd xa) := by
  refine roundTrip_lane e 0x37 (encFun vd xa 5) rfl (by decide) (encFun_lt vd xa 5 (by decide)) rfl ?_
  have h := decFun_enc vd xa 5 (by decide) (Instr.frint e)
  have hf := encFun_fn vd xa 5 (by decide)
  have h0 : ∀ f, decodeLane 0x37 e f = decodeLane30 7 e f := fun _ => rfl
  rw [h0]
  simp only [decodeLane30, hf, ending]
  exact h

theorem frcp (e : Bool) (vd : Fin 128) (xa : Src) : Statement (.frcp e vd xa) := by
  refine roundTrip_lane e 0x37 (encFun vd xa 6) rfl (by decide) (encFun_lt vd xa 6 (by decide)) rfl ?_
  have h := decFun_enc vd xa 6 (by decide) (Instr.frcp e)
  have hf := encFun_fn vd xa 6 (by decide)
  have h0 : ∀ f, decodeLane 0x37 e f = decodeLane30 7 e f := fun _ => rfl
  rw [h0]
  simp only [decodeLane30, hf, ending]
  exact h

theorem frsq (e : Bool) (vd : Fin 128) (xa : Src) : Statement (.frsq e vd xa) := by
  refine roundTrip_lane e 0x37 (encFun vd xa 7) rfl (by decide) (encFun_lt vd xa 7 (by decide)) rfl ?_
  have h := decFun_enc vd xa 7 (by decide) (Instr.frsq e)
  have hf := encFun_fn vd xa 7 (by decide)
  have h0 : ∀ f, decodeLane 0x37 e f = decodeLane30 7 e f := fun _ => rfl
  rw [h0]
  simp only [decodeLane30, hf, ending]
  exact h

theorem fsqrt (e : Bool) (vd : Fin 128) (xa : Src) : Statement (.fsqrt e vd xa) := by
  refine roundTrip_lane e 0x37 (encFun vd xa 8) rfl (by decide) (encFun_lt vd xa 8 (by decide)) rfl ?_
  have h := decFun_enc vd xa 8 (by decide) (Instr.fsqrt e)
  have hf := encFun_fn vd xa 8 (by decide)
  have h0 : ∀ f, decodeLane 0x37 e f = decodeLane30 7 e f := fun _ => rfl
  rw [h0]
  simp only [decodeLane30, hf, ending]
  exact h

theorem fexp2 (e : Bool) (vd : Fin 128) (xa : Src) : Statement (.fexp2 e vd xa) := by
  refine roundTrip_lane e 0x37 (encFun vd xa 9) rfl (by decide) (encFun_lt vd xa 9 (by decide)) rfl ?_
  have h := decFun_enc vd xa 9 (by decide) (Instr.fexp2 e)
  have hf := encFun_fn vd xa 9 (by decide)
  have h0 : ∀ f, decodeLane 0x37 e f = decodeLane30 7 e f := fun _ => rfl
  rw [h0]
  simp only [decodeLane30, hf, ending]
  exact h

theorem flog2 (e : Bool) (vd : Fin 128) (xa : Src) : Statement (.flog2 e vd xa) := by
  refine roundTrip_lane e 0x37 (encFun vd xa 10) rfl (by decide) (encFun_lt vd xa 10 (by decide)) rfl ?_
  have h := decFun_enc vd xa 10 (by decide) (Instr.flog2 e)
  have hf := encFun_fn vd xa 10 (by decide)
  have h0 : ∀ f, decodeLane 0x37 e f = decodeLane30 7 e f := fun _ => rfl
  rw [h0]
  simp only [decodeLane30, hf, ending]
  exact h

theorem fsin (e : Bool) (vd : Fin 128) (xa : Src) : Statement (.fsin e vd xa) := by
  refine roundTrip_lane e 0x37 (encFun vd xa 11) rfl (by decide) (encFun_lt vd xa 11 (by decide)) rfl ?_
  have h := decFun_enc vd xa 11 (by decide) (Instr.fsin e)
  have hf := encFun_fn vd xa 11 (by decide)
  have h0 : ∀ f, decodeLane 0x37 e f = decodeLane30 7 e f := fun _ => rfl
  rw [h0]
  simp only [decodeLane30, hf, ending]
  exact h

theorem fcos (e : Bool) (vd : Fin 128) (xa : Src) : Statement (.fcos e vd xa) := by
  refine roundTrip_lane e 0x37 (encFun vd xa 12) rfl (by decide) (encFun_lt vd xa 12 (by decide)) rfl ?_
  have h := decFun_enc vd xa 12 (by decide) (Instr.fcos e)
  have hf := encFun_fn vd xa 12 (by decide)
  have h0 : ∀ f, decodeLane 0x37 e f = decodeLane30 7 e f := fun _ => rfl
  rw [h0]
  simp only [decodeLane30, hf, ending]
  exact h

theorem fclass (e : Bool) (vd : Fin 128) (xa : Src) : Statement (.fclass e vd xa) := by
  refine roundTrip_lane e 0x37 (encFun vd xa 13) rfl (by decide) (encFun_lt vd xa 13 (by decide)) rfl ?_
  have h := decFun_enc vd xa 13 (by decide) (Instr.fclass e)
  have hf := encFun_fn vd xa 13 (by decide)
  have h0 : ∀ f, decodeLane 0x37 e f = decodeLane30 7 e f := fun _ => rfl
  rw [h0]
  simp only [decodeLane30, hf, ending]
  exact h

theorem fscale (e : Bool) (vd : Fin 128) (xa xb : Src) : Statement (.fscale e vd xa xb) := by
  have h0 : ∀ f, decodeLane 0x38 e f = decLr3 f (Instr.fscale e) := fun _ => rfl
  exact roundTrip_lane e 0x38 (encLr3 vd xa xb) rfl (by decide) (encLr3_lt vd xa xb) rfl ((h0 _).trans (decLr3_enc vd xa xb (Instr.fscale e)))

theorem qpopv (vd : Fin 128) (q : Fin 16) : Statement (.qpopv vd q) := by
  have h0 : ∀ f, decodeLane 0x39 true f = decQpopv f Instr.qpopv := fun _ => rfl
  exact roundTrip_lane true 0x39 (encQpopv vd q) rfl (by decide) (encQpopv_lt vd q) rfl ((h0 _).trans (decQpopv_enc vd q Instr.qpopv))

theorem mxstr (tile : Fin 8) (xa : Src) (vd : Fin 128) (bsel : BitVec 2) (q8 zf : Bool) : Statement (.mxstr tile xa vd bsel q8 zf) := by
  have h0 : ∀ f, decodeLane 0x3A true f = decMxstr f Instr.mxstr := fun _ => rfl
  exact roundTrip_lane true 0x3A (encMxstr tile xa vd bsel q8 zf) rfl (by decide) (encMxstr_lt tile xa vd bsel q8 zf) rfl ((h0 _).trans (decMxstr_enc tile xa vd bsel q8 zf Instr.mxstr))

theorem hadd2 (e : Bool) (vd : Fin 128) (xa xb : Src) : Statement (.hadd2 e vd xa xb) := by
  have h0 : ∀ f, decodeLane 0x40 e f = decLr3 f (Instr.hadd2 e) := fun _ => rfl
  exact roundTrip_lane e 0x40 (encLr3 vd xa xb) rfl (by decide) (encLr3_lt vd xa xb) rfl ((h0 _).trans (decLr3_enc vd xa xb (Instr.hadd2 e)))

theorem hmul2 (e : Bool) (vd : Fin 128) (xa xb : Src) : Statement (.hmul2 e vd xa xb) := by
  have h0 : ∀ f, decodeLane 0x41 e f = decLr3 f (Instr.hmul2 e) := fun _ => rfl
  exact roundTrip_lane e 0x41 (encLr3 vd xa xb) rfl (by decide) (encLr3_lt vd xa xb) rfl ((h0 _).trans (decLr3_enc vd xa xb (Instr.hmul2 e)))

theorem hfma2 (e : Bool) (vd : Fin 128) (xa xb : Src) : Statement (.hfma2 e vd xa xb) := by
  have h0 : ∀ f, decodeLane 0x42 e f = decLr3 f (Instr.hfma2 e) := fun _ => rfl
  exact roundTrip_lane e 0x42 (encLr3 vd xa xb) rfl (by decide) (encLr3_lt vd xa xb) rfl ((h0 _).trans (decLr3_enc vd xa xb (Instr.hfma2 e)))

theorem badd2 (e : Bool) (vd : Fin 128) (xa xb : Src) : Statement (.badd2 e vd xa xb) := by
  have h0 : ∀ f, decodeLane 0x43 e f = decLr3 f (Instr.badd2 e) := fun _ => rfl
  exact roundTrip_lane e 0x43 (encLr3 vd xa xb) rfl (by decide) (encLr3_lt vd xa xb) rfl ((h0 _).trans (decLr3_enc vd xa xb (Instr.badd2 e)))

theorem bmul2 (e : Bool) (vd : Fin 128) (xa xb : Src) : Statement (.bmul2 e vd xa xb) := by
  have h0 : ∀ f, decodeLane 0x44 e f = decLr3 f (Instr.bmul2 e) := fun _ => rfl
  exact roundTrip_lane e 0x44 (encLr3 vd xa xb) rfl (by decide) (encLr3_lt vd xa xb) rfl ((h0 _).trans (decLr3_enc vd xa xb (Instr.bmul2 e)))

theorem bfma2 (e : Bool) (vd : Fin 128) (xa xb : Src) : Statement (.bfma2 e vd xa xb) := by
  have h0 : ∀ f, decodeLane 0x45 e f = decLr3 f (Instr.bfma2 e) := fun _ => rfl
  exact roundTrip_lane e 0x45 (encLr3 vd xa xb) rfl (by decide) (encLr3_lt vd xa xb) rfl ((h0 _).trans (decLr3_enc vd xa xb (Instr.bfma2 e)))

theorem iadd2 (e : Bool) (vd : Fin 128) (xa xb : Src) : Statement (.iadd2 e vd xa xb) := by
  have h0 : ∀ f, decodeLane 0x46 e f = decLr3 f (Instr.iadd2 e) := fun _ => rfl
  exact roundTrip_lane e 0x46 (encLr3 vd xa xb) rfl (by decide) (encLr3_lt vd xa xb) rfl ((h0 _).trans (decLr3_enc vd xa xb (Instr.iadd2 e)))

theorem isub2 (e : Bool) (vd : Fin 128) (xa xb : Src) : Statement (.isub2 e vd xa xb) := by
  have h0 : ∀ f, decodeLane 0x47 e f = decLr3 f (Instr.isub2 e) := fun _ => rfl
  exact roundTrip_lane e 0x47 (encLr3 vd xa xb) rfl (by decide) (encLr3_lt vd xa xb) rfl ((h0 _).trans (decLr3_enc vd xa xb (Instr.isub2 e)))

theorem iadds2 (e : Bool) (vd : Fin 128) (xa xb : Src) : Statement (.iadds2 e vd xa xb) := by
  have h0 : ∀ f, decodeLane 0x48 e f = decLr3 f (Instr.iadds2 e) := fun _ => rfl
  exact roundTrip_lane e 0x48 (encLr3 vd xa xb) rfl (by decide) (encLr3_lt vd xa xb) rfl ((h0 _).trans (decLr3_enc vd xa xb (Instr.iadds2 e)))

theorem isubs2 (e : Bool) (vd : Fin 128) (xa xb : Src) : Statement (.isubs2 e vd xa xb) := by
  have h0 : ∀ f, decodeLane 0x49 e f = decLr3 f (Instr.isubs2 e) := fun _ => rfl
  exact roundTrip_lane e 0x49 (encLr3 vd xa xb) rfl (by decide) (encLr3_lt vd xa xb) rfl ((h0 _).trans (decLr3_enc vd xa xb (Instr.isubs2 e)))

theorem imax2 (e : Bool) (vd : Fin 128) (xa xb : Src) : Statement (.imax2 e vd xa xb) := by
  have h0 : ∀ f, decodeLane 0x4A e f = decLr3 f (Instr.imax2 e) := fun _ => rfl
  exact roundTrip_lane e 0x4A (encLr3 vd xa xb) rfl (by decide) (encLr3_lt vd xa xb) rfl ((h0 _).trans (decLr3_enc vd xa xb (Instr.imax2 e)))

theorem imin2 (e : Bool) (vd : Fin 128) (xa xb : Src) : Statement (.imin2 e vd xa xb) := by
  have h0 : ∀ f, decodeLane 0x4B e f = decLr3 f (Instr.imin2 e) := fun _ => rfl
  exact roundTrip_lane e 0x4B (encLr3 vd xa xb) rfl (by decide) (encLr3_lt vd xa xb) rfl ((h0 _).trans (decLr3_enc vd xa xb (Instr.imin2 e)))

theorem idp4 (e : Bool) (vd : Fin 128) (xa xb : Src) : Statement (.idp4 e vd xa xb) := by
  have h0 : ∀ f, decodeLane 0x4C e f = decLr3 f (Instr.idp4 e) := fun _ => rfl
  exact roundTrip_lane e 0x4C (encLr3 vd xa xb) rfl (by decide) (encLr3_lt vd xa xb) rfl ((h0 _).trans (decLr3_enc vd xa xb (Instr.idp4 e)))

theorem udp4 (e : Bool) (vd : Fin 128) (xa xb : Src) : Statement (.udp4 e vd xa xb) := by
  have h0 : ∀ f, decodeLane 0x4D e f = decLr3 f (Instr.udp4 e) := fun _ => rfl
  exact roundTrip_lane e 0x4D (encLr3 vd xa xb) rfl (by decide) (encLr3_lt vd xa xb) rfl ((h0 _).trans (decLr3_enc vd xa xb (Instr.udp4 e)))

theorem hdp2 (e : Bool) (vd : Fin 128) (xa xb : Src) : Statement (.hdp2 e vd xa xb) := by
  have h0 : ∀ f, decodeLane 0x4E e f = decLr3 f (Instr.hdp2 e) := fun _ => rfl
  exact roundTrip_lane e 0x4E (encLr3 vd xa xb) rfl (by decide) (encLr3_lt vd xa xb) rfl ((h0 _).trans (decLr3_enc vd xa xb (Instr.hdp2 e)))

theorem bdp2 (e : Bool) (vd : Fin 128) (xa xb : Src) : Statement (.bdp2 e vd xa xb) := by
  have h0 : ∀ f, decodeLane 0x4F e f = decLr3 f (Instr.bdp2 e) := fun _ => rfl
  exact roundTrip_lane e 0x4F (encLr3 vd xa xb) rfl (by decide) (encLr3_lt vd xa xb) rfl ((h0 _).trans (decLr3_enc vd xa xb (Instr.bdp2 e)))

theorem cvt (e : Bool) (conv : Conv) (mode : RMode) (inf : Bool) (vd : Fin 128) (xa : Src) : Statement (.cvt e conv mode inf vd xa) := by
  have h0 : ∀ f, decodeLane 0x50 e f = decCvt f (Instr.cvt e) := fun _ => rfl
  exact roundTrip_lane e 0x50 (encCvt conv mode inf vd xa) rfl (by decide) (encCvt_lt conv mode inf vd xa) rfl ((h0 _).trans (decCvt_enc conv mode inf vd xa (Instr.cvt e)))

theorem pack (e : Bool) (vd : Fin 128) (xa xb : Src) : Statement (.pack e vd xa xb) := by
  have h0 : ∀ f, decodeLane 0x51 e f = decLr3 f (Instr.pack e) := fun _ => rfl
  exact roundTrip_lane e 0x51 (encLr3 vd xa xb) rfl (by decide) (encLr3_lt vd xa xb) rfl ((h0 _).trans (decLr3_enc vd xa xb (Instr.pack e)))

theorem shfl (vd : Fin 128) (xa xb : Src) : Statement (.shfl vd xa xb) := by
  have h0 : ∀ f, decodeLane 0x58 true f = decLr3 f Instr.shfl := fun _ => rfl
  exact roundTrip_lane true 0x58 (encLr3 vd xa xb) rfl (by decide) (encLr3_lt vd xa xb) rfl ((h0 _).trans (decLr3_enc vd xa xb Instr.shfl))

theorem shflx (vd : Fin 128) (xa xb : Src) : Statement (.shflx vd xa xb) := by
  have h0 : ∀ f, decodeLane 0x59 true f = decLr3 f Instr.shflx := fun _ => rfl
  exact roundTrip_lane true 0x59 (encLr3 vd xa xb) rfl (by decide) (encLr3_lt vd xa xb) rfl ((h0 _).trans (decLr3_enc vd xa xb Instr.shflx))

theorem ballot (vd : Fin 128) (xa : Src) : Statement (.ballot vd xa) := by
  have h0 : ∀ f, decodeLane 0x5A true f = decLr2 f Instr.ballot := fun _ => rfl
  exact roundTrip_lane true 0x5A (encLr2 vd xa) rfl (by decide) (encLr2_lt vd xa) rfl ((h0 _).trans (decLr2_enc vd xa Instr.ballot))

theorem sred (op : RedOp) (vd : Fin 128) (xa : Src) : Statement (.sred op vd xa) := by
  have h0 : ∀ f, decodeLane 0x5B true f = decSred f Instr.sred := fun _ => rfl
  exact roundTrip_lane true 0x5B (encSred op vd xa) rfl (by decide) (encSred_lt op vd xa) rfl ((h0 _).trans (decSred_enc op vd xa Instr.sred))

theorem sscan (op : RedOp) (excl : Bool) (vd : Fin 128) (xa : Src) : Statement (.sscan op excl vd xa) := by
  have h0 : ∀ f, decodeLane 0x5C true f = decSscan f Instr.sscan := fun _ => rfl
  exact roundTrip_lane true 0x5C (encSscan op excl vd xa) rfl (by decide) (encSscan_lt op excl vd xa) rfl ((h0 _).trans (decSscan_enc op excl vd xa Instr.sscan))

theorem matchLanes (vd : Fin 128) (xa : Src) : Statement (.matchLanes vd xa) := by
  have h0 : ∀ f, decodeLane 0x5D true f = decLr2 f Instr.matchLanes := fun _ => rfl
  exact roundTrip_lane true 0x5D (encLr2 vd xa) rfl (by decide) (encLr2_lt vd xa) rfl ((h0 _).trans (decLr2_enc vd xa Instr.matchLanes))

theorem ldb (e : Bool) (vd : Fin 128) (xa : Src) (xb : Base) : Statement (.ldb e vd xa xb) := by
  have h0 : ∀ f, decodeLane 0x60 e f = decMem f (Instr.ldb e) := fun _ => rfl
  exact roundTrip_lane e 0x60 (encMem vd xa xb) rfl (by decide) (encMem_lt vd xa xb) rfl ((h0 _).trans (decMem_enc vd xa xb (Instr.ldb e)))

theorem ldh (e : Bool) (vd : Fin 128) (xa : Src) (xb : Base) : Statement (.ldh e vd xa xb) := by
  have h0 : ∀ f, decodeLane 0x61 e f = decMem f (Instr.ldh e) := fun _ => rfl
  exact roundTrip_lane e 0x61 (encMem vd xa xb) rfl (by decide) (encMem_lt vd xa xb) rfl ((h0 _).trans (decMem_enc vd xa xb (Instr.ldh e)))

theorem ldw (e : Bool) (vd : Fin 128) (xa : Src) (xb : Base) : Statement (.ldw e vd xa xb) := by
  have h0 : ∀ f, decodeLane 0x62 e f = decMem f (Instr.ldw e) := fun _ => rfl
  exact roundTrip_lane e 0x62 (encMem vd xa xb) rfl (by decide) (encMem_lt vd xa xb) rfl ((h0 _).trans (decMem_enc vd xa xb (Instr.ldw e)))

theorem ldq (e : Bool) (vd : Fin 128) (xa : Src) (xb : Base) : Statement (.ldq e vd xa xb) := by
  have h0 : ∀ f, decodeLane 0x63 e f = decMemq f (Instr.ldq e) := fun _ => rfl
  exact roundTrip_lane e 0x63 (encMemq vd xa xb) rfl (by decide) (encMemq_lt vd xa xb) rfl ((h0 _).trans (decMemq_enc vd xa xb (Instr.ldq e)))

theorem stb (e : Bool) (vd : Fin 128) (xa : Src) (xb : Base) : Statement (.stb e vd xa xb) := by
  have h0 : ∀ f, decodeLane 0x64 e f = decMem f (Instr.stb e) := fun _ => rfl
  exact roundTrip_lane e 0x64 (encMem vd xa xb) rfl (by decide) (encMem_lt vd xa xb) rfl ((h0 _).trans (decMem_enc vd xa xb (Instr.stb e)))

theorem sth (e : Bool) (vd : Fin 128) (xa : Src) (xb : Base) : Statement (.sth e vd xa xb) := by
  have h0 : ∀ f, decodeLane 0x65 e f = decMem f (Instr.sth e) := fun _ => rfl
  exact roundTrip_lane e 0x65 (encMem vd xa xb) rfl (by decide) (encMem_lt vd xa xb) rfl ((h0 _).trans (decMem_enc vd xa xb (Instr.sth e)))

theorem stw (e : Bool) (vd : Fin 128) (xa : Src) (xb : Base) : Statement (.stw e vd xa xb) := by
  have h0 : ∀ f, decodeLane 0x66 e f = decMem f (Instr.stw e) := fun _ => rfl
  exact roundTrip_lane e 0x66 (encMem vd xa xb) rfl (by decide) (encMem_lt vd xa xb) rfl ((h0 _).trans (decMem_enc vd xa xb (Instr.stw e)))

theorem stq (e : Bool) (vd : Fin 128) (xa : Src) (xb : Base) : Statement (.stq e vd xa xb) := by
  have h0 : ∀ f, decodeLane 0x67 e f = decMemq f (Instr.stq e) := fun _ => rfl
  exact roundTrip_lane e 0x67 (encMemq vd xa xb) rfl (by decide) (encMemq_lt vd xa xb) rfl ((h0 _).trans (decMemq_enc vd xa xb (Instr.stq e)))

theorem sldw (e : Bool) (vd : Fin 128) (xa : Src) (imm : BitVec 8) : Statement (.sldw e vd xa imm) := by
  have h0 : ∀ f, decodeLane 0x68 e f = decLi f (Instr.sldw e) := fun _ => rfl
  exact roundTrip_lane e 0x68 (encLi vd xa imm) rfl (by decide) (encLi_lt vd xa imm) rfl ((h0 _).trans (decLi_enc vd xa imm (Instr.sldw e)))

theorem sldq (e : Bool) (vd : Fin 128) (xa : Src) (imm : BitVec 8) : Statement (.sldq e vd xa imm) := by
  have h0 : ∀ f, decodeLane 0x69 e f = decLiq f (Instr.sldq e) := fun _ => rfl
  exact roundTrip_lane e 0x69 (encLiq vd xa imm) rfl (by decide) (encLiq_lt vd xa imm) rfl ((h0 _).trans (decLiq_enc vd xa imm (Instr.sldq e)))

theorem sstw (e : Bool) (vd : Fin 128) (xa : Src) (imm : BitVec 8) : Statement (.sstw e vd xa imm) := by
  have h0 : ∀ f, decodeLane 0x6A e f = decLi f (Instr.sstw e) := fun _ => rfl
  exact roundTrip_lane e 0x6A (encLi vd xa imm) rfl (by decide) (encLi_lt vd xa imm) rfl ((h0 _).trans (decLi_enc vd xa imm (Instr.sstw e)))

theorem sstq (e : Bool) (vd : Fin 128) (xa : Src) (imm : BitVec 8) : Statement (.sstq e vd xa imm) := by
  have h0 : ∀ f, decodeLane 0x6B e f = decLiq f (Instr.sstq e) := fun _ => rfl
  exact roundTrip_lane e 0x6B (encLiq vd xa imm) rfl (by decide) (encLiq_lt vd xa imm) rfl ((h0 _).trans (decLiq_enc vd xa imm (Instr.sstq e)))

theorem cldw (e : Bool) (vd : Fin 128) (xa : Src) (imm : BitVec 8) : Statement (.cldw e vd xa imm) := by
  have h0 : ∀ f, decodeLane 0x6C e f = decLi f (Instr.cldw e) := fun _ => rfl
  exact roundTrip_lane e 0x6C (encLi vd xa imm) rfl (by decide) (encLi_lt vd xa imm) rfl ((h0 _).trans (decLi_enc vd xa imm (Instr.cldw e)))

theorem cstw (e : Bool) (vd : Fin 128) (xa : Src) (imm : BitVec 8) : Statement (.cstw e vd xa imm) := by
  have h0 : ∀ f, decodeLane 0x6D e f = decLi f (Instr.cstw e) := fun _ => rfl
  exact roundTrip_lane e 0x6D (encLi vd xa imm) rfl (by decide) (encLi_lt vd xa imm) rfl ((h0 _).trans (decLi_enc vd xa imm (Instr.cstw e)))

theorem ldwp (e : Bool) (vd va : Fin 128) (imm : BitVec 8) : Statement (.ldwp e vd va imm) := by
  have h0 : ∀ f, decodeLane 0x6E e f = decLip f (Instr.ldwp e) := fun _ => rfl
  exact roundTrip_lane e 0x6E (encLip vd va imm) rfl (by decide) (encLip_lt vd va imm) rfl ((h0 _).trans (decLip_enc vd va imm (Instr.ldwp e)))

theorem stwp (e : Bool) (vd va : Fin 128) (imm : BitVec 8) : Statement (.stwp e vd va imm) := by
  have h0 : ∀ f, decodeLane 0x6F e f = decLip f (Instr.stwp e) := fun _ => rfl
  exact roundTrip_lane e 0x6F (encLip vd va imm) rfl (by decide) (encLip_lt vd va imm) rfl ((h0 _).trans (decLip_enc vd va imm (Instr.stwp e)))

theorem axch (vd : Fin 128) (xa : Src) (xb : Base) : Statement (.axch vd xa xb) := by
  have h0 : ∀ f, decodeLane 0x70 true f = decMem f Instr.axch := fun _ => rfl
  exact roundTrip_lane true 0x70 (encMem vd xa xb) rfl (by decide) (encMem_lt vd xa xb) rfl ((h0 _).trans (decMem_enc vd xa xb Instr.axch))

theorem acas (vd : Fin 128) (xa : Src) (xb : Base) : Statement (.acas vd xa xb) := by
  have h0 : ∀ f, decodeLane 0x71 true f = decMemd f Instr.acas := fun _ => rfl
  exact roundTrip_lane true 0x71 (encMemd vd xa xb) rfl (by decide) (encMemd_lt vd xa xb) rfl ((h0 _).trans (decMemd_enc vd xa xb Instr.acas))

theorem aadd (vd : Fin 128) (xa : Src) (xb : Base) : Statement (.aadd vd xa xb) := by
  have h0 : ∀ f, decodeLane 0x72 true f = decMem f Instr.aadd := fun _ => rfl
  exact roundTrip_lane true 0x72 (encMem vd xa xb) rfl (by decide) (encMem_lt vd xa xb) rfl ((h0 _).trans (decMem_enc vd xa xb Instr.aadd))

theorem aimin (vd : Fin 128) (xa : Src) (xb : Base) : Statement (.aimin vd xa xb) := by
  have h0 : ∀ f, decodeLane 0x73 true f = decMem f Instr.aimin := fun _ => rfl
  exact roundTrip_lane true 0x73 (encMem vd xa xb) rfl (by decide) (encMem_lt vd xa xb) rfl ((h0 _).trans (decMem_enc vd xa xb Instr.aimin))

theorem aimax (vd : Fin 128) (xa : Src) (xb : Base) : Statement (.aimax vd xa xb) := by
  have h0 : ∀ f, decodeLane 0x74 true f = decMem f Instr.aimax := fun _ => rfl
  exact roundTrip_lane true 0x74 (encMem vd xa xb) rfl (by decide) (encMem_lt vd xa xb) rfl ((h0 _).trans (decMem_enc vd xa xb Instr.aimax))

theorem aumin (vd : Fin 128) (xa : Src) (xb : Base) : Statement (.aumin vd xa xb) := by
  have h0 : ∀ f, decodeLane 0x75 true f = decMem f Instr.aumin := fun _ => rfl
  exact roundTrip_lane true 0x75 (encMem vd xa xb) rfl (by decide) (encMem_lt vd xa xb) rfl ((h0 _).trans (decMem_enc vd xa xb Instr.aumin))

theorem aumax (vd : Fin 128) (xa : Src) (xb : Base) : Statement (.aumax vd xa xb) := by
  have h0 : ∀ f, decodeLane 0x76 true f = decMem f Instr.aumax := fun _ => rfl
  exact roundTrip_lane true 0x76 (encMem vd xa xb) rfl (by decide) (encMem_lt vd xa xb) rfl ((h0 _).trans (decMem_enc vd xa xb Instr.aumax))

theorem aand (vd : Fin 128) (xa : Src) (xb : Base) : Statement (.aand vd xa xb) := by
  have h0 : ∀ f, decodeLane 0x77 true f = decMem f Instr.aand := fun _ => rfl
  exact roundTrip_lane true 0x77 (encMem vd xa xb) rfl (by decide) (encMem_lt vd xa xb) rfl ((h0 _).trans (decMem_enc vd xa xb Instr.aand))

theorem aor (vd : Fin 128) (xa : Src) (xb : Base) : Statement (.aor vd xa xb) := by
  have h0 : ∀ f, decodeLane 0x78 true f = decMem f Instr.aor := fun _ => rfl
  exact roundTrip_lane true 0x78 (encMem vd xa xb) rfl (by decide) (encMem_lt vd xa xb) rfl ((h0 _).trans (decMem_enc vd xa xb Instr.aor))

theorem axor (vd : Fin 128) (xa : Src) (xb : Base) : Statement (.axor vd xa xb) := by
  have h0 : ∀ f, decodeLane 0x79 true f = decMem f Instr.axor := fun _ => rfl
  exact roundTrip_lane true 0x79 (encMem vd xa xb) rfl (by decide) (encMem_lt vd xa xb) rfl ((h0 _).trans (decMem_enc vd xa xb Instr.axor))

theorem afadd (vd : Fin 128) (xa : Src) (xb : Base) : Statement (.afadd vd xa xb) := by
  have h0 : ∀ f, decodeLane 0x7A true f = decMem f Instr.afadd := fun _ => rfl
  exact roundTrip_lane true 0x7A (encMem vd xa xb) rfl (by decide) (encMem_lt vd xa xb) rfl ((h0 _).trans (decMem_enc vd xa xb Instr.afadd))

theorem br (k : Fin 8) (off : BitVec 20) : Statement (.br k off) := by
  have h0 : ∀ f, decodeLane 0x7B true f = decBr f Instr.br := fun _ => rfl
  exact roundTrip_lane true 0x7B (encBr k off) rfl (by decide) (encBr_lt k off) rfl ((h0 _).trans (decBr_enc k off Instr.br))

theorem brn (k : Fin 8) (off : BitVec 20) : Statement (.brn k off) := by
  have h0 : ∀ f, decodeLane 0x7C true f = decBr f Instr.brn := fun _ => rfl
  exact roundTrip_lane true 0x7C (encBr k off) rfl (by decide) (encBr_lt k off) rfl ((h0 _).trans (decBr_enc k off Instr.brn))

theorem jmp (off : BitVec 20) : Statement (.jmp off) := by
  have h0 : ∀ f, decodeLane 0x7D true f = decJmp f Instr.jmp := fun _ => rfl
  exact roundTrip_lane true 0x7D (encJmp off) rfl (by decide) (encJmp_lt off) rfl ((h0 _).trans (decJmp_enc off Instr.jmp))

theorem call (off : BitVec 20) : Statement (.call off) := by
  have h0 : ∀ f, decodeLane 0x7E true f = decJmp f Instr.call := fun _ => rfl
  exact roundTrip_lane true 0x7E (encJmp off) rfl (by decide) (encJmp_lt off) rfl ((h0 _).trans (decJmp_enc off Instr.call))

theorem ret : Statement (.ret ) := by
  refine roundTrip_lane true 0x7F (encCtl0 0) rfl (by decide) (encCtl0_lt 0 (by decide)) rfl ?_
  have h := decCtl0_enc 0 (by decide) Instr.ret
  have hf := encCtl0_fn 0 (by decide)
  have h0 : ∀ f, decodeLane 0x7F true f = decodeLane78 7 true f := fun _ => rfl
  rw [h0]
  simp only [decodeLane78, hf, ending]
  exact h

theorem jr (xa : Src) : Statement (.jr xa) := by
  refine roundTrip_lane true 0x7F (encCtla xa 1) rfl (by decide) (encCtla_lt xa 1 (by decide)) rfl ?_
  have h := decCtla_enc xa 1 (by decide) Instr.jr
  have hf := encCtla_fn xa 1 (by decide)
  have h0 : ∀ f, decodeLane 0x7F true f = decodeLane78 7 true f := fun _ => rfl
  rw [h0]
  simp only [decodeLane78, hf, ending]
  exact h

theorem callr (xa : Src) : Statement (.callr xa) := by
  refine roundTrip_lane true 0x7F (encCtla xa 2) rfl (by decide) (encCtla_lt xa 2 (by decide)) rfl ?_
  have h := decCtla_enc xa 2 (by decide) Instr.callr
  have hf := encCtla_fn xa 2 (by decide)
  have h0 : ∀ f, decodeLane 0x7F true f = decodeLane78 7 true f := fun _ => rfl
  rw [h0]
  simp only [decodeLane78, hf, ending]
  exact h

theorem exit : Statement (.exit ) := by
  refine roundTrip_lane true 0x7F (encCtl0 3) rfl (by decide) (encCtl0_lt 3 (by decide)) rfl ?_
  have h := decCtl0_enc 3 (by decide) Instr.exit
  have hf := encCtl0_fn 3 (by decide)
  have h0 : ∀ f, decodeLane 0x7F true f = decodeLane78 7 true f := fun _ => rfl
  rw [h0]
  simp only [decodeLane78, hf, ending]
  exact h

theorem yield : Statement (.yield ) := by
  refine roundTrip_lane true 0x7F (encCtl0 4) rfl (by decide) (encCtl0_lt 4 (by decide)) rfl ?_
  have h := decCtl0_enc 4 (by decide) Instr.yield
  have hf := encCtl0_fn 4 (by decide)
  have h0 : ∀ f, decodeLane 0x7F true f = decodeLane78 7 true f := fun _ => rfl
  rw [h0]
  simp only [decodeLane78, hf, ending]
  exact h

theorem frame (e : Bool) (n : BitVec 8) : Statement (.frame e n) := by
  refine roundTrip_lane e 0x7F (encFrame n 5) rfl (by decide) (encFrame_lt n 5 (by decide)) rfl ?_
  have h := decFrame_enc n 5 (by decide) (Instr.frame e)
  have hf := encFrame_fn n 5 (by decide)
  have h0 : ∀ f, decodeLane 0x7F e f = decodeLane78 7 e f := fun _ => rfl
  rw [h0]
  simp only [decodeLane78, hf, ending]
  exact h

theorem unop (e : Bool) : Statement (.unop e) := by
  have h0 : ∀ f, decodeSquad 0x00 e f = decNop f (Instr.unop e) := fun _ => rfl
  exact roundTrip_squad e 0x00 encNop rfl (by decide) (encNop_lt ) rfl ((h0 _).trans (decNop_enc (Instr.unop e)))

theorem uadd (e : Bool) (sd sa sb : Fin 64) : Statement (.uadd e sd sa sb) := by
  have h0 : ∀ f, decodeSquad 0x01 e f = decUr3 f (Instr.uadd e) := fun _ => rfl
  exact roundTrip_squad e 0x01 (encUr3 sd sa sb) rfl (by decide) (encUr3_lt sd sa sb) rfl ((h0 _).trans (decUr3_enc sd sa sb (Instr.uadd e)))

theorem usub (e : Bool) (sd sa sb : Fin 64) : Statement (.usub e sd sa sb) := by
  have h0 : ∀ f, decodeSquad 0x02 e f = decUr3 f (Instr.usub e) := fun _ => rfl
  exact roundTrip_squad e 0x02 (encUr3 sd sa sb) rfl (by decide) (encUr3_lt sd sa sb) rfl ((h0 _).trans (decUr3_enc sd sa sb (Instr.usub e)))

theorem umul (e : Bool) (sd sa sb : Fin 64) : Statement (.umul e sd sa sb) := by
  have h0 : ∀ f, decodeSquad 0x03 e f = decUr3 f (Instr.umul e) := fun _ => rfl
  exact roundTrip_squad e 0x03 (encUr3 sd sa sb) rfl (by decide) (encUr3_lt sd sa sb) rfl ((h0 _).trans (decUr3_enc sd sa sb (Instr.umul e)))

theorem umulh (e : Bool) (sd sa sb : Fin 64) : Statement (.umulh e sd sa sb) := by
  have h0 : ∀ f, decodeSquad 0x04 e f = decUr3 f (Instr.umulh e) := fun _ => rfl
  exact roundTrip_squad e 0x04 (encUr3 sd sa sb) rfl (by decide) (encUr3_lt sd sa sb) rfl ((h0 _).trans (decUr3_enc sd sa sb (Instr.umulh e)))

theorem uand (e : Bool) (sd sa sb : Fin 64) : Statement (.uand e sd sa sb) := by
  have h0 : ∀ f, decodeSquad 0x05 e f = decUr3 f (Instr.uand e) := fun _ => rfl
  exact roundTrip_squad e 0x05 (encUr3 sd sa sb) rfl (by decide) (encUr3_lt sd sa sb) rfl ((h0 _).trans (decUr3_enc sd sa sb (Instr.uand e)))

theorem uor (e : Bool) (sd sa sb : Fin 64) : Statement (.uor e sd sa sb) := by
  have h0 : ∀ f, decodeSquad 0x06 e f = decUr3 f (Instr.uor e) := fun _ => rfl
  exact roundTrip_squad e 0x06 (encUr3 sd sa sb) rfl (by decide) (encUr3_lt sd sa sb) rfl ((h0 _).trans (decUr3_enc sd sa sb (Instr.uor e)))

theorem uxor (e : Bool) (sd sa sb : Fin 64) : Statement (.uxor e sd sa sb) := by
  have h0 : ∀ f, decodeSquad 0x07 e f = decUr3 f (Instr.uxor e) := fun _ => rfl
  exact roundTrip_squad e 0x07 (encUr3 sd sa sb) rfl (by decide) (encUr3_lt sd sa sb) rfl ((h0 _).trans (decUr3_enc sd sa sb (Instr.uxor e)))

theorem ushl (e : Bool) (sd sa sb : Fin 64) : Statement (.ushl e sd sa sb) := by
  have h0 : ∀ f, decodeSquad 0x08 e f = decUr3 f (Instr.ushl e) := fun _ => rfl
  exact roundTrip_squad e 0x08 (encUr3 sd sa sb) rfl (by decide) (encUr3_lt sd sa sb) rfl ((h0 _).trans (decUr3_enc sd sa sb (Instr.ushl e)))

theorem ushr (e : Bool) (sd sa sb : Fin 64) : Statement (.ushr e sd sa sb) := by
  have h0 : ∀ f, decodeSquad 0x09 e f = decUr3 f (Instr.ushr e) := fun _ => rfl
  exact roundTrip_squad e 0x09 (encUr3 sd sa sb) rfl (by decide) (encUr3_lt sd sa sb) rfl ((h0 _).trans (decUr3_enc sd sa sb (Instr.ushr e)))

theorem usar (e : Bool) (sd sa sb : Fin 64) : Statement (.usar e sd sa sb) := by
  have h0 : ∀ f, decodeSquad 0x0A e f = decUr3 f (Instr.usar e) := fun _ => rfl
  exact roundTrip_squad e 0x0A (encUr3 sd sa sb) rfl (by decide) (encUr3_lt sd sa sb) rfl ((h0 _).trans (decUr3_enc sd sa sb (Instr.usar e)))

theorem uimin (e : Bool) (sd sa sb : Fin 64) : Statement (.uimin e sd sa sb) := by
  have h0 : ∀ f, decodeSquad 0x0B e f = decUr3 f (Instr.uimin e) := fun _ => rfl
  exact roundTrip_squad e 0x0B (encUr3 sd sa sb) rfl (by decide) (encUr3_lt sd sa sb) rfl ((h0 _).trans (decUr3_enc sd sa sb (Instr.uimin e)))

theorem uimax (e : Bool) (sd sa sb : Fin 64) : Statement (.uimax e sd sa sb) := by
  have h0 : ∀ f, decodeSquad 0x0C e f = decUr3 f (Instr.uimax e) := fun _ => rfl
  exact roundTrip_squad e 0x0C (encUr3 sd sa sb) rfl (by decide) (encUr3_lt sd sa sb) rfl ((h0 _).trans (decUr3_enc sd sa sb (Instr.uimax e)))

theorem uminu (e : Bool) (sd sa sb : Fin 64) : Statement (.uminu e sd sa sb) := by
  have h0 : ∀ f, decodeSquad 0x0D e f = decUr3 f (Instr.uminu e) := fun _ => rfl
  exact roundTrip_squad e 0x0D (encUr3 sd sa sb) rfl (by decide) (encUr3_lt sd sa sb) rfl ((h0 _).trans (decUr3_enc sd sa sb (Instr.uminu e)))

theorem umaxu (e : Bool) (sd sa sb : Fin 64) : Statement (.umaxu e sd sa sb) := by
  have h0 : ∀ f, decodeSquad 0x0E e f = decUr3 f (Instr.umaxu e) := fun _ => rfl
  exact roundTrip_squad e 0x0E (encUr3 sd sa sb) rfl (by decide) (encUr3_lt sd sa sb) rfl ((h0 _).trans (decUr3_enc sd sa sb (Instr.umaxu e)))

theorem uaddi (e : Bool) (sd sa : Fin 64) (imm : BitVec 11) : Statement (.uaddi e sd sa imm) := by
  have h0 : ∀ f, decodeSquad 0x10 e f = decUi f (Instr.uaddi e) := fun _ => rfl
  exact roundTrip_squad e 0x10 (encUi sd sa imm) rfl (by decide) (encUi_lt sd sa imm) rfl ((h0 _).trans (decUi_enc sd sa imm (Instr.uaddi e)))

theorem uandi (e : Bool) (sd sa : Fin 64) (imm : BitVec 11) : Statement (.uandi e sd sa imm) := by
  have h0 : ∀ f, decodeSquad 0x11 e f = decUi f (Instr.uandi e) := fun _ => rfl
  exact roundTrip_squad e 0x11 (encUi sd sa imm) rfl (by decide) (encUi_lt sd sa imm) rfl ((h0 _).trans (decUi_enc sd sa imm (Instr.uandi e)))

theorem ushli (e : Bool) (sd sa : Fin 64) (imm : BitVec 11) : Statement (.ushli e sd sa imm) := by
  have h0 : ∀ f, decodeSquad 0x12 e f = decUi f (Instr.ushli e) := fun _ => rfl
  exact roundTrip_squad e 0x12 (encUi sd sa imm) rfl (by decide) (encUi_lt sd sa imm) rfl ((h0 _).trans (decUi_enc sd sa imm (Instr.ushli e)))

theorem ushri (e : Bool) (sd sa : Fin 64) (imm : BitVec 11) : Statement (.ushri e sd sa imm) := by
  have h0 : ∀ f, decodeSquad 0x13 e f = decUi f (Instr.ushri e) := fun _ => rfl
  exact roundTrip_squad e 0x13 (encUi sd sa imm) rfl (by decide) (encUi_lt sd sa imm) rfl ((h0 _).trans (decUi_enc sd sa imm (Instr.ushri e)))

theorem umovi (e : Bool) (sd : Fin 64) (imm : BitVec 16) : Statement (.umovi e sd imm) := by
  have h0 : ∀ f, decodeSquad 0x14 e f = decUm f (Instr.umovi e) := fun _ => rfl
  exact roundTrip_squad e 0x14 (encUm sd imm) rfl (by decide) (encUm_lt sd imm) rfl ((h0 _).trans (decUm_enc sd imm (Instr.umovi e)))

theorem umovhi (e : Bool) (sd : Fin 64) (imm : BitVec 16) : Statement (.umovhi e sd imm) := by
  have h0 : ∀ f, decodeSquad 0x15 e f = decUm f (Instr.umovhi e) := fun _ => rfl
  exact roundTrip_squad e 0x15 (encUm sd imm) rfl (by decide) (encUm_lt sd imm) rfl ((h0 _).trans (decUm_enc sd imm (Instr.umovhi e)))

theorem umov (e : Bool) (sd sa : Fin 64) : Statement (.umov e sd sa) := by
  have h0 : ∀ f, decodeSquad 0x16 e f = decUr2 f (Instr.umov e) := fun _ => rfl
  exact roundTrip_squad e 0x16 (encUr2 sd sa) rfl (by decide) (encUr2_lt sd sa) rfl ((h0 _).trans (decUr2_enc sd sa (Instr.umov e)))

theorem urds (e : Bool) (sd : Fin 64) (idx : BitVec 8) : Statement (.urds e sd idx) := by
  have h0 : ∀ f, decodeSquad 0x17 e f = decUrds f (Instr.urds e) := fun _ => rfl
  exact roundTrip_squad e 0x17 (encUrds sd idx) rfl (by decide) (encUrds_lt sd idx) rfl ((h0 _).trans (decUrds_enc sd idx (Instr.urds e)))

theorem uadd64 (e : Bool) (sd sa sb : Fin 64) : Statement (.uadd64 e sd sa sb) := by
  have h0 : ∀ f, decodeSquad 0x18 e f = decUr3q f (Instr.uadd64 e) := fun _ => rfl
  exact roundTrip_squad e 0x18 (encUr3q sd sa sb) rfl (by decide) (encUr3q_lt sd sa sb) rfl ((h0 _).trans (decUr3q_enc sd sa sb (Instr.uadd64 e)))

theorem uaddi64 (e : Bool) (sd sa : Fin 64) (imm : BitVec 11) : Statement (.uaddi64 e sd sa imm) := by
  have h0 : ∀ f, decodeSquad 0x19 e f = decUiq f (Instr.uaddi64 e) := fun _ => rfl
  exact roundTrip_squad e 0x19 (encUiq sd sa imm) rfl (by decide) (encUiq_lt sd sa imm) rfl ((h0 _).trans (decUiq_enc sd sa imm (Instr.uaddi64 e)))

theorem ucmp (e : Bool) (cc : ICond) (jd : Fin 8) (sa sb : Fin 64) : Statement (.ucmp e cc jd sa sb) := by
  have h0 : ∀ f, decodeSquad 0x1A e f = decUcmp f (Instr.ucmp e) := fun _ => rfl
  exact roundTrip_squad e 0x1A (encUcmp cc jd sa sb) rfl (by decide) (encUcmp_lt cc jd sa sb) rfl ((h0 _).trans (decUcmp_enc cc jd sa sb (Instr.ucmp e)))

theorem jand (e : Bool) (jd ja jb : Fin 8) : Statement (.jand e jd ja jb) := by
  refine roundTrip_squad e 0x1B (encJop 0 jd ja jb) rfl (by decide) (encJop_lt 0 jd ja jb (by decide)) rfl ?_
  have h := decJop_enc 0 jd ja jb (by decide) (Instr.jand e)
  have hf := encJop_fn 0 jd ja jb (by decide)
  have h0 : ∀ f, decodeSquad 0x1B e f = decodeSquad18 3 e f := fun _ => rfl
  rw [h0]
  simp only [decodeSquad18, hf, ending]
  exact h

theorem jor (e : Bool) (jd ja jb : Fin 8) : Statement (.jor e jd ja jb) := by
  refine roundTrip_squad e 0x1B (encJop 1 jd ja jb) rfl (by decide) (encJop_lt 1 jd ja jb (by decide)) rfl ?_
  have h := decJop_enc 1 jd ja jb (by decide) (Instr.jor e)
  have hf := encJop_fn 1 jd ja jb (by decide)
  have h0 : ∀ f, decodeSquad 0x1B e f = decodeSquad18 3 e f := fun _ => rfl
  rw [h0]
  simp only [decodeSquad18, hf, ending]
  exact h

theorem jxor (e : Bool) (jd ja jb : Fin 8) : Statement (.jxor e jd ja jb) := by
  refine roundTrip_squad e 0x1B (encJop 2 jd ja jb) rfl (by decide) (encJop_lt 2 jd ja jb (by decide)) rfl ?_
  have h := decJop_enc 2 jd ja jb (by decide) (Instr.jxor e)
  have hf := encJop_fn 2 jd ja jb (by decide)
  have h0 : ∀ f, decodeSquad 0x1B e f = decodeSquad18 3 e f := fun _ => rfl
  rw [h0]
  simp only [decodeSquad18, hf, ending]
  exact h

theorem jandn (e : Bool) (jd ja jb : Fin 8) : Statement (.jandn e jd ja jb) := by
  refine roundTrip_squad e 0x1B (encJop 3 jd ja jb) rfl (by decide) (encJop_lt 3 jd ja jb (by decide)) rfl ?_
  have h := decJop_enc 3 jd ja jb (by decide) (Instr.jandn e)
  have hf := encJop_fn 3 jd ja jb (by decide)
  have h0 : ∀ f, decodeSquad 0x1B e f = decodeSquad18 3 e f := fun _ => rfl
  rw [h0]
  simp only [decodeSquad18, hf, ending]
  exact h

theorem jnot (e : Bool) (jd ja : Fin 8) : Statement (.jnot e jd ja) := by
  refine roundTrip_squad e 0x1B (encJnot 4 jd ja) rfl (by decide) (encJnot_lt 4 jd ja (by decide)) rfl ?_
  have h := decJnot_enc 4 jd ja (by decide) (Instr.jnot e)
  have hf := encJnot_fn 4 jd ja (by decide)
  have h0 : ∀ f, decodeSquad 0x1B e f = decodeSquad18 3 e f := fun _ => rfl
  rw [h0]
  simp only [decodeSquad18, hf, ending]
  exact h

theorem ubr (k : Fin 8) (off : BitVec 20) : Statement (.ubr k off) := by
  have h0 : ∀ f, decodeSquad 0x1C true f = decBr f Instr.ubr := fun _ => rfl
  exact roundTrip_squad true 0x1C (encBr k off) rfl (by decide) (encBr_lt k off) rfl ((h0 _).trans (decBr_enc k off Instr.ubr))

theorem ubrn (k : Fin 8) (off : BitVec 20) : Statement (.ubrn k off) := by
  have h0 : ∀ f, decodeSquad 0x1D true f = decBr f Instr.ubrn := fun _ => rfl
  exact roundTrip_squad true 0x1D (encBr k off) rfl (by decide) (encBr_lt k off) rfl ((h0 _).trans (decBr_enc k off Instr.ubrn))

theorem uldw (e : Bool) (sd sa : Fin 64) (imm : BitVec 11) : Statement (.uldw e sd sa imm) := by
  have h0 : ∀ f, decodeSquad 0x1E e f = decUia f (Instr.uldw e) := fun _ => rfl
  exact roundTrip_squad e 0x1E (encUia sd sa imm) rfl (by decide) (encUia_lt sd sa imm) rfl ((h0 _).trans (decUia_enc sd sa imm (Instr.uldw e)))

theorem uldd (e : Bool) (sd sa : Fin 64) (imm : BitVec 11) : Statement (.uldd e sd sa imm) := by
  have h0 : ∀ f, decodeSquad 0x1F e f = decUiq f (Instr.uldd e) := fun _ => rfl
  exact roundTrip_squad e 0x1F (encUiq sd sa imm) rfl (by decide) (encUiq_lt sd sa imm) rfl ((h0 _).trans (decUiq_enc sd sa imm (Instr.uldd e)))

theorem ustw (e : Bool) (sd sa : Fin 64) (imm : BitVec 11) : Statement (.ustw e sd sa imm) := by
  have h0 : ∀ f, decodeSquad 0x20 e f = decUia f (Instr.ustw e) := fun _ => rfl
  exact roundTrip_squad e 0x20 (encUia sd sa imm) rfl (by decide) (encUia_lt sd sa imm) rfl ((h0 _).trans (decUia_enc sd sa imm (Instr.ustw e)))

theorem ufence (ord : Ord) : Statement (.ufence ord) := by
  have h0 : ∀ f, decodeSquad 0x21 true f = decUfence f Instr.ufence := fun _ => rfl
  exact roundTrip_squad true 0x21 (encUfence ord) rfl (by decide) (encUfence_lt ord) rfl ((h0 _).trans (decUfence_enc ord Instr.ufence))

theorem qpush (q : Fin 16) (sa : Fin 64) : Statement (.qpush q sa) := by
  have h0 : ∀ f, decodeSquad 0x22 true f = decQpush f Instr.qpush := fun _ => rfl
  exact roundTrip_squad true 0x22 (encQpush q sa) rfl (by decide) (encQpush_lt q sa) rfl ((h0 _).trans (decQpush_enc q sa Instr.qpush))

theorem qpop (sd : Fin 64) (q : Fin 16) : Statement (.qpop sd q) := by
  have h0 : ∀ f, decodeSquad 0x23 true f = decQpop f Instr.qpop := fun _ => rfl
  exact roundTrip_squad true 0x23 (encQpop sd q) rfl (by decide) (encQpop_lt sd q) rfl ((h0 _).trans (decQpop_enc sd q Instr.qpop))

theorem qtry (sd : Fin 64) (jd : Fin 8) (q : Fin 16) : Statement (.qtry sd jd q) := by
  have h0 : ∀ f, decodeSquad 0x24 true f = decQtry f Instr.qtry := fun _ => rfl
  exact roundTrip_squad true 0x24 (encQtry sd jd q) rfl (by decide) (encQtry_lt sd jd q) rfl ((h0 _).trans (decQtry_enc sd jd q Instr.qtry))

theorem mxlds (sa : Fin 64) (fmt : WFmt) (g : Fin 16) (ord : Ord) : Statement (.mxlds sa fmt g ord) := by
  have h0 : ∀ f, decodeSquad 0x25 true f = decMxlds f Instr.mxlds := fun _ => rfl
  exact roundTrip_squad true 0x25 (encMxlds sa fmt g ord) rfl (by decide) (encMxlds_lt sa fmt g ord) rfl ((h0 _).trans (decMxlds_enc sa fmt g ord Instr.mxlds))

theorem mxswap (g : Fin 16) : Statement (.mxswap g) := by
  have h0 : ∀ f, decodeSquad 0x26 true f = decUeg f Instr.mxswap := fun _ => rfl
  exact roundTrip_squad true 0x26 (encUeg g) rfl (by decide) (encUeg_lt g) rfl ((h0 _).trans (decUeg_enc g Instr.mxswap))

theorem mxdrn (sd sa : Fin 64) (g : Fin 16) (ord : Ord) : Statement (.mxdrn sd sa g ord) := by
  have h0 : ∀ f, decodeSquad 0x27 true f = decUecmd4 f Instr.mxdrn := fun _ => rfl
  exact roundTrip_squad true 0x27 (encUecmd4 sd sa g ord) rfl (by decide) (encUecmd4_lt sd sa g ord) rfl ((h0 _).trans (decUecmd4_enc sd sa g ord Instr.mxdrn))

theorem mxzero (tile : Fin 8) (g : Fin 16) : Statement (.mxzero tile g) := by
  have h0 : ∀ f, decodeSquad 0x28 true f = decMxzero f Instr.mxzero := fun _ => rfl
  exact roundTrip_squad true 0x28 (encMxzero tile g) rfl (by decide) (encMxzero_lt tile g) rfl ((h0 _).trans (decMxzero_enc tile g Instr.mxzero))

theorem cpcopy (sd sa : Fin 64) (g : Fin 16) (ord : Ord) : Statement (.cpcopy sd sa g ord) := by
  have h0 : ∀ f, decodeSquad 0x29 true f = decUecmd8 f Instr.cpcopy := fun _ => rfl
  exact roundTrip_squad true 0x29 (encUecmd8 sd sa g ord) rfl (by decide) (encUecmd8_lt sd sa g ord) rfl ((h0 _).trans (decUecmd8_enc sd sa g ord Instr.cpcopy))

theorem cpgath (sd sa : Fin 64) (g : Fin 16) (ord : Ord) : Statement (.cpgath sd sa g ord) := by
  have h0 : ∀ f, decodeSquad 0x2A true f = decUecmd8 f Instr.cpgath := fun _ => rfl
  exact roundTrip_squad true 0x2A (encUecmd8 sd sa g ord) rfl (by decide) (encUecmd8_lt sd sa g ord) rfl ((h0 _).trans (decUecmd8_enc sd sa g ord Instr.cpgath))

theorem cpscat (sd sa : Fin 64) (g : Fin 16) (ord : Ord) : Statement (.cpscat sd sa g ord) := by
  have h0 : ∀ f, decodeSquad 0x2B true f = decUecmd8 f Instr.cpscat := fun _ => rfl
  exact roundTrip_squad true 0x2B (encUecmd8 sd sa g ord) rfl (by decide) (encUecmd8_lt sd sa g ord) rfl ((h0 _).trans (decUecmd8_enc sd sa g ord Instr.cpscat))

theorem cpfill (sd sa : Fin 64) (size : ElemSize) (g : Fin 16) (ord : Ord) : Statement (.cpfill sd sa size g ord) := by
  have h0 : ∀ f, decodeSquad 0x2C true f = decCpfill f Instr.cpfill := fun _ => rfl
  exact roundTrip_squad true 0x2C (encCpfill sd sa size g ord) rfl (by decide) (encCpfill_lt sd sa size g ord) rfl ((h0 _).trans (decCpfill_enc sd sa size g ord Instr.cpfill))

theorem alloc (sd sa : Fin 64) : Statement (.alloc sd sa) := by
  have h0 : ∀ f, decodeSquad 0x2D true f = decAlloc f Instr.alloc := fun _ => rfl
  exact roundTrip_squad true 0x2D (encAlloc sd sa) rfl (by decide) (encAlloc_lt sd sa) rfl ((h0 _).trans (decAlloc_enc sd sa Instr.alloc))

theorem free (sa : Fin 64) : Statement (.free sa) := by
  have h0 : ∀ f, decodeSquad 0x2E true f = decUea f Instr.free := fun _ => rfl
  exact roundTrip_squad true 0x2E (encUea sa) rfl (by decide) (encUea_lt sa) rfl ((h0 _).trans (decUea_enc sa Instr.free))

theorem fetch (sd : Fin 64) : Statement (.fetch sd) := by
  have h0 : ∀ f, decodeSquad 0x2F true f = decUed f Instr.fetch := fun _ => rfl
  exact roundTrip_squad true 0x2F (encUed sd) rfl (by decide) (encUed_lt sd) rfl ((h0 _).trans (decUed_enc sd Instr.fetch))

theorem bars (n : Fin 16) : Statement (.bars n) := by
  have h0 : ∀ f, decodeSquad 0x30 true f = decBar f Instr.bars := fun _ => rfl
  exact roundTrip_squad true 0x30 (encBar n) rfl (by decide) (encBar_lt n) rfl ((h0 _).trans (decBar_enc n Instr.bars))

theorem bara (n : Fin 16) : Statement (.bara n) := by
  have h0 : ∀ f, decodeSquad 0x31 true f = decBar f Instr.bara := fun _ => rfl
  exact roundTrip_squad true 0x31 (encBar n) rfl (by decide) (encBar_lt n) rfl ((h0 _).trans (decBar_enc n Instr.bara))

theorem barw (n : Fin 16) : Statement (.barw n) := by
  have h0 : ∀ f, decodeSquad 0x32 true f = decBar f Instr.barw := fun _ => rfl
  exact roundTrip_squad true 0x32 (encBar n) rfl (by decide) (encBar_lt n) rfl ((h0 _).trans (decBar_enc n Instr.barw))

theorem gbar : Statement (.gbar ) := by
  have h0 : ∀ f, decodeSquad 0x33 true f = decZero f Instr.gbar := fun _ => rfl
  exact roundTrip_squad true 0x33 encZero rfl (by decide) (encZero_lt ) rfl ((h0 _).trans (decZero_enc Instr.gbar))

theorem chinit (ch : Fin 16) (sa sb : Fin 64) : Statement (.chinit ch sa sb) := by
  have h0 : ∀ f, decodeSquad 0x34 true f = decChinit f Instr.chinit := fun _ => rfl
  exact roundTrip_squad true 0x34 (encChinit ch sa sb) rfl (by decide) (encChinit_lt ch sa sb) rfl ((h0 _).trans (decChinit_enc ch sa sb Instr.chinit))

theorem chpush (ch : Fin 16) (sa : Fin 64) : Statement (.chpush ch sa) := by
  have h0 : ∀ f, decodeSquad 0x35 true f = decChpush f Instr.chpush := fun _ => rfl
  exact roundTrip_squad true 0x35 (encChpush ch sa) rfl (by decide) (encChpush_lt ch sa) rfl ((h0 _).trans (decChpush_enc ch sa Instr.chpush))

theorem chpop (sd : Fin 64) (ch : Fin 16) : Statement (.chpop sd ch) := by
  have h0 : ∀ f, decodeSquad 0x36 true f = decChpop f Instr.chpop := fun _ => rfl
  exact roundTrip_squad true 0x36 (encChpop sd ch) rfl (by decide) (encChpop_lt sd ch) rfl ((h0 _).trans (decChpop_enc sd ch Instr.chpop))

theorem garm (g : Fin 16) : Statement (.garm g) := by
  have h0 : ∀ f, decodeSquad 0x37 true f = decGarm f Instr.garm := fun _ => rfl
  exact roundTrip_squad true 0x37 (encGarm g) rfl (by decide) (encGarm_lt g) rfl ((h0 _).trans (decGarm_enc g Instr.garm))

theorem gres (g : Fin 16) (jd : Fin 8) : Statement (.gres g jd) := by
  have h0 : ∀ f, decodeSquad 0x38 true f = decGres f Instr.gres := fun _ => rfl
  exact roundTrip_squad true 0x38 (encGres g jd) rfl (by decide) (encGres_lt g jd) rfl ((h0 _).trans (decGres_enc g jd Instr.gres))

theorem lkacq (sa : Fin 64) (ord : Ord) : Statement (.lkacq sa ord) := by
  have h0 : ∀ f, decodeSquad 0x39 true f = decUeao f Instr.lkacq := fun _ => rfl
  exact roundTrip_squad true 0x39 (encUeao sa ord) rfl (by decide) (encUeao_lt sa ord) rfl ((h0 _).trans (decUeao_enc sa ord Instr.lkacq))

theorem lktry (jd : Fin 8) (sa : Fin 64) (ord : Ord) : Statement (.lktry jd sa ord) := by
  have h0 : ∀ f, decodeSquad 0x3A true f = decLktry f Instr.lktry := fun _ => rfl
  exact roundTrip_squad true 0x3A (encLktry jd sa ord) rfl (by decide) (encLktry_lt jd sa ord) rfl ((h0 _).trans (decLktry_enc jd sa ord Instr.lktry))

theorem lkrel (sa : Fin 64) (ord : Ord) : Statement (.lkrel sa ord) := by
  have h0 : ∀ f, decodeSquad 0x3B true f = decUeao f Instr.lkrel := fun _ => rfl
  exact roundTrip_squad true 0x3B (encUeao sa ord) rfl (by decide) (encUeao_lt sa ord) rfl ((h0 _).trans (decUeao_enc sa ord Instr.lkrel))

theorem prmake (sa : Fin 64) : Statement (.prmake sa) := by
  have h0 : ∀ f, decodeSquad 0x3C true f = decUea f Instr.prmake := fun _ => rfl
  exact roundTrip_squad true 0x3C (encUea sa) rfl (by decide) (encUea_lt sa) rfl ((h0 _).trans (decUea_enc sa Instr.prmake))

theorem prset (sa sd : Fin 64) (ord : Ord) : Statement (.prset sa sd ord) := by
  have h0 : ∀ f, decodeSquad 0x3D true f = decUedao f Instr.prset := fun _ => rfl
  exact roundTrip_squad true 0x3D (encUedao sa sd ord) rfl (by decide) (encUedao_lt sa sd ord) rfl ((h0 _).trans (decUedao_enc sa sd ord Instr.prset))

theorem prwait (sd : Fin 64) (jd : Fin 8) (sa : Fin 64) (ord : Ord) : Statement (.prwait sd jd sa ord) := by
  have h0 : ∀ f, decodeSquad 0x3E true f = decPrwait f Instr.prwait := fun _ => rfl
  exact roundTrip_squad true 0x3E (encPrwait sd jd sa ord) rfl (by decide) (encPrwait_lt sd jd sa ord) rfl ((h0 _).trans (decPrwait_enc sd jd sa ord Instr.prwait))

theorem setheir (sa : Fin 64) : Statement (.setheir sa) := by
  have h0 : ∀ f, decodeSquad 0x3F true f = decUe1 f Instr.setheir := fun _ => rfl
  exact roundTrip_squad true 0x3F (encUe1 sa) rfl (by decide) (encUe1_lt sa) rfl ((h0 _).trans (decUe1_enc sa Instr.setheir))

theorem inherit (sd : Fin 64) : Statement (.inherit sd) := by
  refine roundTrip_squad true 0x40 (encInh 0 sd) rfl (by decide) (encInh_lt 0 sd (by decide)) rfl ?_
  have h := decInh_enc 0 sd (by decide) Instr.inherit
  have hf := encInh_fn 0 sd (by decide)
  have h0 : ∀ f, decodeSquad 0x40 true f = decodeSquad40 0 true f := fun _ => rfl
  rw [h0]
  simp only [decodeSquad40, hf, ending]
  exact h

theorem inheritNb (sd : Fin 64) (jd : Fin 8) : Statement (.inheritNb sd jd) := by
  refine roundTrip_squad true 0x40 (encInhnb 1 sd jd) rfl (by decide) (encInhnb_lt 1 sd jd (by decide)) rfl ?_
  have h := decInhnb_enc 1 sd jd (by decide) Instr.inheritNb
  have hf := encInhnb_fn 1 sd jd (by decide)
  have h0 : ∀ f, decodeSquad 0x40 true f = decodeSquad40 0 true f := fun _ => rfl
  rw [h0]
  simp only [decodeSquad40, hf, ending]
  exact h

theorem waitsig (sa sd : Fin 64) (ord : Ord) : Statement (.waitsig sa sd ord) := by
  have h0 : ∀ f, decodeSquad 0x41 true f = decUedao f Instr.waitsig := fun _ => rfl
  exact roundTrip_squad true 0x41 (encUedao sa sd ord) rfl (by decide) (encUedao_lt sa sd ord) rfl ((h0 _).trans (decUedao_enc sa sd ord Instr.waitsig))

theorem sigadd (sa sd : Fin 64) (ord : Ord) : Statement (.sigadd sa sd ord) := by
  have h0 : ∀ f, decodeSquad 0x42 true f = decUedao f Instr.sigadd := fun _ => rfl
  exact roundTrip_squad true 0x42 (encUedao sa sd ord) rfl (by decide) (encUedao_lt sa sd ord) rfl ((h0 _).trans (decUedao_enc sa sd ord Instr.sigadd))

theorem publish (sa : Fin 64) : Statement (.publish sa) := by
  have h0 : ∀ f, decodeSquad 0x43 true f = decUe1 f Instr.publish := fun _ => rfl
  exact roundTrip_squad true 0x43 (encUe1 sa) rfl (by decide) (encUe1_lt sa) rfl ((h0 _).trans (decUe1_enc sa Instr.publish))

theorem trap (imm : BitVec 11) : Statement (.trap imm) := by
  have h0 : ∀ f, decodeSquad 0x44 true f = decUi0 f Instr.trap := fun _ => rfl
  exact roundTrip_squad true 0x44 (encUi0 imm) rfl (by decide) (encUi0_lt imm) rfl ((h0 _).trans (decUi0_enc imm Instr.trap))

theorem hret : Statement (.hret ) := by
  have h0 : ∀ f, decodeSquad 0x45 true f = decZero f Instr.hret := fun _ => rfl
  exact roundTrip_squad true 0x45 encZero rfl (by decide) (encZero_lt ) rfl ((h0 _).trans (decZero_enc Instr.hret))

theorem bkpt (imm : BitVec 11) : Statement (.bkpt imm) := by
  have h0 : ∀ f, decodeSquad 0x46 true f = decUi0 f Instr.bkpt := fun _ => rfl
  exact roundTrip_squad true 0x46 (encUi0 imm) rfl (by decide) (encUi0_lt imm) rfl ((h0 _).trans (decUi0_enc imm Instr.bkpt))

theorem srw (idx : BitVec 8) (sa : Fin 64) : Statement (.srw idx sa) := by
  have h0 : ∀ f, decodeSquad 0x47 true f = decSrw f Instr.srw := fun _ => rfl
  exact roundTrip_squad true 0x47 (encSrw idx sa) rfl (by decide) (encSrw_lt idx sa) rfl ((h0 _).trans (decSrw_enc idx sa Instr.srw))

theorem rfetch (rd rs : Fin 32) : Statement (.rfetch rd rs) :=
  roundTrip_p1_0 rd rs

theorem rpost (rs rt : Fin 32) : Statement (.rpost rs rt) :=
  roundTrip_p2_1 rs rt

theorem bfx (rd rs pos len : Fin 32) (hi : Fin 4) : Statement (.bfx rd rs pos len hi) :=
  roundTrip_p4_2 rd rs pos len hi

theorem bfiPorter (rd rs pos len : Fin 32) (hi : Fin 4) : Statement (.bfiPorter rd rs pos len hi) :=
  roundTrip_p4_3 rd rs pos len hi

theorem swait (rd rs : Fin 32) : Statement (.swait rd rs) :=
  roundTrip_p1_4 rd rs

theorem sarm (rs rt : Fin 32) : Statement (.sarm rs rt) :=
  roundTrip_p2_5 rs rt

theorem disp (rd rs rt : Fin 32) : Statement (.disp rd rs rt) :=
  roundTrip_p3_6 rd rs rt

theorem dstat (rd rs : Fin 32) : Statement (.dstat rd rs) :=
  roundTrip_p1_7 rd rs

theorem unimplementedEncoding (w : Word) : Statement (.unimplementedEncoding w) := statement_of_none rfl

theorem porterException (p : Nat) : Statement (.porterException p) := statement_of_none rfl

theorem launch (queue buf : Nat) : Statement (.launch queue buf) := statement_of_none rfl

theorem launchMeasured (lid : Nat) : Statement (.launchMeasured lid) := statement_of_none rfl

theorem holdExpire (lid : Nat) : Statement (.holdExpire lid) := statement_of_none rfl

theorem launchBind : Statement (.launchBind) := statement_of_none rfl

theorem rowLoad (core row : Nat) : Statement (.rowLoad core row) := statement_of_none rfl

theorem rowLoadComplete (squad : Nat) : Statement (.rowLoadComplete squad) := statement_of_none rfl

theorem pick (core slot : Nat) (resume : Option Nat) : Statement (.pick core slot resume) := statement_of_none rfl

theorem runFault (core slot : Nat) : Statement (.runFault core slot) := statement_of_none rfl

theorem slowGearWord (core slot : Nat) : Statement (.slowGearWord core slot) := statement_of_none rfl

theorem handlerEntry (squad : Nat) : Statement (.handlerEntry squad) := statement_of_none rfl

theorem escalationKill (lid : Nat) : Statement (.escalationKill lid) := statement_of_none rfl

theorem convey (squad : Nat) : Statement (.convey squad) := statement_of_none rfl

theorem rowDrainComplete (squad : Nat) : Statement (.rowDrainComplete squad) := statement_of_none rfl

theorem evictSaveComplete (squad : Nat) : Statement (.evictSaveComplete squad) := statement_of_none rfl

theorem rotation (core : Nat) : Statement (.rotation core) := statement_of_none rfl

theorem restoreComplete (squad : Nat) : Statement (.restoreComplete squad) := statement_of_none rfl

theorem foregroundSwap (core : Nat) : Statement (.foregroundSwap core) := statement_of_none rfl

theorem launchEnd (lid : Nat) : Statement (.launchEnd lid) := statement_of_none rfl

theorem launchCommit (lid : Nat) : Statement (.launchCommit lid) := statement_of_none rfl

theorem snapshotCopy (lid piece : Nat) : Statement (.snapshotCopy lid piece) := statement_of_none rfl

theorem rollbackKill (lid resource : Nat) : Statement (.rollbackKill lid resource) := statement_of_none rfl

theorem hbmPatrolRead (stack : Nat) (flaw corrected : Bool) : Statement (.hbmPatrolRead stack flaw corrected) := statement_of_none rfl

theorem cellarRefreshWindowStart (die off found : Nat) : Statement (.cellarRefreshWindowStart die off found) := statement_of_none rfl

theorem cellarRefreshWindowEnd (die : Nat) : Statement (.cellarRefreshWindowEnd die) := statement_of_none rfl

theorem storeLeave (agent sid : Nat) : Statement (.storeLeave agent sid) := statement_of_none rfl

theorem releasePerform (rel : Nat) : Statement (.releasePerform rel) := statement_of_none rfl

theorem storeCarry (core agent sid addr : Nat) : Statement (.storeCarry core agent sid addr) := statement_of_none rfl

theorem copyDrop (core key : Nat) : Statement (.copyDrop core key) := statement_of_none rfl

theorem loadPerform (agent seq : Nat) : Statement (.loadPerform agent seq) := statement_of_none rfl

theorem atomicPerform (agent sid : Nat) : Statement (.atomicPerform agent sid) := statement_of_none rfl

theorem pageWalkComplete (core ctx va : Nat) : Statement (.pageWalkComplete core ctx va) := statement_of_none rfl

theorem atsTranslationCompletion (fn n hpa size : Nat) (r w x : Bool) : Statement (.atsTranslationCompletion fn n hpa size r w x) := statement_of_none rfl

theorem priResponseSuccess (fn n : Nat) : Statement (.priResponseSuccess fn n) := statement_of_none rfl

theorem priResponseInvalid (fn n : Nat) : Statement (.priResponseInvalid fn n) := statement_of_none rfl

theorem priResponseFailure (fn n : Nat) : Statement (.priResponseFailure fn n) := statement_of_none rfl

theorem atsInvalidateRequest (ctx va n : Nat) : Statement (.atsInvalidateRequest ctx va n) := statement_of_none rfl

theorem invalidationComplete (k : Nat) : Statement (.invalidationComplete k) := statement_of_none rfl

theorem mxldsCommandRun (core : Nat) : Statement (.mxldsCommandRun core) := statement_of_none rfl

theorem mxswapCommandRun (core : Nat) : Statement (.mxswapCommandRun core) := statement_of_none rfl

theorem streamRowFeed (core : Nat) (mismatch : Option Nat) : Statement (.streamRowFeed core mismatch) := statement_of_none rfl

theorem mxdrnCommandRun (core : Nat) : Statement (.mxdrnCommandRun core) := statement_of_none rfl

theorem mxzeroCommandRun (core : Nat) : Statement (.mxzeroCommandRun core) := statement_of_none rfl

theorem copyCommandComplete (cmd : Nat) : Statement (.copyCommandComplete cmd) := statement_of_none rfl

theorem storekeeperReply (block addr : Nat) : Statement (.storekeeperReply block addr) := statement_of_none rfl

theorem storekeeperFree (block : Nat) : Statement (.storekeeperFree block) := statement_of_none rfl

theorem dispenserRefill (block : Nat) : Statement (.dispenserRefill block) := statement_of_none rfl

theorem publicationPerform (win : Nat) : Statement (.publicationPerform win) := statement_of_none rfl

theorem cellarFill (queue buf : Nat) : Statement (.cellarFill queue buf) := statement_of_none rfl

theorem cellarFillEnd (k : Nat) : Statement (.cellarFillEnd k) := statement_of_none rfl

theorem copy (queue buf : Nat) : Statement (.copy queue buf) := statement_of_none rfl

theorem signalSet (queue buf : Nat) : Statement (.signalSet queue buf) := statement_of_none rfl

theorem signalWait (queue buf : Nat) : Statement (.signalWait queue buf) := statement_of_none rfl

theorem pubCreate (queue buf : Nat) : Statement (.pubCreate queue buf) := statement_of_none rfl

theorem pubDestroy (queue buf : Nat) : Statement (.pubDestroy queue buf) := statement_of_none rfl

theorem receiptSeal (queue buf : Nat) : Statement (.receiptSeal queue buf) := statement_of_none rfl

theorem receiptRequest (queue buf : Nat) (written : Bool) : Statement (.receiptRequest queue buf written) := statement_of_none rfl

theorem windowExport (queue buf : Nat) : Statement (.windowExport queue buf) := statement_of_none rfl

theorem windowGrant (queue buf : Nat) (ok : Bool) (base size part gen : Nat) (write : Bool) : Statement (.windowGrant queue buf ok base size part gen write) := statement_of_none rfl

theorem windowRevoke (queue buf : Nat) : Statement (.windowRevoke queue buf) := statement_of_none rfl

theorem keyInstall (queue buf : Nat) : Statement (.keyInstall queue buf) := statement_of_none rfl

theorem storageBind (queue buf : Nat) : Statement (.storageBind queue buf) := statement_of_none rfl

theorem storageRequestServe (pair : Nat) : Statement (.storageRequestServe pair) := statement_of_none rfl

theorem storageDone (queue buf : Nat) : Statement (.storageDone queue buf) := statement_of_none rfl

theorem debugHalt (queue buf : Nat) : Statement (.debugHalt queue buf) := statement_of_none rfl

theorem debugResume (queue buf : Nat) : Statement (.debugResume queue buf) := statement_of_none rfl

theorem debugStep (queue buf : Nat) : Statement (.debugStep queue buf) := statement_of_none rfl

theorem debugClaim (queue buf : Nat) : Statement (.debugClaim queue buf) := statement_of_none rfl

theorem debugRead (queue buf : Nat) : Statement (.debugRead queue buf) := statement_of_none rfl

theorem debugKill (queue buf : Nat) : Statement (.debugKill queue buf) := statement_of_none rfl

theorem debugSetDump (queue buf : Nat) : Statement (.debugSetDump queue buf) := statement_of_none rfl

theorem contextCreate (queue buf : Nat) : Statement (.contextCreate queue buf) := statement_of_none rfl

theorem contextDestroy (queue buf : Nat) : Statement (.contextDestroy queue buf) := statement_of_none rfl

theorem tlbInvalidate (queue buf : Nat) : Statement (.tlbInvalidate queue buf) := statement_of_none rfl

theorem setRegions (queue buf : Nat) : Statement (.setRegions queue buf) := statement_of_none rfl

theorem setTolerance (queue buf : Nat) : Statement (.setTolerance queue buf) := statement_of_none rfl

theorem cellarGrant (queue buf : Nat) : Statement (.cellarGrant queue buf) := statement_of_none rfl

theorem partition (queue buf : Nat) : Statement (.partition queue buf) := statement_of_none rfl

theorem eventRoute (queue buf : Nat) : Statement (.eventRoute queue buf) := statement_of_none rfl

theorem porterImage (queue buf : Nat) : Statement (.porterImage queue buf) := statement_of_none rfl

theorem inject (queue buf : Nat) : Statement (.inject queue buf) := statement_of_none rfl

theorem injectorFire (port : Nat) : Statement (.injectorFire port) := statement_of_none rfl

theorem queueNotify (queue data buf : Nat) (descs : Descriptors) (stores : HostStores) (bad : Nat) : Statement (.queueNotify queue data buf descs stores bad) := statement_of_none rfl

theorem featuresOk (fn accepted : Nat) : Statement (.featuresOk fn accepted) := statement_of_none rfl

theorem functionReset (fn : Nat) : Statement (.functionReset fn) := statement_of_none rfl

theorem queueReset (queue : Nat) : Statement (.queueReset queue) := statement_of_none rfl

theorem queueRemap (queue : Nat) : Statement (.queueRemap queue) := statement_of_none rfl

theorem partitionFreeze (p : Nat) : Statement (.partitionFreeze p) := statement_of_none rfl

theorem partitionResume (p : Nat) : Statement (.partitionResume p) := statement_of_none rfl

theorem fabricRequestReceive (x gen kind op off len data : Nat) : Statement (.fabricRequestReceive x gen kind op off len data) := statement_of_none rfl

theorem flitCrcFail (port : Nat) (again : Bool) : Statement (.flitCrcFail port again) := statement_of_none rfl

theorem portRetrain (port : Nat) (ok : Bool) : Statement (.portRetrain port ok) := statement_of_none rfl

theorem portUp (port : Nat) : Statement (.portUp port) := statement_of_none rfl

theorem flitGroupTagFail (port part key : Nat) (again : Bool) : Statement (.flitGroupTagFail port part key again) := statement_of_none rfl

theorem pcieLinkTrain (gen width : Nat) : Statement (.pcieLinkTrain gen width) := statement_of_none rfl

theorem pcieErrorLogged (fn : Nat) (correctable : Bool) (bits : Nat) : Statement (.pcieErrorLogged fn correctable bits) := statement_of_none rfl

theorem poisonedTlpReceived (fn addr len : Nat) : Statement (.poisonedTlpReceived fn addr len) := statement_of_none rfl

theorem operatingPointChange (island point : Nat) : Statement (.operatingPointChange island point) := statement_of_none rfl

theorem powerAboveDesign (watts point : Nat) : Statement (.powerAboveDesign watts point) := statement_of_none rfl

theorem throttleTemperature (die temp point : Nat) : Statement (.throttleTemperature die temp point) := statement_of_none rfl

theorem throttleEnd : Statement (.throttleEnd) := statement_of_none rfl

theorem shutdownTemperature (die temp : Nat) : Statement (.shutdownTemperature die temp) := statement_of_none rfl

theorem powerInputValid : Statement (.powerInputValid) := statement_of_none rfl

theorem strongroomBoot : Statement (.strongroomBoot) := statement_of_none rfl

theorem strongroomInit : Statement (.strongroomInit) := statement_of_none rfl

theorem hostClassStart : Statement (.hostClassStart) := statement_of_none rfl

theorem hbmTrain : Statement (.hbmTrain) := statement_of_none rfl

theorem porterStart : Statement (.porterStart) := statement_of_none rfl

theorem ternathTrain (dev ups : Nat) : Statement (.ternathTrain dev ups) := statement_of_none rfl

theorem pcieEnable : Statement (.pcieEnable) := statement_of_none rfl

theorem tlbEntryDrop (core n : Nat) (l2 : Bool) : Statement (.tlbEntryDrop core n l2) := statement_of_none rfl

theorem priReenable (fn : Nat) : Statement (.priReenable fn) := statement_of_none rfl

theorem queueEnable (queue : Nat) (setup : QueueSetup) : Statement (.queueEnable queue setup) := statement_of_none rfl

theorem powerLoss : Statement (.powerLoss) := statement_of_none rfl

theorem configurationRequest (fn : Nat) (ats pri : Bool) (alloc : Nat) : Statement (.configurationRequest fn ats pri alloc) := statement_of_none rfl

theorem strongroomManagementRequest (x : Nat) (revoke : Bool) : Statement (.strongroomManagementRequest x revoke) := statement_of_none rfl

end Sys2Proof.Laws.RoundTrip
end

