-- ==== Sys2Proof/Safety.lean ====
section
/-! DEFINITION. The terms the statements use: a state in its canonical form, a word about to act, and what a word leaves alone. -/

namespace Sys2Proof.Machine

/-- The memory of a state is in its canonical form. -/
def State.Canonical (s : State) : Prop := Memory.wf s.mem

/-- A step that stops neither with a fault nor with a refusal. -/
def Steps (s t : State) : Prop := step s = .next t

/-- The threads of the word being executed are in the machine, each once. -/
def AtWord (s : State) : Prop := s.cur.threads.Nodup ∧ ∀ t ∈ s.cur.threads, (s.threads.get? t).isSome

/-- The state a word acts on: for a run's last word, the run's squad writes have become architectural (R30). -/
def actsOn (last : Bool) (s : State) : State := if last then commitWrites s else s

/-- What a word leaves alone that writes only thread registers: memory and every part of the machine but threads and waves, and,
for a run's last word, the agents whose stores leave the run store buffer and the run's own squad writes. -/
def OnlyThreads (last : Bool) (s t : State) : Prop :=
  t = { s with threads := t.threads, cores := t.cores, agents := t.agents, squads := t.squads } ∧
  t.squads = (actsOn last s).squads ∧ (last = false → t.agents = s.agents)

/-- The v registers but those of `keep`, in the threads of the word, and every k predicate, are as before. -/
def OtherV (keep : List Nat) (s t : State) : Prop :=
  (∀ u n sh, u ∉ s.cur.threads ∨ n ∉ keep → readV t sh u n = readV s sh u n) ∧
  ∀ u n sh, readK t sh u n = readK s sh u n

/-- The k predicates but `kd` in the threads of the word, and every v register, are as before. -/
def OtherK (kd : Nat) (s t : State) : Prop :=
  (∀ u n sh, u ∉ s.cur.threads ∨ n ≠ kd → readK t sh u n = readK s sh u n) ∧
  ∀ u n sh, readV t sh u n = readV s sh u n

/-- What a word leaves alone that writes only squad registers. -/
def OnlySquads (last : Bool) (s t : State) : Prop :=
  t = { s with threads := t.threads, cores := t.cores, agents := t.agents, squads := t.squads } ∧
  (last = false → t.threads = s.threads ∧ t.agents = s.agents ∧ t.squads = s.squads) ∧
  (∀ u n sh, readV t sh u n = readV s sh u n) ∧ ∀ u n sh, readK t sh u n = readK s sh u n

/-- S(q, n) after a word at `pc`: as the run's next word reads it, and after its last word as it stands (R30). -/
def afterS (last : Bool) (pc : DWord) (s : State) (sh : Bool) (q n : Nat) : Word :=
  if last then (if sh then (sqd s q).shS else (sqd s q).s).getD n 0
  else readS { s with cur := { s.cur with pc := pc + 4 } } sh q n

/-- J(q, n) after a word. -/
def afterJ (last : Bool) (pc : DWord) (s : State) (sh : Bool) (q n : Nat) : Bool :=
  if last then (if sh then (sqd s q).shJ else (sqd s q).j).getD n false
  else readJ { s with cur := { s.cur with pc := pc + 4 } } sh q n

/-- The s registers but those of `keep`, in the squads of the word, and every j predicate, are as the run's earlier words left
them. -/
def OtherS (keep : List Nat) (last : Bool) (s t : State) : Prop :=
  (∀ q n sh, q ∉ squadsIn s s.cur.threads ∨ n ∉ keep →
    afterS last s.cur.pc t sh q n = afterS last s.cur.pc (actsOn last s) sh q n) ∧
  ∀ q n sh, afterJ last s.cur.pc t sh q n = afterJ last s.cur.pc (actsOn last s) sh q n

/-- The j predicates but `jd` in the squads of the word, and every s register, are as the run's earlier words left them. -/
def OtherJ (jd : Nat) (last : Bool) (s t : State) : Prop :=
  (∀ q n sh, q ∉ squadsIn s s.cur.threads ∨ n ≠ jd →
    afterJ last s.cur.pc t sh q n = afterJ last s.cur.pc (actsOn last s) sh q n) ∧
  ∀ q n sh, afterS last s.cur.pc t sh q n = afterS last s.cur.pc (actsOn last s) sh q n

/-- A squad word may act: its wave stands in its slot, its squads are in the machine, and every squad write of the run, and every
write that has become architectural, was issued before it (R30). -/
def AtSquadWord (s : State) : Prop :=
  ((cor s s.cur.core).slots.get? s.cur.slot).isSome ∧ s.cur.pc.toNat + 4 < 2 ^ 64 ∧
  (∀ q ∈ squadsIn s s.cur.threads, (s.squads.get? q).isSome) ∧
  (∀ w ∈ (curWave s).writes, w.seq < (cor s s.cur.core).issue) ∧
  ∀ q ∈ squadsIn s s.cur.threads, ∀ n, (sqd s q).seqS.getD n 0 < (cor s s.cur.core).issue ∧
    (sqd s q).seqJ.getD n 0 < (cor s s.cur.core).issue

/-! ### Words whose operands have no cause -/

/-- No active lane has a cause in the registers the word names: each lies in the allotment, and none it reads is poisoned (R118,
R304, R326). -/
def LanesClear (i : Instr) (s : State) : Prop := AtWord s ∧ ∀ t ∈ s.cur.threads, useCauses s (usesOf i) t = none

/-- The same of the squads of a squad word (R326). -/
def SquadsClear (i : Instr) (s : State) : Prop :=
  AtSquadWord s ∧ ∀ q ∈ squadsIn s s.cur.threads, squadCauses s (usesOf i) q = none

/-- A value computed for a lane, or for a squad, from one copy of the registers (R336). -/
abbrev Val (α : Type) := State → Bool → Nat → α

/-- Src(L, xa) passed to `f`, and the same for two sources and for the destination and two sources. -/
def of1 (xa : Src) (f : Word → Word) : Val Word := fun s sh t => f (src s sh t xa)
def of2 (xa xb : Src) (f : Word → Word → Word) : Val Word := fun s sh t => f (src s sh t xa) (src s sh t xb)
def of3 (vd : Fin 128) (xa xb : Src) (f : Word → Word → Word → Word) : Val Word :=
  fun s sh t => f (readV s sh t vd.val) (src s sh t xa) (src s sh t xb)

/-- The lane word `i`, with E bit `e`, completes wherever no operand has a cause, writes `f` to `vd` in each active lane, in both
copies, and changes no other register, no memory and no other part of the machine. -/
def WritesV (i : Instr) (e : Bool) (vd : Fin 128) (f : Val Word) : Prop :=
  ∀ s, LanesClear i s → ∃ t, exec i s = .next t ∧
    (∀ u ∈ s.cur.threads, ∀ sh, readV t sh u vd.val = f (actsOn e s) sh u) ∧ OtherV [vd.val] s t ∧ OnlyThreads e s t

/-- The same for a word that writes a register pair, the low word first. -/
def WritesV64 (i : Instr) (e : Bool) (vd : Fin 128) (f : Val DWord) : Prop :=
  ∀ s, LanesClear i s → ∃ t, exec i s = .next t ∧
    (∀ u ∈ s.cur.threads, ∀ sh, readV t sh u vd.val = lowWord (f (actsOn e s) sh u) ∧
      readV t sh u (vd.val + 1) = highWord (f (actsOn e s) sh u)) ∧ OtherV [vd.val, vd.val + 1] s t ∧ OnlyThreads e s t

/-- The same for a word that writes a k predicate. -/
def WritesK (i : Instr) (e : Bool) (kd : Fin 8) (f : Val Bool) : Prop :=
  ∀ s, LanesClear i s → ∃ t, exec i s = .next t ∧
    (∀ u ∈ s.cur.threads, ∀ sh, readK t sh u kd.val = f (actsOn e s) sh u) ∧ OtherK kd.val s t ∧ OnlyThreads e s t

/-- A squad word that writes one s register: as the run's next word, or after its last word the machine, reads it (R29, R30). -/
def WritesS (i : Instr) (e : Bool) (sd : Fin 64) (f : Val Word) : Prop :=
  ∀ s, SquadsClear i s → ∃ t, exec i s = .next t ∧
    (∀ q ∈ squadsIn s s.cur.threads, ∀ sh, afterS e s.cur.pc t sh q sd.val = f s sh q) ∧
    OtherS [sd.val] e s t ∧ OnlySquads e s t

def WritesS64 (i : Instr) (e : Bool) (sd : Fin 64) (f : Val DWord) : Prop :=
  ∀ s, SquadsClear i s → ∃ t, exec i s = .next t ∧
    (∀ q ∈ squadsIn s s.cur.threads, ∀ sh, afterS e s.cur.pc t sh q sd.val = lowWord (f s sh q) ∧
      afterS e s.cur.pc t sh q (sd.val + 1) = highWord (f s sh q)) ∧
    OtherS [sd.val, sd.val + 1] e s t ∧ OnlySquads e s t

def WritesJ (i : Instr) (e : Bool) (jd : Fin 8) (f : Val Bool) : Prop :=
  ∀ s, SquadsClear i s → ∃ t, exec i s = .next t ∧
    (∀ q ∈ squadsIn s s.cur.threads, ∀ sh, afterJ e s.cur.pc t sh q jd.val = f s sh q) ∧
    OtherJ jd.val e s t ∧ OnlySquads e s t

/-- S(q, sa) passed to `f`, and the same for two registers. -/
def ofS1 (sa : Fin 64) (f : Word → Word) : Val Word := fun s sh q => f (readS s sh q sa.val)
def ofS2 (sa sb : Fin 64) (f : Word → Word → Word) : Val Word := fun s sh q => f (readS s sh q sa.val) (readS s sh q sb.val)

/-! ### Memory words -/

/-- Each active thread has an agent of its own, and it is in the machine. -/
def OwnAgents (s : State) : Prop :=
  ∀ u ∈ s.cur.threads, (s.agents.get? (thr s u).agent).isSome ∧ ∀ v ∈ s.cur.threads, (thr s v).agent = (thr s u).agent → v = u

/-- No register or predicate differs. -/
def SameRegisters (s t : State) : Prop :=
  (∀ u n sh, readV t sh u n = readV s sh u n) ∧ ∀ u n sh, readK t sh u n = readK s sh u n

/-- The lane load `i` of `width` bytes to `words` registers from `vd`: where no lane has a cause, the copies agree on each address
and each access translates to pieces, every thread's load is issued with those pieces, its registers are pending, and no register
and no byte of memory changes. `legal` is what a short form asks of its offset. -/
def IssuesLoads (i : Instr) (vd : Fin 128) (width words : Nat) (ea : Val DWord) (legal : State → Nat → Prop) : Prop :=
  ∀ (s : State) (ps : Nat → List Piece), LanesClear i s → OwnAgents s → s.cur.threads ≠ [] →
    (∀ u ∈ s.cur.threads, legal s u ∧ ea s false u = ea s true u ∧ threadTrans s u .load (ea s false u) width = .ok (ps u)) →
    ∃ t, exec i s = .next t ∧ t.mem = s.mem ∧ SameRegisters s t ∧
      ∀ u ∈ s.cur.threads,
        (agt t (thr s u).agent).loads = (agt s (thr s u).agent).loads ++
          [⟨(agt s (thr s u).agent).nextSeq, (cor s s.cur.core).issue, s.cur.pc, s.cur.word, ea s false u, width, words,
            .v u vd.val, ps u, []⟩] ∧
        (thr t u).pendV = group vd.val words ++ (thr s u).pendV

/-- The lane store `i` of `width` bytes from the registers at `vd`: where no lane has a cause, the copies agree on each address and
on the data, and each access translates to pieces, each piece is a store entry of its thread with the bytes of the registers,
little-endian; every earlier entry stays, and no register and no byte of memory changes until an entry leaves. -/
def IssuesStores (i : Instr) (vd : Fin 128) (width : Nat) (ea : Val DWord) (legal : State → Nat → Prop) : Prop :=
  ∀ (s : State) (ps : Nat → List Piece), LanesClear i s → OwnAgents s →
    (∀ u ∈ s.cur.threads, legal s u ∧ ea s false u = ea s true u ∧ threadTrans s u .store (ea s false u) width = .ok (ps u) ∧
      storeBytes s false u vd.val width = storeBytes s true u vd.val width) →
    ∃ t, exec i s = .next t ∧ t.mem = s.mem ∧ SameRegisters s t ∧
      ∀ u ∈ s.cur.threads,
        (∀ x ∈ (agt s (thr s u).agent).all, x ∈ (agt t (thr s u).agent).all) ∧
        ∀ a p b, ps u = a ++ p :: b → ∃ x ∈ (agt t (thr s u).agent).all,
          x.kind = .store p.addr (((storeBytes s false u vd.val width).drop (a.map Piece.len).sum).take p.len) p.ord

/-- The effective address of the long forms: base plus the zero-extended source (R164). -/
def longAddress (xa : Src) (xb : Base) : Val DWord := fun s sh u => baseVal s sh u xb + (src s sh u xa).zeroExtend 64

/-- The effective address of a short form: the window's base plus the offset (R164, R165). -/
def windowAddress (base : Nat) (xa : Src) (imm : BitVec 8) (scale : Nat) : Val DWord :=
  fun s sh u => BitVec.ofInt 64 ((base : Int) + ((src s sh u xa).toNat : Int) + imm.toInt * scale)

/-- The offset of a short form is a multiple of the access size and lies in a window of `size` bytes (R165). -/
def offsetLegal (size : State → Nat → Nat) (xa : Src) (imm : BitVec 8) (scale : Nat) (s : State) (u : Nat) : Prop :=
  let o : Int := ((src s false u xa).toNat : Int) + imm.toInt * scale
  o % scale = 0 ∧ 0 ≤ o ∧ o + scale ≤ size s u

def anyOffset (_ : State) (_ : Nat) : Prop := True

/-- The local and the cluster window of a thread's block (Table 3.1). -/
def localWindow (s : State) (u : Nat) : Nat := localSize s (sqd s (squadOf u)).block
def clusterWindow (s : State) (u : Nat) : Nat := clusterSize s (sqd s (squadOf u)).block

/-- The atomic `i`: where no lane has a cause, the copies agree, each word translates to one piece that is not poisoned, through no
window that a revocation has made strictly dead, and, in the strict class, no two lanes of a squad name one word, each thread's
atomic is an entry with the operands it read, its destination is pending, and its run ends at the next word. -/
def IssuesAtomics (i : Instr) (op : AtomOp) (vd : Fin 128) (xa : Src) (xb : Base) : Prop :=
  ∀ (s : State) (ps : Nat → Piece), LanesClear i s → OwnAgents s →
    (∀ u ∈ s.cur.threads, longAddress xa xb s false u = longAddress xa xb s true u ∧
      threadTrans s u (.atomic op) (longAddress xa xb s false u) 4 = .ok [ps u] ∧ poisonIn s [ps u] = none ∧
      strictDead s (ps u).win = false ∧
      readV s false u vd.val = readV s true u vd.val ∧
      (op = .cas → readV s false u (vd.val + 1) = readV s true u (vd.val + 1)) ∧
      (op = .xch ∨ op = .cas → ∀ v ∈ s.cur.threads, squadOf v = squadOf u → (ps v).addr = (ps u).addr → v = u)) →
    ∃ t, exec i s = .next t ∧ t.mem = s.mem ∧ SameRegisters s t ∧
      ∀ u ∈ s.cur.threads, (thr t u).pc = s.cur.pc + 4 ∧ (thr t u).pendV = vd.val :: (thr s u).pendV ∧
        ∃ x ∈ (agt t (thr s u).agent).out, ∃ group lane, x.kind = .atomic op (ps u).addr (readV s false u vd.val)
          (if op = .cas then readV s false u (vd.val + 1) else 0) (.v u vd.val) group lane (ps u).ord

/-! ### Cross-lane words -/

/-- A rendezvous of one squad whose live threads all stand in the wave, with nothing else waiting: it completes at once. Each thread
receives the result for its lane, computed from the operands of all the squad's live threads; an exited thread contributes 0. -/
def Rendezvous (i : Instr) (vd : Fin 128) (x y : Val Word)
    (result : (P : List Nat) → (dead : Nat → Bool) → (x y : Nat → Word) → (lane : Nat) → Word) : Prop :=
  ∀ (s : State) (q : Nat), LanesClear i s → (s.squads.get? q).isSome → s.cur.threads ≠ [] → (∀ u ∈ s.cur.threads, squadOf u = q) →
    (∀ u ∈ liveOf s q, u ∈ s.cur.threads) → s.waits = [] → (sqd s q).state = .resident →
    ∃ t, exec i s = .next t ∧ t.waits = [] ∧
      (∀ u ∈ s.cur.threads, (thr t u).pc = s.cur.pc + 4 ∧ (thr t u).wait = none ∧ ∀ sh,
        readV t sh u vd.val = result (sqd s q).present (fun j => !(thr s (threadKey q j)).live)
          (fun j => if (thr s (threadKey q j)).live then x s sh (threadKey q j) else 0)
          (fun j => if (thr s (threadKey q j)).live then y s sh (threadKey q j) else 0) (laneOf u)) ∧
      OtherV [vd.val] s t ∧ t.mem = s.mem

/-! ### Squad-set words that end their runs -/

/-- Every thread of the word is live, waits for nothing, has an agent of its own, and its two copies hold the word alike (R223). -/
def Ready (s : State) : Prop :=
  AtWord s ∧ OwnAgents s ∧ ∀ u ∈ s.cur.threads, (thr s u).live = true ∧ (thr s u).wait = none ∧ (thr s u).susp = none ∧
    (thr s u).shWord = 0

/-- The squad word `i`, which ends the run, acts for one squad `q`, which is resident: no execution waits, no operand has a cause,
the copies agree on what the word reads (R337), and the run's squad writes stand before it. -/
def Acts (i : Instr) (q : Nat) (s : State) : Prop :=
  SquadsClear i s ∧ Ready s ∧ s.cur.threads ≠ [] ∧ (∀ u ∈ s.cur.threads, squadOf u = q) ∧
  s.waits = [] ∧ (sqd s q).state = .resident ∧ (∀ w ∈ (curWave s).writes, w.pc.toNat < s.cur.pc.toNat) ∧
  (∀ n ∈ (usesOf i).sr, readS s false q n = readS s true q n) ∧ ∀ n ∈ (usesOf i).jr, readJ s false q n = readJ s true q n

/-- Each thread of the word stands at `pc`, outside its wave. -/
def Stand (pc : DWord) (s t : State) : Prop :=
  ∀ u ∈ s.cur.threads, (thr t u).pc = pc ∧ (thr t u).inWave = false ∧ u ∉ (curWave t).threads

/-- The threads of the word have left it for the next word, and wait for nothing. -/
def Leaves (s t : State) : Prop := Stand (s.cur.pc + 4) s t ∧ ∀ u ∈ s.cur.threads, (thr t u).wait = none

/-- Each thread of the word waits at it, in a wait of the kind given. -/
def Stays (kind : WaitKind) (s t : State) : Prop :=
  Stand s.cur.pc s t ∧ ∀ u ∈ s.cur.threads, ∃ id w, (thr t u).wait = some id ∧ t.waits.get? id = some w ∧
    u ∈ w.threads ∧ w.kind = kind ∧ w.pc = s.cur.pc

/-- No byte of memory, no v register and no k predicate differs, and no s register or j predicate but those of `ks` and `js` in
squad `q`, from what the run's earlier words left. -/
def KeepsAll (q : Nat) (ks js : List Nat) (s t : State) : Prop :=
  t.mem = s.mem ∧ SameRegisters s t ∧
  ∀ p n, (p ≠ q ∨ n ∉ ks → (sqd t p).s.getD n 0 = (sqd (commitWrites s) p).s.getD n 0 ∧
      (sqd t p).shS.getD n 0 = (sqd (commitWrites s) p).shS.getD n 0) ∧
    (p ≠ q ∨ n ∉ js → (sqd t p).j.getD n false = (sqd (commitWrites s) p).j.getD n false ∧
      (sqd t p).shJ.getD n false = (sqd (commitWrites s) p).shJ.getD n false)

/-- Both copies of s register `n`, and of a pair, hold a value. -/
def Holds (q n : Nat) (x : Word) (t : State) : Prop := (sqd t q).s.getD n 0 = x ∧ (sqd t q).shS.getD n 0 = x
def Holds64 (q n : Nat) (x : DWord) (t : State) : Prop := Holds q n (lowWord x) t ∧ Holds q (n + 1) (highWord x) t
def HoldsJ (q n : Nat) (x : Bool) (t : State) : Prop := (sqd t q).j.getD n false = x ∧ (sqd t q).shJ.getD n false = x

/-- The agents of the word's threads. -/
def wordAgents (s : State) : List Nat := s.cur.threads.map fun u => (thr s u).agent

/-- A release at scope `x` by each of the agents has begun, and the effect `op` follows them (R91, R97). -/
def Begins (as : List Nat) (x : Scope) (op : SyncOp) (t : State) : Prop :=
  ∃ y z, t.syncs.get? y = some z ∧ z.op = op ∧ z.moves = false ∧
    ∀ a ∈ as, ∃ r ∈ z.left, ∃ p, t.pendRels.get? r = some p ∧ p.agent = a ∧ p.scope = x ∧ p.sync = y

/-- A move with the effect `op` on the given spans of memory has begun, behind a release by each of the agents where the word has
one: an entry of each agent stands for each span, and the move is an acquire at scope `acq` where the word has one that does not
wait for it (R92, R97, Table 4.2). -/
def BeginsMove (as : List Nat) (x acq : Option Scope) (op : SyncOp) (spans : List (Nat × Nat)) (t : State) : Prop :=
  ∃ y z, t.syncs.get? y = some z ∧ z.op = op ∧ z.moves = true ∧ z.acq = acq ∧
    (∀ a ∈ as, ∀ p ∈ spans, ∃ e ∈ (agt t a).all, ∃ o, e.kind = .object y p.1 p.2 o) ∧
    ∀ c, x = some c → ∀ a ∈ as, ∃ r ∈ z.left, ∃ p, t.pendRels.get? r = some p ∧ p.agent = a ∧ p.scope = c ∧ p.sync = y

/-- The command `k` stands at the end of its block's queue `n`, with the kind, the descriptor and the flags given. -/
def Enqueued (n q : Nat) (kind : CmdKind) (desc : List Word) (g : Nat) (ord : Ord) (token : Option Nat) (s t : State) : Prop :=
  ∃ c k, t.cmds.get? c = some k ∧ k.kind = kind ∧ k.desc = desc ∧ k.ord = ord ∧ k.token = token ∧ k.squad = q ∧
    k.block = (sqd s q).block ∧ k.lid = (sqd s q).lid ∧ k.started = false ∧
    (g = 0 → k.shut = false ∧ k.arming = none) ∧
    (g ≠ 0 → k.shut = (guardOf s (sqd s q).block g == .shut) ∧ ∀ n, guardOf s (sqd s q).block g = .armed n → k.arming = some n) ∧
    (if n = 0 then (blk t (sqd s q).block).q0 = (blk s (sqd s q).block).q0 ++ [c]
     else if n = 2 then (blk t (sqd s q).block).q2 = (blk s (sqd s q).block).q2 ++ [c]
     else (blk t (sqd s q).block).q4 = (blk s (sqd s q).block).q4 ++ [c])

/-- The commands in a queue of a block, and its places (R133). -/
def queued (s : State) (b n : Nat) : List Nat := if n = 0 then (blk s b).q0 else if n = 2 then (blk s b).q2 else (blk s b).q4
def places (n : Nat) : Nat := if n = 4 then 8 else 16

/-- The push `i`: with room in the queue its command enters and the threads leave for the next word; with none they wait (R134).
A token register is pending from the push. -/
def Pushes (i : Instr) (kind : CmdKind) (desc : State → Nat → List Word) (g : Nat) (ord : Ord) (token : Option Nat)
    (legal : State → Nat → Prop) : Prop :=
  ∀ (s : State) (q : Nat), Acts i q s → legal s q → (s.blocks.get? (sqd s q).block).isSome →
    ∃ t, exec i s = .next t ∧ KeepsAll q [] [] s t ∧
      (∀ n, token = some n → n ∈ (sqd t q).pendS) ∧
      (ord.acq = true → ∃ c, Begins (wordAgents s) ord.scope (.cmdStart c) t) ∧
      if (queued s (sqd s q).block kind.queue).length < places kind.queue then
        Leaves s t ∧ Enqueued kind.queue q kind (desc s q) g ord token s t
      else
        Stand s.cur.pc s t ∧ ∀ u ∈ s.cur.threads, ∃ id w c, (thr t u).wait = some id ∧ t.waits.get? id = some w ∧
          w.kind = .command (sqd s q).block kind.queue c

/-! ### Commands of the host's queues -/

/-- The command `c` is in hand: its chain has been taken, it is one of rule `r` whose turn it is, nothing refuses it, and it has
started (R246, R247, R345). -/
def InHand (c : CmdId) (r : CmdRule) (s s' : State) : Prop :=
  ∃ u, u = takeChain c s ∧ cmdReady u c r = true ∧ refusal u c r = none ∧ s' = markStarted c u

/-- The chain of a command as its record finds it: without a buffer that cannot be reached (R347). -/
def recordChain (s : State) (c : CmdId) : List (DWord × Nat × Nat) := inReach s c.1 (c.2, chainOf s c)

/-- The command has completed with a status, a detail and a value: its record stands, its used element is posted, of 16 bytes where
its chain in `s` has room for the record, and its chain is no longer held. Where used elements can be written no more, a function needs a
reset (R246, R347). -/
def Completed (s : State) (c : CmdId) (status detail value : Nat) (t : State) : Prop :=
  (∃ k ∈ t.completions, k.queue = c.1 ∧ k.buf = c.2 ∧ k.status = status ∧ k.detail = detail ∧ k.value = value) ∧
  if (queueOf s c.1).lost then ∃ f, (fnOf t f).needsReset = true
  else (c.2, if 16 ≤ writableLen (recordChain s c) then 16 else 0) ∈ (queueOf t c.1).used ∧ ∀ x ∈ (queueOf t c.1).fetched, x.1 ≠ c.2

/-- A field of a command's body, its context operand within the partition, and a reserved field that is 0 (R248, R345). -/
def ContextOk (s : State) (c : CmdId) (off : Nat) : Prop := ctxOk s c.1 (argAt s c off 4) = true
def ZeroField (s : State) (c : CmdId) (off n : Nat) : Prop := (reservedAt s c off n).2 = false

/-- A byte of the status record of a command in hand: the first 16 bytes of the device-writable part of its chain, descriptor after
descriptor (R246), as memory keys. -/
def StatusAt (s : State) (c : CmdId) (a : Nat) : Prop :=
  16 ≤ writableLen (recordChain s c) ∧ ∃ x d y, recordChain s c = x ++ d :: y ∧ descWritable d = true ∧ hostKey d.1.toNat ≤ a ∧
    a < hostKey d.1.toNat + min d.2.1 (16 - writableLen x)

/-- Memory is that of `u` but for the status record of the command. -/
def MemoryOf (s : State) (c : CmdId) (u t : State) : Prop := ∀ a, ¬StatusAt s c a → readByte t a = readByte u a

/-- No byte differs but in the command's status record. -/
def OnlyStatus (s : State) (c : CmdId) (t : State) : Prop := MemoryOf s c s t

/-- The block stands in the machine, and its writers have taken every completion and reply record (R133). -/
def RecordsTaken (s : State) (b : Nat) : Prop :=
  (s.blocks.get? b).isSome ∧ (blk s b).q1 = [] ∧ (blk s b).q3 = [] ∧ (blk s b).q5 = []

/-- A value that the word at place `i` of the issue order delivers to register `n` of squad `q` is written: the squad is not killed, and
no later-issued word has written the register (R30, R319). -/
def TakesValue (s : State) (q n i : Nat) : Prop :=
  (s.squads.get? q).isSome ∧ (sqd s q).killed = false ∧ n < 64 ∧ (sqd s q).seqS.getD n 0 ≤ i

/-- The event `e` has gone to the owner of its class alone (R263): in the list that its owner reads, unless its owner is the host. -/
def Raised (e : Event) (s t : State) : Prop := ownerOf s e.cls ≠ ownerHost → t.events = s.events ++ [e]

/-- A request through a window has a port to leave by, and no injector is armed: its sending raises no event (R339, R343). -/
def Quiet (s : State) (win : Option WinRef) : Prop :=
  ∀ w, win = some w → (winOf s w).tdev = s.devnum ∨ (∃ e ∈ s.ports, e.2.up = true) ∧ ∀ e ∈ s.ports, e.2.inj = none

/-- An instruction of a class of Table 1.4: it must be the last of its run (R18). -/
def endsRun : Instr → Bool
  | .axch .. | .acas .. | .aadd .. | .aimin .. | .aimax .. | .aumin .. | .aumax .. | .aand .. | .aor .. | .axor ..
  | .afadd .. | .ufence .. | .qpushv .. | .qpopv .. | .qpush .. | .qpop .. | .qtry .. | .shfl .. | .shflx ..
  | .ballot .. | .sred .. | .sscan .. | .matchLanes .. | .mxlds .. | .mxswap .. | .mxstr .. | .mxdrn .. | .mxzero ..
  | .cpcopy .. | .cpgath .. | .cpscat .. | .cpfill .. | .alloc .. | .free .. | .fetch .. | .bars .. | .bara ..
  | .barw .. | .gbar .. | .chinit .. | .chpush .. | .chpop .. | .garm .. | .gres .. | .lkacq .. | .lktry .. | .lkrel ..
  | .prmake .. | .prset .. | .prwait .. | .setheir .. | .inherit .. | .inheritNb .. | .waitsig .. | .sigadd .. | .publish .. | .trap ..
  | .hret .. | .bkpt .. | .srw .. | .br .. | .brn .. | .jmp .. | .call .. | .ret .. | .jr .. | .callr .. | .exit ..
  | .yield .. | .ubr .. | .ubrn .. => true
  | _ => false

/-- The command that a step of the host's queues starts, and its rule (Table 11.5). -/
def commandRule : Instr → Option (CmdId × CmdRule)
  | .launch q b => some ((q, b), ruleLaunch)
  | .cellarFill q b => some ((q, b), ruleCellarFill)
  | .copy q b => some ((q, b), ruleCopy)
  | .signalSet q b => some ((q, b), ruleSignalSet)
  | .signalWait q b => some ((q, b), ruleSignalWait)
  | .pubCreate q b => some ((q, b), rulePubCreate)
  | .pubDestroy q b => some ((q, b), rulePubDestroy)
  | .receiptSeal q b => some ((q, b), ruleReceiptSeal)
  | .receiptRequest q b _ => some ((q, b), ruleReceiptRequest)
  | .windowExport q b => some ((q, b), ruleWindowExport)
  | .windowGrant q b _ _ _ _ _ _ => some ((q, b), ruleWindowGrant)
  | .windowRevoke q b => some ((q, b), ruleWindowRevoke)
  | .keyInstall q b => some ((q, b), ruleKeyInstall)
  | .storageBind q b => some ((q, b), ruleStorageBind)
  | .storageDone q b => some ((q, b), ruleStorageDone)
  | .contextCreate q b => some ((q, b), ruleContextCreate)
  | .contextDestroy q b => some ((q, b), ruleContextDestroy)
  | .tlbInvalidate q b => some ((q, b), ruleTlbInvalidate)
  | .setRegions q b => some ((q, b), ruleSetRegions)
  | .setTolerance q b => some ((q, b), ruleSetTolerance)
  | .cellarGrant q b => some ((q, b), ruleCellarGrant)
  | .partition q b => some ((q, b), rulePartition)
  | .eventRoute q b => some ((q, b), ruleEventRoute)
  | .porterImage q b => some ((q, b), rulePorterImage)
  | .inject q b => some ((q, b), ruleInject)
  | .debugHalt q b | .debugResume q b | .debugStep q b | .debugClaim q b | .debugRead q b | .debugKill q b
  | .debugSetDump q b => some ((q, b), ruleDebug)
  | _ => none

end Sys2Proof.Machine
end

