-- ==== Sys2Proof/Certificates/Slice0/Obligations.lean ====
section
/-! DEFINITION. The statements for the provers. A statement of several parts names each part: Says.<Part>. -/

open Sys2Proof Sys2Proof.Machine

/-- R141, R142: the integer arithmetic family of Table 7.2, with the corners of division. -/
def Says.IntegerArithmetic : Prop :=
  ∀ (e : Bool) (vd : Fin 128) (xa xb : Src),
    WritesV (.iadd e vd xa xb) e vd (of2 xa xb fun a b => BitVec.ofNat 32 (a.toNat + b.toNat)) ∧
    WritesV (.isub e vd xa xb) e vd (of2 xa xb fun a b => BitVec.ofInt 32 ((a.toNat : Int) - b.toNat)) ∧
    WritesV (.imul e vd xa xb) e vd (of2 xa xb fun a b => BitVec.ofNat 32 (a.toNat * b.toNat)) ∧
    WritesV (.imulh e vd xa xb) e vd (of2 xa xb fun a b => BitVec.ofInt 32 (a.toInt * b.toInt / 2 ^ 32)) ∧
    WritesV (.imulhu e vd xa xb) e vd (of2 xa xb fun a b => BitVec.ofNat 32 (a.toNat * b.toNat / 2 ^ 32)) ∧
    WritesV (.imad e vd xa xb) e vd (of3 vd xa xb fun d a b => BitVec.ofNat 32 (d.toNat + a.toNat * b.toNat)) ∧
    WritesV (.imin e vd xa xb) e vd (of2 xa xb fun a b => BitVec.ofInt 32 (min a.toInt b.toInt)) ∧
    WritesV (.imax e vd xa xb) e vd (of2 xa xb fun a b => BitVec.ofInt 32 (max a.toInt b.toInt)) ∧
    WritesV (.umin e vd xa xb) e vd (of2 xa xb fun a b => BitVec.ofNat 32 (min a.toNat b.toNat)) ∧
    WritesV (.umax e vd xa xb) e vd (of2 xa xb fun a b => BitVec.ofNat 32 (max a.toNat b.toNat)) ∧
    WritesV (.idiv e vd xa xb) e vd (of2 xa xb fun a b =>
      if b = 0 then 0xFFFFFFFF else if a = 0x80000000 ∧ b = 0xFFFFFFFF then 0x80000000 else BitVec.ofInt 32 (a.toInt.tdiv b.toInt)) ∧
    WritesV (.udiv e vd xa xb) e vd (of2 xa xb fun a b => if b = 0 then 0xFFFFFFFF else BitVec.ofNat 32 (a.toNat / b.toNat)) ∧
    WritesV (.irem e vd xa xb) e vd (of2 xa xb fun a b =>
      if b = 0 then a else if a = 0x80000000 ∧ b = 0xFFFFFFFF then 0
      else BitVec.ofInt 32 (a.toInt - a.toInt.tdiv b.toInt * b.toInt)) ∧
    WritesV (.urem e vd xa xb) e vd (of2 xa xb fun a b =>
      if b = 0 then a else BitVec.ofNat 32 (a.toNat - a.toNat / b.toNat * b.toNat))

/-- R143: the logic and shift family of Table 7.4. The shift amount is the whole of `b` read as U32. -/
def Says.LogicAndShifts : Prop :=
  ∀ (e : Bool) (vd : Fin 128) (xa xb : Src),
    WritesV (.and e vd xa xb) e vd (of2 xa xb fun a b => a &&& b) ∧
    WritesV (.or e vd xa xb) e vd (of2 xa xb fun a b => a ||| b) ∧
    WritesV (.xor e vd xa xb) e vd (of2 xa xb fun a b => a ^^^ b) ∧
    WritesV (.andn e vd xa xb) e vd (of2 xa xb fun a b => a &&& ~~~b) ∧
    WritesV (.shl e vd xa xb) e vd (of2 xa xb fun a b =>
      if b.toNat < 32 then BitVec.ofNat 32 (a.toNat * 2 ^ b.toNat) else 0) ∧
    WritesV (.shr e vd xa xb) e vd (of2 xa xb fun a b =>
      if b.toNat < 32 then BitVec.ofNat 32 (a.toNat / 2 ^ b.toNat) else 0) ∧
    WritesV (.sar e vd xa xb) e vd (of2 xa xb fun a b =>
      if b.toNat < 32 then BitVec.ofInt 32 (a.toInt / 2 ^ b.toNat) else if a.getLsbD 31 then 0xFFFFFFFF else 0) ∧
    WritesV (.popc e vd xa) e vd (of1 xa fun a => BitVec.ofNat 32 ((List.range 32).countP fun i => a.getLsbD i)) ∧
    WritesV (.clz e vd xa) e vd (of1 xa fun a => if a = 0 then 32 else BitVec.ofNat 32 (31 - Nat.log2 a.toNat)) ∧
    WritesV (.brev e vd xa) e vd (of1 xa fun a => a.reverse)

/-- Integer arithmetic with its division corners, logic and shifts: results, frame and completion (O1). -/
def Obligations.IntegersLogicAndShifts : Prop := Says.IntegerArithmetic ∧ Says.LogicAndShifts

/-- R144: BFE and BFI. The control word gives POS in bits [4:0], LEN in [13:8] and SX in [15]; the field is cut at bit 31. -/
def Says.BitFields : Prop :=
  ∀ (e : Bool) (vd : Fin 128) (xa xb : Src),
    WritesV (.bfe e vd xa xb) e vd (of2 xa xb fun a b =>
      let pos := b.toNat % 32
      let w := min (b.toNat / 2 ^ 8 % 64) (32 - pos)
      let f := a.toNat / 2 ^ pos % 2 ^ w
      if w = 0 then 0 else if b.getLsbD 15 ∧ 2 ^ (w - 1) ≤ f then BitVec.ofInt 32 (f - 2 ^ w) else BitVec.ofNat 32 f) ∧
    WritesV (.bfi e vd xa xb) e vd (of3 vd xa xb fun d a b =>
      let pos := b.toNat % 32
      let w := min (b.toNat / 2 ^ 8 % 64) (32 - pos)
      let m : Word := BitVec.ofNat 32 ((2 ^ w - 1) * 2 ^ pos)
      (d &&& ~~~m) ||| (a <<< pos &&& m))

/-- R145, R146: the immediate and move families. MOVHI keeps the low half of `vd`; SEL chooses by k0. -/
def Says.ImmediatesAndMoves : Prop :=
  ∀ (e : Bool) (vd : Fin 128) (xa xb : Src) (i8 : BitVec 8) (i16 : BitVec 16),
    WritesV (.iaddi e vd xa i8) e vd (of1 xa fun a => BitVec.ofInt 32 (a.toNat + i8.toInt)) ∧
    WritesV (.andi e vd xa i8) e vd (of1 xa fun a => a &&& i8.signExtend 32) ∧
    WritesV (.ori e vd xa i8) e vd (of1 xa fun a => a ||| i8.signExtend 32) ∧
    WritesV (.xori e vd xa i8) e vd (of1 xa fun a => a ^^^ i8.signExtend 32) ∧
    WritesV (.shli e vd xa i8) e vd (of1 xa fun a => if i8.toNat < 32 then BitVec.ofNat 32 (a.toNat * 2 ^ i8.toNat) else 0) ∧
    WritesV (.shri e vd xa i8) e vd (of1 xa fun a => if i8.toNat < 32 then BitVec.ofNat 32 (a.toNat / 2 ^ i8.toNat) else 0) ∧
    WritesV (.sari e vd xa i8) e vd (of1 xa fun a =>
      if i8.toNat < 32 then BitVec.ofInt 32 (a.toInt / 2 ^ i8.toNat) else if a.getLsbD 31 then 0xFFFFFFFF else 0) ∧
    WritesV (.movi e vd i16) e vd (fun _ _ _ => BitVec.ofInt 32 i16.toInt) ∧
    WritesV (.movhi e vd i16) e vd (fun s sh t => BitVec.ofNat 32 (i16.toNat * 2 ^ 16 + (readV s sh t vd.val).toNat % 2 ^ 16)) ∧
    WritesV (.mov e vd xa) e vd (of1 xa fun a => a) ∧
    WritesV (.sel e vd xa xb) e vd (fun s sh t => if readK s sh t 0 then src s sh t xa else src s sh t xb)

/-- R147, R119: MOVS writes the special register of its index as the thread on the lane reads it. sr.cellphase is read at a clock
the model does not fix (log 7): the die's phase counter has run on when it is read. -/
def Says.SpecialRegisterReads : Prop :=
  (∀ (e : Bool) (vd : Fin 128) (idx : BitVec 8), idx ≠ 0x0C →
    WritesV (.movs e vd idx) e vd (fun s _ t => laneSpecial s t idx.toNat)) ∧
  (∀ (e : Bool) (vd : Fin 128) (s : State), LanesClear (.movs e vd 0x0C) s →
    ∃ t, exec (.movs e vd 0x0C) s = .next t ∧
      (∀ u ∈ s.cur.threads, ∀ sh, readV t sh u vd.val =
        cellphaseWord (phaseOf t (dieOf (sqd (actsOn e (tickPhase (dieOf s.cur.core) s)) (squadOf u)).core))) ∧
      OtherV [vd.val] s t ∧ OnlyThreads e (tickPhase (dieOf s.cur.core) s) t) ∧
  (∀ s t, laneSpecial s t 0x00 = BitVec.ofNat 32 ((sqd s (squadOf t)).idx * 32 + laneOf t) ∧
    laneSpecial s t 0x01 = BitVec.ofNat 32 (laneOf t) ∧
    laneSpecial s t 0x02 = BitVec.ofNat 32 (sqd s (squadOf t)).idx ∧
    laneSpecial s t 0x03 = BitVec.ofNat 32 (sqd s (squadOf t)).gsq ∧
    laneSpecial s t 0x05 = BitVec.ofNat 32 (sqd s (squadOf t)).role ∧
    laneSpecial s t 0x09 = BitVec.ofNat 32 (sqd s (squadOf t)).lid ∧
    laneSpecial s t 0x0D = (sqd s (squadOf t)).vanish ∧
    laneSpecial s t 0x0E = (sqd s (squadOf t)).wrev ∧
    highWord (thr s t).stk ++ lowWord (thr s t).stk = laneSpecial s t 0x0B ++ laneSpecial s t 0x0A ∧
    laneSpecial s t 0x11 ++ laneSpecial s t 0x10 = (sqd s (squadOf t)).hvec ∧
    laneSpecial s t 0x13 ++ laneSpecial s t 0x12 = (thr s t).hpc ∧
    laneSpecial s t 0x18 ++ laneSpecial s t 0x17 = (sqd s (squadOf t)).faddr ∧
    laneSpecial s t 0x14 = (sqd s (squadOf t)).amask ∧
    laneSpecial s t 0x15 = (sqd s (squadOf t)).fmask ∧
    laneSpecial s t 0x16 = BitVec.ofNat 32 (sqd s (squadOf t)).cause ∧
    laneSpecial s t 0x19 = (sqd s (squadOf t)).xword)

/-- Bit fields, immediates, moves and reads of special registers: results, frame and completion (O2). -/
def Obligations.FieldsImmediatesAndMoves : Prop := Says.BitFields ∧ Says.ImmediatesAndMoves ∧ Says.SpecialRegisterReads

/-- The word of `i` has this base word, this B flag, and this predicate in bits [18:16] (R140, Tables 6.4 to 6.8). -/
def Based (i : Instr) (base : Word) (last : Bool) (field : Nat) : Prop :=
  (encode i).map (fun w => (w &&& 0xBF800000, w.getLsbD 30, (w.extractLsb' 16 3).toNat)) = some (base, last, field)

/-- R148, R149, R150: the comparisons and the predicate instructions, with the base words of their encodings. A comparison with a NaN
holds only for NE and UN; a function code and the two predicates fill the low fields of the predicate operations. -/
def Obligations.ComparisonsAndPredicates : Prop :=
  (∀ (e : Bool) (kd ka kb : Fin 8) (vd : Fin 128) (xa xb : Src) (cc : ICond) (fc : FCond),
    Based (.icmp e cc kd xa xb) 0x14000000 e kd.val ∧ Based (.fcmp e fc kd xa xb) 0x14800000 e kd.val ∧
    (∀ p ∈ [(Instr.kand false kd ka kb, 0), (.kor false kd ka kb, 1), (.kxor false kd ka kb, 2), (.kandn false kd ka kb, 3)],
      encode p.1 = some (BitVec.ofNat 32 (0x15000000 + p.2 * 2 ^ 19 + kd.val * 2 ^ 16 + ka.val * 2 ^ 8 + kb.val))) ∧
    encode (.knot false kd ka) = some (BitVec.ofNat 32 (0x15000000 + 4 * 2 ^ 19 + kd.val * 2 ^ 16 + ka.val * 2 ^ 8)) ∧
    (encode (.ktov e vd ka)).map (fun w => w &&& 0xBF800000) = some 0x15800000 ∧
    Based (.vtok e kd xa) 0x16000000 e kd.val) ∧
  (∀ (e : Bool) (kd : Fin 8) (xa xb : Src) (cc : ICond),
    WritesK (.icmp e cc kd xa xb) e kd fun s sh t =>
      let a := src s sh t xa
      let b := src s sh t xb
      match cc with
        | .eq => decide (a = b)
        | .ne => decide (a ≠ b)
        | .lt => decide (a.toInt < b.toInt)
        | .le => decide (a.toInt ≤ b.toInt)
        | .gt => decide (b.toInt < a.toInt)
        | .ge => decide (b.toInt ≤ a.toInt)
        | .ltu => decide (a.toNat < b.toNat)
        | .leu => decide (a.toNat ≤ b.toNat)
        | .gtu => decide (b.toNat < a.toNat)
        | .geu => decide (b.toNat ≤ a.toNat)) ∧
  (∀ (e : Bool) (kd : Fin 8) (xa xb : Src) (cc : FCond),
    WritesK (.fcmp e cc kd xa xb) e kd fun s sh t =>
      let x := f32 (src s sh t xa)
      let y := f32 (src s sh t xb)
      if x.isNan ∨ y.isNan then decide (cc = .ne ∨ cc = .un)
      else match cc with
        | .eq => decide (x.cmp y = 0)
        | .ne => decide (x.cmp y ≠ 0)
        | .lt => decide (x.cmp y < 0)
        | .le => decide (x.cmp y ≤ 0)
        | .gt => decide (0 < x.cmp y)
        | .ge => decide (0 ≤ x.cmp y)
        | .un => false
        | .ord => true) ∧
  (∀ (e : Bool) (kd ka kb : Fin 8) (vd : Fin 128) (xa : Src),
    WritesK (.kand e kd ka kb) e kd (fun s sh t => readK s sh t ka.val && readK s sh t kb.val) ∧
    WritesK (.kor e kd ka kb) e kd (fun s sh t => readK s sh t ka.val || readK s sh t kb.val) ∧
    WritesK (.kxor e kd ka kb) e kd (fun s sh t => xor (readK s sh t ka.val) (readK s sh t kb.val)) ∧
    WritesK (.kandn e kd ka kb) e kd (fun s sh t => readK s sh t ka.val && !readK s sh t kb.val) ∧
    WritesK (.knot e kd ka) e kd (fun s sh t => !readK s sh t ka.val) ∧
    WritesV (.ktov e vd ka) e vd (fun s sh t => if readK s sh t ka.val then 1 else 0) ∧
    WritesK (.vtok e kd xa) e kd (fun s sh t => decide (src s sh t xa ≠ 0)))

/-- R151: IADD64 and IMULW, with their base words, write the pair from an even register; the wrapped 64-bit sum, and the full signed
product. -/
def Obligations.PairArithmetic : Prop :=
  ∀ (e : Bool) (vd : Fin 128) (xa xb : Src), vd.val % 2 = 0 →
    WritesV64 (.iadd64 e vd xa xb) e vd (fun s sh t => BitVec.ofNat 64 ((src64 s sh t xa).toNat + (src64 s sh t xb).toNat)) ∧
    WritesV64 (.imulw e vd xa xb) e vd (fun s sh t => BitVec.ofInt 64 ((src s sh t xa).toInt * (src s sh t xb).toInt)) ∧
    (encode (.iadd64 e vd xa xb)).map (fun w => w &&& 0xBF800000) = some 0x16800000 ∧
    (encode (.imulw e vd xa xb)).map (fun w => w &&& 0xBF800000) = some 0x17000000

/-- The rational value of a finite number. -/
def ratOf : Machine.Num → Option ℚ
  | .fin s n e => some ((if s then -1 else 1) * (n : ℚ) * (2 : ℚ) ^ e)
  | .inf _ => none
  | .nan => none

/-- The value that stands one ulp above the largest finite value of a format (R104). -/
def extendedOf (F : Fmt) : ℚ :=
  (2 ^ F.fb + F.maxCode % 2 ^ F.fb + 1 : Nat) * (2 : ℚ) ^ (F.emin + (F.maxCode / 2 ^ F.fb : Nat) - 1)

/-- The place of a code among the values that RNE chooses from: an infinity stands at the extended value (R104). -/
def placeOf (F : Fmt) (c : Nat) : Option ℚ :=
  match decodeFP F c with
  | .inf s => some (if s then -extendedOf F else extendedOf F)
  | x => ratOf x

/-- `b` is the nearest of the codes that `place` gives a value, and of two as near the one whose lowest bit is 0. -/
def Nearest (place : Nat → Option ℚ) (x : ℚ) (b : Nat) : Prop :=
  ∃ y, place b = some y ∧ ∀ c z, place c = some z → |x - y| ≤ |x - z| ∧ (|x - y| = |x - z| → y ≠ z → b % 2 = 0)

/-- `b` is the largest finite value of the format that is not above `x`, or −infinity where none is. -/
def LargestBelow (F : Fmt) (x : ℚ) (b : Nat) : Prop :=
  (∃ y, ratOf (decodeFP F b) = some y ∧ y ≤ x ∧ ∀ c z, ratOf (decodeFP F c) = some z → z ≤ x → z ≤ y) ∨
  (decodeFP F b = .inf true ∧ ∀ c z, ratOf (decodeFP F c) = some z → x < z)

/-- `b` is the smallest finite value of the format that is not below `x`, or +infinity where none is. -/
def SmallestAbove (F : Fmt) (x : ℚ) (b : Nat) : Prop :=
  (∃ y, ratOf (decodeFP F b) = some y ∧ x ≤ y ∧ ∀ c z, ratOf (decodeFP F c) = some z → x ≤ z → y ≤ z) ∨
  (decodeFP F b = .inf false ∧ ∀ c z, ratOf (decodeFP F c) = some z → z < x)

/-- The code `b`, with sign `s`, is `x` rounded once to the format under a mode of Table 5.2. -/
def Rounded (F : Fmt) (m : RMode) (s : Bool) (x : ℚ) (b : Nat) : Prop :=
  b < 2 * F.signBit ∧ (F.signBit ≤ b ↔ s = true) ∧
  match m with
    | .rne => Nearest (placeOf F) x b
    | .rdn => LargestBelow F x b
    | .rup => SmallestAbove F x b
    | .rtz => if 0 ≤ x then LargestBelow F x b else SmallestAbove F x b

/-- A rational rounded to an integer under a mode of Table 5.2. -/
def roundedInt (m : RMode) (x : ℚ) : ℤ :=
  match m with
    | .rdn => ⌊x⌋
    | .rup => ⌈x⌉
    | .rtz => if 0 ≤ x then ⌊x⌋ else ⌈x⌉
    | .rne => if Int.fract x < 1 / 2 then ⌊x⌋ else if 1 / 2 < Int.fract x then ⌊x⌋ + 1
      else if ⌊x⌋ % 2 = 0 then ⌊x⌋ else ⌊x⌋ + 1

/-- R152, R153, R154: FP32 arithmetic. Each result is one rounding of the exact value: of sum, product and fused form as `Num` adds
and multiplies exactly (`RoundingModes`), of the quotient, of the scaled value and of the root as the clauses below say; FFLOOR,
FCEIL, FTRUNC and FRINT give the integer of their mode with the operand's sign; FMIN and FMAX give the other operand where one is a
NaN and order −0 below +0. -/
def Says.FloatArithmetic : Prop :=
  (∀ (e : Bool) (vd : Fin 128) (xa xb : Src),
    WritesV (.fadd e vd xa xb) e vd (of2 xa xb fun a b => toF32 ((f32 a).add (f32 b))) ∧
    WritesV (.fsub e vd xa xb) e vd (of2 xa xb fun a b => toF32 ((f32 a).add (f32 b).neg)) ∧
    WritesV (.fmul e vd xa xb) e vd (of2 xa xb fun a b => toF32 ((f32 a).mul (f32 b))) ∧
    WritesV (.ffma e vd xa xb) e vd (of3 vd xa xb fun d a b => toF32 (((f32 a).mul (f32 b)).add (f32 d))) ∧
    WritesV (.fdiv e vd xa xb) e vd (of2 xa xb fDiv) ∧
    WritesV (.fscale e vd xa xb) e vd (of2 xa xb fScale) ∧
    WritesV (.fmin e vd xa xb) e vd (of2 xa xb fun a b =>
      if (f32 a).isNan ∧ (f32 b).isNan then 0x7FC00000 else if (f32 a).isNan then b else if (f32 b).isNan then a
      else if fLess b a then b else a) ∧
    WritesV (.fmax e vd xa xb) e vd (of2 xa xb fun a b =>
      if (f32 a).isNan ∧ (f32 b).isNan then 0x7FC00000 else if (f32 a).isNan then b else if (f32 b).isNan then a
      else if fLess a b then b else a) ∧
    WritesV (.fabs e vd xa) e vd (of1 xa fun a => if (f32 a).isNan then 0x7FC00000 else BitVec.ofNat 32 (a.toNat % 2 ^ 31)) ∧
    WritesV (.fneg e vd xa) e vd (of1 xa fun a => if (f32 a).isNan then 0x7FC00000 else a ^^^ 0x80000000) ∧
    WritesV (.ffloor e vd xa) e vd (of1 xa (fInt .rdn)) ∧
    WritesV (.fceil e vd xa) e vd (of1 xa (fInt .rup)) ∧
    WritesV (.ftrunc e vd xa) e vd (of1 xa (fInt .rtz)) ∧
    WritesV (.frint e vd xa) e vd (of1 xa (fInt .rne)) ∧
    WritesV (.fsqrt e vd xa) e vd (of1 xa fSqrt)) ∧
  (∀ (a b : Word) s n e t d f, f32 a = .fin s n e → f32 b = .fin t d f →
    (∀ x y, d ≠ 0 → ratOf (f32 a) = some x → ratOf (f32 b) = some y → Rounded fp32 .rne (s != t) (x / y) (fDiv a b).toNat) ∧
    (d = 0 → n ≠ 0 → fDiv a b = if s != t then 0xFF800000 else 0x7F800000) ∧ (d = 0 → n = 0 → fDiv a b = 0x7FC00000)) ∧
  (∀ (a b : Word) s t, f32 a = .inf s →
    (∀ d f, f32 b = .fin t d f → fDiv a b = if s != t then 0xFF800000 else 0x7F800000) ∧
    (∀ n e, f32 b = .fin t n e → fDiv b a = if s != t then 0x80000000 else 0) ∧ (f32 b = .inf t → fDiv a b = 0x7FC00000)) ∧
  (∀ a b : Word, (f32 a).isNan ∨ (f32 b).isNan → fDiv a b = 0x7FC00000) ∧
  (∀ (a b : Word) s n e x, f32 a = .fin s n e → ratOf (f32 a) = some x →
    Rounded fp32 .rne s (x * (2 : ℚ) ^ b.toInt) (fScale a b).toNat) ∧
  (∀ (a b : Word) s, f32 a = .inf s → fScale a b = a) ∧ (∀ a b : Word, (f32 a).isNan → fScale a b = 0x7FC00000) ∧
  (∀ (m : RMode) (a : Word) s n e x, f32 a = .fin s n e → ratOf (f32 a) = some x →
    ∃ k g, f32 (fInt m a) = .fin s k g ∧ ratOf (.fin s k g) = some (roundedInt m x)) ∧
  (∀ (m : RMode) (a : Word) s, f32 a = .inf s → fInt m a = a) ∧ (∀ (m : RMode) (a : Word), (f32 a).isNan → fInt m a = 0x7FC00000) ∧
  (∀ (a : Word) n e x, f32 a = .fin false n e → n ≠ 0 → ratOf (f32 a) = some x →
    ∃ y, 0 ≤ y ∧ ratOf (f32 (fSqrt a)) = some y ∧ ∀ c z, ratOf (decodeFP fp32 c) = some z → 0 ≤ z →
      (y < z → x ≤ ((y + z) / 2) ^ 2) ∧ (z < y → ((y + z) / 2) ^ 2 ≤ x)) ∧
  (∀ (a : Word) s n e, f32 a = .fin s n e → (n = 0 → fSqrt a = a) ∧ (n ≠ 0 → s = true → fSqrt a = 0x7FC00000)) ∧
  fSqrt 0x7F800000 = 0x7F800000 ∧ fSqrt 0xFF800000 = 0x7FC00000 ∧ ∀ a : Word, (f32 a).isNan → fSqrt a = 0x7FC00000

/-- R156: FCLASS gives one bit for the class of its operand. -/
def Says.FloatClasses : Prop :=
  ∀ (e : Bool) (vd : Fin 128) (xa : Src),
    WritesV (.fclass e vd xa) e vd (of1 xa fun a =>
      let neg := decide (2 ^ 31 ≤ a.toNat)
      let x := a.toNat / 2 ^ 23 % 2 ^ 8
      let f := a.toNat % 2 ^ 23
      if x = 255 then (if f = 0 then (if neg then 0x001 else 0x080) else if 2 ^ 22 ≤ f then 0x200 else 0x100)
      else if x = 0 then (if f = 0 then (if neg then 0x008 else 0x010) else (if neg then 0x004 else 0x020))
      else (if neg then 0x002 else 0x040))

/-- FP32 arithmetic, FMIN and FMAX, the exact unary functions, and FCLASS (O5). -/
def Obligations.FloatValuesAndClasses : Prop := Says.FloatArithmetic ∧ Says.FloatClasses

/-- Both signed 16-bit elements of a packed result, wrapped. -/
def packedElements (g : Int → Int → Int) (a b : Word) : Word :=
  BitVec.ofInt 16 (g (a.extractLsb' 16 16).toInt (b.extractLsb' 16 16).toInt) ++
    BitVec.ofInt 16 (g (a.extractLsb' 0 16).toInt (b.extractLsb' 0 16).toInt)

/-- Both elements of a packed floating result in format `F`, each one rounding with RNE of an exact value of its operands' elements. -/
def packedFloats (F : Fmt) (g : Machine.Num → Machine.Num → Machine.Num → Machine.Num) (d a b : Word) : Word :=
  let one (i : Nat) : BitVec 16 := BitVec.ofNat 16 (roundFP F .rne (g (decodeFP F (d.extractLsb' (16 * i) 16).toNat)
    (decodeFP F (a.extractLsb' (16 * i) 16).toNat) (decodeFP F (b.extractLsb' (16 * i) 16).toNat)))
  one 1 ++ one 0

/-- The FP32 accumulator plus two exact products of elements in format `F`, rounded once with RNE. -/
def packedDot (F : Fmt) (d a b : Word) : Word :=
  let p (i : Nat) : Machine.Num := (decodeFP F (a.extractLsb' (16 * i) 16).toNat).mul (decodeFP F (b.extractLsb' (16 * i) 16).toNat)
  toF32 (((f32 d).add (p 0)).add (p 1))

/-- R157, R158, R160: the packed family, the dot products and PACK, element by element; each floating result is one rounding of the
exact value of its elements. -/
def Obligations.PackedAndDotProducts : Prop :=
  ∀ (e : Bool) (vd : Fin 128) (xa xb : Src),
    WritesV (.hadd2 e vd xa xb) e vd (of2 xa xb (packedFloats fp16 (fun _ x y => x.add y) 0)) ∧
    WritesV (.hmul2 e vd xa xb) e vd (of2 xa xb (packedFloats fp16 (fun _ x y => x.mul y) 0)) ∧
    WritesV (.hfma2 e vd xa xb) e vd (of3 vd xa xb (packedFloats fp16 fun d x y => (x.mul y).add d)) ∧
    WritesV (.badd2 e vd xa xb) e vd (of2 xa xb (packedFloats bf16 (fun _ x y => x.add y) 0)) ∧
    WritesV (.bmul2 e vd xa xb) e vd (of2 xa xb (packedFloats bf16 (fun _ x y => x.mul y) 0)) ∧
    WritesV (.bfma2 e vd xa xb) e vd (of3 vd xa xb (packedFloats bf16 fun d x y => (x.mul y).add d)) ∧
    WritesV (.iadd2 e vd xa xb) e vd (of2 xa xb (packedElements fun x y => x + y)) ∧
    WritesV (.isub2 e vd xa xb) e vd (of2 xa xb (packedElements fun x y => x - y)) ∧
    WritesV (.iadds2 e vd xa xb) e vd (of2 xa xb (packedElements fun x y => max (-32768) (min 32767 (x + y)))) ∧
    WritesV (.isubs2 e vd xa xb) e vd (of2 xa xb (packedElements fun x y => max (-32768) (min 32767 (x - y)))) ∧
    WritesV (.imax2 e vd xa xb) e vd (of2 xa xb (packedElements max)) ∧
    WritesV (.imin2 e vd xa xb) e vd (of2 xa xb (packedElements min)) ∧
    WritesV (.idp4 e vd xa xb) e vd (of3 vd xa xb fun d a b => BitVec.ofInt 32 (d.toInt +
      ((List.range 4).map fun i => (a.extractLsb' (8 * i) 8).toInt * (b.extractLsb' (8 * i) 8).toInt).sum)) ∧
    WritesV (.udp4 e vd xa xb) e vd (of3 vd xa xb fun d a b => BitVec.ofNat 32 (d.toNat +
      ((List.range 4).map fun i => (a.extractLsb' (8 * i) 8).toNat * (b.extractLsb' (8 * i) 8).toNat).sum)) ∧
    WritesV (.hdp2 e vd xa xb) e vd (of3 vd xa xb (packedDot fp16)) ∧
    WritesV (.bdp2 e vd xa xb) e vd (of3 vd xa xb (packedDot bf16)) ∧
    WritesV (.pack e vd xa xb) e vd (of2 xa xb fun a b => b.extractLsb' 0 16 ++ a.extractLsb' 0 16) ∧
    (encode (.pack e vd xa xb)).map (fun w => w &&& 0xBF800000) = some 0x28800000

/-- The FP32 value of a word, where it is finite. -/
def valueOf (a : Word) : Option ℚ := ratOf (f32 a)

/-- One ulp of FP32 at a value: the gap of the two FP32 values that bracket it, 2^−149 below 2^−126 (R155). -/
def ulpOf (v : ℚ) : ℚ := (2 : ℚ) ^ (max (Int.log 2 |v|) (-126) - 23)

/-- The bound of Table 7.9 for an argument `x` and the exact value `v`. -/
def boundOf (fn : ApproxFn) (x v : ℚ) : ℚ :=
  match fn with
    | .rcp | .rsq => ulpOf v
    | .exp2 => 2 * ulpOf v
    | .log2 => if 1 / 2 ≤ x ∧ x ≤ 2 then max (2 * ulpOf v) ((2 : ℚ) ^ (-22 : ℤ)) else 2 * ulpOf v
    | .sin | .cos => max (2 * ulpOf v) ((2 : ℚ) ^ (-22 : ℤ))

/-- Table 7.9 lists an exact result for the argument. -/
def Tabled (fn : ApproxFn) (x : ℚ) : Prop :=
  match fn with
    | .rcp => x = 0 ∨ ∃ k : ℤ, |x| = 2 ^ k
    | .rsq => x ≤ 0 ∨ ∃ k : ℤ, x = 4 ^ k
    | .exp2 => x ≤ -150 ∨ 128 ≤ x ∨ ∃ k : ℤ, x = k
    | .log2 => x ≤ 0 ∨ ∃ k : ℤ, x = 2 ^ k
    | .sin | .cos => ∃ k : ℤ, 4 * x = k

/-- R155: FRCP, FRSQ, FEXP2, FLOG2, FSIN and FCOS complete and write a value that keeps the bound of Table 7.9 around the function's
value, or the signed infinity beyond the largest finite value, and inside the bound a value that the model leaves free (log 9). The
function's value is the model's `approxValue` (log 9), which for FRCP and FRSQ the last clauses hold to 1/a and 1/√a. -/
def Says.ApproximateFunctions : Prop :=
  (∀ (e : Bool) (vd : Fin 128) (xa : Src),
    WritesV (.frcp e vd xa) e vd (of1 xa (approx .rcp)) ∧
    WritesV (.frsq e vd xa) e vd (of1 xa (approx .rsq)) ∧
    WritesV (.fexp2 e vd xa) e vd (of1 xa (approx .exp2)) ∧
    WritesV (.flog2 e vd xa) e vd (of1 xa (approx .log2)) ∧
    WritesV (.fsin e vd xa) e vd (of1 xa (approx .sin)) ∧
    WritesV (.fcos e vd xa) e vd (of1 xa (approx .cos))) ∧
  (∀ fn (a : Word) s n e x v, f32 a = .fin s n e → valueOf a = some x → ¬Tabled fn x →
    ratOf (approxValue fn s n e) = some v →
    (|v| ≤ (2 - (2 : ℚ) ^ (-23 : ℤ)) * 2 ^ 127 → ∃ r, valueOf (approx fn a) = some r ∧ |r - v| ≤ boundOf fn x v) ∧
    ((2 - (2 : ℚ) ^ (-23 : ℤ)) * 2 ^ 127 < v → approx fn a = 0x7F800000) ∧
    (v < -((2 - (2 : ℚ) ^ (-23 : ℤ)) * 2 ^ 127) → approx fn a = 0xFF800000)) ∧
  (∀ fn s n e, ∃ v, ratOf (approxValue fn s n e) = some v) ∧
  (∀ (a : Word) s n e x v, f32 a = .fin s n e → n ≠ 0 → valueOf a = some x →
    (ratOf (approxValue .rcp s n e) = some v → |v * x - 1| ≤ (2 : ℚ) ^ (-150 : ℤ)) ∧
    (s = false → ratOf (approxValue .rsq s n e) = some v → 0 ≤ v ∧ |v * v * x - 1| ≤ (2 : ℚ) ^ (-150 : ℤ)))

/-- R155: the special and exact results of Table 7.9. -/
def Says.ExactApproximations : Prop :=
  (∀ fn (a : Word), (f32 a).isNan → approx fn a = 0x7FC00000) ∧
  (approx .rcp 0 = 0x7F800000 ∧ approx .rcp 0x80000000 = 0xFF800000 ∧ approx .rcp 0x7F800000 = 0 ∧ approx .rcp 0xFF800000 = 0x80000000) ∧
  (∀ (a : Word) (k : ℤ), -127 ≤ k → k ≤ 127 →
    (valueOf a = some (2 ^ k) → valueOf (approx .rcp a) = some (2 ^ (-k))) ∧
    (valueOf a = some (-(2 ^ k)) → valueOf (approx .rcp a) = some (-(2 ^ (-k))))) ∧
  (∀ (a : Word) (k : ℤ), k < -127 → (valueOf a = some (2 ^ k) → approx .rcp a = 0x7F800000) ∧
    (valueOf a = some (-(2 ^ k)) → approx .rcp a = 0xFF800000)) ∧
  (approx .rsq 0 = 0x7F800000 ∧ approx .rsq 0x80000000 = 0xFF800000 ∧ approx .rsq 0x7F800000 = 0 ∧ approx .rsq 0xFF800000 = 0x7FC00000) ∧
  (∀ (a : Word) x, valueOf a = some x → x < 0 → approx .rsq a = 0x7FC00000 ∧ approx .log2 a = 0x7FC00000) ∧
  (∀ (a : Word) (k : ℤ), valueOf a = some (4 ^ k) → valueOf (approx .rsq a) = some (2 ^ (-k))) ∧
  (approx .exp2 0xFF800000 = 0 ∧ approx .exp2 0x7F800000 = 0x7F800000) ∧
  (∀ (a : Word) (k : ℤ), -149 ≤ k → k ≤ 127 → valueOf a = some (k : ℚ) → valueOf (approx .exp2 a) = some (2 ^ k)) ∧
  (∀ (a : Word) x, valueOf a = some x → (128 ≤ x → approx .exp2 a = 0x7F800000) ∧ (x ≤ -150 → approx .exp2 a = 0)) ∧
  (approx .log2 0 = 0xFF800000 ∧ approx .log2 0x80000000 = 0xFF800000 ∧ approx .log2 0x7F800000 = 0x7F800000 ∧
    approx .log2 0xFF800000 = 0x7FC00000 ∧ approx .log2 0x3F800000 = 0) ∧
  (∀ (a : Word) (k : ℤ), valueOf a = some (2 ^ k) → valueOf (approx .log2 a) = some (k : ℚ)) ∧
  (∀ (a : Word) s, f32 a = .inf s → approx .sin a = 0x7FC00000 ∧ approx .cos a = 0x7FC00000) ∧
  (approx .sin 0 = 0 ∧ approx .sin 0x80000000 = 0x80000000) ∧
  (∀ (a : Word) (k : ℤ),
    (valueOf a = some (k : ℚ) → (k ≠ 0 → approx .sin a = 0) ∧ approx .cos a = 0x3F800000) ∧
    (valueOf a = some ((k : ℚ) + 1 / 4) → approx .sin a = 0x3F800000 ∧ approx .cos a = 0) ∧
    (valueOf a = some ((k : ℚ) + 1 / 2) → approx .sin a = 0 ∧ approx .cos a = 0xBF800000) ∧
    (valueOf a = some ((k : ℚ) + 3 / 4) → approx .sin a = 0xBF800000 ∧ approx .cos a = 0))

/-- R159: CVT completes. F2I and F2U round under the mode and then saturate, and give 0 for a NaN; I2F, U2F, F2H and F2B round once
under the mode; F2E4 and F2E5 round with RNE and saturate, or for F2E5 with INF overflow to infinity; widening is exact. -/
def Says.Conversions : Prop :=
  (∀ (e : Bool) (c : Conv) (m : RMode) (inf : Bool) (vd : Fin 128) (xa : Src),
    WritesV (.cvt e c m inf vd xa) e vd (of1 xa (cvt c m inf))) ∧
  (∀ m inf (a : Word), (f32 a).isNan → cvt .f2i m inf a = 0 ∧ cvt .f2u m inf a = 0 ∧ cvt .f2h m inf a = 0x7E00 ∧
    cvt .f2b m inf a = 0x7FC0 ∧ cvt .f2e4 m inf a = 0x7F ∧ cvt .f2e5 m inf a = 0x7E) ∧
  (∀ m inf, cvt .f2i m inf 0x7F800000 = 0x7FFFFFFF ∧ cvt .f2i m inf 0xFF800000 = 0x80000000 ∧
    cvt .f2u m inf 0x7F800000 = 0xFFFFFFFF ∧ cvt .f2u m inf 0xFF800000 = 0 ∧
    cvt .f2h m inf 0x7F800000 = 0x7C00 ∧ cvt .f2h m inf 0xFF800000 = 0xFC00 ∧
    cvt .f2b m inf 0x7F800000 = 0x7F80 ∧ cvt .f2b m inf 0xFF800000 = 0xFF80 ∧
    cvt .f2e4 m inf 0x7F800000 = 0x7E ∧ cvt .f2e4 m inf 0xFF800000 = 0xFE ∧
    cvt .f2e5 m inf 0x7F800000 = (if inf then 0x7C else 0x7B) ∧ cvt .f2e5 m inf 0xFF800000 = (if inf then 0xFC else 0xFB)) ∧
  (∀ m inf (a : Word) s n e x, f32 a = .fin s n e → valueOf a = some x →
    cvt .f2i m inf a = BitVec.ofInt 32 (max (-(2 ^ 31)) (min (2 ^ 31 - 1) (roundedInt m x))) ∧
    cvt .f2u m inf a = BitVec.ofInt 32 (max 0 (min (2 ^ 32 - 1) (roundedInt m x))) ∧
    Rounded fp16 m s x (cvt .f2h m inf a).toNat ∧ Rounded bf16 m s x (cvt .f2b m inf a).toNat ∧
    ((cvt .f2e4 m inf a).toNat < 256 ∧ (128 ≤ (cvt .f2e4 m inf a).toNat ↔ s = true) ∧
      Nearest (fun c => ratOf (decodeFP e4m3 c)) x (cvt .f2e4 m inf a).toNat) ∧
    ((cvt .f2e5 m false a).toNat < 256 ∧ (128 ≤ (cvt .f2e5 m false a).toNat ↔ s = true) ∧
      Nearest (fun c => ratOf (decodeFP e5m2 c)) x (cvt .f2e5 m false a).toNat) ∧
    Rounded e5m2 .rne s x (cvt .f2e5 m true a).toNat) ∧
  (∀ m inf (a : Word), Rounded fp32 m (decide (a.toInt < 0)) (a.toInt : ℚ) (cvt .i2f m inf a).toNat ∧
    Rounded fp32 m false (a.toNat : ℚ) (cvt .u2f m inf a).toNat) ∧
  (∀ m inf (a : Word), ∀ p ∈ [(Conv.h2f, fp16, 16), (.b2f, bf16, 16), (.e42f, e4m3, 8), (.e52f, e5m2, 8)],
    match decodeFP p.2.1 (a.toNat % 2 ^ p.2.2) with
      | .nan => cvt p.1 m inf a = 0x7FC00000
      | .inf s => cvt p.1 m inf a = if s then 0xFF800000 else 0x7F800000
      | .fin s n e => ∃ k g, f32 (cvt p.1 m inf a) = .fin s k g ∧ ratOf (.fin s k g) = ratOf (.fin s n e)) ∧
  (∀ m inf (a : Word), valueOf (cvt .q4d m inf a) = some ((if a.getLsbD 3 then -1 else 1) *
    (([43, 130, 221, 318, 427, 555, 725, 1024].getD (a.toNat % 8) 0 : Nat) : ℚ) / 1024))

/-- The approximate functions keep their bounds and exact results; CVT rounds once: results, frame and completion (O7). -/
def Obligations.ApproximationsAndConversions : Prop := Says.ApproximateFunctions ∧ Says.ExactApproximations ∧ Says.Conversions

/-- R104, R152: rounding a quotient to an integer, and an exact value to a format, under each mode of Table 5.2; and the exact sum and
product that are rounded. -/
def Says.RoundingModes : Prop :=
  (∀ (neg : Bool) (n d : Nat), 0 < d →
    (roundDiv .rtz neg n d * d ≤ n ∧ n < (roundDiv .rtz neg n d + 1) * d) ∧
    (2 * n ≤ (2 * roundDiv .rne neg n d + 1) * d ∧ 2 * roundDiv .rne neg n d * d ≤ 2 * n + d ∧
      (2 * n = (2 * roundDiv .rne neg n d + 1) * d ∨ 2 * roundDiv .rne neg n d * d = 2 * n + d → roundDiv .rne neg n d % 2 = 0)) ∧
    (∀ m, m = (if neg then RMode.rdn else .rup) → n ≤ roundDiv m neg n d * d ∧ roundDiv m neg n d * d < n + d) ∧
    (∀ m, m = (if neg then RMode.rup else .rdn) → roundDiv m neg n d = roundDiv .rtz neg n d)) ∧
  (∀ F ∈ [fp32, fp16, bf16, e5m2], ∀ (m : RMode) s n e x, ratOf (.fin s n e) = some x → Rounded F m s x (roundFP F m (.fin s n e))) ∧
  (∀ x y a b, ratOf x = some a → ratOf y = some b →
    ratOf (x.add y) = some (a + b) ∧ ratOf (x.mul y) = some (a * b) ∧ ratOf x.neg = some (-a)) ∧
  (∀ s n e t m f, ∃ u k g, (Machine.Num.fin s n e).add (.fin t m f) = .fin u k g ∧ (k = 0 → u = (s && t)) ∧
    (Machine.Num.fin s n e).mul (.fin t m f) = .fin (s != t) (n * m) (e + f)) ∧
  (∀ s t n e, (Machine.Num.inf s).add (.inf s) = .inf s ∧ (Machine.Num.inf s).add (.inf !s) = .nan ∧ (Machine.Num.inf s).add (.fin t n e) = .inf s ∧
    (Machine.Num.fin t n e).add (.inf s) = .inf s ∧ (Machine.Num.inf s).mul (.inf t) = .inf (s != t) ∧
    (Machine.Num.inf s).mul (.fin t n e) = (if n = 0 then .nan else .inf (s != t)) ∧
    (Machine.Num.fin t n e).mul (.inf s) = (if n = 0 then .nan else .inf (s != t))) ∧
  ∀ x : Machine.Num, x.add .nan = .nan ∧ Machine.Num.nan.add x = .nan ∧ x.mul .nan = .nan ∧ Machine.Num.nan.mul x = .nan

/-- R102, R104: a value that a format holds rounds to itself, in every format and under every mode. -/
def Says.ExactValuesRoundToThemselves : Prop :=
  ∀ F ∈ [fp32, fp16, bf16, e4m3, e5m2], ∀ (m : RMode) (b : Nat), b < 2 * F.signBit → (decodeFP F b).isNan = false →
    roundFP F m (decodeFP F b) = b

/-- Rounding chooses the neighbour of its mode, and a value of the format is returned unchanged (O8). -/
def Obligations.RoundingOfExactValues : Prop := Says.RoundingModes ∧ Says.ExactValuesRoundToThemselves

/-- R175, R176: squad arithmetic, executed once for each squad of the wave on that squad's registers. UMOVHI keeps the low half. -/
def Says.SquadArithmetic : Prop :=
  ∀ (e : Bool) (sd sa sb : Fin 64) (i11 : BitVec 11) (i16 : BitVec 16),
    WritesS (.uadd e sd sa sb) e sd (ofS2 sa sb fun a b => BitVec.ofNat 32 (a.toNat + b.toNat)) ∧
    WritesS (.usub e sd sa sb) e sd (ofS2 sa sb fun a b => BitVec.ofInt 32 ((a.toNat : Int) - b.toNat)) ∧
    WritesS (.umul e sd sa sb) e sd (ofS2 sa sb fun a b => BitVec.ofNat 32 (a.toNat * b.toNat)) ∧
    WritesS (.umulh e sd sa sb) e sd (ofS2 sa sb fun a b => BitVec.ofInt 32 (a.toInt * b.toInt / 2 ^ 32)) ∧
    WritesS (.uand e sd sa sb) e sd (ofS2 sa sb fun a b => a &&& b) ∧
    WritesS (.uor e sd sa sb) e sd (ofS2 sa sb fun a b => a ||| b) ∧
    WritesS (.uxor e sd sa sb) e sd (ofS2 sa sb fun a b => a ^^^ b) ∧
    WritesS (.ushl e sd sa sb) e sd (ofS2 sa sb fun a b => if b.toNat < 32 then BitVec.ofNat 32 (a.toNat * 2 ^ b.toNat) else 0) ∧
    WritesS (.ushr e sd sa sb) e sd (ofS2 sa sb fun a b => if b.toNat < 32 then BitVec.ofNat 32 (a.toNat / 2 ^ b.toNat) else 0) ∧
    WritesS (.usar e sd sa sb) e sd (ofS2 sa sb fun a b =>
      if b.toNat < 32 then BitVec.ofInt 32 (a.toInt / 2 ^ b.toNat) else if a.getLsbD 31 then 0xFFFFFFFF else 0) ∧
    WritesS (.uimin e sd sa sb) e sd (ofS2 sa sb fun a b => BitVec.ofInt 32 (min a.toInt b.toInt)) ∧
    WritesS (.uimax e sd sa sb) e sd (ofS2 sa sb fun a b => BitVec.ofInt 32 (max a.toInt b.toInt)) ∧
    WritesS (.uminu e sd sa sb) e sd (ofS2 sa sb fun a b => BitVec.ofNat 32 (min a.toNat b.toNat)) ∧
    WritesS (.umaxu e sd sa sb) e sd (ofS2 sa sb fun a b => BitVec.ofNat 32 (max a.toNat b.toNat)) ∧
    WritesS (.uaddi e sd sa i11) e sd (ofS1 sa fun a => BitVec.ofInt 32 (a.toNat + i11.toInt)) ∧
    WritesS (.uandi e sd sa i11) e sd (ofS1 sa fun a => a &&& i11.signExtend 32) ∧
    WritesS (.ushli e sd sa i11) e sd (ofS1 sa fun a => if i11.toNat < 32 then BitVec.ofNat 32 (a.toNat * 2 ^ i11.toNat) else 0) ∧
    WritesS (.ushri e sd sa i11) e sd (ofS1 sa fun a => if i11.toNat < 32 then BitVec.ofNat 32 (a.toNat / 2 ^ i11.toNat) else 0) ∧
    WritesS (.umovi e sd i16) e sd (fun _ _ _ => BitVec.ofInt 32 i16.toInt) ∧
    WritesS (.umovhi e sd i16) e sd (fun s sh q => BitVec.ofNat 32 (i16.toNat * 2 ^ 16 + (readS s sh q sd.val).toNat % 2 ^ 16)) ∧
    WritesS (.umov e sd sa) e sd (ofS1 sa fun a => a)

/-- R176: the 64-bit squad sums, to the pair from an even register. -/
def Says.SquadWideArithmetic : Prop :=
  ∀ (e : Bool) (sd sa sb : Fin 64) (i11 : BitVec 11), sd.val % 2 = 0 →
    WritesS64 (.uadd64 e sd sa sb) e sd (fun s sh q =>
      BitVec.ofNat 64 ((readS64 s sh q sa.val).toNat + (readS64 s sh q sb.val).toNat)) ∧
    WritesS64 (.uaddi64 e sd sa i11) e sd (fun s sh q => BitVec.ofInt 64 ((readS64 s sh q sa.val).toNat + i11.toInt))

/-- Squad arithmetic: once for each squad, on its registers, with its frame (O9). -/
def Obligations.SquadSumsAndMoves : Prop := Says.SquadArithmetic ∧ Says.SquadWideArithmetic

/-- R177: UCMP and the predicate operations of the squad. -/
def Says.SquadPredicates : Prop :=
  (∀ (e : Bool) (jd : Fin 8) (sa sb : Fin 64) (cc : ICond),
    WritesJ (.ucmp e cc jd sa sb) e jd fun s sh q =>
      let a := readS s sh q sa.val
      let b := readS s sh q sb.val
      match cc with
        | .eq => decide (a = b)
        | .ne => decide (a ≠ b)
        | .lt => decide (a.toInt < b.toInt)
        | .le => decide (a.toInt ≤ b.toInt)
        | .gt => decide (b.toInt < a.toInt)
        | .ge => decide (b.toInt ≤ a.toInt)
        | .ltu => decide (a.toNat < b.toNat)
        | .leu => decide (a.toNat ≤ b.toNat)
        | .gtu => decide (b.toNat < a.toNat)
        | .geu => decide (b.toNat ≤ a.toNat)) ∧
  (∀ (e : Bool) (jd ja jb : Fin 8),
    WritesJ (.jand e jd ja jb) e jd (fun s sh q => readJ s sh q ja.val && readJ s sh q jb.val) ∧
    WritesJ (.jor e jd ja jb) e jd (fun s sh q => readJ s sh q ja.val || readJ s sh q jb.val) ∧
    WritesJ (.jxor e jd ja jb) e jd (fun s sh q => xor (readJ s sh q ja.val) (readJ s sh q jb.val)) ∧
    WritesJ (.jandn e jd ja jb) e jd (fun s sh q => readJ s sh q ja.val && !readJ s sh q jb.val) ∧
    WritesJ (.jnot e jd ja) e jd (fun s sh q => !readJ s sh q ja.val))

/-- R178, R120: URDS writes a special register held per squad or wider; from 0x80 the halves of sr.hpc of a lane, which read 0 for
a lane that is absent. sr.cellphase is read at a clock the model does not fix (log 7). -/
def Says.SquadSpecialReads : Prop :=
  (∀ (e : Bool) (sd : Fin 64) (idx : BitVec 8), idx ≠ 0x0C →
    WritesS (.urds e sd idx) e sd (fun s _ q => urdsValue s q idx.toNat)) ∧
  (∀ (e : Bool) (sd : Fin 64) (s : State), SquadsClear (.urds e sd 0x0C) s →
    ∃ t, exec (.urds e sd 0x0C) s = .next t ∧
      (∀ q ∈ squadsIn s s.cur.threads, ∀ sh, afterS e s.cur.pc t sh q sd.val =
        cellphaseWord (phaseOf t (dieOf (sqd s q).core))) ∧
      OnlySquads e (tickPhase (dieOf s.cur.core) s) t) ∧
  (∀ s q n, n < 32 →
    urdsValue s q (0x80 + n) = (if n ∈ (sqd s q).present then lowWord (thr s (threadKey q n)).hpc else 0) ∧
    urdsValue s q (0xA0 + n) = (if n ∈ (sqd s q).present then highWord (thr s (threadKey q n)).hpc else 0)) ∧
  (∀ s q n, n < 0x80 → urdsValue s q n = squadSpecial s q n)

/-- Squad comparisons, predicates and reads of special registers (O10). -/
def Obligations.SquadComparisonsAndReads : Prop := Says.SquadPredicates ∧ Says.SquadSpecialReads

/-- R121, R184: NOP, UNOP and a FRAME within the allotment change no register and no memory. -/
def Says.WordsWithoutEffect : Prop :=
  ∀ (e : Bool) (n : BitVec 8) (s : State),
    (AtWord s → ∃ t, exec (.nop e) s = .next t ∧ OtherV [] s t ∧ OnlyThreads e s t) ∧
    (AtWord s → (∀ u ∈ s.cur.threads, n.toNat ≤ (sqd s (squadOf u)).allot) →
      ∃ t, exec (.frame e n) s = .next t ∧ OtherV [] s t ∧ OnlyThreads e s t) ∧
    (AtSquadWord s → ∃ t, exec (.unop e) s = .next t ∧ OtherS [] e s t ∧ OnlySquads e s t)

/-- R16, R20: after a word that does not end its run the wave is at the next word; after the word that ends it each thread stands at
the next word, outside the wave. -/
def Says.RunsAdvance : Prop :=
  ∀ (s : State),
    (((cor s s.cur.core).slots.get? s.cur.slot).isSome → (curWave s).slow = none →
      ∃ t, exec (.nop false) s = .next t ∧ (curWave t).pc = (curWave s).pc + 4 ∧ (curWave t).threads = (curWave s).threads) ∧
    (AtWord s → ∃ t, exec (.nop true) s = .next t ∧
      ∀ u ∈ s.cur.threads, (thr t u).pc = s.cur.pc + 4 ∧ (thr t u).inWave = false ∧ (thr t u).inRun = false ∧
        u ∉ (curWave t).threads)

/-- R184: FRAME with more registers than the allotment is cause 0x0C in each lane of the squad; at full speed the wave notes it. -/
def Says.FrameBeyondAllotment : Prop :=
  ∀ (n : BitVec 8) (s : State), s.cur.slow = false → ((cor s s.cur.core).slots.get? s.cur.slot).isSome →
    ∃ t, exec (.frame false n) s = .next t ∧
      (curWave t).faults = (curWave s).faults ++ (s.cur.threads.filter fun u => (sqd s (squadOf u)).allot < n.toNat).map fun u =>
        (⟨u, squadOf u, 0x0C, 0, none, s.cur.word, true, s.cur.pc⟩ : RunFault)

/-- NOP, UNOP and FRAME; the step to the next word; FRAME beyond the allotment (O11). -/
def Obligations.WordsThatChangeNothing : Prop := Says.WordsWithoutEffect ∧ Says.RunsAdvance ∧ Says.FrameBeyondAllotment

/-- R181: BR, BRN and JMP move each active thread to the branch target or to the next word, and change no register and no memory.
The copies of the predicate agree (R337). -/
def Says.Branches : Prop :=
  ∀ (k : Fin 8) (off : BitVec 20) (s : State),
    (LanesClear (.br k off) s → (∀ u ∈ s.cur.threads, readK s false u k.val = readK s true u k.val) →
      ∃ t, exec (.br k off) s = .next t ∧
        (∀ u ∈ s.cur.threads, (thr t u).pc = if readK s false u k.val then s.cur.pc + BitVec.ofInt 64 (off.toInt * 4) else s.cur.pc + 4) ∧
        OtherV [] s t ∧ OnlyThreads true s t) ∧
    (LanesClear (.brn k off) s → (∀ u ∈ s.cur.threads, readK s false u k.val = readK s true u k.val) →
      ∃ t, exec (.brn k off) s = .next t ∧
        (∀ u ∈ s.cur.threads, (thr t u).pc = if readK s false u k.val then s.cur.pc + 4 else s.cur.pc + BitVec.ofInt 64 (off.toInt * 4)) ∧
        OtherV [] s t ∧ OnlyThreads true s t) ∧
    (AtWord s → ∃ t, exec (.jmp off) s = .next t ∧
        (∀ u ∈ s.cur.threads, (thr t u).pc = s.cur.pc + BitVec.ofInt 64 (off.toInt * 4)) ∧ OtherV [] s t ∧ OnlyThreads true s t)

/-- R187: UBR and UBRN are decided once for each squad, and move that squad's threads of the wave. -/
def Says.SquadBranches : Prop :=
  ∀ (k : Fin 8) (off : BitVec 20) (on : Bool) (s : State), AtWord s → AtSquadWord s →
    (∀ q ∈ squadsIn s s.cur.threads, squadCauses s { jr := [k.val] } q = none ∧ readJ s false q k.val = readJ s true q k.val) →
    ∃ t, exec (if on then .ubr k off else .ubrn k off) s = .next t ∧
      (∀ u ∈ s.cur.threads, (thr t u).pc = if readJ s false (squadOf u) k.val = on
        then s.cur.pc + BitVec.ofInt 64 (off.toInt * 4) else s.cur.pc + 4) ∧
      OtherV [] s t

/-- BR, BRN, JMP, UBR and UBRN move each thread as its predicate says (O12). -/
def Obligations.BranchesOfLanesAndSquads : Prop := Says.Branches ∧ Says.SquadBranches

/-- R183: an indirect jump goes to the 64-bit source, which is a multiple of 4 and canonical, and whose copies agree. -/
def Says.IndirectJump : Prop :=
  ∀ (xa : Src) (s : State), LanesClear (.jr xa) s →
    (∀ u ∈ s.cur.threads, src64 s false u xa = src64 s true u xa ∧ (src64 s false u xa).toNat % 4 = 0 ∧
      canonical (src64 s false u xa).toNat = true) →
    ∃ t, exec (.jr xa) s = .next t ∧ (∀ u ∈ s.cur.threads, (thr t u).pc = src64 s false u xa) ∧ OtherV [] s t ∧ OnlyThreads true s t

/-- R182, R183: CALL and CALLR below the frame budget push the address of the next word: the depth rises by one, the entry just
pushed reads as that address, the 8 bytes at Entry(D) of the thread's area hold it where no two threads push to one byte, and no byte
of memory outside the pushed entries changes. -/
def Says.Calls : Prop :=
  ∀ (i : Instr) (target : Nat → DWord) (s : State), AtWord s → (∀ u ∈ s.cur.threads, (thr s u).depth < 512) →
    ((∃ off : BitVec 20, i = .call off ∧ ∀ u, target u = s.cur.pc + BitVec.ofInt 64 (off.toInt * 4)) ∨
      ∃ xa, i = .callr xa ∧ LanesClear (.callr xa) s ∧ ∀ u ∈ s.cur.threads, target u = src64 s false u xa ∧
        src64 s false u xa = src64 s true u xa ∧ (src64 s false u xa).toNat % 4 = 0 ∧ canonical (src64 s false u xa).toNat = true) →
    ∃ t, exec i s = .next t ∧
      (∀ u ∈ s.cur.threads, (thr t u).pc = target u ∧ (thr t u).depth = (thr s u).depth + 1 ∧
        returnEntry t (thr t u) (thr s u).depth = s.cur.pc + 4) ∧
      OtherV [] s t ∧
      (s.Canonical → (∀ u ∈ s.cur.threads, ∀ v ∈ s.cur.threads, u ≠ v →
          (thr s u).stk.toNat + 8 * (thr s u).depth + 8 ≤ (thr s v).stk.toNat + 8 * (thr s v).depth ∨
          (thr s v).stk.toNat + 8 * (thr s v).depth + 8 ≤ (thr s u).stk.toNat + 8 * (thr s u).depth) →
        ∀ u ∈ s.cur.threads, readNat t ((thr s u).stk.toNat + 8 * (thr s u).depth) 8 = (s.cur.pc + 4).toNat) ∧
      (∀ a, (∀ u ∈ s.cur.threads, ¬((thr s u).stk.toNat + 8 * (thr s u).depth ≤ a ∧ a < (thr s u).stk.toNat + 8 * (thr s u).depth + 8)) →
        cellGet t.mem a = cellGet s.mem a)

/-- R183: RET above depth 0 goes to the entry last pushed, and the depth falls by one. -/
def Says.Returns : Prop :=
  ∀ (s : State), AtWord s → (∀ u ∈ s.cur.threads, 0 < (thr s u).depth) →
    ∃ t, exec .ret s = .next t ∧
      (∀ u ∈ s.cur.threads, (thr t u).pc = returnEntry s (thr s u) ((thr s u).depth - 1) ∧ (thr t u).depth = (thr s u).depth - 1) ∧
      OtherV [] s t ∧ OnlyThreads true s t

/-- JR, CALL, CALLR and RET: targets, depth, return entries and frame (O13). -/
def Obligations.CallsReturnsAndIndirectJumps : Prop := Says.IndirectJump ∧ Says.Calls ∧ Says.Returns

/-- R183, R185, R34: EXIT ends the threads of the wave, and RET at depth 0 does as EXIT does. Where another live thread of each squad
remains only the threads end; a squad whose last live thread exits has ended, and its row drains. -/
def Says.Exits : Prop :=
  ∀ (s : State), AtWord s →
    ((∀ u ∈ s.cur.threads, (thr s u).depth = 0) → exec .ret s = exec .exit s) ∧
    (s.waits = [] → (∀ q ∈ squadsIn s s.cur.threads, (sqd s q).entry = .none ∧ ∃ u ∈ liveOf s q, u ∉ s.cur.threads) →
      ∃ t, exec .exit s = .next t ∧ (∀ u ∈ s.cur.threads, (thr t u).live = false) ∧
        (∀ u, u ∉ s.cur.threads → thr t u = thr s u) ∧ OtherV [] s t ∧ OnlyThreads true s t) ∧
    (∀ q, s.waits = [] → squadsIn s s.cur.threads = [q] → (s.squads.get? q).isSome → (∀ u ∈ liveOf s q, u ∈ s.cur.threads) →
      (sqd s q).entry = .none → (sqd s q).ended = false → (sqd s q).state = .resident → (sqd s q).tile = [] →
      ∃ t, exec .exit s = .next t ∧ (∀ u ∈ s.cur.threads, (thr t u).live = false) ∧
        (sqd t q).ended = true ∧ (sqd t q).state = .draining ∧ t.mem = s.mem)

/-- R186, R27: YIELD moves each thread to the next word and marks it for the next pick. -/
def Says.Yields : Prop :=
  ∀ (s : State), AtWord s → ∃ t, exec .yield s = .next t ∧
    (∀ u ∈ s.cur.threads, (thr t u).pc = s.cur.pc + 4 ∧ (thr t u).yielded = true) ∧ OtherV [] s t ∧ OnlyThreads true s t

/-- EXIT ends threads and, with the last, the squad; YIELD leaves the run (O14). -/
def Obligations.ThreadsExitAndYield : Prop := Says.Exits ∧ Says.Yields

/-- R164, R165, R166: the lane loads of Table 8.1. -/
def Says.LaneLoads : Prop :=
  ∀ (e : Bool) (vd va : Fin 128) (xa : Src) (xb : Base) (i8 : BitVec 8), va.val % 2 = 0 →
    IssuesLoads (.ldb e vd xa xb) vd 1 1 (longAddress xa xb) anyOffset ∧
    IssuesLoads (.ldh e vd xa xb) vd 2 1 (longAddress xa xb) anyOffset ∧
    IssuesLoads (.ldw e vd xa xb) vd 4 1 (longAddress xa xb) anyOffset ∧
    IssuesLoads (.ldq e vd xa xb) vd 16 4 (longAddress xa xb) anyOffset ∧
    IssuesLoads (.sldw e vd xa i8) vd 4 1 (windowAddress 0xFFFFF00000000000 xa i8 4) (offsetLegal localWindow xa i8 4) ∧
    IssuesLoads (.sldq e vd xa i8) vd 16 4 (windowAddress 0xFFFFF00000000000 xa i8 16) (offsetLegal localWindow xa i8 16) ∧
    IssuesLoads (.cldw e vd xa i8) vd 4 1 (windowAddress 0xFFFFF10000000000 xa i8 4) (offsetLegal clusterWindow xa i8 4) ∧
    IssuesLoads (.ldwp e vd va i8) vd 4 1 (fun s sh u =>
      (readV s sh u (va.val + 1) ++ readV s sh u va.val) + BitVec.ofInt 64 (i8.toInt * 4)) anyOffset

/-- R164, R165, R166: the lane stores of Table 8.1. -/
def Says.LaneStores : Prop :=
  ∀ (e : Bool) (vd va : Fin 128) (xa : Src) (xb : Base) (i8 : BitVec 8), va.val % 2 = 0 →
    IssuesStores (.stb e vd xa xb) vd 1 (longAddress xa xb) anyOffset ∧
    IssuesStores (.sth e vd xa xb) vd 2 (longAddress xa xb) anyOffset ∧
    IssuesStores (.stw e vd xa xb) vd 4 (longAddress xa xb) anyOffset ∧
    IssuesStores (.stq e vd xa xb) vd 16 (longAddress xa xb) anyOffset ∧
    IssuesStores (.sstw e vd xa i8) vd 4 (windowAddress 0xFFFFF00000000000 xa i8 4) (offsetLegal localWindow xa i8 4) ∧
    IssuesStores (.sstq e vd xa i8) vd 16 (windowAddress 0xFFFFF00000000000 xa i8 16) (offsetLegal localWindow xa i8 16) ∧
    IssuesStores (.cstw e vd xa i8) vd 4 (windowAddress 0xFFFFF10000000000 xa i8 4) (offsetLegal clusterWindow xa i8 4) ∧
    IssuesStores (.stwp e vd va i8) vd 4 (fun s sh u =>
      (readV s sh u (va.val + 1) ++ readV s sh u va.val) + BitVec.ofInt 64 (i8.toInt * 4)) anyOffset

/-- R166: the bytes of a store are the registers from `vd`, little-endian; a byte or half store takes the low bits. -/
def Says.StoreBytes : Prop :=
  ∀ (s : State) (sh : Bool) (u n width k : Nat), k < width →
    (storeBytes s sh u n width)[k]? = some ((readV s sh u (n + k / 4)).extractLsb' (8 * (k % 4)) 8)

/-- Lane loads and stores are issued with their translated pieces and their bytes (O15). -/
def Obligations.LaneLoadsAndStores : Prop := Says.LaneLoads ∧ Says.LaneStores ∧ Says.StoreBytes

/-- R168, R169, R173: the atomics of Table 8.3 enter the structures of their threads. -/
def Says.Atomics : Prop :=
  ∀ (vd : Fin 128) (xa : Src) (xb : Base),
    IssuesAtomics (.axch vd xa xb) .xch vd xa xb ∧
    (vd.val % 2 = 0 → IssuesAtomics (.acas vd xa xb) .cas vd xa xb) ∧
    IssuesAtomics (.aadd vd xa xb) .add vd xa xb ∧
    IssuesAtomics (.aimin vd xa xb) .imin vd xa xb ∧
    IssuesAtomics (.aimax vd xa xb) .imax vd xa xb ∧
    IssuesAtomics (.aumin vd xa xb) .umin vd xa xb ∧
    IssuesAtomics (.aumax vd xa xb) .umax vd xa xb ∧
    IssuesAtomics (.aand vd xa xb) .and vd xa xb ∧
    IssuesAtomics (.aor vd xa xb) .or vd xa xb ∧
    IssuesAtomics (.axor vd xa xb) .xor vd xa xb ∧
    IssuesAtomics (.afadd vd xa xb) .fadd vd xa xb

/-- R170, R171: what a group of atomics on one word gives, in home-lane order: each lane the value before its own operation, the
word the value after the last; AFADD folds its operands in home-lane order and adds once. -/
def Says.AtomicGroups : Prop :=
  (∀ op t x y, op ≠ .fadd → groupResult op t [(x, y)] = ([t], atomNew op t x y)) ∧
  (∀ op t x y r, op ≠ .fadd → groupResult op t ((x, y) :: r) =
    (t :: (groupResult op ((atomNew op t x y).getD t) r).1,
      (groupResult op ((atomNew op t x y).getD t) r).2.or (atomNew op t x y))) ∧
  (∀ t x y, groupResult .fadd t [(x, y)] = ([if (f32 t).isNan then 0x7FC00000 else t], some (fAdd t x))) ∧
  (∀ t x y x' y', groupResult .fadd t [(x, y), (x', y')] =
    ([if (f32 t).isNan then 0x7FC00000 else t, fAdd t x], some (fAdd t (fAdd x x')))) ∧
  (∀ t x y, atomNew .xch t x y = some x ∧ atomNew .cas t x y = (if t = x then some y else none) ∧
    atomNew .add t x y = some (BitVec.ofNat 32 (t.toNat + x.toNat)) ∧
    atomNew .imin t x y = some (BitVec.ofInt 32 (min t.toInt x.toInt)) ∧
    atomNew .imax t x y = some (BitVec.ofInt 32 (max t.toInt x.toInt)) ∧
    atomNew .umin t x y = some (BitVec.ofNat 32 (min t.toNat x.toNat)) ∧
    atomNew .umax t x y = some (BitVec.ofNat 32 (max t.toNat x.toNat)) ∧
    atomNew .and t x y = some (t &&& x) ∧ atomNew .or t x y = some (t ||| x) ∧ atomNew .xor t x y = some (t ^^^ x))

/-- Atomics enter their structures, and a group gives each lane the value before its own (O16). -/
def Obligations.AtomicsAndTheirGroups : Prop := Says.Atomics ∧ Says.AtomicGroups

/-- R32, R161, R162, R163: the cross-lane instructions. -/
def Says.CrossLane : Prop :=
  ∀ (vd : Fin 128) (xa xb : Src) (op : RedOp) (excl : Bool),
    Rendezvous (.shfl vd xa xb) vd (fun s sh t => src s sh t xa) (fun s sh t => src s sh t xb) (fun P _ x y L =>
      if (y L).toNat % 32 ∈ P then x ((y L).toNat % 32) else 0) ∧
    Rendezvous (.shflx vd xa xb) vd (fun s sh t => src s sh t xa) (fun s sh t => src s sh t xb) (fun P _ x y L =>
      if L ^^^ ((y L).toNat % 32) ∈ P then x (L ^^^ ((y L).toNat % 32)) else 0) ∧
    Rendezvous (.ballot vd xa) vd (fun s sh t => src s sh t xa) (fun _ _ _ => 0) (fun P dead x _ _ =>
      laneMask (P.filter fun j => !dead j && decide (x j ≠ 0))) ∧
    Rendezvous (.sred op vd xa) vd (fun s sh t => src s sh t xa) (fun _ _ _ => 0) (fun P _ x _ _ => fold op (P.map x)) ∧
    Rendezvous (.sscan op excl vd xa) vd (fun s sh t => src s sh t xa) (fun _ _ _ => 0) (fun P _ x _ L =>
      fold op ((P.filter fun j => if excl then decide (j < L) else decide (j ≤ L)).map x)) ∧
    Rendezvous (.matchLanes vd xa) vd (fun s sh t => src s sh t xa) (fun _ _ _ => 0) (fun P dead x _ L =>
      laneMask (P.filter fun j => !dead j && decide (x j = x L)))

/-- R163, Table 7.15: the fold, its operations and their identities; and the mask of lanes. -/
def Says.Folds : Prop :=
  (∀ op, fold op [] = identityOp op) ∧ (∀ op x, fold op [x] = x) ∧
  (∀ op l x, l ≠ [] → fold op (l ++ [x]) = combineOp op (fold op l) x) ∧
  (∀ t x, combineOp .add t x = BitVec.ofNat 32 (t.toNat + x.toNat) ∧
    combineOp .imin t x = BitVec.ofInt 32 (min t.toInt x.toInt) ∧ combineOp .imax t x = BitVec.ofInt 32 (max t.toInt x.toInt) ∧
    combineOp .umin t x = BitVec.ofNat 32 (min t.toNat x.toNat) ∧ combineOp .umax t x = BitVec.ofNat 32 (max t.toNat x.toNat) ∧
    combineOp .and t x = t &&& x ∧ combineOp .or t x = t ||| x ∧ combineOp .xor t x = t ^^^ x ∧
    combineOp .fadd t x = toF32 ((f32 t).add (f32 x)) ∧ combineOp .fmin t x = fMin t x ∧ combineOp .fmax t x = fMax t x) ∧
  (identityOp .add = 0 ∧ identityOp .imin = 0x7FFFFFFF ∧ identityOp .imax = 0x80000000 ∧ identityOp .umin = 0xFFFFFFFF ∧
    identityOp .umax = 0 ∧ identityOp .and = 0xFFFFFFFF ∧ identityOp .or = 0 ∧ identityOp .xor = 0 ∧ identityOp .fadd = 0 ∧
    identityOp .fmin = 0x7F800000 ∧ identityOp .fmax = 0xFF800000) ∧
  (∀ (l : List Nat) (j : Nat), l.Nodup → (∀ k ∈ l, k < 32) → j < 32 → ((laneMask l).getLsbD j = true ↔ j ∈ l))

/-- Shuffles, ballots, reductions, scans and matches of a squad that meets at once (O17). -/
def Obligations.CrossLaneResults : Prop := Says.CrossLane ∧ Says.Folds

/-- R179: ULDW and ULDD issue a load of the squad's lowest active lane for s registers, and USTW a store of that lane. The address
is a pair plus the scaled immediate. -/
def Obligations.SquadLoadsAndStores : Prop :=
  ∀ (e : Bool) (sd sa : Fin 64) (i11 : BitVec 11) (s : State) (q u : Nat) (ps : List Piece),
    (∀ p ∈ s.cur.threads, laneOf u ≤ laneOf p) → u ∈ s.cur.threads →
    (∀ (size : Nat) (i : Instr), (size = 4 ∧ i = .uldw e sd sa i11 ∨ size = 8 ∧ i = .uldd e sd sa i11) → Acts i q s →
      threadTrans s u .load (readS64 s false q sa.val + BitVec.ofInt 64 (i11.toInt * size)) size = .ok ps →
      ∃ t, exec i s = .next t ∧ t.mem = s.mem ∧ SameRegisters s t ∧ t.squads = s.squads ∧
        (agt t (thr s u).agent).loads = (agt s (thr s u).agent).loads ++
          [⟨(agt s (thr s u).agent).nextSeq, (cor s s.cur.core).issue, s.cur.pc, s.cur.word,
            readS64 s false q sa.val + BitVec.ofInt 64 (i11.toInt * size), size, size / 4, .s q sd.val, ps, []⟩]) ∧
    (Acts (.ustw e sd sa i11) q s →
      threadTrans s u .store (readS64 s false q sa.val + BitVec.ofInt 64 (i11.toInt * 4)) 4 = .ok ps →
      ∃ t, exec (.ustw e sd sa i11) s = .next t ∧ t.mem = s.mem ∧ SameRegisters s t ∧ t.squads = (actsOn e s).squads ∧
        ∀ a p b, ps = a ++ p :: b → ∃ x ∈ (agt t (thr s u).agent).all, x.kind = .store p.addr
          (((natLe 4 (readS s false q sd.val).toNat).drop (a.map Piece.len).sum).take p.len) p.ord)

/-- R95, R174: a fence wider than its thread: with a release it puts a release of each thread at its scope, which covers stores of
every kind; with an acquire it holds each thread's later accesses back, and with both its later loads until the thread's own earlier
stores have reached the scope point. A fence at thread scope waits for nothing and orders nothing. -/
def Says.Fences : Prop :=
  ∀ (ord : Ord) (s : State) (q : Nat), Acts (.ufence ord) q s →
    ∃ t, exec (.ufence ord) s = .next t ∧ Leaves s t ∧ KeepsAll q [] [] s t ∧
      ∀ u ∈ s.cur.threads,
        (ord.scope ≠ .thread → ord.rel = true → ∃ y z r p, t.syncs.get? y = some z ∧ z.op = .fence ∧ r ∈ z.left ∧
          t.pendRels.get? r = some p ∧ p.agent = (thr s u).agent ∧ p.scope = ord.scope ∧ p.fence = true ∧ p.sync = y) ∧
        (ord.scope ≠ .thread → ord.acq = true →
          (∃ l ∈ (agt s (thr s u).agent).loads, l.seq < (agt s (thr s u).agent).nextSeq) →
          ∃ h ∈ (agt t (thr s u).agent).holds, h.scope = ord.scope ∧ h.acqDone = false ∧ h.fence = true ∧
            (h.own.isSome ↔ ord.rel = true)) ∧
        (ord.scope = .thread → (agt t (thr s u).agent).holds = (agt s (thr s u).agent).holds ∧ t.syncs = s.syncs ∧
          t.pendRels = s.pendRels)

/-- R205, R206: an arrival is a release of each thread, at block scope at a barrier and at cluster scope at the gang's; the arrival is
counted when its release has been performed. BARS and GBAR wait, BARA goes on, and BARW waits until the last arrival has been counted
and its phase has completed. -/
def Says.BarrierWords : Prop :=
  (∀ (n : Fin 16) (s : State) (q b : Nat), b = (sqd s q).block →
    (Acts (.bars n) q s → ∃ t, exec (.bars n) s = .next t ∧ KeepsAll q [] [] s t ∧
      (Stand s.cur.pc s t ∧ ∀ u ∈ s.cur.threads,
        (thr t u).arrivals.get? n.val = some (arrivalMade ((thr s u).arrivals.get? n.val)) ∧ ∃ id w, (thr t u).wait = some id ∧
        t.waits.get? id = some w ∧ w.threads = [u] ∧ w.kind = .bar b n.val) ∧
      Begins (wordAgents s) .block (.barArrive b n.val (byLane s.cur.threads)) t) ∧
    (Acts (.bara n) q s → ∃ t, exec (.bara n) s = .next t ∧ KeepsAll q [] [] s t ∧ Leaves s t ∧
      (∀ u ∈ s.cur.threads, (thr t u).arrivals.get? n.val = some (arrivalMade ((thr s u).arrivals.get? n.val))) ∧
      Begins (wordAgents s) .block (.barArrive b n.val (byLane s.cur.threads)) t) ∧
    (Acts (.barw n) q s → (∀ u ∈ s.cur.threads, (thr s u).arrivals.get? n.val = none) →
      ∃ t, exec (.barw n) s = .next t ∧ KeepsAll q [] [] s t ∧ Leaves s t) ∧
    (Acts (.barw n) q s → (∀ u ∈ s.cur.threads, ∃ k p, (thr s u).arrivals.get? n.val = some (k, p) ∧
        (0 < k ∨ p = (barOf s b n.val).phase)) →
      ∃ t, exec (.barw n) s = .next t ∧ KeepsAll q [] [] s t ∧ Stays (.bar b n.val) s t) ∧
    (Acts (.barw n) q s → (∀ u ∈ s.cur.threads, ∃ p, (thr s u).arrivals.get? n.val = some (0, p) ∧ p ≠ (barOf s b n.val).phase) →
      ∃ t, exec (.barw n) s = .next t ∧ KeepsAll q [] [] s t ∧ Leaves s t) ∧
    (Acts .gbar q s → ∃ t, exec .gbar s = .next t ∧ KeepsAll q [] [] s t ∧ Stays (.gbar (blk s b).gang) s t ∧
      (∀ u ∈ s.cur.threads, (thr t u).gbarPhase = some (arrivalMade (thr s u).gbarPhase)) ∧
      Begins (wordAgents s) .cluster (.gbarArrive (blk s b).gang (byLane s.cur.threads)) t)) ∧
  (∀ (k : Barrier) (rels : List Nat),
    (k.arrivals + 1 < k.count → (k.arrive rels).phase = k.phase ∧ (k.arrive rels).arrivals = k.arrivals + 1) ∧
    (k.count ≤ k.arrivals + 1 → (k.arrive rels).phase = k.phase + 1 ∧ (k.arrive rels).arrivals = 0))

/-- UFENCE orders both kinds; barriers count arrivals behind releases and wait (O19). -/
def Obligations.FencesAndBarriers : Prop := Says.Fences ∧ Says.BarrierWords

/-- The words at the head of a queue that the claims of streams on q8 have taken; none while a claim's size is not fixed (R196). -/
def wordsClaimed (s : State) (b n : Nat) : Option Nat :=
  if n ≠ 8 then some 0
  else if (blk s b).claims.all fun c => c.left.isSome then some (((blk s b).claims.map fun c => c.left.getD 0).sum)
  else none

/-- Every claim on q8 was made by a command pushed before now. -/
def EarlierClaims (s : State) (b : Nat) : Prop := ∀ c ∈ (blk s b).claims, c.cmd < s.nextId

/-- R134, R180, R196: a word enters a queue that has room, and a pop takes the first word beyond every claim; otherwise the threads
wait. QTRY never waits, and sees q8 as empty while its head is claimed or a claim's size is not fixed; where it takes nothing sd keeps
its value. A word that enters q8 behind the claim of a discarded stream lets the claimed words leave. -/
def Says.QueueWords : Prop :=
  ∀ (n : Fin 16) (sd sa : Fin 64) (jd : Fin 8) (s : State) (q b : Nat), 8 ≤ n.val → b = (sqd s q).block → (s.blocks.get? b).isSome →
    EarlierClaims s b →
    (Acts (.qpush n sa) q s → ∃ t, exec (.qpush n sa) s = .next t ∧ KeepsAll q [] [] s t ∧
      if (wordsIn s b n.val).length < queueCap n.val then
        Leaves s t ∧ ((∀ c, n.val = 8 → (blk s b).claims.head? = some c → c.dropped = false) →
            wordsIn t b n.val = wordsIn s b n.val ++ [readS s false q sa.val]) ∧
          (∀ c k, n.val = 8 → (blk s b).claims.head? = some c → c.dropped = true → c.left = some k →
            wordsIn t b 8 = (wordsIn s b 8 ++ [readS s false q sa.val]).drop k)
      else Stays (.push b n.val (readS s false q sa.val)) s t ∧ wordsIn t b n.val = wordsIn s b n.val) ∧
    (Acts (.qpop sd n) q s → ∃ t, exec (.qpop sd n) s = .next t ∧ KeepsAll q [sd.val] [] s t ∧
      match (wordsClaimed s b n.val).bind fun i => (wordsIn s b n.val)[i]?.map fun x => (i, x) with
      | some (i, x) => Leaves s t ∧ Holds q sd.val x t ∧ wordsIn t b n.val = (wordsIn s b n.val).eraseIdx i
      | none => Stays (.pop b n.val sd.val) s t ∧ wordsIn t b n.val = wordsIn s b n.val) ∧
    (Acts (.qtry sd jd n) q s → ∃ t, exec (.qtry sd jd n) s = .next t ∧ KeepsAll q [sd.val] [jd.val] s t ∧ Leaves s t ∧
      match (if wordsClaimed s b n.val = some 0 then wordsIn s b n.val else []) with
      | x :: r => Holds q sd.val x t ∧ HoldsJ q jd.val true t ∧ wordsIn t b n.val = r
      | [] => HoldsJ q jd.val false t ∧ wordsIn t b n.val = wordsIn s b n.val ∧
          (sqd t q).s.getD sd.val 0 = (sqd (commitWrites s) q).s.getD sd.val 0 ∧
          (sqd t q).shS.getD sd.val 0 = (sqd (commitWrites s) q).shS.getD sd.val 0)

/-- The thread `u` has left the word for the next one, and waits for nothing. -/
def LeftBy (s t : State) (u : Nat) : Prop := (thr t u).pc = s.cur.pc + 4 ∧ (thr t u).wait = none

/-- The thread `u` waits at the word, in a wait of the kind given. -/
def WaitsBy (kind : WaitKind) (s t : State) (u : Nat) : Prop :=
  (thr t u).pc = s.cur.pc ∧ ∃ id w, (thr t u).wait = some id ∧ t.waits.get? id = some w ∧ u ∈ w.threads ∧ w.kind = kind

/-- R191: QPUSHV puts the words of the active lanes in home-lane order into the queue while it has room, and QPOPV gives the words beyond
every claim to the active lanes in that order while there are any; the threads of the remaining lanes wait. -/
def Says.LaneQueueWords : Prop :=
  ∀ (n : Fin 16) (vd : Fin 128) (s : State) (b : Nat), 8 ≤ n.val → Ready s → s.waits = [] →
    (∀ u ∈ s.cur.threads, (sqd s (squadOf u)).block = b ∧ (sqd s (squadOf u)).state = .resident) → (s.blocks.get? b).isSome →
    EarlierClaims s b → (∀ c ∈ (blk s b).claims, c.dropped = false) → s.cur.threads.Pairwise (fun u v => laneOf u < laneOf v) →
    (LanesClear (.qpushv n vd) s → (∀ u ∈ s.cur.threads, readV s false u vd.val = readV s true u vd.val) →
      ∃ t, exec (.qpushv n vd) s = .next t ∧ SameRegisters s t ∧ t.mem = s.mem ∧
        wordsIn t b n.val = wordsIn s b n.val ++
          (s.cur.threads.take (queueCap n.val - (wordsIn s b n.val).length)).map (fun u => readV s false u vd.val) ∧
        ∀ (k u : Nat), s.cur.threads[k]? = some u →
          if k < queueCap n.val - (wordsIn s b n.val).length then LeftBy s t u
          else WaitsBy (.pushV b n.val (readV s false u vd.val)) s t u) ∧
    (LanesClear (.qpopv vd n) s →
      ∃ t, exec (.qpopv vd n) s = .next t ∧ OtherV [vd.val] s t ∧ t.mem = s.mem ∧
        match wordsClaimed s b n.val with
        | none => wordsIn t b n.val = wordsIn s b n.val ∧ SameRegisters s t ∧
            ∀ u ∈ s.cur.threads, WaitsBy (.popV b n.val vd.val) s t u
        | some i =>
          wordsIn t b n.val = (wordsIn s b n.val).take i ++ (wordsIn s b n.val).drop (i + s.cur.threads.length) ∧
          ∀ (k u : Nat), s.cur.threads[k]? = some u → match (wordsIn s b n.val)[i + k]? with
            | some x => LeftBy s t u ∧ ∀ sh, readV t sh u vd.val = x
            | none => WaitsBy (.popV b n.val vd.val) s t u ∧ ∀ sh, readV t sh u vd.val = readV s sh u vd.val)

/-- Words enter and leave the block queues in order, or their threads wait (O20). -/
def Obligations.QueueWordsMove : Prop := Says.QueueWords ∧ Says.LaneQueueWords

/-- R135, R194 to R201: the words that push an engine command, each with the registers of its descriptor as read at issue, its guard
slot and its ordering flags. -/
def Says.EnginePushes : Prop :=
  ∀ (sd sa : Fin 64) (g : Fin 16) (ord : Ord) (fmt : WFmt) (tile : Fin 8) (size : ElemSize),
    let d (n : Nat) : State → Nat → List Word := fun s q => (List.range n).map fun i => readS s false q (sa.val + i)
    Pushes (.mxlds sa fmt g ord) (.mxlds fmt) (d 4) g.val ord none (fun s q => mxldsCause (d 4 s q) = none) ∧
    Pushes (.mxswap g) .mxswap (fun _ _ => []) g.val ⟨.thread, false, false⟩ none (fun _ _ => True) ∧
    Pushes (.mxdrn sd sa g ord) .mxdrn (d 4) g.val ord (some sd.val) (fun s q => mxdrnCause s q (d 4 s q) = none) ∧
    Pushes (.mxzero tile g) (.mxzero tile.val) (fun _ _ => []) g.val ⟨.thread, false, false⟩ none
      (fun s q => tile.val < (sqd s q).tiles.length) ∧
    Pushes (.cpcopy sd sa g ord) .cpcopy (d 8) g.val ord (some sd.val) (fun s q => cpcopyCause (d 8 s q) = none) ∧
    Pushes (.cpgath sd sa g ord) .cpgath (d 8) g.val ord (some sd.val) (fun s q => cpgathCause (d 8 s q) = none) ∧
    Pushes (.cpscat sd sa g ord) .cpscat (d 8) g.val ord (some sd.val) (fun s q => cpgathCause (d 8 s q) = none) ∧
    Pushes (.cpfill sd sa size g ord) (.cpfill (elemBytes size)) (d 8) g.val ord (some sd.val)
      (fun s q => cpfillCause (elemBytes size) (d 8 s q) = none)

/-- R196: MXSTR pushes one stream command for the squad, a row for each active lane in home-lane order, and claims words of q8 where
its rows come from there. -/
def Says.StreamPush : Prop :=
  ∀ (tile : Fin 8) (xa : Src) (vd : Fin 128) (bsel : BitVec 2) (q8 zf : Bool) (s : State) (q b : Nat),
    LanesClear (.mxstr tile xa vd bsel q8 zf) s → Ready s → s.waits = [] → s.cur.threads ≠ [] →
    (∀ u ∈ s.cur.threads, squadOf u = q ∧ src s false u xa = src s true u xa ∧ readV s false u vd.val = readV s true u vd.val) →
    (s.squads.get? q).isSome → (sqd s q).state = .resident → tile.val < (sqd s q).tiles.length → b = (sqd s q).block →
    (s.blocks.get? b).isSome → (blk s b).q0.length < 16 →
    ∃ t c k rows, exec (.mxstr tile xa vd bsel q8 zf) s = .next t ∧ Leaves s t ∧ SameRegisters s t ∧ t.mem = s.mem ∧
      t.cmds.get? c = some k ∧ k.squad = q ∧ k.kind = .mxstr tile.val rows q8 zf ∧ (blk t b).q0 = (blk s b).q0 ++ [c] ∧
      (rows.map fun r => (r.1, r.2.1, r.2.2.1)) = ((byLane s.cur.threads).map fun u =>
        (laneOf u, src s false u xa, ((readV s false u vd.val).extractLsb' (8 * bsel.toNat) 8).toNat)) ∧
      (blk t b).claims = if q8 then (blk s b).claims ++ [⟨c, none, false⟩] else (blk s b).claims

/-- The words that push an engine command queue it with its descriptor, or wait (O21). -/
def Obligations.EngineCommandsAreQueued : Prop := Says.EnginePushes ∧ Says.StreamPush

/-- No launch stands at a stage that other launches' ends could move it on from (Table 2.1). -/
def NoneWaits (s : State) : Prop := s.holds = [] ∧ ∀ e ∈ s.launches, e.2.ended = true ∨ e.2.stage ≠ 4 ∧ e.2.stage ≠ 5

/-- R59, R202, R203, R204: ALLOC waits for the Storekeeper's reply; FREE ends the squad's holding and is a release at device scope;
both wait to enter a full q4. FETCH completes the tiles that the squad fetched before it and takes the next entry of the dispenser's
queue, and the exhausted value is no tile; a launch with dimx 0 keeps its entry in q6. A launch's completed-tile count in the linear
order is the largest n such that the tiles 0 to n − 1 are complete. -/
def Obligations.StorekeeperAndDispenserWords : Prop :=
  (∀ (sd sa : Fin 64) (s : State) (q b : Nat), b = (sqd s q).block → (s.blocks.get? b).isSome →
    (Acts (.alloc sd sa) q s → estateCause s q = none →
      ∃ t c k, exec (.alloc sd sa) s = .next t ∧ KeepsAll q [] [] s t ∧
        t.cmds.get? c = some k ∧ k.kind = .alloc (readS s false q sa.val).toNat ∧ k.squad = q ∧
        if (blk s b).q4.length < 8 then Stays (.alloc c sd.val) s t ∧ (blk t b).q4 = (blk s b).q4 ++ [c]
        else Stays (.command b 4 c) s t ∧ (blk t b).q4 = (blk s b).q4) ∧
    (Acts (.free sa) q s → (∃ h ∈ (sqd s q).estate, h.kind = .object ∧ h.handle = readS64 s false q sa.val) →
      ∃ t c k, exec (.free sa) s = .next t ∧ KeepsAll q [] [] s t ∧
        t.cmds.get? c = some k ∧ k.kind = .free (readS64 s false q sa.val).toNat ∧ Begins (wordAgents s) .device (.free c) t ∧
        (sqd t q).estate = (sqd s q).estate.filter (fun h => !(h.kind == .object && h.handle == readS64 s false q sa.val)) ∧
        if (blk s b).q4.length < 8 then Leaves s t ∧ (blk t b).q4 = (blk s b).q4 ++ [c]
        else Stays (.command b 4 c) s t ∧ (blk t b).q4 = (blk s b).q4) ∧
    (Acts (.fetch sd) q s → (sqd s q).tile = [] ∨ NoneWaits s ∧ (s.launches.get? (sqd s q).lid).isSome →
      ∃ t, exec (.fetch sd) s = .next t ∧ KeepsAll q [sd.val, sd.val + 1] [] s t ∧
        (∀ x ∈ (sqd s q).tile, x ∈ (launchOf t (sqd s q).lid).doneTiles) ∧
        match (blk s b).q6 with
        | x :: r => Leaves s t ∧ (sd.val % 2 = 0 → Holds64 q sd.val x t) ∧
            (blk t b).q6 = (if (blockHeader s b).dimx = 0 then x :: r else r) ∧
            (sqd t q).tile = if x = 0xFFFFFFFFFFFFFFFF then [] else [x.toNat]
        | [] => Stays (.fetch b sd.val) s t ∧ (sqd t q).tile = [])) ∧
  (∀ (s : State) (lid tile : Nat), (s.launches.get? lid).isSome → (launchOf s lid).hdr.order = 0 →
    let l := launchOf (completeTile lid tile s) lid
    l.doneTiles = tile :: (launchOf s lid).doneTiles ∧ l.completed ≤ l.hdr.tiles ∧ (∀ i < l.completed, i ∈ l.doneTiles) ∧
      (l.completed < l.hdr.tiles → l.completed ∉ l.doneTiles))

/-- R207, R208: CHINIT gives a channel its base and capacity with every slot free and its entries discarded; CHPUSH takes a free slot
and its word enters behind a release; CHPOP takes the oldest entry, frees its slot and is an acquire. -/
def Says.ChannelWords : Prop :=
  ∀ (ch : Fin 16) (sd sa sb : Fin 64) (s : State) (q b : Nat), b = (sqd s q).block → (s.blocks.get? b).isSome →
    (Acts (.chinit ch sa sb) q s → chinitCause s q ch.val (readS s false q sa.val) (readS s false q sb.val) = none →
      ∃ t, exec (.chinit ch sa sb) s = .next t ∧ KeepsAll q [] [] s t ∧ Leaves s t ∧
        chanOf t b ch.val = ⟨readS s false q sa.val, (readS s false q sb.val).toNat, 0, 0, (readS s false q sb.val).toNat, []⟩ ∧
        ∀ y z x, t.syncs.get? y = some z → z.op ≠ .chEnter b ch.val x) ∧
    (Acts (.chpush ch sa) q s → (chanOf s b ch.val).cap ≠ 0 →
      ∃ t, exec (.chpush ch sa) s = .next t ∧ KeepsAll q [] [] s t ∧
        if (chanOf s b ch.val).allow = 0 then Stays (.chPush b ch.val (readS s false q sa.val)) s t
        else Leaves s t ∧ chanOf t b ch.val = { chanOf s b ch.val with allow := (chanOf s b ch.val).allow - 1 } ∧
          BeginsMove (wordAgents s) (some (channelScope (chanOf s b ch.val))) none (.chEnter b ch.val (readS s false q sa.val))
            (ringSpans s b ch.val) t) ∧
    (Acts (.chpop sd ch) q s → (chanOf s b ch.val).cap ≠ 0 → (chanOf s b ch.val).count = 0 →
      ∃ t, exec (.chpop sd ch) s = .next t ∧ KeepsAll q [] [] s t ∧ Stays (.chPop b ch.val sd.val) s t) ∧
    (Acts (.chpop sd ch) q s → (chanOf s b ch.val).cap ≠ 0 → (chanOf s b ch.val).count ≠ 0 →
      (∃ k, scratchKey s b (chanOf s b ch.val).base (4 * (chanOf s b ch.val).head) = some k ∧
        isPoisoned s k 4 = false ∧ (cor s (sqd s q).core).pending = [] ∧ (∀ u ∈ s.cur.threads, (agt s (thr s u).agent).all = [])) →
      ∃ t k, exec (.chpop sd ch) s = .next t ∧ KeepsAll q [sd.val] [] s t ∧ Leaves s t ∧
        scratchKey s b (chanOf s b ch.val).base (4 * (chanOf s b ch.val).head) = some k ∧
        Holds q sd.val (BitVec.ofNat 32 (readNat s k 4)) t ∧
        chanOf t b ch.val = { chanOf s b ch.val with
          head := ((chanOf s b ch.val).head + 1) % (chanOf s b ch.val).cap
          count := (chanOf s b ch.val).count - 1, allow := (chanOf s b ch.val).allow + 1 })

/-- R135, R136, R209: GARM gives an unarmed slot a new arming, and GRES resolves the slot's arming by the predicate and leaves it
OPEN or SHUT. -/
def Says.GuardWords : Prop :=
  ∀ (g : Fin 16) (jd : Fin 8) (s : State) (q b : Nat), b = (sqd s q).block → (s.blocks.get? b).isSome →
    (Acts (.garm g) q s → (∀ n, guardOf s b g.val ≠ .armed n) →
      ∃ t, exec (.garm g) s = .next t ∧ KeepsAll q [] [] s t ∧ Leaves s t ∧
        guardOf t b g.val = .armed (blk s b).armings ∧ (blk t b).armings = (blk s b).armings + 1 ∧
        ∀ k, k ≠ g.val → guardOf t b k = guardOf s b k) ∧
    (∀ n, Acts (.gres g jd) q s → guardOf s b g.val = .armed n →
      ∃ t, exec (.gres g jd) s = .next t ∧ KeepsAll q [] [] s t ∧ Leaves s t ∧
        guardOf t b g.val = (if readJ s false q jd.val then .opened else .shut) ∧
        (blk t b).resolved.get? n = some (readJ s false q jd.val) ∧ ∀ k, k ≠ g.val → guardOf t b k = guardOf s b k)

/-- Channels and guards: CHINIT, CHPUSH, CHPOP, GARM and GRES (O23). -/
def Obligations.ChannelAndGuardWords : Prop := Says.ChannelWords ∧ Says.GuardWords

/-- R97, R211, R213, R218: the words on locks, cells and signals. Each begins a move on its object, behind a release where it has
one. LKACQ, PRWAIT and WAITSIG wait until that move has tested the object; LKREL and PRSET end the squad's holding at issue, PRMAKE
makes one; LKTRY's predicate is pending until its attempt has been made. -/
def Says.ObjectWords : Prop :=
  ∀ (sd sa : Fin 64) (jd : Fin 8) (ord : Ord) (s : State) (q : Nat),
    let acq := if ord.acq then some ord.scope else none
    let rel := if ord.rel then some ord.scope else none
    let a := readS64 s false q sa.val
    let v := readS64 s false q sd.val
    (∀ r, refCause s q sa (.cell true) 8 = none → r = refOf s q sa (.cell true) 8 →
      (Acts (.lkacq sa ord) q s → estateCause s q = none → ∃ t id, exec (.lkacq sa ord) s = .next t ∧ KeepsAll q [] [] s t ∧
        Stays (.lkAcq r acq) s t ∧ BeginsMove (wordAgents s) rel none (.arm id) [(r.key, 8)] t) ∧
      (Acts (.lktry jd sa ord) q s → estateCause s q = none → ∃ t, exec (.lktry jd sa ord) s = .next t ∧
        KeepsAll q [] [] s t ∧ Leaves s t ∧ jd.val ∈ (sqd t q).pendJ ∧
        BeginsMove (wordAgents s) rel none (.lkTry q jd.val r acq s.cur.threads (cor s s.cur.core).issue) [(r.key, 8)] t) ∧
      (Acts (.lkrel sa ord) q s → holds s q .lock r.key = true → ∃ t, exec (.lkrel sa ord) s = .next t ∧
        KeepsAll q [] [] s t ∧ Leaves s t ∧ holds t q .lock r.key = false ∧
        BeginsMove (wordAgents s) rel acq (.lkRel q r.key (holdingOf? s q .lock r.key)) [(r.key, 8)] t)) ∧
    (∀ r, refCause s q sa (.cell true) 16 = none → r = refOf s q sa (.cell true) 16 →
      (Acts (.prmake sa) q s → estateCause s q = none → heldPromise s q r.key = false →
        ∃ t n, exec (.prmake sa) s = .next t ∧ KeepsAll q [] [] s t ∧ Leaves s t ∧
        (sqd t q).estate = (sqd s q).estate ++ [⟨.promise, a, r.key, n, false⟩] ∧
        BeginsMove (wordAgents s) none none (.prMake q r.key) [(r.key, 16)] t) ∧
      (Acts (.prset sa sd ord) q s → holds s q .promise r.key = true → ∃ t, exec (.prset sa sd ord) s = .next t ∧
        KeepsAll q [] [] s t ∧ Leaves s t ∧ holds t q .promise r.key = false ∧
        BeginsMove (wordAgents s) rel acq (.prSet q r.key v (holdingOf? s q .promise r.key)) [(r.key, 16)] t)) ∧
    (∀ r, refCause s q sa (.cell false) 16 = none → r = refOf s q sa (.cell false) 16 →
      Acts (.prwait sd jd sa ord) q s → ∃ t id, exec (.prwait sd jd sa ord) s = .next t ∧ KeepsAll q [] [] s t ∧
        Stays (.prWait r.key sd.val jd.val acq) s t ∧ BeginsMove (wordAgents s) rel none (.arm id) [(r.key, 16)] t) ∧
    (∀ r, refCause s q sa (.signal false) 8 = none → r = refOf s q sa (.signal false) 8 →
      Acts (.waitsig sa sd ord) q s → ∃ t id, exec (.waitsig sa sd ord) s = .next t ∧ KeepsAll q [] [] s t ∧
        Stays (.waitSig r v acq) s t ∧ BeginsMove (wordAgents s) rel none (.arm id) [(r.key, 8)] t) ∧
    (∀ r, refCause s q sa (.signal true) 8 = none → r = refOf s q sa (.signal true) 8 →
      Acts (.sigadd sa sd ord) q s → ∃ t, exec (.sigadd sa sd ord) s = .next t ∧ KeepsAll q [] [] s t ∧ Leaves s t ∧
        BeginsMove (wordAgents s) rel acq (.sigAdd q r.key v) [(r.key, 8)] t)

/-- R215, R217, R219: SETHEIR names the squad's heir; INHERIT takes the oldest notice or waits for one, INHERIT.NB takes it or clears
its predicate; PUBLISH puts a publication last in its window's order, behind a release at system scope, and held back where the launch
has ROLLBACK. -/
def Says.EstateWords : Prop :=
  ∀ (sd sa : Fin 64) (jd : Fin 8) (s : State) (q : Nat),
    (Acts (.setheir sa) q s → ∃ t, exec (.setheir sa) s = .next t ∧ KeepsAll q [] [] s t ∧ Leaves s t ∧
      (sqd t q).heir = (readS s false q sa.val).toNat ∧ ∀ p, p ≠ q → sqd t p = sqd (commitWrites s) p) ∧
    (Acts (.inherit sd) q s → sd.val % 2 = 0 → ∃ t, exec (.inherit sd) s = .next t ∧ KeepsAll q [sd.val, sd.val + 1] [] s t ∧
      match (sqd s q).q7 with
      | n :: r => Leaves s t ∧ Holds64 q sd.val n.val t ∧ (sqd t q).q7 = r
      | [] => Stays (.inherit sd.val) s t) ∧
    (Acts (.inheritNb sd jd) q s → sd.val % 2 = 0 → ∃ t, exec (.inheritNb sd jd) s = .next t ∧
      KeepsAll q [sd.val, sd.val + 1] [jd.val] s t ∧ Leaves s t ∧
      match (sqd s q).q7 with
      | n :: r => Holds64 q sd.val n.val t ∧ HoldsJ q jd.val true t ∧ (sqd t q).q7 = r
      | [] => HoldsJ q jd.val false t ∧ ∀ k, k = sd.val ∨ k = sd.val + 1 →
          (sqd t q).s.getD k 0 = (sqd (commitWrites s) q).s.getD k 0) ∧
    (Acts (.publish sa) q s → publishCause s q (readS s false q sa.val) = none →
      ∃ t, exec (.publish sa) s = .next t ∧ KeepsAll q [] [] s t ∧ Leaves s t ∧
        (∀ w, s.pubs.get? (readS s false q sa.val).toNat = some w → ∃ id v,
          t.pubs.get? (readS s false q sa.val).toNat = some v ∧
          v.pending = w.pending ++ [⟨(sqd s q).lid, id, false, (launchOf s (sqd s q).lid).hdr.rollback⟩] ∧
          Begins (wordAgents s) .system (.publish (readS s false q sa.val).toNat id) t))

/-- Locks, promises, signals, publication and the words on estates (O24). -/
def Obligations.LocksPromisesSignalsAndEstates : Prop := Says.ObjectWords ∧ Says.EstateWords

/-- R220, R299, R315: TRAP, BKPT and a word that is no instruction and ends the run, in a squad with a handler, none of whose threads
holds an entry back, enter the handler: sr.cause is the cause, sr.fmask its threads in the wave, sr.amask the threads that were in
it, sr.hpc the next word for TRAP and the word itself for the others, and every thread stands at the handler. -/
def Says.Traps : Prop :=
  ∀ (imm : BitVec 11) (s : State) (q : Nat), Acts (.trap imm) q s → s.cur.slow = false → (sqd s q).handler = true →
    (sqd s q).entry = .none → claimed s (sqd s q).lid 0x10 = false → claimed s (sqd s q).lid 0x11 = false →
    (∀ u ∈ liveOf s q, u ∈ s.cur.threads) → (∀ u ∈ s.cur.threads, u ∈ liveOf s q) → entryPending s q = false →
    (curWave s).all = s.cur.threads → (curWave s).threads = s.cur.threads →
    (∃ t, exec (.trap imm) s = .next t ∧ t.mem = s.mem ∧ SameRegisters s t ∧ (sqd t q).entry = .inProgress ∧
      (sqd t q).cause = 0x10 ∧ (sqd t q).fmask = laneMask s.cur.threads ∧ (sqd t q).amask = laneMask s.cur.threads ∧
      (sqd t q).faddr = 0 ∧ (sqd t q).xword = s.cur.word ∧
      ∀ u ∈ s.cur.threads, (thr t u).hpc = s.cur.pc + 4 ∧ (thr t u).pc = (sqd s q).hvec ∧ (thr t u).inHandler = true) ∧
    (∃ t, exec (.bkpt imm) s = .next t ∧ t.mem = s.mem ∧ SameRegisters s t ∧ (sqd t q).entry = .inProgress ∧
      (sqd t q).cause = 0x11 ∧ (sqd t q).fmask = laneMask s.cur.threads ∧ (sqd t q).amask = laneMask s.cur.threads ∧
      (sqd t q).faddr = 0 ∧ (sqd t q).xword = s.cur.word ∧
      ∀ u ∈ s.cur.threads, (thr t u).hpc = s.cur.pc ∧ (thr t u).pc = (sqd s q).hvec ∧ (thr t u).inHandler = true) ∧
    (∀ w : Word, w.getLsbD 30 = true → claimed s (sqd s q).lid 0x01 = false →
      (∀ u ∈ s.cur.threads, ∀ p c, (thr s u).deny = some (p, c) → c ≠ 0x01) →
      ∃ t, exec (.unimplementedEncoding w) s = .next t ∧ t.mem = s.mem ∧ SameRegisters s t ∧ (sqd t q).entry = .inProgress ∧
      (sqd t q).cause = 0x01 ∧ (sqd t q).fmask = laneMask s.cur.threads ∧ (sqd t q).amask = laneMask s.cur.threads ∧
      (sqd t q).faddr = 0 ∧ (sqd t q).xword = w ∧
      ∀ u ∈ s.cur.threads, (thr t u).hpc = s.cur.pc ∧ (thr t u).pc = (sqd s q).hvec ∧ (thr t u).inHandler = true)

/-- R221, R318: HRET of threads without a suspended wait returns each to its sr.hpc, and the entry ends with the last of them. -/
def Says.HandlerReturn : Prop :=
  ∀ (s : State) (q : Nat), Acts .hret q s → (sqd s q).entry = .inProgress → (sqd s q).deferred = [] →
    (∀ u ∈ s.cur.threads, (thr s u).mark = false) → (∀ u ∈ liveOf s q, u ∈ s.cur.threads) →
    ∃ t, exec .hret s = .next t ∧ t.mem = s.mem ∧ SameRegisters s t ∧ (sqd t q).entry = .none ∧
      ∀ u ∈ s.cur.threads, (thr t u).pc = (thr s u).hpc ∧ (thr t u).inHandler = false ∧
        ((thr t u).alone = !((sqd s q).amask.getLsbD (laneOf u)))

/-- TRAP, BKPT and causes of class P enter the handler path; HRET returns (O25). -/
def Obligations.TrapsAndHandlerReturns : Prop := Says.Traps ∧ Says.HandlerReturn

/-- R222, Table 6.7: SRW writes sr.hvec, whose bits 1 and 0 read as 0, sr.amask over the squad's threads, sr.wrev, which becomes 0,
and the halves of sr.hpc of a lane; it changes no other register. -/
def Obligations.SpecialRegisterWritesLand : Prop :=
  ∀ (idx : BitVec 8) (sa : Fin 64) (s : State) (q : Nat), Acts (.srw idx sa) q s →
    let x := readS s false q sa.val
    ∃ t, exec (.srw idx sa) s = .next t ∧ KeepsAll q [] [] s t ∧ Leaves s t ∧
      (sqd t q).hvec = (if idx = 0x10 then highWord (sqd s q).hvec ++ (x &&& 0xFFFFFFFC)
        else if idx = 0x11 then x ++ lowWord (sqd s q).hvec else (sqd s q).hvec) ∧
      (sqd t q).amask = (if idx = 0x14 then x &&& laneMask (threadsOf s q) else (sqd s q).amask) ∧
      (sqd t q).wrev = (if idx = 0x0E then 0 else (sqd s q).wrev) ∧
      ∀ n ∈ (sqd s q).present, n < 32 → (s.threads.get? (threadKey q n)).isSome →
        (thr t (threadKey q n)).hpc =
          if idx.toNat = 0x80 + n then highWord (thr s (threadKey q n)).hpc ++ x
          else if idx.toNat = 0xA0 + n then x ++ lowWord (thr s (threadKey q n)).hpc
          else (thr s (threadKey q n)).hpc

/-- R122, R299: a word that is no instruction is cause 0x01 in each thread of the word; in the middle of a run at full speed the wave
notes it (class R). -/
def Says.UnimplementedEncodings : Prop :=
  ∀ (w : Word) (s : State), s.cur.slow = false → w.getLsbD 30 = false → ((cor s s.cur.core).slots.get? s.cur.slot).isSome →
    ∃ t, exec (.unimplementedEncoding w) s = .next t ∧
      (curWave t).faults = (curWave s).faults ++ s.cur.threads.map fun u =>
        (⟨u, squadOf u, 0x01, 0, none, w, true, s.cur.pc⟩ : RunFault)

/-- R122: what decodes is well-formed and is the one word of its instruction: a reserved code, a field that must be 0 and is not, a
register group that is not aligned, or a run-ending word without its B flag decodes to nothing. -/
def Says.DecodeEncode : Prop :=
  (∀ (w : Word) (i : Instr), decode w = .ok i → i.wf = true ∧ encode i = some w) ∧
  ∀ (w : Word) (i : Instr), decodePorter w = .ok i → i.wf = true ∧ encode i = some w

/-- R18, R122: a word of a class of Table 1.4 whose B flag is 0 is no instruction. -/
def Says.RunEndingWords : Prop :=
  ∀ (w : Word) (i : Instr), decode w = .ok i → endsRun i = true → w.getLsbD 30 = true

/-- What decodes is well-formed and has one word; other words raise cause 0x01 (O27). -/
def Obligations.EncodingsAreTheOnesListed : Prop := Says.UnimplementedEncodings ∧ Says.DecodeEncode ∧ Says.RunEndingWords

/-- R258, R260: BFX and BFI of the Porter extension; x0 reads as 0 and discards a write, and the program counter moves past the word. -/
def Says.PorterBitFields : Prop :=
  ∀ (rd rs pos len : Fin 32) (s : State) (p : Nat), p = s.cur.core → pos.val + (len.val + 1) ≤ 32 →
    let get (n : Fin 32) : Word := if n.val = 0 then 0 else (porterOf s p).x.getD n.val 0
    let m : Word := BitVec.ofNat 32 ((2 ^ (len.val + 1) - 1) * 2 ^ pos.val)
    (∃ t, exec (.bfx rd rs pos len 0) s = .next t ∧ t = { s with porters := t.porters } ∧
      porterOf t p = { porterOf s p with pc := (porterOf s p).pc + 4, x := (porterOf t p).x } ∧
      (∀ n : Fin 32, (porterOf t p).x.getD n.val 0 = if n = rd ∧ rd.val ≠ 0 then
        BitVec.ofNat 32 ((get rs).toNat / 2 ^ pos.val % 2 ^ (len.val + 1)) else (porterOf s p).x.getD n.val 0) ∧
      ∀ k, k ≠ p → porterOf t k = porterOf s k) ∧
    (∃ t, exec (.bfiPorter rd rs pos len 0) s = .next t ∧ t = { s with porters := t.porters } ∧
      porterOf t p = { porterOf s p with pc := (porterOf s p).pc + 4, x := (porterOf t p).x } ∧
      (∀ n : Fin 32, (porterOf t p).x.getD n.val 0 = if n = rd ∧ rd.val ≠ 0 then
        (get rd &&& ~~~m) ||| (get rs <<< pos.val &&& m) else (porterOf s p).x.getD n.val 0) ∧
      ∀ k, k ≠ p → porterOf t k = porterOf s k)

/-- R262, R348: an exception enters the Porter's handler with mepc and mcause saved; a second one, or one without a handler, halts it and
raises class 6 with LASTING set. Krovhar's image has each exception that it handles reported with LASTING clear, and another image's
handler may ask for the report once. A halted Porter with an image starts it again. That mtvec 0 is no handler and that its low bits
are no part of the address is presumed by the model (log 76). -/
def Says.PorterExceptions : Prop :=
  ∀ (rd rs pos len : Fin 32) (hi : Fin 4) (s : State) (p : Nat), p = s.cur.core →
    (32 < pos.val + (len.val + 1) ∨ hi.val ≠ 0 → ∃ t, exec (.bfx rd rs pos len hi) s = .next t ∧
      (porterOf t p).x = (porterOf s p).x ∧ (porterOf t p).mcause = 27 ∧
      if (porterOf s p).inException = false ∧ (porterOf s p).mtvec ≠ 0 then
        (porterOf t p).mepc = (porterOf s p).pc ∧ (porterOf t p).pc = (porterOf s p).mtvec &&& 0xFFFFFFFC ∧
        (porterOf t p).inException = true ∧ (porterOf t p).halted = (porterOf s p).halted ∧
        (if fieldAt (porterOf s p).image 7 1 = 0 then Raised ⟨6, 27, 0, none, 0, p, (porterOf s p).pc.toNat⟩ s t
          else t = { s with porters := t.porters })
      else (porterOf t p).halted = true ∧ Raised ⟨6, 27, 0, none, 2, p, (porterOf s p).pc.toNat⟩ s t) ∧
    (∀ n, (porterOf s n).halted = true → (porterOf s n).image ≠ [] → ∃ t, exec (.porterException n) s = .next t ∧
      (porterOf t n).halted = false ∧ (porterOf t n).pc = BitVec.ofNat 32 (fieldAt (porterOf s n).image 0x18 8) ∧ (porterOf t n).inException = false) ∧
    (∀ n, (porterOf s n).halted = false → (porterOf s n).inException = true → (porterOf s n).reported = false →
      24 ≤ (porterOf s n).mcause.toNat → (porterOf s n).mcause.toNat < 32 → ∃ t, exec (.porterException n) s = .next t ∧
      (porterOf t n).reported = true ∧ Raised ⟨6, (porterOf s n).mcause.toNat, 0, none, 0, n, (porterOf s n).mepc.toNat⟩ s t)

/-- Porter bit-field instructions and the Porter exception (O28). -/
def Obligations.PorterFieldsAndExceptions : Prop := Says.PorterBitFields ∧ Says.PorterExceptions

/-- R242, R261: RFETCH gives the head chain of an enabled queue that is mapped, with its descriptors in SRAM, or all ones; RPOST posts
a used element for a chain the Porter holds. -/
def Says.PorterQueues : Prop :=
  ∀ (rd rs rt : Fin 32) (s : State) (p q : Nat) (x y : Word), p = s.cur.core → x = (porterOf s p).get rs.val →
    y = (porterOf s p).get rt.val → q = p * 16 + x.toNat % 16 → (queueOf s q).enabled = true →
    (queueUp s q = true → (queueOf s q).avail = [] → ∃ t, exec (.rfetch rd rs) s = .next t ∧
      t = { s with porters := t.porters } ∧ porterOf t p = (porterOf s p).set rd.val 0xFFFFFFFF) ∧
    (∀ buf ds r, queueUp s q = true → (queueOf s q).avail = (buf, ds) :: r → chainFault s q (buf, ds) = none →
      ∃ t, exec (.rfetch rd rs) s = .next t ∧ (queueOf t q).avail = r ∧ (queueOf t q).fetched = (queueOf s q).fetched ++ [(buf, ds)] ∧
        t.mem = (writeBytes (sramKey p (0x3F000 + x.toNat % 16 * 0x100)) (chainBytes buf ds) s).mem ∧
        porterOf t p = (porterOf s p).set rd.val (BitVec.ofNat 32 (buf % 2 ^ 16 + ds.length * 2 ^ 16))) ∧
    (∀ ds, (x.toNat / 2 ^ 16, ds) ∈ (queueOf s q).fetched → (queueOf s q).lost = false → ∃ t, exec (.rpost rs rt) s = .next t ∧ t.mem = s.mem ∧
      (queueOf t q).used = (queueOf s q).used ++ [(x.toNat / 2 ^ 16, y.toNat)] ∧
      (∀ c ∈ (queueOf t q).fetched, c.1 ≠ x.toNat / 2 ^ 16) ∧
      porterOf t p = { porterOf s p with pc := (porterOf s p).pc + 4 })

/-- R261, R349: SARM arms a doorbell or a watch, or finds it fired already; SWAIT takes the fired sources of its mask and disarms them.
The signal of a watch stands at a device physical address, and one elsewhere counts as 0 (log 14). -/
def Says.PorterWaits : Prop :=
  ∀ (rd rs rt : Fin 32) (s : State) (p : Nat) (x y : Word), p = s.cur.core → x = (porterOf s p).get rs.val →
    y = (porterOf s p).get rt.val →
    (x.toNat % 32 < 16 → y = 0 → ∃ t, exec (.sarm rs rt) s = .next t ∧ t = { s with porters := t.porters } ∧
      (porterOf t p).pc = (porterOf s p).pc + 4 ∧ (porterOf t p).x = (porterOf s p).x ∧
      if x.toNat % 32 ∈ (porterOf s p).latched then x.toNat % 32 ∈ (porterOf t p).fired ∧ x.toNat % 32 ∉ (porterOf t p).latched ∧
          x.toNat % 32 ∉ (porterOf t p).armed
      else x.toNat % 32 ∈ (porterOf t p).armed) ∧
    (16 ≤ x.toNat % 32 → y.toNat % 8 = 0 → y.toNat + 16 ≤ 256 * 1024 →
      ∃ t, exec (.sarm rs rt) s = .next t ∧ t = { s with porters := t.porters } ∧
      (porterOf t p).pc = (porterOf s p).pc + 4 ∧ (porterOf t p).x = (porterOf s p).x ∧
      if readNat s (sramKey p (y.toNat + 8)) 8 ≤ watchValue s (readNat s (sramKey p y.toNat) 8) then
        x.toNat % 32 ∈ (porterOf t p).fired ∧ x.toNat % 32 ∉ (porterOf t p).armed else x.toNat % 32 ∈ (porterOf t p).armed) ∧
    ((∃ n ∈ (porterOf s p).fired, n < 32 ∧ x.getLsbD n = true) → ∃ t, exec (.swait rd rs) s = .next t ∧
      t = { s with porters := t.porters } ∧ (porterOf t p).pc = (porterOf s p).pc + 4 ∧
      (∀ n, n ∈ (porterOf t p).fired ↔ n ∈ (porterOf s p).fired ∧ ¬(n < 32 ∧ x.getLsbD n = true)) ∧
      (∀ n, n ∈ (porterOf t p).armed ↔ n ∈ (porterOf s p).armed ∧ ¬(n ∈ (porterOf s p).fired ∧ n < 32 ∧ x.getLsbD n = true)) ∧
      (rd.val ≠ 0 → ∀ n < 32, ((porterOf t p).x.getD rd.val 0).getLsbD n = true ↔ n ∈ (porterOf s p).fired ∧ x.getLsbD n = true)) ∧
    ((∀ n ∈ (porterOf s p).fired, ¬(n < 32 ∧ x.getLsbD n = true)) → (∃ n ∈ (porterOf s p).armed, n < 32 ∧ x.getLsbD n = true) →
      exec (.swait rd rs) s = .next s)

/-- R261: DISP gives the launch its queue holds with the header at hand, and puts it into its priority's FIFO where its stages 3 to 5 have
ended; a header that passes its check and of which the queue holds no launch makes one at stage 3 (log 15). DSTAT gives the state of a
launch of the Porter's partition and its completed tiles. -/
def Says.PorterDispatch : Prop :=
  ∀ (rd rs rt : Fin 32) (s : State) (p : Nat) (x y : Word), p = s.cur.core → x = (porterOf s p).get rs.val →
    y = (porterOf s p).get rt.val →
    (∀ lid l, x.toNat % 64 = 0 → x.toNat + 512 ≤ 256 * 1024 →
      (stagedWith s (p * 16 + y.toNat % 16) (readBytes s (sramKey p x.toNat) 512)).head? = some lid → s.launches.get? lid = some l →
      ∃ t, exec (.disp rd rs rt) s = .next t ∧ t.mem = s.mem ∧
        porterOf t p = (porterOf s p).set rd.val (BitVec.ofNat 32 lid) ∧
        (l.stage = 5 → l.ended = false → (∀ h ∈ s.holds, h.1 ≠ lid) → mayQueue s l = true →
          (launchOf t lid).stage = 6 ∧ t.fifos.getD l.hdr.prio [] = s.fifos.getD l.hdr.prio [] ++ [lid]) ∧
        (l.stage ≠ 5 ∨ (∃ h ∈ s.holds, h.1 = lid) ∨ mayQueue s l = false → t = { s with porters := t.porters })) ∧
    (∀ c raw, x.toNat % 64 = 0 → x.toNat + 512 ≤ 256 * 1024 → raw = readBytes s (sramKey p x.toNat) 512 →
      stagedWith s (p * 16 + y.toNat % 16) raw = [] →
      s.contexts.find? (fun e => e.2.part == (partOfQueue s (p * 16 + y.toNat % 16)).getD 0) = some c →
      checkHeader s (fnOfQueue s (p * 16 + y.toNat % 16)) ((partOfQueue s (p * 16 + y.toNat % 16)).getD 0) (hubView s c.1)
        (headerOf raw).code.toNat raw = none →
      headerPages s (hubView s c.1) (headerOf raw) none = [] →
      ∃ t lid l, exec (.disp rd rs rt) s = .next t ∧ t.mem = s.mem ∧
        porterOf t p = (porterOf s p).set rd.val (BitVec.ofNat 32 lid) ∧ lid ≠ 0 ∧ s.launches.get? lid = none ∧
        t.launches.get? lid = some l ∧ l.hdr = headerOf raw ∧ l.raw = raw ∧ l.stage = 3 ∧ l.queue = p * 16 + y.toNat % 16 ∧ l.ctx = c.1 ∧
        ∀ k, k ≠ lid → t.launches.get? k = s.launches.get? k) ∧
    (∀ l, s.launches.get? x.toNat = some l → some l.part = partOfQueue s (p * 16) →
      ∃ t, exec (.dstat rd rs) s = .next t ∧ t = { s with porters := t.porters } ∧
        porterOf t p = (porterOf s p).set rd.val (BitVec.ofNat 32
          ((if l.ended then 2 else if l.stage ≤ 6 then 0 else 1) * 2 ^ 30 + min l.completed (2 ^ 30 - 1))))

/-- RFETCH, RPOST, SARM, SWAIT, DISP and DSTAT (O29). -/
def Obligations.PorterQueuesWaitsAndDispatch : Prop := Says.PorterQueues ∧ Says.PorterWaits ∧ Says.PorterDispatch

/-- R3: bytes written read back, in their order; every other byte reads as before; a number is little-endian; and memories that read
alike are the same data. -/
def Obligations.MemoryReadsBack : Prop :=
  (∀ (s : State) (a : Nat) (bs : List Byte), s.Canonical → (writeBytes a bs s).Canonical ∧
    readBytes (writeBytes a bs s) a bs.length = bs) ∧
  (∀ (s : State) (a x : Nat) (bs : List Byte), ¬(a ≤ x ∧ x < a + bs.length) → readByte (writeBytes a bs s) x = readByte s x) ∧
  (∀ (s : State) (a n x : Nat), s.Canonical → readNat (writeNat a n x s) a n = x % 256 ^ n) ∧
  (∀ (n x i : Nat) (b : Byte), (natLe n x)[i]? = some b → b.toNat = x / 256 ^ i % 256) ∧
  ∀ s t : State, s.Canonical → t.Canonical → (∀ a, readByte s a = readByte t a) → s.mem = t.mem

/-- R89, R90: a store that may leave, behind the stores of earlier lanes of its instruction to the same bytes, goes to its core point,
where it is pending and its bytes are copies, or, without a core stop, to memory; every other byte reads as before. -/
def Says.StoreLeaves : Prop :=
  ∀ (a sid : Nat) (s : State) (e : Entry) (k : Nat) (bs : List Byte) (o : OrdKind),
    s.Canonical → entryOf s a sid = some e → e.kind = .store k bs o → mayLeave (agt s a) e = true → lanesBefore s a e = true →
    winDead s e.win = false → Quiet s e.win →
    (coreStop (agt s a).place o k = true ∨ snapshotDue s a k bs.length = false) →
    ∃ t, exec (.storeLeave a sid) s = .next t ∧ t.threads = s.threads ∧ t.squads = s.squads ∧
      (∀ x ∈ (agt t a).out, x.sid = sid → isMarker x.kind = true) ∧
      if coreStop (agt s a).place o k then t.mem = s.mem ∧
        (cor t (agt s a).place.core).pending = (cor s (agt s a).place.core).pending ++
          [⟨(a, sid), k, bs, o == .uo, e.rels, e.poison, e.va, e.word, e.win⟩] ∧
        ∀ i b, bs[i]? = some b → ∃ c, (cor t (agt s a).place.core).copies.get? (k + i) = some c ∧ c.val = b ∧ c.sid = (a, sid)
      else (∀ i b, bs[i]? = some b → readByte t (k + i) = b) ∧ ∀ x, ¬(k ≤ x ∧ x < k + bs.length) → readByte t x = readByte s x

/-- R89, R91: the carry move writes a pending store to memory and ends its being pending; an empty copy move drops a copy with nothing
pending; a release whose covered stores have all arrived is performed and recorded. -/
def Says.CarryDropAndRelease : Prop :=
  (∀ (c a sid k : Nat) (s : State) (p : Pending), s.Canonical → (cor s c).pending.find? (fun x => x.sid == (a, sid) && x.addr == k) = some p →
    (∀ x ∈ (cor s c).pending.takeWhile (fun x => !(x.sid == (a, sid) && x.addr == k)),
      overlaps x.addr x.bytes.length p.addr p.bytes.length = false) →
    snapshotDue s a p.addr p.bytes.length = false → winDead s p.win = false → Quiet s p.win →
    ∃ t, exec (.storeCarry c a sid k) s = .next t ∧ t.threads = s.threads ∧ t.squads = s.squads ∧ t.agents = s.agents ∧
      (∀ i b, p.bytes[i]? = some b → readByte t (k + i) = b) ∧
      (∀ x, ¬(k ≤ x ∧ x < k + p.bytes.length) → readByte t x = readByte s x) ∧
      (cor t c).pending = (cor s c).pending.filter fun x => !(x.sid == (a, sid) && x.addr == k)) ∧
  (∀ (c k : Nat) (s : State), (∀ p ∈ (cor s c).pending, overlaps p.addr p.bytes.length k 1 = false) →
    ∃ t, exec (.copyDrop c k) s = .next t ∧ (cor t c).copies.get? k = none ∧ t = { s with cores := t.cores } ∧
      ∀ j, j ≠ k → (cor t c).copies.get? j = (cor s c).copies.get? j) ∧
  (∀ (rid y : Nat) (s : State) (r : PendRel), s.pendRels.get? rid = some r → releaseReady s rid r = true → r.sync = y →
    (s.syncs.get? y).map (fun z => (z.left, z.rels, z.op, z.moves)) = some ([rid], [rid], .fence, false) →
    ∃ t, exec (.releasePerform rid) s = .next t ∧ t.pendRels.get? rid = none ∧ t.syncs.get? y = none ∧
      (t.releases.get? rid).map (fun x => (x.place, x.scope)) = some ((agt s r.agent).place, r.scope) ∧
      t.mem = s.mem ∧ t.threads = s.threads ∧ t.squads = s.squads)

/-- A store leaves for its core point or memory, is carried on, and releases follow (O31). -/
def Obligations.StoresReachMemory : Prop := Says.StoreLeaves ∧ Says.CarryDropAndRelease

/-- R65, R89, R100, R166, R167: the pieces of a lane load are performed one by one. The last of them writes the registers of a load
that is not its run's last word with the values the ordering machine gives the bytes, little-endian; an earlier one is kept, and no
register changes. An agent with no stores of its own and no copies reads memory. -/
def Says.LoadPerforms : Prop :=
  (∀ (a seq u n i : Nat) (s : State) (l : Load) (p : Piece) (got : Nat → List ReadByte) (bs : List ReadByte),
    (agt s a).loads.find? (fun l => l.seq == seq) = some l → threadOfAgent s a = some u → l.dst = .v u n →
    l.word.getLsbD 30 = false → n + (l.width + 3) / 4 ≤ 128 → (i, p) ∈ l.left →
    (l.left.filter fun x => pieceReady s a l x.2 && !inRefresh s x.2.addr x.2.len) = [(i, p)] → winDead s p.win = false → Quiet s p.win →
    (∃ k, slotOf s u = some k ∧ ((cor s (sqd s (squadOf u)).core).slots.getD k default).ending = []) →
    (∀ j, got j = if j = i then loadPiece s a l.seq p else l.got.getD j []) → bs = (List.range l.pieces.length).flatMap got →
    (l.left = [(i, p)] → (∀ b ∈ bs, b.poison = false ∧ b.dead = false) → (thr s u).live = true → (s.threads.get? u).isSome →
      ∃ t, exec (.loadPerform a seq) s = .next t ∧ t.mem = s.mem ∧
        (∀ x ∈ (agt t a).loads, x.seq ≠ seq) ∧
        (∀ k x, (loadWords l.width (bs.map fun b => b.val))[k]? = some x → ∀ sh, readV t sh u (n + k) = x) ∧
        (∀ v m sh, v ≠ u ∨ ¬(n ≤ m ∧ m < n + (l.width + 3) / 4) → readV t sh v m = readV s sh v m)) ∧
    (l.left ≠ [(i, p)] → ∃ t m, exec (.loadPerform a seq) s = .next t ∧ t.mem = s.mem ∧ SameRegisters s t ∧
        m ∈ (agt t a).loads ∧ m.seq = seq ∧ m.got.get? i = some (got i) ∧ m.pieces = l.pieces ∧
        ∀ j, j ≠ i → m.got.get? j = l.got.get? j)) ∧
  (∀ (a seq : Nat) (s : State) (p : Piece), (agt s a).all = [] → (cor s (agt s a).place.core).copies = [] → winDead s p.win = false →
    (loadPiece s a seq p).map (fun b => b.val) = readBytes s p.addr p.len)

/-- R89, R170, R171: an atomic that stands alone in its group and may move gives its destination the word's old value (AFADD the one
NaN for a NaN) and the word its new one, in one move. -/
def Says.AtomicPerforms : Prop :=
  ∀ (a sid u n : Nat) (s : State) (e : Entry) (op : AtomOp) (k g l : Nat) (x y : Word) (o : OrdKind),
    s.Canonical → entryOf s a sid = some e → e.kind = .atomic op k x y (.v u n) g l o → atomGroup s k g = [⟨a, e⟩] → n < 128 →
    (s.threads.get? u).isSome → (thr s u).live = true → atomicReady s k [⟨a, e⟩] = true → winDead s e.win = false →
    Quiet s e.win → poisonIn s [⟨k, 4, .rc, none⟩] = none →
    ∃ t, exec (.atomicPerform a sid) s = .next t ∧
      (∀ sh, readV t sh u n = if op = .fadd ∧ (f32 (BitVec.ofNat 32 (readNat s k 4))).isNan then 0x7FC00000
        else BitVec.ofNat 32 (readNat s k 4)) ∧
      (∀ v m sh, v ≠ u ∨ m ≠ n → readV t sh v m = readV s sh v m) ∧
      readNat t k 4 = (((groupResult op (BitVec.ofNat 32 (readNat s k 4)) [(x, y)]).2).getD (BitVec.ofNat 32 (readNat s k 4))).toNat ∧
      (∀ j, ¬(k ≤ j ∧ j < k + 4) → readByte t j = readByte s j) ∧
      ∀ z ∈ (agt t a).out, z.sid = sid → isMarker z.kind = true

/-- A load writes its registers with what the ordering machine gives; an atomic is one move (O32). -/
def Obligations.LoadsAndAtomicsPerform : Prop := Says.LoadPerforms ∧ Says.AtomicPerforms

/-- R205, R208, R211, R213, R218: the effects that releases hold back, once performed: a barrier counts the arrivals; a channel's word
enters its ring; a released lock reads 0; a made promise names its holder; a fulfilled one holds its value; a signal grows, and
saturates. -/
def Obligations.HeldEffectsArePerformed : Prop :=
  ∀ (s : State) (rels : List Nat), s.Canonical → s.waits = [] → (∀ e ∈ s.launches, e.2.eligible = false ∧ 6 ≤ e.2.stage) →
    (∀ c, (cor s c).pending = []) →
    (∀ b n u r a, (s.threads.get? u).isSome → (s.blocks.get? b).isSome → ∃ t, performSync (.barArrive b n [u]) [r] a s = t ∧
      (thr t u).arrivals.get? n = some (arrivalCounted (barOf s b n).phase ((thr s u).arrivals.get? n)) ∧
      barOf t b n = (barOf s b n).arrive [r] ∧ t.mem = s.mem) ∧
    (∀ b n x k a, (s.blocks.get? b).isSome → scratchKey s b (chanOf s b n).base
        (4 * (((chanOf s b n).head + (chanOf s b n).count) % (chanOf s b n).cap)) = some k →
      ∃ t, performSync (.chEnter b n x) rels a s = t ∧ readNat t k 4 = x.toNat ∧
        (∀ j, ¬(k ≤ j ∧ j < k + 4) → readByte t j = readByte s j) ∧ (chanOf t b n).count = (chanOf s b n).count + 1 ∧
        (chanOf t b n).rels.get? (((chanOf s b n).head + (chanOf s b n).count) % (chanOf s b n).cap) =
          some (rels, (a, (agt s a).nextSid))) ∧
    (∀ q k h a, ∃ t, performSync (.lkRel q k h) rels a s = t ∧ readNat t k 8 = 0 ∧
      ∀ j, ¬(k ≤ j ∧ j < k + 8) → readByte t j = readByte s j) ∧
    (∀ q k a, (sqd s q).lid < 2 ^ 32 → ∃ t, performSync (.prMake q k) rels a s = t ∧ readNat t k 8 = 0 ∧
      readNat t (k + 8) 4 = (sqd s q).gsq % 2 ^ 16 * 2 ^ 16 ∧ readNat t (k + 12) 4 = (sqd s q).lid ∧
      ∀ j, ¬(k ≤ j ∧ j < k + 16) → readByte t j = readByte s j) ∧
    (∀ q k v h a, ∃ t, performSync (.prSet q k v h) rels a s = t ∧ readNat t k 8 = v.toNat ∧
      readNat t (k + 8) 4 = readNat s (k + 8) 4 / 2 * 2 + 1 ∧ ∀ j, ¬(k ≤ j ∧ j < k + 12) → readByte t j = readByte s j) ∧
    (∀ q k inc a, ∃ t, performSync (.sigAdd q k inc) rels a s = t ∧ readNat t k 8 = min (readNat s k 8 + inc.toNat) (2 ^ 64 - 1) ∧
      ∀ j, ¬(k ≤ j ∧ j < k + 8) → readByte t j = readByte s j)

/-- R41, R42, R48, R62, R376: a LAUNCH whose header can be fetched and breaks no condition makes a launch at stage 3 with the queue's
next number; one measured right passes to stage 4; a hold's end passes the partition's held launches; a launch at the head of its
FIFO whose clusters are open is bound. -/
def Obligations.LaunchesAdvance : Prop :=
  (∀ (q b : Nat) (s s' : State) (ps : List Piece), InHand (q, b) ruleLaunch s s' → argAt s' (q, b) 0 8 % 64 = 0 →
    ContextOk s' (q, b) 8 → ZeroField s' (q, b) 12 4 →
    rangeOf s' (hubView s' (argAt s' (q, b) 8 4)) false (argAt s' (q, b) 0 8) 512 = .ok ps →
    checkHeader s' (fnOfQueue s' q) (s'.contexts.getD (argAt s' (q, b) 8 4) default).part (hubView s' (argAt s' (q, b) 8 4))
      (argAt s' (q, b) 0 8) (readPieces s' ps) = none →
    ∃ t lid l, exec (.launch q b) s = .next t ∧ t.mem = s'.mem ∧ t.launches.get? lid = some l ∧ lid ≠ 0 ∧ l.stage = 3 ∧
      l.hdr = headerOf (readPieces s' ps) ∧ l.queue = q ∧ l.buf = b ∧ l.ctx = argAt s' (q, b) 8 4 ∧
      l.nth = (queueOf s' q).launches ∧ (queueOf t q).launches = (queueOf s' q).launches + 1 ∧ l.ended = false) ∧
  (∀ (lid : Nat) (s : State) (ps rs : List Piece) (l : Launch) (o : CodeObject), s.launches.get? lid = some l → l.stage = 3 →
    l.ended = false → l.hdr.receipt = false → codeObject s (hubView s l.ctx) l.hdr = some o →
    rangeOf s (hubView s l.ctx) false l.hdr.code.toNat o.digested = .ok ps →
    rangeOf s (hubView s l.ctx) false l.hdr.args.toNat l.hdr.argsize = .ok rs →
    (shake (readPieces s ps) = l.hdr.digest →
      exec (.launchMeasured lid) s = .next (advanceLaunches (modLaunch lid (fun l => { l with stage := 4 }) s))) ∧
    (shake (readPieces s ps) ≠ l.hdr.digest →
      exec (.launchMeasured lid) s = .next (advanceLaunches (refuseLaunch lid 0x06 0 0 s)))) ∧
  (∀ (lid : Nat) (s : State) (l : Launch), l = launchOf s lid → (∃ h ∈ s.holds, h.1 = lid) →
    ∃ t, exec (.holdExpire lid) s = .next (advanceLaunches t) ∧ t.mem = s.mem ∧ t.threads = s.threads ∧ t.squads = s.squads ∧
      (∀ h, h ∈ t.holds ↔ h ∈ s.holds ∧ (launchOf s h.1).part ≠ l.part) ∧
      ((∀ h ∈ s.holds, (launchOf s h.1).part = l.part → h.1 = lid) → l.stage = 5 → l.ended = false → mayQueue s l = true →
        (launchOf t lid).stage = 6 ∧ t.fifos.getD l.hdr.prio [] = s.fifos.getD l.hdr.prio [] ++ [lid])) ∧
  (∀ (lid k : Nat) (s : State), headLaunch s = some lid → (s.launches.get? lid).isSome →
    (partOf s (launchOf s lid).part).frozen = false → chooseClusters s (launchOf s lid) = some [k] →
    (∀ c ∈ clusterCores k, (cor s c).rows = []) → s.blocks = [] → s.gangs = [] →
    ∃ t, exec .launchBind s = .next t ∧ (launchOf t lid).stage = 7 ∧ (launchOf t lid).clusters = [k] ∧
      (launchOf t lid).blocks.length = 8 ∧ (launchOf t lid).gangs.length = 1 ∧
      (launchOf t lid).eligible = (launchOf s lid).hdr.rollback ∧
      (∀ c ∈ clusterCores k, ∃ b ∈ (launchOf t lid).blocks, (blk t b).core = c ∧ (blk t b).lid = lid ∧
        ∀ n < 16, barOf t b n = ⟨(launchOf s lid).hdr.bars.getD n 0, 0, 0, [], []⟩) ∧
      ∀ p, lid ∉ t.fifos.getD p [])

/-- R12, R13, R34, R35: a free row with no saved squad waiting takes the next squad of the block that waits first, in LOADING; when
that has been done the squad, for which no block of higher priority waits, is RESIDENT with its argument pointer in s0 and s1, every other register 0, and each thread at its
role's entry. -/
def Says.RowsLoad : Prop :=
  (∀ (c row b : Nat) (rest : List Nat) (s : State) (n : Nat) (r : Role) (as : List Nat) (s' : State), row < 16 →
    (cor s c).rows.get? row = none → (cor s c).mappedOut = false → savedSquads s c = [] → waitingBlocks s c = b :: rest →
    roleAt (blockHeader s b).roles 0 (nextIndex s b) = some (n, r) → fits s c b (needOfRole (blockHeader s b) r) = true →
    takeAreas (launchOf s (blk s b).lid).part (List.replicate r.threads 4096) s = some (as, s') →
    (coreAreas c (placeNew c row b (nextIndex s b) n r as s')).isSome →
    ∃ t q, exec (.rowLoad c row) s = .next t ∧ t.mem = s.mem ∧ (cor t c).rows.get? row = some q ∧ (sqd t q).state = .loading ∧
      (sqd t q).block = b ∧ (sqd t q).core = c ∧ (sqd t q).row = row ∧ (sqd t q).idx = nextIndex s b ∧ (sqd t q).role = n ∧
      (sqd t q).allot = r.allot ∧ (sqd t q).present = List.range r.threads ∧ (sqd t q).hvec = r.handler ∧
      (sqd t q).gsq = ordinalIn (launchOf s (blk s b).lid) c * 16 + nextIndex s b) ∧
  (∀ (q n : Nat) (r : Role) (s : State), (s.squads.get? q).isSome → (sqd s q).state = .loading →
    roleAt (launchOf s (sqd s q).lid).hdr.roles 0 (sqd s q).idx = some (n, r) → (∀ L ∈ (sqd s q).present, L < 32) →
    (sqd s q).present.Nodup → (∀ b ∈ waitingBlocks s (sqd s q).core, blockPrio s b ≤ prioOf s q) →
    ∃ t, exec (.rowLoadComplete q) s = .next t ∧ t.mem = s.mem ∧ (sqd t q).state = .resident ∧
      (∀ k < 64, (sqd t q).s.getD k 1 = if k = 0 then lowWord (launchOf s (sqd s q).lid).hdr.args
        else if k = 1 then highWord (launchOf s (sqd s q).lid).hdr.args else 0) ∧
      (∀ k < 8, (sqd t q).j.getD k true = false) ∧
      ∀ L ∈ (sqd s q).present, (thr t (threadKey q L)).pc = r.entry ∧ (thr t (threadKey q L)).live = true ∧
        (thr t (threadKey q L)).inWave = false ∧ (thr t (threadKey q L)).stk = (thr s (threadKey q L)).stk ∧
        (thr t (threadKey q L)).depth = 0 ∧ (thr t (threadKey q L)).age = 0 ∧
        (∀ k < 128, readV t false (threadKey q L) k = 0) ∧ ∀ k < 8, readK t false (threadKey q L) k = false)

/-- R34, R36, R51, R53, R55, R68: where the save region holds what the change needs, DRAINING to FREE and SAVING to EVICTED; RESTORING to RESIDENT, where no block of higher priority waits for the room or a rotation has chosen the squad, a rotation that needs no eviction, and the
swap of the scratchpad's foreground, which changes no byte. -/
def Says.RowsChange : Prop :=
  (∀ (q : Nat) (s : State), (s.squads.get? q).isSome → (sqd s q).state = .draining → commandsLeft s q = false →
    (sqd s q).conveyed = true → (freeRow q s).isSome →
    ∃ t, exec (.rowDrainComplete q) s = .next t ∧ t.mem = s.mem ∧ (sqd t q).state = .free ∧
      ∀ row, (cor t (sqd s q).core).rows.get? row ≠ some q) ∧
  (∀ (q : Nat) (s : State), (s.squads.get? q).isSome → (sqd s q).state = .saving → inWaves s q = [] → matrixDone s q = true →
    (saveOut q s).isSome →
    ∃ t, exec (.evictSaveComplete q) s = .next t ∧ t.mem = s.mem ∧ (sqd t q).state = .evicted ∧ (sqd t q).rotations = 0 ∧
      (sqd t q).s = (sqd s q).s ∧ (sqd t q).j = (sqd s q).j ∧ t.threads = s.threads ∧
      ∀ row, (cor t (sqd s q).core).rows.get? row ≠ some q) ∧
  (∀ (q : Nat) (s : State), (s.squads.get? q).isSome → (sqd s q).state = .restoring → liveOf s q ≠ [] → s.waits = [] →
    (sqd s q).entry = .none →
    ((sqd s q).returning = true ∨ ∀ b ∈ waitingBlocks s (sqd s q).core, blockPrio s b ≤ prioOf s q) →
    ∃ t, exec (.restoreComplete q) s = .next t ∧ t.mem = s.mem ∧ (sqd t q).state = .resident ∧ (sqd t q).planes = none ∧
      (sqd t q).s = (sqd s q).s ∧ (sqd t q).j = (sqd s q).j ∧ t.threads = s.threads ∧
      ∀ p, (sqd s q).planes = some p → (cor t (sqd s q).core).active = p.1 ∧ (cor t (sqd s q).core).shadow = p.2) ∧
  (∀ (c q : Nat) (rest : List Nat) (s : State), 1024 ≤ (cor s c).sinceRotation → savedSquads s c = q :: rest → q ∉ rest →
    (s.squads.get? q).isSome → (cor s c).rows = [] → (cor s c).ctx = [] →
    (shortfall s c (sqd s q).block [needOf s q] []).none = true →
    ∃ t, exec (.rotation c) s = .next t ∧ t.mem = s.mem ∧ (cor t c).sinceRotation = 0 ∧ (sqd t q).returning = true ∧
      ∀ r ∈ rest, (s.squads.get? r).isSome → rest.Nodup → (sqd t r).rotations = (sqd s r).rotations + 1) ∧
  (∀ (c : Nat) (s : State), ∃ t, exec (.foregroundSwap c) s = .next t ∧
    t = { s with cores := t.cores } ∧ cor t c = { cor s c with foreground := foregroundOf s c } ∧ ∀ k, k ≠ c → cor t k = cor s k)

/-- R16, R22 to R26, R318: a pick puts the threads it chooses in the free slot, at their common address, each with age 0 and its entry
state kept; the other ready threads grow older by one. A resumed group takes the slot in slow gear, which is
no pick (log 22). -/
def Says.Picks : Prop :=
  ∀ (c k : Nat) (s : State), k < 4 → (cor s c).slots.get? k = none → picksStopped s c = false →
    (∀ ts, ts = chooseWave s (considered s c (candidates s c)) → ts ≠ [] → (∀ u ∈ ts, (s.threads.get? u).isSome) → ts.Nodup →
      ∃ t w, exec (.pick c k none) s = .next t ∧ t.mem = s.mem ∧ SameRegisters s t ∧ (cor t c).slots.get? k = some w ∧
        w.threads = ts ∧ ((∀ u ∈ ts, (thr s u).direct = false) → w.slow = none) ∧ w.pc = w.start ∧ w.faults = [] ∧ w.writes = [] ∧
        (cor t c).picks = (cor s c).picks + 1 ∧
        (∀ u ∈ ts, (thr t u).inWave = true ∧ (thr t u).age = 0 ∧ (thr t u).entryV = (thr s u).v ∧ (thr t u).entryK = (thr s u).k ∧
          (thr t u).pc = (thr s u).pc) ∧
        ∀ u ∈ boundThreads s c, u ∉ ts → (s.threads.get? u).isSome → (boundThreads s c).Nodup → (thr t u).yielded = false ∧
          (thr t u).age = if u ∈ candidates s c then (thr s u).age + 1 else (thr s u).age) ∧
    (∀ u ts, u ∈ coreThreads s c → resumable s u = true → ts = byLane (runGroup s u) → ts ≠ [] →
      ∃ t w, exec (.pick c k (some u)) s = .next t ∧ t.mem = s.mem ∧ SameRegisters s t ∧ (cor t c).slots.get? k = some w ∧
        w.threads = ts ∧ (cor t c).picks = (cor s c).picks ∧ (cor t c).without = (cor s c).without ∧
        ∃ g, w.slow = some g ∧ g.todo = ts ∧ g.stopped = [])

/-- Rows load, drain, save and restore squads; a pick forms a wave (O35). -/
def Obligations.RowsAndPicks : Prop := Says.RowsLoad ∧ Says.RowsChange ∧ Says.Picks

/-- R263, R264, R356: an event goes to its class's owner alone; the host's stand as records of its function, at most 256 (one raised
beyond them is dropped: the model's choice, log 104), and the oldest is written to the oldest writable buffer of the management queue,
numbered, and posted with length 32. -/
def Says.Events : Prop :=
  (∀ (e : Event) (s : State), ownerOf s e.cls ≠ ownerHost → raiseEvent e s = { s with events := s.events ++ [e] }) ∧
  (∀ (e : Event) (s : State) (f : Nat), ownerOf s e.cls = ownerHost → f = fnOfPart e.part →
    (256 ≤ (fnOf s f).records.length → raiseEvent e s = s) ∧
    ((fnOf s f).records.length < 256 → (mgmtQueue s f).bind (recordBuffer s) = none →
      ∃ t, raiseEvent e s = t ∧ (fnOf t f).records = (fnOf s f).records ++ [e] ∧ t.events = s.events ∧ t.mem = s.mem) ∧
    (∀ q buf d ds, (fnOf s f).records = [] → mgmtQueue s f = some q → recordBuffer s q = some (buf, d :: ds) → 32 ≤ d.2.1 →
      (queueOf s q).lost = false → s.Canonical → ∃ t, raiseEvent e s = t ∧ (fnOf t f).records = [] ∧ (fnOf t f).seqNo = (fnOf s f).seqNo + 1 ∧
        (buf, 32) ∈ (queueOf t q).used ∧ (∀ c ∈ (queueOf t q).fetched, c.1 ≠ buf) ∧
        readBytes t (hostKey d.1.toNat) 32 = statusRecord e ((fnOf s f).seqNo + 1))) ∧
  (∀ (s : State) (q buf : Nat) (ds : Descriptors), (queueOf s q).fetched = [] → queueUp s q = true →
    (queueOf s q).avail.head? = some (buf, ds) → ds ≠ [] → (∀ d ∈ ds, descWritable d = true) → chainFault s q (buf, ds) = none →
    recordBuffer s q = some (buf, ds)) ∧
  (∀ cls s, s.routes = [] → ownerOf s cls = if cls = 2 ∨ cls = 3 then 0 else if cls = 9 then 2 else 1)

/-- The command is not under way: it is no claim of a class, no revocation that waits, and no COPY that moves. -/
def NotUnderWay (s : State) (c : CmdId) : Prop :=
  (∀ x ∈ s.claimants, ¬(x.queue = c.1 ∧ x.buf = c.2)) ∧ (∀ r ∈ s.revokes, ¬(r.queue = c.1 ∧ r.buf = c.2)) ∧ copyOf s c = none

/-- R246, R247, R347, Table 21.1: a command in hand that its rule refuses completes with the status of the first condition it fails: 0x01
malformed, 0x02 not permitted, 0x03 feature not negotiated (that they are tested in this order is the model's choice, log 106); a chain
with a buffer that cannot be reached completes with 0x04 and its address, and one with no room for a record returns with length 0. -/
def Says.RefusedCommands : Prop :=
  (∀ (i : Instr) (c : CmdId) (r : CmdRule) (s s' : State) (code detail : Nat), commandRule i = some (c, r) →
    NotUnderWay s c → s' = takeChain c s → cmdReady s' c r = true → refusal s' c r = some (code, detail) →
    ∃ t, exec i s = .next t ∧ Completed s' c code detail 0 t ∧ OnlyStatus s' c t) ∧
  (∀ (s : State) (c : CmdId) (r : CmdRule) (b : List Byte), b = readablePart s c →
    (b.length < 16 + r.length → ∃ d, refusal s c r = some (0x01, d)) ∧
    (16 + r.length ≤ b.length → 2 ≤ fieldAt b 2 2 → refusal s c r = some (0x01, 2)) ∧
    (16 + r.length ≤ b.length → fieldAt b 2 2 < 2 → fieldAt b 4 4 ≠ r.length → refusal s c r = some (0x01, 4)) ∧
    (16 + r.length ≤ b.length → fieldAt b 2 2 < 2 → fieldAt b 4 4 = r.length →
      ((some c.1 = mgmtQueue s (fnOfQueue s c.1) ↔ r.mgmt = false) → refusal s c r = some (0x02, 0)) ∧
      (r.fn0 = true → fnOfQueue s c.1 ≠ 0 → refusal s c r = some (0x02, 0)) ∧
      ((some c.1 = mgmtQueue s (fnOfQueue s c.1) ↔ r.mgmt = true) → (r.fn0 = true → fnOfQueue s c.1 = 0) →
        refusal s c r = match r.feature with
          | none => none
          | some n => if hasFeature s (fnOfQueue s c.1) n then none else some (0x03, n)))) ∧
  (∀ (i : Instr) (c : CmdId) (r : CmdRule) (s s' : State), commandRule i = some (c, r) →
    NotUnderWay s c → s' = takeChain c s → mayStart s' c = true →
    isOpcode (fieldAt (readablePart s' c) 0 2) = false →
    ∃ t, exec i s = .next t ∧ Completed s' c 0x01 0 0 t ∧ OnlyStatus s' c t) ∧
  (∀ (s : State) (q buf a : Nat) (ds : Descriptors) (more : List (Nat × Descriptors)), (queueOf s q).avail = (buf, ds) :: more →
    queueUp s q = true → badChain ds = false → unreachedOf s q buf = some a → (∀ x ∈ (queueOf s q).fetched, x.1 ≠ buf) →
    16 ≤ writableLen (inReach s q (buf, ds)) → Completed (fetchHead q s) (q, buf) 0x04 0 a (takeChain (q, buf) s)) ∧
  (∀ (s : State) (q buf code value : Nat), writableLen (inReach s q (buf, chainOf s (q, buf))) < 16 → (queueOf s q).lost = false →
    ∃ t, rejectChain q buf code value s = t ∧ t.mem = s.mem ∧ (buf, 0) ∈ (queueOf t q).used)

/-- Events reach their owner; a refused command completes with its first condition (O36). -/
def Obligations.EventsAndRefusedCommands : Prop := Says.Events ∧ Says.RefusedCommands

/-- R309, R310, R313, R315: a run fault restores every thread's entry state and begins the re-run in slow gear at the run's start; the
re-run executes a word for the first thread that has one to do; and when no thread is left, the slot is free and a squad in which no
thread stopped has had its faults vanish. -/
def Says.SlowGear : Prop :=
  (∀ (c k : Nat) (w : Wave) (s : State), (cor s c).slots.get? k = some w → w.slow = none → w.faults ≠ [] → attemptOver s w = true →
    pendingFaults s w = [] → w.threads ≠ [] → (∀ u ∈ w.threads, (s.threads.get? u).isSome) →
    ∃ t v g, exec (.runFault c k) s = .next t ∧ t.mem = s.mem ∧ (cor t c).slots.get? k = some v ∧ v.pc = w.start ∧ v.faults = [] ∧
      v.writes = [] ∧ v.slow = some g ∧ g.pc = w.start ∧ g.todo = byLane w.threads ∧
      (∀ u ∈ w.threads, (thr t u).v = (thr s u).entryV ∧ (thr t u).k = (thr s u).entryK ∧
        (thr t u).shV = (thr s u).entryShV ∧ (thr t u).shK = (thr s u).entryShK) ∧
      ∀ u, u ∉ w.threads → (thr t u).v = (thr s u).v ∧ (thr t u).k = (thr s u).k) ∧
  (∀ (c k u : Nat) (rest : List Nat) (w : Wave) (g : Slow) (x : Word) (s : State), (cor s c).slots.get? k = some w →
    w.slow = some g → w.ending = [] → g.atEnd = [] → g.todo = u :: rest → g.one = none → loadsOut s [u] = false →
    fetchAt s u g.pc = .word x → x.getLsbD 31 = false →
    available (setCursor c k [u] g.pc x true s) (usesOf (instrOf x)) u = true →
    ∃ t, exec (.slowGearWord c k) s = .next t ∧
      execWord (instrOf x) (countIssue (readTokens (usesOf (instrOf x)) (setCursor c k [u] g.pc x true s))) = .next t) ∧
  (∀ (c k q : Nat) (w : Wave) (g : Slow) (s : State), (cor s c).slots.get? k = some w → w.slow = some g → w.ending = [] →
    g.atEnd = [] → g.todo = [] → g.one = none → g.stopped = [] → (∀ u ∈ g.first, squadOf u = q) → g.first ≠ [] →
    (s.squads.get? q).isSome → (sqd s q).killed = false → (launchOf s (sqd s q).lid).hdr.vanrep = false →
    ∃ t, exec (.slowGearWord c k) s = .next t ∧ (cor t c).slots.get? k = none ∧ (sqd t q).vanish = (sqd s q).vanish + 1 ∧
      t.mem = s.mem ∧ t.threads = s.threads)

/-- R300, R301, R315, Table 19.1: a pending entry of a squad with no live thread in a wave is taken: the squad's registers report it,
and every live thread stands at the handler with its address in sr.hpc, marked where it waited. -/
def Says.HandlerEntry : Prop :=
  ∀ (q : Nat) (r : Report) (s : State), (s.squads.get? q).isSome → (sqd s q).entry = .pending r → inWaves s q = [] →
    (sqd s q).present.Nodup → (∀ L ∈ (sqd s q).present, L < 32) →
    ∃ t, exec (.handlerEntry q) s = .next t ∧ t = { s with squads := t.squads, threads := t.threads } ∧ SameRegisters s t ∧
      (sqd t q).entry = .inProgress ∧ (sqd t q).cause = r.cause ∧ (sqd t q).fmask = r.fmask ∧ (sqd t q).amask = r.amask ∧
      (sqd t q).faddr = r.faddr ∧ (sqd t q).xword = (if r.hasWord then r.word else 0) ∧
      (sqd t q).s = (sqd s q).s ∧ (sqd t q).j = (sqd s q).j ∧
      (∀ u ∈ liveOf s q, (thr t u).hpc = (thr s u).pc ∧ (thr t u).pc = (sqd s q).hvec ∧ (thr t u).inHandler = true ∧
        (thr t u).mark = (thr s u).wait.isSome ∧ (thr t u).susp = (thr s u).wait ∧ (thr t u).wait = none ∧
        (thr t u).age = (thr s u).age) ∧
      ∀ u, u ∉ liveOf s q → thr t u = thr s u

/-- A faulted run is restored and repeated in slow gear; a pending entry enters the handler (O37). -/
def Obligations.RerunsAndHandlerEntry : Prop := Says.SlowGear ∧ Says.HandlerEntry

/-- The word or the cell of a holding stands at a device key that is not in a revoked window; an object has none. -/
def HoldingStands (s : State) (q : Nat) (h : Holding) (k : Nat) : Prop :=
  if h.kind = .object then k = h.key
  else ∃ p, holdingTrans s q h = .ok [p] ∧ p.addr = k ∧ winDead s p.win = false

/-- Memory after a holding has passed to a squad of launch `lid` with global number `g`: a lock word names the new holder with BEREAVED set,
a cell has BEREAVED set and its new holder's number, an object's bytes are as before, and so is every other byte. -/
def NamesHolder (s : State) (h : Holding) (k lid g : Nat) (t : State) : Prop :=
  match h.kind with
  | .object => t.mem = s.mem
  | .lock => readNat t k 8 = lid * 2 ^ 32 + g % 2 ^ 16 * 2 ^ 16 + 3 ∧ ∀ a, ¬(k ≤ a ∧ a < k + 8) → readByte t a = readByte s a
  | .promise => readNat t (k + 8) 4 = readNat s (k + 8) 4 % 2 + 2 + g % 2 ^ 16 * 2 ^ 16 ∧
      ∀ a, ¬(k + 8 ≤ a ∧ a < k + 12) → readByte t a = readByte s a

/-- R216, R217, R320, R358, R377: a squad that has ended is conveyed. A holding passes to an heir that accepts, marked bereaved, with a notice at
the end of the heir's inbox, whether the heir is loaded or not; a holding that is left to the launch is disposed of: a lock word is freed with
BEREAVED set. An escalated launch whose squads have stopped is killed, or where it is rollback-eligible it is to end restored, with the
cause and the squad in its status detail. That a conveyance finds a holding by its address as it is translated then is log 102. -/
def Says.ConveyanceAndEscalation : Prop :=
  (∀ (q : Nat) (s : State), (s.squads.get? q).isSome → mayConvey s q = true → (sqd s q).estate = [] →
    ∃ t, exec (.convey q) s = .next t ∧ t.mem = s.mem ∧ (sqd t q).conveyed = true ∧ (sqd t q).estate = [] ∧ (sqd t q).q7 = []) ∧
  (∀ (q : Nat) (s : State) (h : Holding), s.Canonical → (s.squads.get? q).isSome → mayConvey s q = true → (sqd s q).estate = [h] → h.kind = .lock →
    (sqd s q).heir = 0xFFFFFFFE → s.waits = [] → (∀ c, (cor s c).pending = []) → (∀ e ∈ s.launches, e.2.eligible = false) →
    ∀ k, HoldingStands s q h k →
    ∃ t, exec (.convey q) s = .next t ∧ (sqd t q).conveyed = true ∧ (sqd t q).estate = [] ∧ readNat t k 8 = 2 ∧
      ∀ a, ¬(k ≤ a ∧ a < k + 8) → readByte t a = readByte s a) ∧
  (∀ (q k : Nat) (s : State) (h : Holding), s.Canonical → (s.squads.get? q).isSome → mayConvey s q = true → (sqd s q).estate = [h] →
    (sqd s q).heir < 0xFFFFFFFE → accepts s (sqd s q).lid (sqd s q).heir = true → (sqd s q).lid < 2 ^ 32 → HoldingStands s q h k →
    s.waits = [] → (∀ c, (cor s c).pending = []) → (∀ e ∈ s.launches, e.2.eligible = false) →
    (∀ r, squadNamed s (sqd s q).lid (sqd s q).heir = some r → r ≠ q → (sqd s r).gsq = (sqd s q).heir →
      ∃ t n m, exec (.convey q) s = .next t ∧ (sqd t q).conveyed = true ∧ (sqd t q).estate = [] ∧
        (sqd t r).estate = (sqd s r).estate ++ [{ h with key := k, order := n, bereaved := true }] ∧
        (sqd t r).q7 = (sqd s r).q7 ++ [m] ∧ m.val = noticeOf h ∧ NamesHolder s h k (sqd s q).lid (sqd s q).heir t) ∧
    (∀ b i, squadNamed s (sqd s q).lid (sqd s q).heir = none → unloadedNamed s (sqd s q).lid (sqd s q).heir = some (b, i) →
      ∃ t n m, exec (.convey q) s = .next t ∧ (sqd t q).conveyed = true ∧ (sqd t q).estate = [] ∧
        (legacyOf t b i).estate = (legacyOf s b i).estate ++ [{ h with key := k, order := n, bereaved := true }] ∧
        (legacyOf t b i).q7 = (legacyOf s b i).q7 ++ [m] ∧ m.val = noticeOf h ∧
        NamesHolder s h k (sqd s q).lid (sqd s q).heir t)) ∧
  (∀ (lid g cause why fm fa : Nat) (s : State) (l : Launch), s.launches.get? lid = some l →
    l.escalation = some (g, cause, why, fm, fa) → l.ended = false → l.proceeded = false → l.whole = false → l.roll = none → l.dump = none →
    launchStopped s lid = true →
    (l.eligible = false → ∃ t, exec (.escalationKill lid) s = .next t ∧ (launchOf t lid).killed = true ∧ (launchOf t lid).whole = true ∧
      (launchOf t lid).killCode = 0x08 ∧ (launchOf t lid).killDetail = cause + g % 2 ^ 16 * 2 ^ 16 ∧
      (launchOf t lid).proceeded = true) ∧
    (l.eligible = true → ∃ t, exec (.escalationKill lid) s = .next t ∧ (launchOf t lid).proceeded = true ∧
      (launchOf t lid).roll = some ⟨.escalated (cause + g % 2 ^ 16 * 2 ^ 16), cause, 0, fa, none⟩))

/-- R319: a killed squad: its threads take no further step, its runs are discarded, and its row drains. -/
def Says.Kills : Prop :=
  ∀ (q : Nat) (s : State), (s.squads.get? q).isSome → (sqd s q).ended = false → (sqd s q).state = .resident → (sqd s q).tile = [] →
    s.waits = [] → (∀ e ∈ s.cmds, e.2.squad ≠ q) → (∀ u ∈ threadsOf s q, (thr s u).inWave = false ∧ (thr s u).wait = none ∧
      (thr s u).susp = none ∧ (thr s u).frozen = none) →
    (killSquad q s).mem = s.mem ∧ (sqd (killSquad q s) q).ended = true ∧ (sqd (killSquad q s) q).killed = true ∧
    (sqd (killSquad q s) q).state = .draining ∧ (sqd (killSquad q s) q).estate = (sqd s q).estate ∧
    (∀ u ∈ threadsOf s q, (thr (killSquad q s) u).live = false ∧ (thr (killSquad q s) u).v = (thr s u).v ∧
      (thr (killSquad q s) u).k = (thr s u).k) ∧
    ∀ u, u ∉ threadsOf s q → thr (killSquad q s) u = thr s u

/-- An ended squad is conveyed; an escalation and a kill end launches and squads (O38). -/
def Obligations.EstatesPassAndSquadsAreKilled : Prop := Says.ConveyanceAndEscalation ∧ Says.Kills

/-- R60, R328, R329, R330: a launch whose gangs have ended and for which nothing is left to be performed commits and ends; a piece it
is about to write is copied before; and its rollback first stops its squads. -/
def Obligations.LaunchesCommitAndRollBack : Prop :=
  (∀ (lid : Nat) (s : State) (l : Launch), s.launches.get? lid = some l → l.ended = false → gangsEnded s lid = true →
    launchQuiet s lid = true → allConveyed s lid = true → l.roll = none →
    (l.eligible = true → l.replays = 0 → ∃ t, exec (.launchCommit lid) s = .next t ∧ t = { s with launches := t.launches } ∧
      launchOf t lid = { l with eligible := false, snapshots := [] }) ∧
    (l.eligible = false → l.killed = false → l.sealed = false → l.hdr.receipt = false → l.heldPublish = [] →
      ∃ t, exec (.launchEnd lid) s = .next t ∧ t = { s with launches := t.launches, pubs := t.pubs } ∧
        launchOf t lid = { l with sealed := true } ∧
        ∀ w x, s.pubs.get? w = some x → ∃ y, t.pubs.get? w = some y ∧ y.pending.length = x.pending.length ∧
          ∀ p ∈ y.pending, p.lid = lid → p.held = false) ∧
    (l.killed = false → l.sealed = true → publishing s lid = false → (∀ p ∈ l.hdr.posts, p.1 = 0) → l.badAddr = none →
      l.abandoned = false → holdsChain s (l.queue, l.buf) = true →
      ∃ t, exec (.launchEnd lid) s = .next t ∧ (launchOf t lid).ended = true ∧ (launchOf t lid).stage = 9 ∧
        (launchOf t lid).completed = l.hdr.tiles ∧
        ∃ k ∈ t.completions, k.queue = l.queue ∧ k.buf = l.buf ∧ k.status = 0 ∧ k.detail = l.counter ∧ k.value = lid)) ∧
  (∀ (lid p : Nat) (s : State) (l : Launch), s.launches.get? lid = some l → l.eligible = true → wantsPiece s lid p = true →
    hasSnapshot l p = false → garretRoom s = true →
    ∃ t, exec (.snapshotCopy lid p) s = .next t ∧ t = { s with launches := t.launches } ∧
      (launchOf t lid).snapshots = l.snapshots ++
        [⟨p, s.mem.filter (fun c => c.1 / 65536 == p), s.poison.filter (fun g => g / 65536 == p), (freeSlot s).getD 0⟩]) ∧
  (∀ (lid r : Nat) (k : Roll) (s : State) (l : Launch), s.launches.get? lid = some l → l.roll = some k → l.ended = false →
    l.rolling = false → squadsOf s lid = [] → (∀ e ∈ s.cmds, e.2.lid ≠ lid) →
    ∃ t, exec (.rollbackKill lid r) s = .next t ∧ t = { s with launches := t.launches } ∧
      launchOf t lid = { l with rolling := true }) ∧
  (∀ (lid r res : Nat) (k : Roll) (s : State) (l : Launch), s.launches.get? lid = some l →
    l.roll = some k → k.kind = .killed → l.ended = false → l.rolling = true → l.eligible = true → killResource k res = r →
    resCode r ≠ 6 → r ∉ l.resources → l.replays < 2 →
    (∀ e ∈ s.agents, lidOfAgent s e.1 = some lid → ∀ x ∈ e.2.all, isMarker x.kind = true) →
    (∀ c ∈ s.cores, ∀ p ∈ c.2.pending, lidOfAgent s p.sid.1 ≠ some lid) →
    ∃ t, exec (.rollbackKill lid res) s = .next t ∧ (launchOf t lid).stage = 6 ∧ (launchOf t lid).replays = l.replays + 1 ∧
      (launchOf t lid).roll = none ∧ (launchOf t lid).rolling = false ∧ (launchOf t lid).resources = l.resources ++ [r] ∧
      (launchOf t lid).blocks = [] ∧ (t.fifos.getD l.hdr.prio []).head? = some lid)

/-- R82, R367, R374: a walk that finds a leaf which maps a page installs it in the core's L1 and its cluster's L2; one that ends at an entry
which maps nothing leaves none; and an entry may be dropped. None of them changes a byte or a register. -/
def Says.TlbEntries : Prop :=
  (∀ (c ctx va e size : Nat) (s : State), canonical va = true → inWindows va = false → walk s ctx va = some (e, size) →
    (leafOf e size = none → exec (.pageWalkComplete c ctx va) s = .next s) ∧
    ((leafOf e size).isSome → ∃ t, exec (.pageWalkComplete c ctx va) s = .next t ∧ t = { s with cores := t.cores, l2tlb := t.l2tlb, fresh := t.fresh } ∧
      (⟨ctx, va / 2 ^ size * 2 ^ size, size, BitVec.ofNat 64 e, none⟩ : TlbEntry) ∈ (cor t c).tlb ∧
      (⟨ctx, va / 2 ^ size * 2 ^ size, size, BitVec.ofNat 64 e, none⟩ : TlbEntry) ∈ t.l2tlb.getD (clusterOf c) [] ∧
      ((cor s c).tlb.length ≤ 64 → (cor t c).tlb.length ≤ 64))) ∧
  (∀ (c ctx va : Nat) (s : State), walk s ctx va = none → exec (.pageWalkComplete c ctx va) s = .next s) ∧
  (∀ (c n : Nat) (s : State), (∃ t, exec (.tlbEntryDrop c n false) s = .next t ∧ t = { s with cores := t.cores } ∧
      cor t c = { cor s c with tlb := (cor s c).tlb.eraseIdx n }) ∧
    ∃ t, exec (.tlbEntryDrop c n true) s = .next t ∧ t = { s with l2tlb := t.l2tlb } ∧
      t.l2tlb.getD (clusterOf c) [] = (s.l2tlb.getD (clusterOf c) []).eraseIdx n)

/-- R83, R84, R303: a translation completion answers its request and installs the host's page for an access it permits; a page
response makes the threads that wait ready, or sends their next attempt to slow gear; a failure ends every request and stops PRI
until it is enabled again; an invalidation leaves no entry it covers and completes when no access uses the old translation. -/
def Says.HostTranslation : Prop :=
  (∀ (fn n hpa size : Nat) (r w x : Bool) (s : State) (q : AtsReq) (a : Asking), s.ats[n]? = some q → fnOfCtx s q.ctx = fn →
    q.overtaken = false → 12 ≤ size → size ≤ 48 → hpa % 2 ^ size = 0 → q.askers = [a] → ((!a.write || w) && (!a.read || r)) = true →
    ∃ t, exec (.atsTranslationCompletion fn n hpa size r w x) s = .next t ∧ t.ats = s.ats.eraseIdx n ∧ t.mem = s.mem ∧
      (⟨q.ctx, q.page / 2 ^ size * 2 ^ size, size, 0, some (hpa, r, w, x)⟩ : TlbEntry) ∈ (cor t a.core).tlb) ∧
  (∀ (fn n u : Nat) (s : State) (r : PageReq), (fnOf s fn).priOut[n]? = some r → (∃ a ∈ r.askers, a.who = .thread u) →
    (s.threads.get? u).isSome →
    (∃ t, exec (.priResponseSuccess fn n) s = .next t ∧ (thr t u).pri = false ∧ t.mem = s.mem ∧ SameRegisters s t ∧
      ⟨r.ctx, r.page, r.askers, some 0x05, false⟩ ∈ t.ats) ∧
    ((thr s u).pri = true → ∃ t, exec (.priResponseInvalid fn n) s = .next t ∧ (thr t u).pri = false ∧ (thr t u).direct = true ∧
      SameRegisters s t) ∧
    ((thr s u).pri = true → ∃ t, exec (.priResponseFailure fn n) s = .next t ∧ (thr t u).pri = false ∧ (thr t u).direct = true ∧
      (fnOf t fn).priOut = [] ∧ (fnOf t fn).priWaiting = [] ∧ (fnOf t fn).stopPri = true ∧ SameRegisters s t)) ∧
  (∀ (fn : Nat) (s : State), (fnOf s fn).stopPri = true → ∃ t, exec (.priReenable fn) s = .next t ∧ (fnOf t fn).stopPri = false ∧
    (fnOf t fn).pri = true ∧ t.threads = s.threads) ∧
  (∀ (ctx va n : Nat) (s : State), ∃ t, exec (.atsInvalidateRequest ctx va n) s = .next t ∧ t.mem = s.mem ∧ t.threads = s.threads ∧
    (∀ c, ∀ e ∈ (cor t c).tlb, ¬(e.ctx = ctx ∧ overlaps e.va (2 ^ e.size) va n = true ∧ e.host.isSome = true)) ∧
    (∀ r ∈ t.ats, r.ctx = ctx → overlaps r.page 4096 va n = true → r.overtaken = true) ∧
    t.invals = s.invals ++ [⟨ctx, va, n, true, loadsIn s ctx va n, storesIn s ctx va n, commandsIn s ctx va n, none⟩]) ∧
  (∀ (k : Nat) (s : State) (i : Inval), s.invals[k]? = some i → invalDone s i = true → i.cmd = none →
    exec (.invalidationComplete k) s = .next { s with invals := s.invals.eraseIdx k }) ∧
  (∀ (k : Nat) (s : State) (i : Inval) (c : CmdId), s.invals[k]? = some i → invalDone s i = true → i.cmd = some c →
    holdsChain s c = true → ∃ t, exec (.invalidationComplete k) s = .next t ∧ Completed s c 0 0 0 t ∧ OnlyStatus s c t ∧
      t.invals = s.invals.eraseIdx k)

/-- Walks, ATS completions, page responses and invalidations (O40). -/
def Obligations.TranslationsAndTheirInvalidation : Prop := Says.TlbEntries ∧ Says.HostTranslation

/-- An unread part of what a command reads: every run of its bytes can be read now. -/
def Readable (s : State) (k : Cmd) (x : Chunk) : Prop :=
  0 < x.len ∧ ∃ a, x.src = some a ∧ ∀ o m, o + m ≤ x.len → ∃ ps, touch s k false (a + o) m = .ok ps ∧ mustWait s ps = false ∧
    poisoned (cmdBytes s k ps) = false ∧ ∀ p ∈ ps, Quiet s p.win

/-- The chunk at a place, of which the `m` bytes from byte `o` on are now the chunks `y`. -/
def cutAt (l : List Chunk) (j o m : Nat) (x : Chunk) (y : List Chunk) : List Chunk :=
  l.take j ++ someBytes ([x.part 0 o] ++ y ++ [x.part (o + m) (x.len - o - m)]) ++ l.drop (j + 1)

/-- Some bytes of one unread part of a command have been read, as the ordering machine gives them; the rest stands as before. -/
def ReadsPart (c : Nat) (k : Cmd) (s t : State) : Prop :=
  ∃ j x a o m ps pg, k.parts[j]? = some x ∧ x.bs = none ∧ x.src = some a ∧ 0 < m ∧ o + m ≤ x.len ∧
    touch s k false (a + o) m = .ok ps ∧ t.cmds.get? c = some { k with
      pages := pg, revoked := k.revoked || anyDead s ps
      parts := cutAt k.parts j o m x [{ x.part o m with bs := some (bytesOf (cmdBytes s k ps)) }] }

/-- R96, R113, R192 to R195, R199: the matrix engine's command at the head, open at its guard: MXLDS reads its record, then its scale tile and
its plane, some bytes at a step in any order (log 32), and fills the shadow plane from them; MXSWAP exchanges the planes; MXZERO sets a tile
to +0.0 and no other element. -/
def Says.MatrixCommands : Prop :=
  ∀ (core c : Nat) (k : Cmd) (s : State), headCmd s core = some c → s.cmds.get? c = some k → gate s k = .run → s.waits = [] →
    (∀ (f : WFmt) (record : List Byte), k.kind = .mxlds f → k.ready = true → record = gathered k.parts 0 16 →
      ∃ t, exec (.mxldsCommandRun core) s = .next t ∧
        (k.parts = [] → t.mem = s.mem ∧ t.cmds.get? c = some { k with parts := partsOf [(desc64 k.desc 2, 0, 16)] }) ∧
        ((∃ x ∈ k.parts, x.bs = none) → (∀ x ∈ k.parts, x.bs = none → Readable s k x) → t.mem = s.mem ∧ ReadsPart c k s t) ∧
        (k.parts ≠ [] → (∀ x ∈ k.parts, x.bs.isSome ∧ x.dst < 16) → recordCause f (fieldAt record 0 8) (fieldAt record 12 4) = none →
          t.mem = s.mem ∧ t.cmds.get? c = some { k with
            parts := k.parts ++ partsOf [(fieldAt record 0 8, 16, scaleSize f), (desc64 k.desc 0, 256, planeSize f)] }) ∧
        ((∃ x ∈ k.parts, 16 ≤ x.dst) → (∀ x ∈ k.parts, x.bs.isSome) → t.mem = s.mem ∧ (cor t core).active = (cor s core).active ∧
          (cor t core).shadow = some ⟨f, gathered k.parts 256 (planeSize f), gathered k.parts 16 (scaleSize f),
            BitVec.ofNat 32 (fieldAt record 8 4), fieldAt record 12 4 % 4, some (k.lid, k.squad), false⟩)) ∧
    (k.kind = .mxswap → ∃ t, exec (.mxswapCommandRun core) s = .next t ∧ t.mem = s.mem ∧
      (cor t core).active = (cor s core).shadow ∧ (cor t core).shadow = (cor s core).active) ∧
    (∀ n, k.kind = .mxzero n → (s.squads.get? k.squad).isSome → ∃ t, exec (.mxzeroCommandRun core) s = .next t ∧ t.mem = s.mem ∧
      ∀ i, (sqd t k.squad).acc.getD i 0 = if i / 2048 = n then 0 else (sqd s k.squad).acc.getD i 0)

/-- R108 to R113, R196: a row of a stream, from scratch or from q8, is one pass into the squad's accumulators; words taken leave q8; the
element of each column becomes its old value, or 0, plus the row's contribution, rounded once. -/
def Says.MatrixPass : Prop :=
  (∀ (core c b lane e seq tile : Nat) (ref : Word) (rows : List (Nat × Word × Nat × Nat)) (q8 zf : Bool) (k : Cmd) (p : Plane)
      (left : Option Nat) (d : Bool) (r : List Claim) (key key' : Nat) (bs : List ReadByte) (row : List Byte) (s : State),
    headCmd s core = some c → s.cmds.get? c = some k → gate s k = .run → k.kind = .mxstr tile rows q8 zf → k.block = b →
    (s.blocks.get? b).isSome → (s.squads.get? k.squad).isSome → (sqd s k.squad).state = .resident → p = usedPlane s core k.lid →
    streamCause s k p tile = none → rows[k.fed]? = some (lane, ref, e, seq) → s.waits = [] → k.ord.rel = false →
    (zf = true ∨ ∀ i ∈ rowKeys p tile lane, i ∉ (sqd s k.squad).poisonAcc) →
    (q8 = true → (blk s b).claims = ⟨c, left, d⟩ :: r ∧ rowSize p / 4 ≤ (wordsIn s b 8).length ∧
      row = ((wordsIn s b 8).take (rowSize p / 4)).flatMap fun w => natLe 4 w.toNat) →
    (q8 = false → ref.toNat % rowSize p = 0 ∧ scratchKey s b ref 0 = some key ∧ scratchKey s b ref (rowSize p - 1) = some key' ∧
      pieceReady s (thr s (threadKey k.squad lane)).agent { (default : Load) with seq := seq, pieces := [⟨key, rowSize p, .rc, none⟩] }
        ⟨key, rowSize p, .rc, none⟩ = true ∧
      bs = loadPiece s (thr s (threadKey k.squad lane)).agent seq ⟨key, rowSize p, .rc, none⟩ ∧ (∀ x ∈ bs, x.poison = false) ∧
      row = bs.map fun x => x.val) →
    ∃ t, exec (.streamRowFeed core none) s = .next t ∧ t.mem = s.mem ∧
      (q8 = true → wordsIn t b 8 = (wordsIn s b 8).drop (rowSize p / 4)) ∧
      (sqd t k.squad).acc = (applyRow p tile lane e zf row (sqd s k.squad)).acc ∧
      if k.fed + 1 < rows.length then t.cmds.get? c = some { k with fed := k.fed + 1 } else t.cmds.get? c = none) ∧
  (∀ (p : Plane) (tile lane e n : Nat) (zf : Bool) (row : List Byte) (q : Squad), n < columns p.fmt →
    (applyRow p tile lane e zf row q).acc.getD ((tile + n / 64) * 2048 + lane * 64 + n % 64) 0 =
      toF32 ((if zf then Num.fin false 0 0 else f32 (q.acc.getD ((tile + n / 64) * 2048 + lane * 64 + n % 64) 0)).add
        (contributionOf p row e n))) ∧
  (∀ (p : Plane) (tile lane e : Nat) (zf : Bool) (row : List Byte) (q : Squad) (i : Nat), i ∉ rowKeys p tile lane →
    (applyRow p tile lane e zf row q).acc.getD i 0 = q.acc.getD i 0)

/-- R114, R198: a drain writes its 32 rows with the scale of its descriptor or of the plane in use; an element is the product with the
scale in the drain's format, and the ZERO flag sets the tile to +0.0 at the end. -/
def Says.MatrixDrain : Prop :=
  (∀ (core c : Nat) (k : Cmd) (s : State), headCmd s core = some c → s.cmds.get? c = some k → gate s k = .run → k.kind = .mxdrn →
    k.ready = true → s.waits = [] → ∃ t, exec (.mxdrnCommandRun core) s = .next t ∧
      t = drainRows c k (if desc32 k.desc 2 / 2 ^ 7 % 2 = 1 then (usedPlane s core k.lid).super else k.desc.getD 3 0) 32
        (cmdAcquire k s)) ∧
  (∀ x : Word, drainBytes 0 x = natLe 4 x.toNat ∧ drainBytes 1 x = natLe 2 (roundFP bf16 .rne (f32 x)) ∧
    drainBytes 2 x = natLe 2 (roundFP fp16 .rne (f32 x)) ∧ drainBytes 3 x = natLe 1 (encodeFP e4m3 false (f32 x)) ∧
    drainBytes 4 x = natLe 1 (encodeFP e5m2 false (f32 x)) ∧ drainBytes 5 x = natLe 1 (encodeFP e5m2 true (f32 x))) ∧
  (∀ (c : Nat) (k : Cmd) (S : Word) (s : State), s.cmds.get? c = some k → k.ord.rel = false → RecordsTaken s k.block →
    ∀ sd, k.token = some sd → TakesValue s k.squad sd k.issue →
    Holds k.squad sd 32 (drainRows c k S 0 s) ∧ (drainRows c k S 0 s).mem = s.mem ∧
    ∀ i, (sqd (drainRows c k S 0 s) k.squad).acc.getD i 0 =
      if desc32 k.desc 2 / 2 ^ 6 % 2 = 1 ∧ i / 2048 = desc32 k.desc 2 % 8 then 0 else (sqd s k.squad).acc.getD i 0)

/-- The matrix array loads, swaps, zeroes, streams and drains (O41). -/
def Obligations.MatrixArrayRuns : Prop := Says.MatrixCommands ∧ Says.MatrixPass ∧ Says.MatrixDrain

/-- A chunk whose bytes have been read, or stand in the command: every run of it can be written now, but for what is still to be read. -/
def Writable (s : State) (k : Cmd) (x : Chunk) : Prop :=
  0 < x.len ∧ ∀ o m, o + m ≤ x.len → ∃ qs, touch s k true (x.dst + o) m = .ok qs ∧ leased s qs = false

/-- R96, R135, R200, R201: a started copy command: one whose slot resolved SHUT writes token 0 and no byte. A copy or fill begins
with its moves before it; a gather or scatter first reads its index list, some bytes at a step, and has its moves from it. Each goes on with
one step at a time, which reads some bytes of a chunk or writes bytes of one that have been read, where no byte that they overwrite is still
to be read and no earlier entry of a scatter's list has bytes for their place; and ends with its token when none is left (log 32). -/
def Says.CopyCommands : Prop :=
  ∀ (c sd : Nat) (k : Cmd) (s : State), s.cmds.get? c = some k → copyStarted s c k = true → k.started = false → s.waits = [] →
    RecordsTaken s k.block → k.token = some sd → TakesValue s k.squad sd k.issue → k.kind.queue = 2 →
    (gate s k = .discard → ∃ t, exec (.copyCommandComplete c) s = .next t ∧ t.mem = s.mem ∧ Holds k.squad sd 0 t ∧
      t.cmds.get? c = none) ∧
    (gate s k = .run → k.ready = true →
      (∀ l, k.held = none → (k.kind = .cpcopy ∧ l = chunksOfMoves (copyRows k.desc) ∨ ∃ z, k.kind = .cpfill z ∧ l = fillChunks k.desc z) →
        ∃ t, exec (.copyCommandComplete c) s = .next t ∧ t.mem = s.mem ∧ t.cmds.get? c = some { k with held := some ⟨l, false⟩ }) ∧
      (k.held = none → k.kind = .cpgath ∨ k.kind = .cpscat → ∃ t, exec (.copyCommandComplete c) s = .next t ∧
        (k.parts = [] → desc32 k.desc 5 ≠ 0 → t.mem = s.mem ∧
          t.cmds.get? c = some { k with parts := partsOf [(desc64 k.desc 6, 0, 4 * desc32 k.desc 5)] }) ∧
        ((∃ x ∈ k.parts, x.bs = none) → (∀ x ∈ k.parts, x.bs = none → Readable s k x) → t.mem = s.mem ∧ ReadsPart c k s t) ∧
        ((∀ x ∈ k.parts, x.bs.isSome) → (k.parts = [] → desc32 k.desc 5 = 0) → t.mem = s.mem ∧
          t.cmds.get? c = some { k with
            held := some ⟨chunksOfMoves (gatherRows k.desc (k.kind == .cpscat) ((List.range (desc32 k.desc 5)).map fun j =>
              leNat (((gathered k.parts 0 (4 * desc32 k.desc 5)).drop (4 * j)).take 4))), k.revoked⟩
            parts := [], revoked := false })) ∧
      (∀ (l : List Chunk) (r : Bool), k.held = some ⟨l, r⟩ → l ≠ [] → k.ord.rel = false →
        (∀ x ∈ l, if x.bs.isSome then Writable s k x else Readable s k x) →
        ∃ t j, ∃ x : Chunk, ∃ o m, exec (.copyCommandComplete c) s = .next t ∧ t.mem = s.mem ∧ l[j]? = some x ∧ 0 < m ∧ o + m ≤ x.len ∧
          match x.bs with
          | none => ∃ a ps pg, x.src = some a ∧ touch s k false (a + o) m = .ok ps ∧ t.cmds.get? c = some { k with
              pages := pg
              held := some ⟨cutAt l j o m x [{ x.part o m with bs := some (bytesOf (cmdBytes s k ps)) }], r || anyDead s ps⟩ }
          | some bs => ∃ qs, touch s k true (x.dst + o) m = .ok qs ∧
              t.agents = (cmdWrite k qs ((x.dst + o) % 2 ^ 64) ((bs.drop o).take m) false s).agents ∧
              (∀ us, touch s k true x.dst x.len = .ok us → unreadOver s k l us = false) ∧
              (k.kind = .cpscat → ∀ y ∈ l.take j, overlaps y.dst y.len x.dst x.len = false) ∧
              if cutAt l j o m x [] = [] then Holds k.squad sd (copyToken (copyCount k) (r || anyDead s qs)) t ∧ t.cmds.get? c = none
              else ∃ pg, t.cmds.get? c = some { k with pages := pg, held := some ⟨cutAt l j o m x [], r || anyDead s qs⟩ }) ∧
      (∀ r, k.held = some ⟨[], r⟩ → k.ord.rel = false → ∃ t, exec (.copyCommandComplete c) s = .next t ∧ t.mem = s.mem ∧
        Holds k.squad sd (copyToken (copyCount k) r) t ∧ t.cmds.get? c = none))

/-- R56 to R58, R202, R203: the Storekeeper gives an ALLOC a free block of its class, which becomes an object and a holding, with zeros
where another partition has left its bytes, and its waiting threads go on with the address; a FREE ends the object; the dispenser puts the next tile, or the end mark, into a block's
queue. -/
def Says.StorekeeperReplies : Prop :=
  (∀ (b c addr z sd id size : Nat) (rest : List Nat) (k : Cmd) (w : Wait) (s : State), s.Canonical → (blk s b).q4 = c :: rest →
    k.block = b → RecordsTaken s b →
    s.cmds.get? c = some k → k.kind = .alloc size → classOf size = some z → blockFree (partOf s (launchOf s k.lid).part) z addr = true →
    anyFree (partOf s (launchOf s k.lid).part) z = true → k.token = some sd → sd % 2 = 0 → s.waits = [(id, w)] →
    w.kind = .alloc c sd → w.squad = k.squad → w.threads ≠ [] → (∀ u ∈ w.threads, (thr s u).wait = some id) →
    TakesValue s k.squad sd w.issue → TakesValue s k.squad (sd + 1) w.issue → (sqd s k.squad).state = .resident →
    ∃ t, exec (.storekeeperReply b addr) s = .next t ∧
      (∀ a, readByte t a = if addr ≤ a ∧ a < addr + z ∧ foreignByte s (launchOf s k.lid).part a = true then 0 else readByte s a) ∧
      t.waits = [] ∧ Holds64 k.squad sd (BitVec.ofNat 64 addr) t ∧
      (∀ u ∈ w.threads, (thr t u).wait = none ∧ (thr t u).pc = w.pc + 4) ∧
      (partOf t (launchOf s k.lid).part).objects = (partOf s (launchOf s k.lid).part).objects ++ [(addr, z, k.lid)] ∧
      holds t k.squad .object addr = true) ∧
  (∀ (b c a z l : Nat) (rest : List Nat) (k : Cmd) (s : State), (blk s b).q4 = c :: rest → s.cmds.get? c = some k → k.kind = .free a →
    k.ready = true → s.waits = [] →
    (partOf s (launchOf s k.lid).part).objects.find? (fun o => o.1 == a) = some (a, z, l) →
    ∃ t, exec (.storekeeperFree b) s = .next t ∧ t.mem = s.mem ∧ t.cmds.get? c = none ∧
      ∀ o ∈ (partOf t (launchOf s k.lid).part).objects, o.1 ≠ a) ∧
  (∀ (b : Nat) (s : State), (s.blocks.get? b).isSome → (s.launches.get? (blk s b).lid).isSome → blockEnded s b = false →
    (blockHeader s b).dimx ≠ 0 → s.waits = [] → (launchOf s (blk s b).lid).handedBack = [] → (blk s b).q6.length < 2 →
    (blk s b).exhausted = false →
    ∃ t, exec (.dispenserRefill b) s = .next t ∧ t.mem = s.mem ∧
      match nextTile (launchOf s (blk s b).lid).hdr (launchOf s (blk s b).lid).nextPos with
      | some (x, p) => (blk t b).q6 = (blk s b).q6 ++ [BitVec.ofNat 64 x] ∧ (launchOf t (blk s b).lid).nextPos = p
      | none => (blk t b).q6 = (blk s b).q6 ++ [0xFFFFFFFFFFFFFFFF])

/-- Copy commands write their bytes and token; the Storekeeper and the dispenser reply (O42). -/
def Obligations.CopiesAndStorekeeperReplies : Prop := Says.CopyCommands ∧ Says.StorekeeperReplies

/-- R118, R298, R304, R326: a lane of a word has cause 0x02 where a register that the word names lies at or above the allotment; else
0x0D where one that it reads is poisoned; and else none. The lowest of several causes is the one reported. -/
def Says.OperandCauses : Prop :=
  (∀ (s : State) (u : Uses) (t : Nat), useCauses s u t =
    if ∃ n ∈ u.vr ++ u.vw, (sqd s (squadOf t)).allot ≤ n then some (noAddr 0x02)
    else if (∃ n ∈ u.vr, n ∈ (thr s t).poisonV) ∨ (∃ n ∈ u.kr, n ∈ (thr s t).poisonK) ∨ readsPoison s u (squadOf t) = true
      then some (noAddr 0x0D) else none) ∧
  ∀ cs : List (Option Cause), (lowest cs = none ↔ ∀ c ∈ cs, c = none) ∧
    ∀ x, lowest cs = some x → some x ∈ cs ∧ ∀ y, some y ∈ cs → x.code ≤ y.code

/-- Every instruction completes from every state: no meaning ends in a fault or a refusal, whatever its operands. -/
def Says.NothingStops : Prop := ∀ (i : Instr) (s : State), ∃ t, exec i s = .next t

/-- A lane with a bad register has its cause; no instruction stops the machine (O43). -/
def Obligations.OperandCausesAndCompletion : Prop := Says.OperandCauses ∧ Says.NothingStops

/-- R219: a publication is three writes: the window's counter becomes odd, the lines written since the last publication go to the host,
and the counter grows again, which ends it. -/
def Says.Publications : Prop :=
  ∀ (win : Nat) (s : State) (w : PubWin) (l : Publication) (rest : List Publication), s.Canonical → s.pubs.get? win = some w →
    w.pending = l :: rest → mayPublish s l = true →
    (∀ p r, rangeOf s (hubView s w.ctx) true w.counter.toNat 8 = .ok (p :: r) → w.step ≠ 1 →
      ∃ t, exec (.publicationPerform win) s = .next t ∧ readNat t p.addr 8 = (readNat s p.addr 8 + 1) % 2 ^ 64 ∧
        (∀ a, ¬(p.addr ≤ a ∧ a < p.addr + 8) → readByte t a = readByte s a) ∧
        ∃ v, t.pubs.get? win = some v ∧ v.step = (if w.step = 0 then 1 else 0) ∧
          v.pending = if w.step = 0 then w.pending else rest) ∧
    (∀ ps x q r, w.step = 1 → rangeOf s (hubView s w.ctx) false w.base.toNat w.size = .ok ps → dirtyLines w ps = [x] →
      rangeOf s (hubView s w.ctx) true (w.host.toNat + x.2) 128 = .ok (q :: r) →
      ∃ t, exec (.publicationPerform win) s = .next t ∧ readBytes t q.addr 128 = readBytes s (x.1 * 128) 128 ∧
        (∀ a, ¬(q.addr ≤ a ∧ a < q.addr + 128) → readByte t a = readByte s a) ∧
        ∃ v, t.pubs.get? win = some v ∧ v.step = 2 ∧ v.dirty = [] ∧ v.pending = w.pending)

/-- R250: PUB_CREATE copies the device side to the host side, sets the counter to 0 and gives a window with nothing pending;
PUB_DESTROY waits for the window's publications and ends it. -/
def Says.PublicationWindows : Prop :=
  (∀ (q b ctx base host size ctr : Nat) (s s' : State) (ps qs rs : List Piece), InHand (q, b) rulePubCreate s s' →
    base = argAt s' (q, b) 0 8 → host = argAt s' (q, b) 8 8 → size = argAt s' (q, b) 16 8 → ctr = argAt s' (q, b) 24 8 →
    ctx = argAt s' (q, b) 32 4 → base % 65536 = 0 → size % 65536 = 0 → size ≠ 0 → size ≤ 2 ^ 30 → ctr % 8 = 0 →
    ContextOk s' (q, b) 32 → ZeroField s' (q, b) 36 4 → badLeaf s' ctx base size (fun f => f.pub) = none →
    badLeaf s' ctx host size (fun f => f.kind == .host) = none → badLeaf s' ctx ctr 8 (fun f => f.kind == .host) = none →
    rangeOf s' (hubView s' ctx) false base size = .ok ps → rangeOf s' (hubView s' ctx) true host size = .ok qs →
    rangeOf s' (hubView s' ctx) true ctr 8 = .ok rs →
    ∃ t w x, exec (.pubCreate q b) s = .next t ∧ Completed s' (q, b) 0 0 w t ∧ t.pubs.get? w = some x ∧ x.base.toNat = base ∧
      x.host.toNat = host ∧ x.size = size ∧ x.counter.toNat = ctr ∧ x.ctx = ctx ∧ x.pending = [] ∧ x.step = 0 ∧
      MemoryOf s' (q, b) (hubStore (queueAgent q) ctr rs (List.replicate 8 (0, false)) (hubStore (queueAgent q) host qs (hubBytes s' ps) s')) t) ∧
  (∀ (q b : Nat) (s s' : State), InHand (q, b) rulePubDestroy s s' → winOk s' q (argAt s' (q, b) 0 4) = true →
    ZeroField s' (q, b) 4 4 →
    ∃ t, exec (.pubDestroy q b) s = .next t ∧
      if publicationsLeft s' (argAt s' (q, b) 0 4) = true then t = s'
      else Completed s' (q, b) 0 0 0 t ∧ t.pubs.get? (argAt s' (q, b) 0 4) = none ∧ OnlyStatus s' (q, b) t)

/-- Publication windows are made and ended; a publication is three writes (O44). -/
def Obligations.PublicationsReachTheHost : Prop := Says.Publications ∧ Says.PublicationWindows

/-- The agent `u` has no store in flight, and no core stands before it. -/
def AtHome (s : State) (u : Nat) : Prop := (agt s u).out = [] ∧ (agt s u).runBuf = [] ∧ (agt s u).place.onCore = false

/-- R248, R249: a COPY begins once both of its ranges can be reached; each step reads some bytes of the source, or with all of them read
makes stores of some, and it completes once its stores have left (its steps are log 34); SIGNAL_SET makes a signal the larger of two
values in one move; SIGNAL_WAIT completes once the signal has reached its value, and until then stays in hand. -/
def Obligations.MemoryCommandsOfTheHost : Prop :=
  (∀ (q b src dst n : Nat) (s s' : State) (ps qs : List Piece), InHand (q, b) ruleCopy s s' → copyOf s (q, b) = none →
    src = argAt s' (q, b) 0 8 → dst = argAt s' (q, b) 8 8 → n = argAt s' (q, b) 16 8 → n ≠ 0 → n ≤ 2 ^ 32 → ContextOk s' (q, b) 24 →
    ZeroField s' (q, b) 28 4 → rangeOf s' (hubView s' (argAt s' (q, b) 24 4)) false src n = .ok ps →
    rangeOf s' (hubView s' (argAt s' (q, b) 24 4)) true dst n = .ok qs →
    ∃ t, exec (.copy q b) s = .next t ∧ t.mem = s'.mem ∧ b ∈ (queueOf t q).inFlight ∧
      t.hubCopies = s'.hubCopies ++ [⟨q, b, (chunksOf src n).map fun x => (x.1 - src, x.2), []⟩]) ∧
  (∀ (q b : Nat) (s : State) (h : HubCopy), copyOf s (q, b) = some h → h.todo ≠ [] → (∀ y ∈ h.todo, 0 < y.2) →
    (∀ y ∈ h.todo, ∀ x m, x + m ≤ y.2 → 0 < m →
      ∃ ps, rangeOf s (hubView s (argAt s (q, b) 24 4)) false (argAt s (q, b) 0 8 + y.1 + x) m = .ok ps ∧ ∀ p ∈ ps, Quiet s p.win) →
    ∃ t o k x m ps h', exec (.copy q b) s = .next t ∧ t.mem = s.mem ∧ (o, k) ∈ h.todo ∧ x + m ≤ k ∧ 0 < m ∧
      rangeOf s (hubView s (argAt s (q, b) 24 4)) false (argAt s (q, b) 0 8 + o + x) m = .ok ps ∧
      h' = { h with todo := h.todo.erase (o, k) ++ [(o, x), (o + x + m, k - x - m)].filter (fun y => y.2 != 0)
                    got := h.got.put (o + x) (unitRead (ensureUnit (queueAgent q) s) (queueAgent q) ps) } ∧
      copyOf t (q, b) = some h') ∧
  (∀ (u : Nat) (s : State) (ps : List Piece), AtHome s u → (∀ p ∈ ps, winDead s p.win = false) → unitRead s u ps = hubBytes s ps) ∧
  (∀ (q b o : Nat) (bs : DumpBytes) (s : State) (h : HubCopy) (qs : List Piece), copyOf s (q, b) = some h → h.todo = [] →
    h.got = [(o, bs)] → rangeOf s (hubView s (argAt s (q, b) 24 4)) true (argAt s (q, b) 8 8 + o) bs.length = .ok qs →
    exec (.copy q b) s = .next (putCopy { h with got := [] }
      (queueBytes (queueAgent q) (argAt s (q, b) 8 8 + o) qs bs { s with fresh := s.fresh + 1 }))) ∧
  (∀ (u va : Nat) (p : Piece) (bs : List Byte) (poison : Bool) (s : State), (s.agents.get? u).isSome → bs ≠ [] → bs.length = p.len →
    ∃ t, queueBytes u va [p] (bs.map fun x => (x, poison)) s = t ∧ t = { s with agents := t.agents } ∧
      ∃ e ∈ (agt t u).out, e.kind = .store p.addr bs p.ord ∧ e.poison = poison ∧ e.win = p.win) ∧
  (∀ (q b : Nat) (s : State) (h : HubCopy), copyOf s (q, b) = some h → h.todo = [] → h.got = [] → holdsChain s (q, b) = true →
    ∃ t, exec (.copy q b) s = .next t ∧
      if (agt s (queueAgent q)).out.all (fun e => isMarker e.kind) = true then
        Completed s (q, b) 0 0 (argAt s (q, b) 16 8) t ∧ copyOf t (q, b) = none ∧ OnlyStatus s (q, b) t
      else t = s) ∧
  (∀ (q b : Nat) (s s' : State) (p : Piece) (r : List Piece), s'.Canonical → InHand (q, b) ruleSignalSet s s' → argAt s' (q, b) 0 8 % 8 = 0 →
    ContextOk s' (q, b) 16 → ZeroField s' (q, b) 20 4 → (agt s' (queueAgent q)).place.onCore = false → Quiet s' p.win →
    (∀ e ∈ s'.launches, 6 ≤ e.2.stage) → s'.holds = [] → s'.waits = [] →
    translate s' (hubView s' (argAt s' (q, b) 16 4)) none (.signal true) (argAt s' (q, b) 0 8) 8 = .ok (p :: r) → winDead s' p.win = false →
    p.len = 8 → (∀ a, p.addr ≤ a → a < p.addr + 8 → ¬StatusAt s' (q, b) a) →
    ∃ t, exec (.signalSet q b) s = .next t ∧ Completed s' (q, b) 0 0 (max (readNat s' p.addr 8) (argAt s' (q, b) 8 8)) t ∧
      readNat t p.addr 8 = max (readNat s' p.addr 8) (argAt s' (q, b) 8 8) ∧
      ∀ a, ¬StatusAt s' (q, b) a → ¬(p.addr ≤ a ∧ a < p.addr + 8) → readByte t a = readByte s' a) ∧
  (∀ (q b : Nat) (s s' : State) (p : Piece) (r : List Piece), InHand (q, b) ruleSignalWait s s' → argAt s' (q, b) 0 8 % 8 = 0 →
    ContextOk s' (q, b) 16 → ZeroField s' (q, b) 20 4 →
    translate s' (hubView s' (argAt s' (q, b) 16 4)) none (.signal false) (argAt s' (q, b) 0 8) 8 = .ok (p :: r) → winDead s' p.win = false →
    p.len = 8 →
    ∃ t, exec (.signalWait q b) s = .next t ∧
      if argAt s' (q, b) 8 8 ≤ readNat s' p.addr 8 then
        Completed s' (q, b) 0 0 (readNat s' p.addr 8) t ∧ OnlyStatus s' (q, b) t
      else t = s')

/-- R74, R267: a fill waits while a launch of its partition holds a block on a die that it names; it writes each named die's Cellar
and stays in flight; its end takes the fill's link while the chain is open, and completes the command. -/
def Obligations.CellarFillsAndTheirLinks : Prop :=
  (∀ (q b p n off : Nat) (dies : List Nat) (s s' : State) (ps : List Piece), s'.Canonical → InHand (q, b) ruleCellarFill s s' →
    p = (partOfQueue s' q).getD noPart → n = argAt s' (q, b) 24 8 → off = argAt s' (q, b) 16 8 →
    dies = diesOf (argAt s' (q, b) 12 1) → (argAt s' (q, b) 12 1 < 8 ∨ argAt s' (q, b) 12 1 = 0xFF) → ContextOk s' (q, b) 8 →
    ZeroField s' (q, b) 13 3 → off % 4096 = 0 → n % 4096 = 0 → (∀ d ∈ dies, off + n ≤ (cellarGrant s' p d).2) →
    (∀ d ∈ dies, (cellarGrant s' p d).1 + off + n ≤ 2 ^ 28) →
    inWindows (argAt s' (q, b) 0 8) = false → (∀ p ∈ ps, Quiet s' p.win) →
    rangeOf s' (hubView s' (argAt s' (q, b) 8 4)) false (argAt s' (q, b) 0 8) n = .ok ps → (hubBytes s' ps).length = n →
    ∃ t, exec (.cellarFill q b) s = .next t ∧
      if diesBusy s' p dies = true then t = s'
      else b ∈ (queueOf t q).inFlight ∧
        t.fills = s'.fills ++ [⟨p, dies, off, n, q, b, argAt s' (q, b) 8 4, shake ((hubBytes s' ps).map (·.1))⟩] ∧
        (∀ d ∈ dies, ∀ i < n, readByte t (cellarKey d ((cellarGrant s' p d).1 + off) + i) = ((hubBytes s' ps).getD i (0, false)).1) ∧
        ∀ a, (∀ d ∈ dies, ∀ i < n, a ≠ cellarKey d ((cellarGrant s' p d).1 + off) + i) → readByte t a = readByte s' a) ∧
  (∀ (k : Nat) (s : State) (f : Fill), s.fills[k]? = some f → holdsChain s (f.queue, f.buf) = true → s.chains.get? f.ctx = none →
    ∃ t, exec (.cellarFillEnd k) s = .next t ∧ Completed s (f.queue, f.buf) 0 0 (f.len * f.dies.length) t ∧
      t.fills = s.fills.eraseIdx k ∧ OnlyStatus s (f.queue, f.buf) t) ∧
  (∀ (q b : Nat) (s s' : State), InHand (q, b) ruleCellarFill s s' → ContextOk s' (q, b) 8 →
    (argAt s' (q, b) 12 1 < 8 ∨ argAt s' (q, b) 12 1 = 0xFF) → ZeroField s' (q, b) 13 3 → argAt s' (q, b) 16 8 % 4096 = 0 →
    argAt s' (q, b) 24 8 % 4096 = 0 → (∀ d ∈ diesOf (argAt s' (q, b) 12 1),
      argAt s' (q, b) 16 8 + argAt s' (q, b) 24 8 ≤ (cellarGrant s' ((partOfQueue s' q).getD noPart) d).2) →
    inWindows (argAt s' (q, b) 0 8) = true → ∃ t, exec (.cellarFill q b) s = .next t ∧
      Completed s' (q, b) 0x04 0 (argAt s' (q, b) 0 8) t ∧ OnlyStatus s' (q, b) t ∧ t.fills = s'.fills) ∧
  (∀ (k : Nat) (s : State) (f : Fill) (h : Chain) (p : Piece) (r : List Piece), s.fills[k]? = some f →
    holdsChain s (f.queue, f.buf) = true → s.chains.get? f.ctx = some h →
    rangeOf s (hubView s f.ctx) true (h.journal.1.toNat + 64 * ((h.counter + 1) % h.journal.2)) 64 = .ok (p :: r) →
    ∃ t, exec (.cellarFillEnd k) s = .next t ∧
      if linkFree s f.ctx (1, f.queue, f.buf) = true then
        Completed s (f.queue, f.buf) 0 0 (f.len * f.dies.length) t ∧ t.fills = s.fills.eraseIdx k ∧
        ∃ h', t.chains.get? f.ctx = some h' ∧ h'.counter = h.counter + 1 ∧
          h'.m = shake (3 :: h.m ++ (fillLink (match f.dies with | [d] => d | _ => 0xFF) f.off f.len f.digest).body)
      else t.fills = s.fills ∧ t.mem = s.mem ∧ ∃ h', t.chains.get? f.ctx = some h' ∧ (1, f.queue, f.buf) ∈ h'.waiting ∧ h'.m = h.m)

/-- R266, R270, R274, R355: RECEIPT_SEAL opens a chain at M₀, and is refused while launches with RECEIPT run; a request holds back
launch and fill links until it has read the chain, takes the next leaf and writes the receipt; the first leaf of a new block writes the
monotonic counter first; it is refused with no chain, waits with DRAIN, and ends with 0x0B when no leaf is to be had. -/
def Obligations.ChainsAndReceipts : Prop :=
  (∀ (q b : Nat) (s s' : State), InHand (q, b) ruleReceiptSeal s s' → argAt s' (q, b) 0 8 % 64 = 0 →
    isPow2In 64 65536 (argAt s' (q, b) 8 4) = true → argAt s' (q, b) 12 2 < 4096 → ZeroField s' (q, b) 14 2 →
    ContextOk s' (q, b) 16 → ZeroField s' (q, b) 20 4 →
    badLeaf s' (argAt s' (q, b) 16 4) (argAt s' (q, b) 0 8) (64 * argAt s' (q, b) 8 4) (fun f => f.w && f.kind == .device) = none →
    ∃ t, exec (.receiptSeal q b) s = .next t ∧ OnlyStatus s' (q, b) t ∧
      if receiptsInFlight s' (argAt s' (q, b) 16 4) = true then Completed s' (q, b) 0x07 2 0 t ∧ t.chains = s'.chains
      else Completed s' (q, b) 0 0 0 t ∧ ∃ h, t.chains.get? (argAt s' (q, b) 16 4) = some h ∧
        h.m = chainStart (argAt s' (q, b) 16 4) (argAt s' (q, b) 12 2) ∧ h.counter = 0 ∧ h.key = argAt s' (q, b) 12 2 ∧
        h.journal = (BitVec.ofNat 64 (argAt s' (q, b) 0 8), argAt s' (q, b) 8 4) ∧ h.launches = 0 ∧ h.replays = 0 ∧ h.ends = 0) ∧
  (∀ (q b ctx : Nat) (w : Bool) (s s' : State), InHand (q, b) ruleReceiptRequest s s' → ctx = argAt s' (q, b) 24 4 →
    argAt s' (q, b) 0 8 % 8 = 0 → ContextOk s' (q, b) 24 → argAt s' (q, b) 28 4 < 4 →
    (s'.chains.get? ctx = none → ∃ t, exec (.receiptRequest q b w) s = .next t ∧ Completed s' (q, b) 0x07 1 0 t ∧
      t.leafNext = s'.leafNext) ∧
    (∀ h, s'.chains.get? ctx = some h → argAt s' (q, b) 28 4 % 2 = 1 → receiptsInFlight s' ctx = true →
      ∃ t h', exec (.receiptRequest q b w) s = .next t ∧ t = { s' with chains := t.chains } ∧ t.chains.get? ctx = some h' ∧
        (q, b) ∈ h'.drains) ∧
    (∀ h ps, s'.chains.get? ctx = some h → ¬(argAt s' (q, b) 28 4 % 2 = 1 ∧ receiptsInFlight s' ctx = true) →
      rangeOf s' (hubView s' ctx) true (argAt s' (q, b) 0 8) 13312 = .ok ps → (∀ p ∈ ps, Quiet s' p.win) →
      (s'.leafNext < s'.leafLimit → ∃ t n, exec (.receiptRequest q b w) s = .next t ∧
        Completed s' (q, b) 0 n s'.leafNext t ∧ t.leafNext = s'.leafNext + 1 ∧
        (∀ h', t.chains.get? ctx = some h' → (q, b) ∉ h'.drains) ∧
        MemoryOf s' (q, b) (hubStore strongAgent (argAt s' (q, b) 0 8) ps
          ((receiptMessage s' (fnOfQueue s' q) ctx (((bodyOf s' (q, b)).drop 8).take 16) ++
            receiptSignature s'.leafNext (receiptMessage s' (fnOfQueue s' q) ctx (((bodyOf s' (q, b)).drop 8).take 16)) ++
            (if argAt s' (q, b) 28 4 / 2 % 2 = 1 then certificate else [])).map fun x => (x, false)) s') t) ∧
      (s'.leafLimit ≤ s'.leafNext → s'.leafNext / 1024 < 2 ^ 30 → w = false → ownerOf s' 8 ≠ ownerHost →
        ∃ t, exec (.receiptRequest q b w) s = .next t ∧ Completed s' (q, b) 0x0B 2 0 t ∧ t.leafNext = s'.leafNext) ∧
      (s'.leafLimit ≤ s'.leafNext → 2 ^ 30 ≤ s'.leafNext / 1024 → ownerOf s' 8 ≠ ownerHost →
        ∃ t, exec (.receiptRequest q b w) s = .next t ∧ Completed s' (q, b) 0x0B 1 0 t ∧ t.leafNext = s'.leafNext) ∧
      (s'.leafLimit ≤ s'.leafNext → s'.leafNext / 1024 < 2 ^ 30 → w = true → ownerOf s' 8 ≠ ownerHost →
        ∃ t n, exec (.receiptRequest q b w) s = .next t ∧ Completed s' (q, b) 0 n (s'.leafNext / 1024 * 1024) t ∧
          t.counterMono = s'.leafNext / 1024 + 1 ∧ t.leafNext = s'.leafNext + 1 ∧ t.leafLimit = (s'.leafNext / 1024 + 1) * 1024)) ∧
    (∀ h g, s'.chains.get? ctx = some h → ¬(argAt s' (q, b) 28 4 % 2 = 1 ∧ receiptsInFlight s' ctx = true) →
      rangeOf s' (hubView s' ctx) true (argAt s' (q, b) 0 8) 13312 = .miss g →
      ∃ t h', exec (.receiptRequest q b w) s = .next t ∧ t.chains.get? ctx = some h' ∧ (q, b) ∈ h'.drains))

/-- A revocation with its value: the command completes, or, while a request made through one of the entries is under way, stays in
flight for it (R257). -/
def RevokedAfter (c : CmdId) (value : Nat) (serials : List Nat) (s t : State) : Prop :=
  OnlyStatus s c t ∧
  if underWay s serials = true then c.2 ∈ (queueOf t c.1).inFlight ∧ t.revokes = s.revokes ++ [⟨c.1, c.2, value, serials⟩]
  else Completed s c 0 0 value t

/-- R254, R255, R257, R340: exports, grants, revocations and keys: the device's own Strongroom answers for the device's own windows;
a grant needs its key and the target's agreement (its refusal with 0x02 is the model's choice, log 35); a revocation raises the
generation and completes once no request with the old one is under way (for another device's export its value is the entry's generation
plus 1, the model's reading, log 65); a wrapped key that does not unwrap is malformed at offset 8 (the model's choice, log 35). -/
def Says.FabricCommands : Prop :=
  (∀ (q b : Nat) (s s' : State), InHand (q, b) ruleWindowExport s s' → argAt s' (q, b) 0 8 % 65536 = 0 →
    argAt s' (q, b) 8 8 % 65536 = 0 → argAt s' (q, b) 8 8 ≠ 0 → argAt s' (q, b) 16 2 < 1152 → argAt s' (q, b) 18 1 < 8 →
    argAt s' (q, b) 19 1 < 2 → ContextOk s' (q, b) 20 →
    (canonical (argAt s' (q, b) 0 8) = false ∨ inWindows (argAt s' (q, b) 0 8) = true → ∃ t, exec (.windowExport q b) s = .next t ∧
      Completed s' (q, b) 0x04 0 (argAt s' (q, b) 0 8) t ∧ OnlyStatus s' (q, b) t ∧ t.exports = s'.exports) ∧
    (canonical (argAt s' (q, b) 0 8) = true → inWindows (argAt s' (q, b) 0 8) = false →
    ∃ t n x, exec (.windowExport q b) s = .next t ∧ Completed s' (q, b) 0 0 n t ∧ t.exports.get? n = some x ∧
      x.base.toNat = argAt s' (q, b) 0 8 ∧ x.size.toNat = argAt s' (q, b) 8 8 ∧ x.impDev = argAt s' (q, b) 16 2 ∧
      x.impPart = argAt s' (q, b) 18 1 ∧ (x.write = true ↔ argAt s' (q, b) 19 1 = 1) ∧ x.ctx = argAt s' (q, b) 20 4 ∧
      x.gen = 1 ∧ OnlyStatus s' (q, b) t)) ∧
  (∀ (q b p : Nat) (ok w : Bool) (base size part gen : Nat) (s s' : State) (a : Answer), InHand (q, b) ruleWindowGrant s s' →
    partOfQueue s' q = some p → argAt s' (q, b) 4 2 < 1152 → argAt s' (q, b) 6 2 < 4096 → argAt s' (q, b) 8 2 < 4096 →
    (argAt s' (q, b) 10 1 = 0 ∨ argAt s' (q, b) 10 1 = 4) → ZeroField s' (q, b) 11 5 → base % 65536 = 0 → size % 65536 = 0 →
    part < 8 → gen < 2 ^ 32 →
    a = (if argAt s' (q, b) 4 2 = s'.devnum then ownAnswer s' (argAt s' (q, b) 0 4) s'.devnum p else ⟨ok, base, size, part, gen, w⟩) →
    ∃ t, exec (.windowGrant q b ok base size part gen w) s = .next t ∧ OnlyStatus s' (q, b) t ∧
      if a.ok = true ∧ ((partOf s' p).keys.get? (argAt s' (q, b) 8 2)).isSome ∧ p < 8 then
        Completed s' (q, b) 0 0 a.gen t ∧ ∃ x, (partOf t p).fabric.get? (argAt s' (q, b) 6 2) = some x ∧ x.valid = true ∧
          x.tbase = BitVec.ofNat 64 a.base ∧ x.tsize = BitVec.ofNat 64 a.size ∧ x.tdev = argAt s' (q, b) 4 2 ∧ x.tpart = a.part ∧
          x.write = a.write ∧ (x.strict = true ↔ argAt s' (q, b) 10 1 = 4) ∧ x.keyidx = argAt s' (q, b) 8 2 ∧ x.gen = a.gen ∧
          x.exportId = argAt s' (q, b) 0 4 ∧ x.revoked = false ∧
          (partOf t p).replaced = ((partOf s' p).fabric.get? (argAt s' (q, b) 6 2)).toList ++ (partOf s' p).replaced
      else Completed s' (q, b) 0x02 0 0 t ∧ t.partitions = s'.partitions) ∧
  (∀ (q b : Nat) (s s' : State), InHand (q, b) ruleWindowRevoke s s' → (∀ r ∈ s.revokes, ¬(r.queue = q ∧ r.buf = b)) → ZeroField s' (q, b) 5 3 → ZeroField s' (q, b) 12 4 →
    (∀ e, argAt s' (q, b) 4 1 = 1 → argAt s' (q, b) 2 2 = 0 → exportOk s' q (argAt s' (q, b) 8 4) = true →
      s'.exports.get? (argAt s' (q, b) 8 4) = some e →
      ∃ t, exec (.windowRevoke q b) s = .next t ∧
        if heldFor s' (argAt s' (q, b) 8 4) = true then t = s' else
        t.exports.get? (argAt s' (q, b) 8 4) = some { e with gen := (e.gen + 1) % 2 ^ 32 } ∧
        RevokedAfter (q, b) ((e.gen + 1) % 2 ^ 32) (entriesFor s' s'.devnum (argAt s' (q, b) 8 4) e.gen) s' t) ∧
    (∀ p w, argAt s' (q, b) 4 1 = 0 → argAt s' (q, b) 8 4 = 0 → partOfQueue s' q = some p →
      (partOf s' p).fabric.get? (argAt s' (q, b) 2 2) = some w → w.valid = true → w.tdev = argAt s' (q, b) 0 2 →
      w.tdev ≠ s'.devnum →
      ∃ t, exec (.windowRevoke q b) s = .next t ∧
        (∀ n x, (partOf s' p).fabric.get? n = some x →
          (partOf t p).fabric.get? n = some (if x.of w.tdev w.exportId w.gen = true then { x with revoked := true } else x)) ∧
        RevokedAfter (q, b) ((w.gen + 1) % 2 ^ 32) (entriesFor s' w.tdev w.exportId w.gen) s' t)) ∧
  (∀ (q b : Nat) (s : State) (r : Revoking), s.revokes = [r] → r.queue = q → r.buf = b → holdsChain s (q, b) = true →
    ∃ t, exec (.windowRevoke q b) s = .next t ∧
      if underWay s r.serials = true then t = s
      else Completed s (q, b) 0 0 r.value t ∧ t.revokes = [] ∧ OnlyStatus s (q, b) t) ∧
  (∀ (q b p : Nat) (s s' : State), InHand (q, b) ruleKeyInstall s s' → argAt s' (q, b) 0 2 < 4096 → ZeroField s' (q, b) 2 6 →
    partOfQueue s' q = some p → (∀ k ∈ (partOf s' p).suspended, k.1 % 4096 ≠ argAt s' (q, b) 0 2) →
    ∃ t, exec (.keyInstall q b) s = .next t ∧ OnlyStatus s' (q, b) t ∧
      match ownerKeyOf ((bodyOf s' (q, b)).drop 8) with
      | some k => Completed s' (q, b) 0 0 0 t ∧ ∀ n, (partOf t p).keys.get? n = if n = argAt s' (q, b) 0 2 then some k
          else (partOf s' p).keys.get? n
      | none => Completed s' (q, b) 0x01 8 0 t ∧ t.partitions = s'.partitions)

/-- R182, R257, R350: a peer's request is performed with the export's present generation only, never in a save region, and is held while
the partition is frozen; a peer's Strongroom may revoke, but not while requests of the export are held. -/
def Says.PeerRequests : Prop :=
  (∀ (x gen kind op off len data : Nat) (s : State) (e : Export), s.exports.get? x = some e →
    ∃ t, exec (.fabricRequestReceive x gen kind op off len data) s = .next t ∧
      ((partOf s e.part).frozen = true → t = { s with heldReqs := s.heldReqs ++ [[x, gen, kind, op, off, len, data]] }) ∧
      ((partOf s e.part).frozen = false → gen ≠ e.gen ∨ e.size.toNat < off + len ∨ kind % 4 = 0 ∨ e.write = false → t = s) ∧
      ∀ ps, (partOf s e.part).frozen = false → gen = e.gen → off + len ≤ e.size.toNat → kind % 4 = 1 → e.write = true →
        rangeOf s (hubView s e.ctx) true (e.base.toNat + off) len = .ok ps → (∀ e ∈ s.launches, 6 ≤ e.2.stage) → s.holds = [] →
        s.waits = [] → t.threads = s.threads ∧
        if ∃ p ∈ ps, barred s p.addr = true then t.mem = s.mem
        else t.mem = (hubStore peerAgent (e.base.toNat + off) ps ((natLe len data).map fun b => (b, decide (4 ≤ kind))) s).mem) ∧
  (∀ (x gen kind op off len data : Nat) (s : State), s.exports.get? x = none →
    exec (.fabricRequestReceive x gen kind op off len data) s = .next s) ∧
  (∀ (x : Nat) (s : State), exec (.strongroomManagementRequest x false) s = .next s ∧
    ∃ t, exec (.strongroomManagementRequest x true) s = .next t ∧ t = { s with exports := t.exports } ∧
      t.exports.get? x = if heldFor s x = true then s.exports.get? x
        else (s.exports.get? x).map fun e => { e with gen := (e.gen + 1) % 2 ^ 32 })

/-- Exports, grants, revocations, keys, and the requests of peers (O48). -/
def Obligations.FabricWindowsAndRequests : Prop := Says.FabricCommands ∧ Says.PeerRequests

/-- R292, R339, R340, R342, R343: a flit refused eight times sends its port to train again, and a third failed retraining takes the port
down; four tag failures in succession suspend a key on the link; an injector is armed, counts the flits, fires on the N-th, and disarms
itself after its last firing. -/
def Obligations.PortsRetrainAndSuspend : Prop :=
  (∀ (n : Nat) (again : Bool) (s : State), ∃ t, exec (.flitCrcFail n again) s = .next t ∧
    ((portOf s n).up = false → t = s) ∧
    ((portOf s n).up = true → (portOf s n).inj = none → t = { s with ports := t.ports } ∧
      (portOf t n).failed = if again then min 8 ((portOf s n).failed + 1) else 0) ∧
    ∀ i, (portOf s n).up = true → (portOf s n).inj = some i → i.count + 1 < i.trigger →
      (portOf t n).failed = (if again then min 8 ((portOf s n).failed + 1) else 0) ∧
      (portOf t n).inj = some { i with count := i.count + 1 }) ∧
  (∀ (n : Nat) (ok : Bool) (s : State), (portOf s n).up = true → 8 ≤ (portOf s n).failed →
    ∃ t, exec (.portRetrain n ok) s = .next t ∧
      (ownerOf s 4 ≠ ownerHost → ⟨4, 1, 0, none, 0, n % 64 + ((portOf s n).retrains + 1) % 256 * 256, 0⟩ ∈ t.events) ∧
      (portOf t n).retrains = (portOf s n).retrains + 1 ∧ (ok = true → (portOf t n).failed = 0 ∧ (portOf t n).lost = 0 ∧
        (portOf t n).up = true) ∧
      (ok = false → (portOf s n).lost < 2 → (portOf t n).lost = (portOf s n).lost + 1 ∧ (portOf t n).up = true) ∧
      (ok = false → 2 ≤ (portOf s n).lost → (portOf t n).up = false ∧
        (ownerOf s 4 ≠ ownerHost → ⟨4, 2, 0, none, 0, n, 0⟩ ∈ t.events))) ∧
  (∀ (n : Nat) (s : State), n < 36 → 7 ≤ s.stage → (portOf s n).up = false → ∃ t, exec (.portUp n) s = .next t ∧ (portOf t n).up = true ∧
    Raised ⟨4, 3, 0, none, 0, n, 0⟩ s t) ∧
  (∀ (n importer key : Nat) (again : Bool) (s : State) (k m : Nat), n < 36 → key < 4096 → keyHolders s importer key ≠ [] →
    k = (portOf s n).tagFails.getD (tripleOf importer key) 0 → m = (if again then k + 1 else 1) →
    ∃ t, exec (.flitGroupTagFail n importer key again) s = .next t ∧
      (m < 4 → (portOf t n).tagFails.getD (tripleOf importer key) 0 = m ∧ t = { s with ports := t.ports }) ∧
      (4 ≤ m → (portOf t n).tagFails.getD (tripleOf importer key) 0 = 0 ∧
        (∀ p ∈ keyHolders s importer key, (tripleOf importer key, linkId s n) ∈ (partOf t p).suspended) ∧
        ∀ p, keyHolders s importer key = [p] → (tripleOf importer key, linkId s n) ∉ (partOf s p).suspended →
          Raised ⟨5, 1, 0, some p, 0, key + linkId s n * 2 ^ 32, 0⟩ s t)) ∧
  (∀ (q b n : Nat) (s s' : State), InHand (q, b) ruleInject s s' → n = argAt s' (q, b) 0 1 → n < 36 → argAt s' (q, b) 1 1 < 8 →
    argAt s' (q, b) 2 1 < 5 → ZeroField s' (q, b) 3 1 → argAt s' (q, b) 4 4 ≠ 0 → argAt s' (q, b) 8 4 ≠ 0 →
    argAt s' (q, b) 8 4 < 2 ^ 16 → (argAt s' (q, b) 2 1 = 1 ∨ argAt s' (q, b) 2 1 = 2 → argAt s' (q, b) 12 4 ≠ 0) → argAt s' (q, b) 16 4 ≠ 0 → argAt s' (q, b) 16 4 ≤ 4096 →
    ZeroField s' (q, b) 20 4 →
    ∃ t, exec (.inject q b) s = .next t ∧ Completed s' (q, b) 0 0 0 t ∧ OnlyStatus s' (q, b) t ∧
      (portOf t n).inj = if argAt s' (q, b) 2 1 = 0 then none
        else some ⟨argAt s' (q, b) 1 1, argAt s' (q, b) 2 1, argAt s' (q, b) 4 4, argAt s' (q, b) 8 4, argAt s' (q, b) 12 4,
          argAt s' (q, b) 16 4, 0, 0⟩) ∧
  (∀ (n : Nat) (s : State) (i : Injector), (portOf s n).inj = some i → ∃ t, exec (.injectorFire n) s = .next t ∧
    (ownerOf s 4 ≠ ownerHost → ⟨4, 4, 0, none, 0, n % 64 + (i.firings + 1) % 2 ^ 16 * 2 ^ 16, 0⟩ ∈ t.events) ∧
    (i.rep ≤ i.firings + 1 → (portOf t n).inj = none) ∧
    (i.firings + 1 < i.rep → i.action = 4 → (portOf t n).inj = some { i with count := 0, firings := i.firings + 1 }) ∧
    (i.firings + 1 < i.rep → i.action ≠ 4 → 1 < i.trigger →
      (portOf t n).inj = some { i with count := 1, firings := i.firings + 1 }) ∧
    (i.action = 1 ∨ i.action = 3 → i.rep ≤ i.firings + 1 → (portOf t n).failed = 0))

/-- R252, R253, R307, R351: a pair is bound at its signal's value; its next request goes to the host with its launch's generation, or
completes with an error and a deferred fault of its squad; the driver's completion is absorbed when its binding has ended. -/
def Obligations.StorageRequestsAreServed : Prop :=
  (∀ (q b ctx n hq ks kc : Nat) (s s' : State), InHand (q, b) ruleStorageBind s s' → ctx = argAt s' (q, b) 36 4 →
    n = argAt s' (q, b) 32 2 → argAt s' (q, b) 16 8 % 8 = 0 → argAt s' (q, b) 24 8 % 8 = 0 → isPow2In 8 1024 n = true →
    argAt s' (q, b) 34 2 ≠ 0 → queueIndex s' (fnOfQueue s' q) (argAt s' (q, b) 34 2) = some hq → ContextOk s' (q, b) 36 →
    badLeaf s' ctx (argAt s' (q, b) 0 8) (64 * n) (fun f => f.kind == .device) = none →
    badLeaf s' ctx (argAt s' (q, b) 8 8) (64 * n) (fun f => f.w && f.kind == .device) = none →
    deviceKey s' ctx false (argAt s' (q, b) 16 8) = some ks → deviceKey s' ctx true (argAt s' (q, b) 24 8) = some kc →
    ∃ t k x, exec (.storageBind q b) s = .next t ∧ Completed s' (q, b) 0 0 k t ∧ t.storage.get? k = some x ∧
      x.subRing = argAt s' (q, b) 0 8 ∧ x.compRing = argAt s' (q, b) 8 8 ∧ x.subSig = argAt s' (q, b) 16 8 ∧
      x.compSig = argAt s' (q, b) 24 8 ∧ x.entries = n ∧
      x.hostQueue = hq ∧ x.ctx = ctx ∧ x.served = readNat s' ks 8 ∧ x.out = [] ∧ OnlyStatus s' (q, b) t) ∧
  (∀ (k buf : Nat) (s : State) (p : StoragePair) (ps : List Piece) (ds : List (DWord × Nat × Nat))
      (more : List (Nat × List (DWord × Nat × Nat))) (b : List Byte), s.Canonical → s.storage.get? k = some p →
    p.served < pairValue s p false p.subSig →
    rangeOf s (hubView s p.ctx) false (p.subRing + 64 * (p.served % p.entries)) 64 = .ok ps → b = readPieces s ps → b.length = 64 →
    requestCause s p b ((posterOf p p.served).map fun q => (sqd s q).lid) = none → queueUp s p.hostQueue = true →
    (queueOf s p.hostQueue).avail = (buf, ds) :: more → chainFault s p.hostQueue (buf, ds) = none → 64 ≤ writableLen ds →
    (queueOf s p.hostQueue).lost = false →
    ∃ t x, exec (.storageRequestServe k) s = .next t ∧ t.storage.get? k = some x ∧ x.served = p.served + 1 ∧
      x.out = p.out ++ [⟨p.served % p.entries, fieldAt b 8 8, (launchOf s (fieldAt b 4 4)).generation, fieldAt b 4 4,
        fieldAt b 0x10 8, fieldAt b 0x18 4⟩] ∧ (buf, 64) ∈ (queueOf t p.hostQueue).used ∧
      (launchOf t (fieldAt b 4 4)).eligible = false ∧
      ∀ x d y, ds = x ++ d :: y → (∀ e ∈ x, descWritable e = false) → descWritable d = true → 64 ≤ d.2.1 →
        readBytes t (hostKey d.1.toNat) 64 = b.take 0x28 ++ natLe 4 (launchOf s (fieldAt b 4 4)).generation ++ List.replicate 20 0) ∧
  (∀ (k buf : Nat) (s : State) (p : StoragePair) (ps : List Piece) (ds : List (DWord × Nat × Nat))
      (more : List (Nat × List (DWord × Nat × Nat))), s.storage.get? k = some p → p.served < pairValue s p false p.subSig →
    rangeOf s (hubView s p.ctx) false (p.subRing + 64 * (p.served % p.entries)) 64 = .ok ps →
    requestCause s p (readPieces s ps) ((posterOf p p.served).map fun q => (sqd s q).lid) = none → queueUp s p.hostQueue = true →
    (queueOf s p.hostQueue).avail = (buf, ds) :: more → chainFault s p.hostQueue (buf, ds) = none → writableLen ds < 16 →
    (queueOf s p.hostQueue).lost = false →
    ∃ t, exec (.storageRequestServe k) s = .next t ∧ t.storage = s.storage ∧ (buf, 0) ∈ (queueOf t p.hostQueue).used) ∧
  (∀ (k c : Nat) (s : State) (p : StoragePair) (ps : List Piece) (b : List Byte), s.storage.get? k = some p →
    p.served < pairValue s p false p.subSig → rangeOf s (hubView s p.ctx) false (p.subRing + 64 * (p.served % p.entries)) 64 = .ok ps →
    b = readPieces s ps → requestCause s p b ((posterOf p p.served).map fun q => (sqd s q).lid) = some c →
    ∃ u, u = countServed k (writeDone k (p.served % p.entries) (fieldAt b 8 8) 0xFFFFFFFF 0 s) ∧
      exec (.storageRequestServe k) s = .next (match posterOf p p.served with
        | some q => raiseDeferred q ⟨c, 0, 0, BitVec.ofNat 64 (p.subRing + 64 * (p.served % p.entries)), none, 0, false, true, false⟩ u
        | none => u)) ∧
  (∀ (k slot tag result done kc : Nat) (s : State) (p : StoragePair) (x : Piece), s.Canonical → s.storage.get? k = some p →
    (∀ e ∈ s.launches, 6 ≤ e.2.stage) → s.holds = [] → s.waits = [] → (agt s (queueAgent p.hostQueue)).place.onCore = false → tag < 2 ^ 64 → result < 2 ^ 32 →
    done < 2 ^ 32 → deviceKey s p.ctx true p.compSig = some kc → readNat s kc 8 < 2 ^ 64 - 1 →
    rangeOf s (hubView s p.ctx) true (p.compRing + 64 * slot) 16 = .ok [x] → x.win = none → x.len = 16 →
    (x.addr + 16 ≤ kc ∨ kc + 8 ≤ x.addr) →
    readNat (writeDone k slot tag result done s) x.addr 8 = tag ∧ readNat (writeDone k slot tag result done s) (x.addr + 8) 4 = result ∧
    readNat (writeDone k slot tag result done s) (x.addr + 12) 4 = done ∧
    readNat (writeDone k slot tag result done s) kc 8 = readNat s kc 8 + 1) ∧
  (∀ (q b k : Nat) (s s' : State) (p : StoragePair), InHand (q, b) ruleStorageDone s s' → k = argAt s' (q, b) 0 4 →
    ownsPair s' q k = true → s'.storage.get? k = some p →
    (∀ r ∈ p.out, ¬(r.gen = argAt s' (q, b) 4 4 ∧ r.tag = argAt s' (q, b) 8 8)) →
    ∃ t, exec (.storageDone q b) s = .next t ∧ Completed s' (q, b) 0x0C 0 0 t ∧ OnlyStatus s' (q, b) t ∧ t.storage = s'.storage) ∧
  (∀ (q b k : Nat) (s s' : State) (p : StoragePair) (r : StorageReq), InHand (q, b) ruleStorageDone s s' → k = argAt s' (q, b) 0 4 →
    ownsPair s' q k = true → s'.storage.get? k = some p →
    p.out.find? (fun r => r.gen == argAt s' (q, b) 4 4 && r.tag == argAt s' (q, b) 8 8) = some r →
    (bindingLive s' r = false → ∃ t x, exec (.storageDone q b) s = .next t ∧ Completed s' (q, b) 0x0C 0 0 t ∧ OnlyStatus s' (q, b) t ∧
      t.storage.get? k = some x ∧ x.out = p.out.erase r) ∧
    (bindingLive s' r = true → exec (.storageDone q b) s = .next (complete (q, b) 0 0 0
      (releaseHeld (s'.contexts.getD p.ctx default).part (writeDone k r.slot (argAt s' (q, b) 8 8) (argAt s' (q, b) 16 4)
        (argAt s' (q, b) 20 4) { s' with storage := s'.storage.adj k fun p => { p with out := p.out.erase r } })))))

/-- R321, R357, R362, R377: the debugger's commands stop, resume and step threads, claim, read and kill squads, those not loaded yet
among them, and set a dump buffer. -/
def Obligations.DebugCommandsAct : Prop :=
  ∀ (q b lid g : Nat) (s s' : State), InHand (q, b) ruleDebug s s' → lid = argAt s' (q, b) 4 4 → g = argAt s' (q, b) 8 4 →
    ZeroField s' (q, b) 1 3 → ZeroField s' (q, b) 36 4 →
    (launchOk s' q lid = true →
      (argAt s' (q, b) 0 1 = 1 → ∃ t, exec (.debugHalt q b) s = .next t ∧ Completed s' (q, b) 0 0 0 t ∧ OnlyStatus s' (q, b) t ∧
        (∀ p ∈ namedSquads s' lid g, ∀ u ∈ liveOf s' p, (thr t u).dbg = true ∧ (thr t u).pc = (thr s' u).pc) ∧
        ∀ n ∈ unloadedNumbers s' lid g, n ∈ (launchOf t lid).halted) ∧
      (argAt s' (q, b) 0 1 = 2 → s'.waits = [] → ∃ t, exec (.debugResume q b) s = .next t ∧ Completed s' (q, b) 0 0 0 t ∧ OnlyStatus s' (q, b) t ∧
        (∀ p ∈ namedSquads s' lid g, ∀ u ∈ liveOf s' p, (thr t u).dbg = false ∧ ((thr s' u).frozen = none →
          ((thr s' u).susp = none ∨ (thr s' u).inHandler = true) → (thr t u).pc = (thr s' u).pc)) ∧
        ∀ n, n ∈ (launchOf t lid).halted ↔ n ∈ (launchOf s' lid).halted ∧ g ≠ everySquad ∧ g ≠ n) ∧
      (argAt s' (q, b) 0 1 = 3 → ∃ t, exec (.debugStep q b) s = .next t ∧
        if ∀ p ∈ namedSquads s' lid g, (threadsOf s' p).filter (steppable s') = [] then Completed s' (q, b) 0 0 0 t
        else b ∈ (queueOf t q).inFlight ∧ t.mem = s'.mem ∧ SameRegisters s' t) ∧
      (argAt s' (q, b) 0 1 = 4 → ∃ t, exec (.debugClaim q b) s = .next t ∧ Completed s' (q, b) 0 0 0 t ∧ OnlyStatus s' (q, b) t ∧
        t.claims = (s'.claims.filter fun x => x.1 != lid) ++ [(lid, argAt s' (q, b) 32 4)]) ∧
      (∀ ps d, argAt s' (q, b) 0 1 = 5 → argAt s' (q, b) 16 8 % 16 = 0 → 64 ≤ argAt s' (q, b) 24 8 →
        d = dumpOf s' lid g (namedSquads s' lid g) (argAt s' (q, b) 24 8) →
        rangeOf s' (hubView s' (launchOf s' lid).ctx) true (argAt s' (q, b) 16 8) d.length = .ok ps → (∀ p ∈ ps, Quiet s' p.win) →
        ∃ t, exec (.debugRead q b) s = .next t ∧ Completed s' (q, b) 0 0 d.length t ∧
          MemoryOf s' (q, b) (hubStore (queueAgent q) (argAt s' (q, b) 16 8) ps d s') t) ∧
      (∀ u, argAt s' (q, b) 0 1 = 6 → u = (namedSquads s' lid g).foldl (fun s q => killSquad q s) (loseEligibility lid s') →
        exec (.debugKill q b) s = .next (complete (q, b) 0 0 0 (modLaunch lid
          (fun l => { l with killed := true, whole := l.whole || g == everySquad, killCode := 0x08, killDetail := g % 2 ^ 16 * 2 ^ 16 })
          (if g = everySquad then (launchOf u lid).blocks.foldl (fun s b => killUnloaded b s) u
            else (unloadedNumbers s' lid g).foldl (killLater lid) u))))) ∧
    (argAt s' (q, b) 0 1 = 7 → ContextOk s' (q, b) 12 → argAt s' (q, b) 16 8 % 16 = 0 → inWindows (argAt s' (q, b) 16 8) = false →
      ∃ t k, exec (.debugSetDump q b) s = .next t ∧ Completed s' (q, b) 0 0 0 t ∧ OnlyStatus s' (q, b) t ∧
        t.contexts.get? (argAt s' (q, b) 12 4) = some k ∧
        k.dump = if argAt s' (q, b) 24 8 = 0 then none
          else some (BitVec.ofNat 64 (argAt s' (q, b) 16 8), argAt s' (q, b) 24 8))

/-- R78, R84, R351, R375: contexts are created and destroyed, and an invalidation is accepted everywhere at once; one of an address in
the window range is refused with it. -/
def Says.ContextCommands : Prop :=
  (∀ (q b : Nat) (s s' : State), InHand (q, b) ruleContextCreate s s' → argAt s' (q, b) 0 8 % 4096 = 0 →
    deviceAddrOk (argAt s' (q, b) 0 8) = true → argAt s' (q, b) 8 4 < 2 ^ 20 → ZeroField s' (q, b) 12 4 →
    ∃ t n k, exec (.contextCreate q b) s = .next t ∧ Completed s' (q, b) 0 0 n t ∧ OnlyStatus s' (q, b) t ∧
      t.contexts.get? n = some k ∧ k.root = argAt s' (q, b) 0 8 ∧ k.pasid = argAt s' (q, b) 8 4 ∧
      ∀ p, partOfQueue s' q = some p → k.part = p) ∧
  (∀ (q b : Nat) (s s' : State), InHand (q, b) ruleContextDestroy s s' → ContextOk s' (q, b) 0 →
    ∃ t, exec (.contextDestroy q b) s = .next t ∧
      if ∃ e ∈ s'.storage, e.2.ctx = argAt s' (q, b) 0 4 ∧ e.2.out ≠ [] then t = s'
      else Completed s' (q, b) 0 0 0 t ∧ OnlyStatus s' (q, b) t ∧ t.contexts.get? (argAt s' (q, b) 0 4) = none ∧
        t.chains.get? (argAt s' (q, b) 0 4) = none) ∧
  (∀ (q b ctx va n : Nat) (s s' : State), InHand (q, b) ruleTlbInvalidate s s' → ContextOk s' (q, b) 16 → ZeroField s' (q, b) 20 4 →
    ctx = argAt s' (q, b) 16 4 → va = argAt s' (q, b) 0 8 → n = argAt s' (q, b) 8 8 → inWindows va = false →
    ∃ t, exec (.tlbInvalidate q b) s = .next t ∧ t.mem = s'.mem ∧ b ∈ (queueOf t q).inFlight ∧
      (∀ c ∈ t.cores, ∀ e ∈ c.2.tlb, ¬(e.ctx = ctx ∧ overlaps e.va (2 ^ e.size) va n = true)) ∧
      (∀ c ∈ t.l2tlb, ∀ e ∈ c.2, ¬(e.ctx = ctx ∧ overlaps e.va (2 ^ e.size) va n = true)) ∧
      ∃ i ∈ t.invals, i.ctx = ctx ∧ i.va = va ∧ i.size = n ∧ i.host = false ∧ i.cmd = some (q, b)) ∧
  (∀ (q b : Nat) (s s' : State), InHand (q, b) ruleTlbInvalidate s s' → ContextOk s' (q, b) 16 → ZeroField s' (q, b) 20 4 →
    inWindows (argAt s' (q, b) 0 8) = true → ∃ t, exec (.tlbInvalidate q b) s = .next t ∧
      Completed s' (q, b) 0x04 0 (argAt s' (q, b) 0 8) t ∧ OnlyStatus s' (q, b) t ∧ t.invals = s'.invals)

/-- R48, R54, R62, R69, R245, R259, R263: regions, tolerances, Cellar grants, partitions, event owners and Porter images. -/
def Says.ManagementCommands : Prop :=
  (∀ (q b : Nat) (s s' : State), InHand (q, b) ruleSetRegions s s' →
    ∃ t, exec (.setRegions q b) s = .next t ∧ OnlyStatus s' (q, b) t ∧
      match partOfQueue s' q with
      | none => Completed s' (q, b) 0x02 0 0 t ∧ t.partitions = s'.partitions
      | some p => Completed s' (q, b) 0 0 0 t ∧ (partOf t p).save.toNat = argAt s' (q, b) 0 8 ∧
          (partOf t p).saveSize.toNat = argAt s' (q, b) 8 8 ∧ (partOf t p).heap.toNat = argAt s' (q, b) 16 8 ∧
          (partOf t p).heapSize.toNat = argAt s' (q, b) 24 8) ∧
  (∀ (q b n : Nat) (s s' : State), InHand (q, b) ruleSetTolerance s s' →
    queueIndex s' (fnOfQueue s' q) (argAt s' (q, b) 0 2) = some n → ZeroField s' (q, b) 2 2 → argAt s' (q, b) 4 4 < 2 ^ 24 →
    ∃ t, exec (.setTolerance q b) s = .next t ∧ Completed s' (q, b) 0 0 0 t ∧ OnlyStatus s' (q, b) t ∧
      (queueOf t n).tol = argAt s' (q, b) 4 4) ∧
  (∀ (q b p : Nat) (s s' : State), InHand (q, b) ruleCellarGrant s s' → p = argAt s' (q, b) 0 1 → p < 8 →
    (argAt s' (q, b) 1 1 < 8 ∨ argAt s' (q, b) 1 1 = 0xFF) → ZeroField s' (q, b) 2 6 →
    argAt s' (q, b) 8 4 + argAt s' (q, b) 12 4 ≤ 3072 →
    grantsMeet s' p (diesOf (argAt s' (q, b) 1 1)) (argAt s' (q, b) 8 4) (argAt s' (q, b) 12 4) = false →
    ∃ t, exec (.cellarGrant q b) s = .next t ∧ Completed s' (q, b) 0 0 0 t ∧ OnlyStatus s' (q, b) t ∧
      (∀ d ∈ diesOf (argAt s' (q, b) 1 1), cellarGrant t p d = (argAt s' (q, b) 8 4 * 65536, argAt s' (q, b) 12 4 * 65536)) ∧
      (fnOf t (p + 1)).notified = (fnOf s' (p + 1)).notified +
        if deviceConfig t (p + 1) = deviceConfig s' (p + 1) then 0 else 1) ∧
  (∀ (q b p : Nat) (ks gs : List Nat) (s s' : State), InHand (q, b) rulePartition s s' → p = argAt s' (q, b) 0 1 → p < 8 →
    ZeroField s' (q, b) 1 7 → ks = clustersIn (argAt s' (q, b) 8 24) →
    gs = (List.range 64).filter (fun g => fld (argAt s' (q, b) 32 8) g 1 == 1) → 0 ∉ gs → s'.launches = [] → s'.fifos = [] →
    s'.blocks = [] →
    (∀ g ∈ groupsMoved s' (p + 1) gs, ∀ n ∈ groupQueues s' g, (queueOf s' n).fetched = []) →
    ∃ t, exec (.partition q b) s = .next t ∧ Completed s' (q, b) 0 0 0 t ∧ OnlyStatus s' (q, b) t ∧ (fnOf t (p + 1)).groups = gs ∧
      (partOf t p).clusters = (ks.filter fun k => !clusterOut s' k) ∧
      ∀ e ∈ t.partitions, e.1 ≠ p → ∀ k ∈ e.2.clusters, k ∉ ks) ∧
  (∀ (q b : Nat) (s s' : State), InHand (q, b) ruleEventRoute s s' → ZeroField s' (q, b) 2 6 →
    (∀ x ∈ s.claimants, ¬(x.queue = q ∧ x.buf = b)) →
    ∃ t, exec (.eventRoute q b) s = .next t ∧ OnlyStatus s' (q, b) t ∧ t.routes = s'.routes ∧
      if ownerAllowed (argAt s' (q, b) 0 1) (argAt s' (q, b) 1 1) = true ∧ ∀ x ∈ s'.claimants, x.cls ≠ argAt s' (q, b) 0 1 then
        b ∈ (queueOf t q).inFlight ∧ t.claimants = s'.claimants ++ [⟨argAt s' (q, b) 0 1, argAt s' (q, b) 1 1, q, b⟩]
      else Completed s' (q, b) 0x02 0 0 t ∧ t.claimants = s'.claimants) ∧
  (∀ (q b : Nat) (s : State) (x : Claimant), (s.claimants.find? fun x => x.queue == q && x.buf == b) = some x →
    holdsChain s (q, b) = true → ∃ t, exec (.eventRoute q b) s = .next t ∧ Completed s (q, b) 0 0 0 t ∧ OnlyStatus s (q, b) t ∧
      ownerOf t x.cls = x.owner ∧ t.claimants = s.claimants.erase x) ∧
  (∀ (q b : Nat) (x : List Byte) (gs : List Nat) (s s' : State), InHand (q, b) rulePorterImage s s' →
    x = readBytes s' (hostKey (argAt s' (q, b) 0 8)) (min (argAt s' (q, b) 8 8) (bodyLimit 2 + 64 + signatureLen)) →
    gs = (List.range 64).filter (fun g => fld (argAt s' (q, b) 16 8) g 1 == 1) →
    argAt s' (q, b) 8 8 = 64 + imageLength x + signatureLen →
    (∀ g ∈ gs, ∀ n ∈ groupQueues s' g, ∀ y ∈ (queueOf s' n).fetched, (n, y.1) = (q, b)) →
    ∃ t, exec (.porterImage q b) s = .next t ∧
      if imageOk s' 2 x = true ∧ fieldAt x 0x10 8 + imageLength x ≤ bodyLimit 2 then
        Completed s' (q, b) 0 0 0 t ∧ ∀ g ∈ gs, (porterOf t g).pc = BitVec.ofNat 32 (fieldAt x 0x18 8) ∧
          (porterOf t g).halted = false ∧ (porterOf t g).armed = [] ∧ (porterOf t g).image = x
      else Completed s' (q, b) 0x02 0 0 t ∧ t.porters = s'.porters)

/-- Contexts, invalidations, regions, tolerances, grants, partitions, routes and images (O52). -/
def Obligations.ContextsAndManagement : Prop := Says.ContextCommands ∧ Says.ManagementCommands

/-- Where the queue is its function's management queue, no record waits for it, and the driver has been told of every pseudo-channel that
holds no frames. -/
def NothingToTell (s : State) (q : Nat) : Prop :=
  mgmtQueue s (fnOfQueue s q) ≠ some q ∨
    (fnOf s (fnOfQueue s q)).records = [] ∧ ∀ x ∈ channelsOut s, x ∈ (fnOf s (fnOfQueue s q)).told

/-- R83, R241, R242, R244, R245, R261, R262, R264, R286, R291, R347, R349: configuration requests, the feature set, and queues that are
enabled, notified and mapped again. That QUEUE_NOTIFY carries the host's stores and what becomes of its ring is the model's choice (log
50); what a configuration request sets and answers is the model's reading (log 93). -/
def Says.Transport : Prop :=
  (∀ (fn alloc : Nat) (ats pri : Bool) (s : State), ∃ t, exec (.configurationRequest fn ats pri alloc) s = .next t ∧
    (8 < fn → t = s) ∧
    (fn ≤ 8 → s.stage < 8 → t = { s with cfgReply := t.cfgReply } ∧ t.cfgReply.get? fn = some none) ∧
    (fn ≤ 8 → 8 ≤ s.stage → t = { s with functions := t.functions, cfgReply := t.cfgReply } ∧
      (fnOf t fn).ats = ats ∧ (fnOf t fn).pri = pri ∧ (fnOf t fn).priAlloc = alloc ∧
      ((fnOf s fn).priWaiting = [] → fnOf t fn = { fnOf s fn with ats := ats, pri := pri, priAlloc := alloc }) ∧
      ∃ b, t.cfgReply.get? fn = some (some b) ∧ b.take 4 = [0xF4, 0x1A, 0x7C, 0x10] ∧
        (∀ p, fn = p + 1 → fieldAt (b.drop 4) 2 1 = p ∧ fieldAt (b.drop 4) 3 1 = (partOf s p).clusters.length % 256) ∧
        fieldAt (b.drop 4) 0 2 = s.devnum % 65536 ∧ fieldAt (b.drop 4) 8 2 = 16 * (fnOf s fn).groups.length % 65536)) ∧
  (∀ (fn accepted : Nat) (s : State), 8 ≤ s.stage → fn ≤ 8 → fld (fnOf s fn).status 3 1 = 0 →
    ∃ t, exec (.featuresOk fn accepted) s = .next t ∧
      if acceptable s fn accepted = true then
        t = { s with functions := t.functions } ∧ (fnOf t fn).features = accepted ∧ fld (fnOf t fn).status 3 1 = 1
      else t = s) ∧
  (∀ (fn accepted : Nat) (s : State), acceptable s fn accepted = true ↔
    (∀ n ∈ [0, 32, 33, 34, 36], fld accepted n 1 = 1) ∧ accepted < 2 ^ 64 ∧
    (∀ n < 64, fld accepted n 1 = 1 → n ∈ transportBits fn ∨ n ∈ deviceBits s fn) ∧
    (fld accepted 9 1 = 1 → (fnOf s fn).ats = true ∧ (fnOf s fn).pri = true)) ∧
  (∀ (q size area f : Nat) (s : State) (new : List (Nat × Nat)), q < 1024 → 64 ≤ size → size ≤ 1024 → (queueOf s q).enabled = false →
    queueHeld s q = true → f = fnOfQueue s q → fld (fnOf s f).status 3 1 = 1 → (queueOf s q).fetched = [] → (queueOf s q).avail = [] →
    new = ((channelsOut s).filter fun x => !(fnOf s f).told.contains x).take (256 - (fnOf s f).records.length) →
    ∃ t, exec (.queueEnable q ⟨size, area⟩) s = .next t ∧ t.mem = s.mem ∧ (queueOf t q).enabled = true ∧ (queueOf t q).mapped = true ∧
      (queueOf t q).size = size ∧ (queueOf t q).base = (queueOf s q).launches ∧ (queueOf t q).wrap = true ∧
      (queueOf t q).driverArea = area % 2 ^ 64 ∧ (queueOf t q).away = false ∧ (queueOf t q).shadow = false ∧
      ((queueOf s q).shadow = true → q % 16 ∈ (porterOf s (q / 16)).armed → q % 16 ∈ (porterOf t (q / 16)).fired) ∧
      (mgmtQueue s f = some q → (fnOf t f).told = (fnOf s f).told ++ new ∧
        (fnOf t f).records.length = (fnOf s f).records.length + new.length)) ∧
  (∀ (q data buf : Nat) (ds : Descriptors) (s : State), (queueOf s q).enabled = true → ds ≠ [] → NothingToTell s q →
    ∃ t, exec (.queueNotify q data buf ds [] 0) s = .next t ∧ t.mem = s.mem ∧
      (queueOf t q).avail = (queueOf s q).avail ++ [(buf % 2 ^ 16, ds)] ∧
      ((queueOf s q).mapped = false → (queueOf t q).shadow = true ∧ (queueOf t q).note = data ∧ t.porters = s.porters) ∧
      ((queueOf s q).mapped = true → q % 16 ∈ (porterOf s (q / 16)).armed →
        q % 16 ∈ (porterOf t (q / 16)).fired ∧ q % 16 ∉ (porterOf t (q / 16)).armed) ∧
      ((queueOf s q).mapped = true → q % 16 ∉ (porterOf s (q / 16)).armed → q % 16 ∈ (porterOf t (q / 16)).latched)) ∧
  (∀ (q data buf bad : Nat) (ds : Descriptors) (st : HostStores) (s u : State), u = st.foldl hostWrite s →
    exec (.queueNotify q data buf ds st bad) s = exec (.queueNotify q data buf ds [] bad) u ∧
    ((queueOf u q).enabled = false → (queueOf u q).away = false → exec (.queueNotify q data buf ds st bad) s = .next u) ∧
    ((queueOf u q).enabled = false → (queueOf u q).away = true → ∃ t, exec (.queueNotify q data buf ds st bad) s = .next t ∧
      t = { u with queues := t.queues } ∧ (queueOf t q).shadow = true ∧ (queueOf t q).note = data) ∧
    ((queueOf u q).enabled = true → bad % 3 = 2 → ∃ t, exec (.queueNotify q data buf ds st bad) s = .next t ∧
      t = { u with functions := t.functions } ∧
      (fnOf t (fnOfQueue u q)).needsReset = true ∧ fld (fnOf t (fnOfQueue u q)).status 6 1 = 1) ∧
    ((queueOf u q).enabled = true → NothingToTell u q → ∃ t, exec (.queueNotify q data buf ds st bad) s = .next t ∧
      (∀ d, bad % 3 = 1 → ds[bad / 3]? = some d → (buf % 2 ^ 16, d.1.toNat) ∈ (queueOf t q).unreached) ∧
      (bad % 3 = 0 → bad ≠ 0 → (queueOf t q).lost = true))) ∧
  (∀ (a : Nat) (bs : List Byte) (s : State), s.Canonical → a + bs.length ≤ 2 ^ 64 →
    readBytes (hostWrite s (a, bs)) (hostKey a) bs.length = bs ∧
    ∀ x, ¬(hostKey a ≤ x ∧ x < hostKey a + bs.length) → readByte (hostWrite s (a, bs)) x = readByte s x) ∧
  (∀ (q : Nat) (s : State), (queueOf s q).enabled = true → (queueOf s q).mapped = false → (porterOf s (q / 16)).halted = false →
    (∀ p, partOfQueue s q = some p → (partOf s p).frozen = false) → NothingToTell s q →
    ∃ t, exec (.queueRemap q) s = .next t ∧ t.mem = s.mem ∧ (queueOf t q).mapped = true ∧ (queueOf t q).shadow = false ∧
      ((queueOf s q).shadow = true → q % 16 ∈ (porterOf s (q / 16)).armed → q % 16 ∈ (porterOf t (q / 16)).fired))

/-- R345, R347, R350: a reset abandons the commands of its queues, empties the queues, and kills their live launches without a used
element; a freeze unmaps the partition's queues, and a resume maps them. A function reset drops the records that wait and keeps their
count (the model's choice, log 104). -/
def Says.ResetsAndMigration : Prop :=
  (∀ (q : Nat) (s : State), (∀ e ∈ s.launches, e.2.queue = q → e.2.ended = true) → (∀ x ∈ (queueOf s q).fetched, isRecordBuffer x.2 = true) →
    ∃ t, exec (.queueReset q) s = .next t ∧ t.mem = s.mem ∧ queueOf t q = (queueOf s q).cleared ∧ (queueOf t q).avail = [] ∧
      (queueOf t q).enabled = false) ∧
  (∀ (q b : Nat) (s : State) (ds : Descriptors), (∀ e ∈ s.launches, e.2.queue ≠ q) → (queueOf s q).fetched = [(b, ds)] →
    isRecordBuffer ds = false → ∃ t, exec (.queueReset q) s = .next t ∧ OnlyStatus s (q, b) t ∧
      (∃ k ∈ t.completions, k.queue = q ∧ k.buf = b ∧ k.status = 0x0D ∧ k.detail = 0 ∧ k.value = 0) ∧
      (queueOf t q).fetched = [] ∧ (queueOf t q).avail = [] ∧ (queueOf t q).enabled = false) ∧
  (∀ (q l : Nat) (s : State) (x : Launch), s.launches = [(l, x)] → x.queue = q → x.ended = false → squadsOf s l = [] → x.blocks = [] →
    (∀ y ∈ (queueOf s q).fetched, isRecordBuffer y.2 = true ∨ y.1 = x.buf) →
    ∃ t, exec (.queueReset q) s = .next t ∧ t.mem = s.mem ∧ queueOf t q = (queueOf s q).cleared ∧ (launchOf t l).killed = true ∧
      (launchOf t l).whole = true ∧ (launchOf t l).killCode = 0x08 ∧ (launchOf t l).abandoned = true ∧
      (launchOf t l).eligible = false) ∧
  (∀ (fn : Nat) (s : State), (∀ e ∈ s.launches, e.2.queue / 16 ∈ (fnOf s fn).groups → e.2.ended = true) →
    ∃ t, exec (.functionReset fn) s = .next t ∧ t.mem = s.mem ∧ (fnOf t fn).features = 0 ∧ (fnOf t fn).status = 0 ∧
      (fnOf t fn).needsReset = false ∧ (fnOf t fn).groups = (fnOf s fn).groups ∧ (fnOf t fn).records = [] ∧
      (fnOf t fn).seqNo = (fnOf s fn).seqNo ∧
      ∀ q, q / 16 ∈ (fnOf s fn).groups → queueOf t q = { (queueOf s q).cleared with away := true }) ∧
  (∀ (p : Nat) (s : State), (s.partitions.get? p).isSome → hasFeature s 0 11 = true →
    ∃ t, exec (.partitionFreeze p) s = .next t ∧ t.mem = s.mem ∧ (partOf t p).frozen = true ∧
      ∀ q ∈ partQueues s p, (queueOf t q).mapped = false) ∧
  (∀ (p : Nat) (s : State), (partOf s p).frozen = true → s.heldReqs = [] → (∀ e ∈ s.launches, 6 ≤ e.2.stage) → s.holds = [] →
    s.waits = [] → (∀ q ∈ partQueues s p, NothingToTell s q) →
    ∃ t, exec (.partitionResume p) s = .next t ∧ t.mem = s.mem ∧ (partOf t p).frozen = false ∧
      ∀ q ∈ partQueues s p, (queueOf s q).enabled = true → (queueOf t q).mapped = true)

/-- Configuration, features and queues; resets, freezes and resumes (O53). -/
def Obligations.TransportResetsAndMigration : Prop := Says.Transport ∧ Says.ResetsAndMigration

/-- The body of an image as it is loaded into a memory of `n` bytes: as much of it as lies there (log 105). -/
def loadedBody (b : List Byte) (n : Nat) : List Byte := ((b.drop 64).take (imageLength b)).take (n - fieldAt b 0x10 8)

/-- R286 to R292, Table 17.1: each stage follows the one before it, and ends where its conditions hold. What POWER_LOSS leaves is the
model's choice (log 70), and that every bring-up starts the default Porter image is its reading (log 39). -/
def Obligations.BringUpStages : Prop :=
  (∀ s, s.stage = 0 → ∃ t, exec .powerInputValid s = .next t ∧ t = { s with stage := 1, flash := t.flash, fresh := t.fresh } ∧
    (Config.newRecord s.fresh = none → t.flash = s.flash) ∧
    ∀ b, Config.newRecord s.fresh = some b →
      t.flash = if recordBytes (recordOf b) = b.take recordLen then recordOf b else s.flash) ∧
  (∀ s, s.stage = 1 → ∃ t, exec .strongroomBoot s = .next t ∧
    if recordSigned s.flash = true ∧ imageOk (readMinimum s) 0 (Config.flashImage 0) = true then
      t.stage = 2 ∧ t.firmware = shake (Config.flashImage 0) ∧ t.strongroom.running = true ∧
      t.strongroom.pc = BitVec.ofNat 32 (fieldAt (Config.flashImage 0) 0x18 8) ∧ t.strongroom.image = Config.flashImage 0 ∧
      t.config = (readMinimum s).config ∧ t.launches = s.launches ∧ (s.Canonical → readBytes t
        (strongKey (fieldAt (Config.flashImage 0) 0x10 8)) (loadedBody (Config.flashImage 0) strongSize).length =
          loadedBody (Config.flashImage 0) strongSize)
    else t = s) ∧
  (∀ s, s.stage = 2 → exec .strongroomInit s = .next (if Config.logValid = true then
    { s with stage := 3, config := s.flash, published := publishedKey, leafNext := s.counterMono * 1024, leafLimit := s.counterMono * 1024 }
    else s)) ∧
  (∀ s, s.stage = 3 → ∃ t, exec .hostClassStart s = .next t ∧
    if imageOk s 1 (Config.flashImage 1) = true then t.stage = 4 ∧ t.launches = s.launches ∧
      (s.Canonical → readBytes t (hostClassKey (fieldAt (Config.flashImage 1) 0x10 8))
        (loadedBody (Config.flashImage 1) hostCoreSize).length = loadedBody (Config.flashImage 1) hostCoreSize) ∧
      ∀ n < 8, ∃ k, t.hostCores.get? n = some k ∧ k.running = true ∧ k.image = Config.flashImage 1 ∧
        k.pc = BitVec.ofNat 64 (fieldAt (Config.flashImage 1) 0x18 8)
    else t = s) ∧
  (∀ s, s.stage = 4 → ∃ t, exec .hbmTrain s = .next t ∧
    t = { s with stage := 5, islands := t.islands, cores := t.cores, cellSpares := t.cellSpares } ∧
    (∀ i < 64, t.islands.get? i = some ⟨4, none, true, 450, s.config.trims.getD i []⟩) ∧
    (∀ b < 128, t.cellSpares.getD b 0 = cellSparesOf s b) ∧
    (∀ c < 1536, (cor t c).spares = if rowsOut s c = [] then (cor s c).spares else spareMap s c) ∧
    ∀ k, (k ∈ clustersOut s → ∀ c ∈ clusterCores k, (cor t c).mappedOut = true) ∧
      ∀ c, c ∉ (clustersOut s).flatMap clusterCores → (cor t c).mappedOut = (cor s c).mappedOut) ∧
  (∀ s, s.stage = 5 → ∃ t, exec .porterStart s = .next t ∧
    if imageOk s 2 (Config.flashImage 2) = true ∧ fieldAt (Config.flashImage 2) 7 1 = 0 then t.stage = 6 ∧ ∀ g < 64, (porterOf t g).halted = false ∧
      (porterOf t g).pc = BitVec.ofNat 32 (fieldAt (Config.flashImage 2) 0x18 8) ∧ (porterOf t g).image = Config.flashImage 2
    else t = s) ∧
  (∀ (dev ups : Nat) (s : State), s.stage = 6 → ∃ t, exec (.ternathTrain dev ups) s = .next t ∧ t.stage = 7 ∧
    t.devnum = (if dev < 1152 then dev else 0xFFFF) ∧ ∀ n < 36, fld ups n 1 = 1 → (portOf t n).up = true) ∧
  (∀ s, s.stage = 7 → ∃ t, exec .pcieEnable s = .next t ∧ t.stage = 8 ∧ t.shutDown = none ∧
    ∀ d, s.shutDown = some d → Raised ⟨7, 4, 0, none, 0, d, 0⟩ s t) ∧
  (∀ s, ∃ t, exec .powerLoss s = .next t ∧ t.stage = 0 ∧ t.flash = s.flash ∧ t.mapOuts = s.mapOuts ∧
    t.counterMono = s.counterMono ∧ t.contexts = [] ∧ t.launches = [] ∧ t.threads = [] ∧
    ∀ a, 2 ^ 64 ≤ a → a < 2 ^ 100 → ¬(hostClassKey 0 ≤ a ∧ a < hostClassKey hostCoreSize) → readByte t a = readByte s a) ∧
  (∀ (i : Instr) (n : Nat) (s : State), (i, n) ∈ [(Instr.powerInputValid, 1), (.strongroomBoot, 2), (.strongroomInit, 3),
      (.hostClassStart, 4), (.hbmTrain, 5), (.porterStart, 6), (.pcieEnable, 8)] → s.stage + 1 ≠ n → exec i s = .next s) ∧
  (∀ (dev ups : Nat) (s : State), s.stage ≠ 6 → exec (.ternathTrain dev ups) s = .next s)

/-- R71, R72, R293, R295, R323 to R325, R341, R365: operating points, throttling and shutdown, the link, patrols and refresh windows. How
far throttling lowers the islands and the width that a link needs (log 71), and where the patrol starts (log 87), are the model's
choices. -/
def Obligations.PowerLinksAndPatrols : Prop :=
  (∀ (n point : Nat) (s : State) (i : Island), s.islands.get? n = some i →
    ∃ t, exec (.operatingPointChange n point) s = .next t ∧ t = { s with islands := t.islands } ∧
      match i.target with
      | none => t.islands.get? n = some { i with target := some (min 7 point) }
      | some p => if ∀ c ∈ islandCores n, (cor s c).slots = [] then t.islands.get? n = some { i with
            point := p, target := none
            volt := if i.retention then i.volt else [530, 560, 590, 620, 650, 700, 750, 800].getD p 0 + 5 * (i.trims.getD p 0).toInt }
          else t = s) ∧
  (∀ (watts die temp point : Nat) (s : State) (i : Instr) (e : Event),
    (i = .powerAboveDesign watts point ∧ 3600 < watts ∧ e = ⟨7, 1, 0, none, 0, watts % 2 ^ 16, 0⟩ ∨
      i = .throttleTemperature die temp point ∧ die ≤ 8 ∧ 105 ≤ temp ∧
        e = ⟨7, 2, 0, none, 0, die % 16 + temp % 256 * 256, 0⟩) →
    ∃ t m, exec i s = .next t ∧ t.throttled = true ∧ Raised e s t ∧ m ≤ point ∧
      (∀ k x, s.islands.get? k = some x → ∃ y, t.islands.get? k = some y ∧ y.point = x.point ∧ y.volt = x.volt ∧
        y.aim = min x.aim m) ∧
      ((∃ k x, s.islands.get? k = some x ∧ point < x.aim) → m = point) ∧
      ((∃ k x, s.islands.get? k = some x ∧ 0 < x.aim) → (s.islands.keys.Nodup) → ∃ k x y, s.islands.get? k = some x ∧
        t.islands.get? k = some y ∧ y.aim < x.aim)) ∧
  (∀ s, ∃ t, exec .throttleEnd s = .next t ∧ t.throttled = false ∧
    (s.throttled = true → Raised ⟨7, 3, 0, none, 0, 0, 0⟩ s t) ∧ (s.throttled = false → t = s)) ∧
  (∀ (die temp : Nat) (s : State), die ≤ 8 → 115 ≤ temp → ∃ t, exec (.shutdownTemperature die temp) s = .next t ∧ t.stage = 0 ∧
    t.shutDown = some (die % 16 + temp % 256 * 256)) ∧
  (∀ (offer lanes : Nat) (s : State), ∃ t, exec (.pcieLinkTrain offer lanes) s = .next t ∧
    if 6 ≤ offer ∧ 16 ≤ lanes then t.pcieGen = (if offer = 6 then 6 else 7) ∧
      Raised ⟨3, 1, 0, none, 0, (if offer = 6 then 6 else 7) + 16 * 256, 0⟩ s t
    else t = s) ∧
  (∀ (fn bits : Nat) (c : Bool) (s : State), fn ≤ 8 → bits < 2 ^ 32 → ∃ t, exec (.pcieErrorLogged fn c bits) s = .next t ∧
    t.aer.get? fn = some (if c then ((s.aer.getD fn (0, 0)).1 ||| bits, (s.aer.getD fn (0, 0)).2)
      else ((s.aer.getD fn (0, 0)).1, (s.aer.getD fn (0, 0)).2 ||| bits))) ∧
  (∀ (fn addr len i : Nat) (s : State), deviceAddrOk addr = true → len ≠ 0 → deviceAddrOk (addr + len - 1) = true → i < len →
    ∃ t, exec (.poisonedTlpReceived fn addr len) s = .next t ∧ granule (addr + i) ∈ t.poison) ∧
  (∀ (k a : Nat) (s s' : State), k < 8 → a = patrolNext s k → s' = { s with patrol := s.patrol.put k (s.patrol.getD k 0 + 1) } →
    patrolNext s' k = k * 2 ^ 37 + ((a - k * 2 ^ 37) / 32 + 1) % (0x1800000000 / 32) * 32 ∧
    (∀ c, exec (.hbmPatrolRead k false c) s = .next s') ∧
    (∃ t, exec (.hbmPatrolRead k true true) s = .next t ∧ t = countCorrected (hbmResource a) (some a) s') ∧
    ∃ t, exec (.hbmPatrolRead k true false) s = .next t ∧
      Raised ⟨1, 2, 0, ownerOfResource s' (hbmResource a) (some a), 0, hbmResource a, a⟩ s t ∧
      (slotAt s a = none → a ∈ t.poison) ∧
      ∀ n lid l x, slotAt s a = some n → s.launches.get? lid = some l → x ∈ l.snapshots → x.slot = n →
        ∃ y ∈ (launchOf t lid).snapshots, y.slot = n ∧ granule (x.piece * 65536 + a % 65536) ∈ y.poison) ∧
  (∀ (r : Nat) (key : Option Nat) (s : State),
    (s.corrected.getD r 0 + 1 ≠ 256 → (countCorrected r key s).corrected.getD r 0 = s.corrected.getD r 0 + 1) ∧
    (s.corrected.getD r 0 + 1 = 256 → (countCorrected r key s).corrected.getD r 0 = 0 ∧
      Raised ⟨1, 1, 0, ownerOfResource s r key, 0, r, 0⟩ s (countCorrected r key s))) ∧
  (∀ (die off : Nat) (s : State), die < 8 → ∃ t, exec (.cellarRefreshWindowStart die off 0) s = .next t ∧
    t = { s with cellPhase := t.cellPhase } ∧
    t.cellPhase.getD die 0 = (s.cellPhase.getD die 0 / 1024 + 1) * 1024 % 16384) ∧
  (∀ (die : Nat) (s : State), die < 8 → ∃ t, exec (.cellarRefreshWindowEnd die) s = .next t ∧ t = { s with cellPhase := t.cellPhase } ∧
    (s.cellPhase.getD die 0 % 1024 < 256 → t.cellPhase.getD die 0 = s.cellPhase.getD die 0 / 1024 * 1024 + 256) ∧
    (256 ≤ s.cellPhase.getD die 0 % 1024 → t = s))

/-- Words of the spec's tables and examples, decoded (06 Tables 6.16 to 6.20; 11 R260). The length field of BFX holds LEN − 1. -/
def Obligations.DecodesSpecWords : Prop :=
  decode 0x00830184 = .ok (.iadd false 3 (.v 1) (.s 4)) ∧
  decode 0x1185FFFE = .ok (.movi false 5 0xFFFE) ∧
  decode 0x37060A02 = .ok (.ldwp false 6 10 2) ∧
  decode 0x808C1003 = .ok (.uadd false 6 2 3) ∧
  decode 0x8B840006 = .ok (.urds false 2 6) ∧
  decode 0x7D9FFFFD = .ok (.br 1 0xFFFFD) ∧
  decode 0 = .ok (.nop false) ∧ decode 0x80000000 = .ok (.unop false) ∧
  decode 0x40000000 = .ok (.nop true) ∧ decode 0xC0000000 = .ok (.unop true) ∧
  decodePorter 0x0005850B = .ok (.rfetch 10 11) ∧
  decodePorter 0x0685A50B = .ok (.bfx 10 11 8 3 0)

/-- R121, R122, R260: for every well-formed instruction that has a word, decoding the word gives the instruction back, with every
operand at every value the encoding admits. -/
def Obligations.EncodeDecode : Prop :=
  ∀ i : Instr, Laws.RoundTrip.Statement i

/-- R23, R301: the next word of the wave in an issue slot, fetched at the wave's program counter, is executed once its registers are
available; a word that is no instruction, as such; a word that cannot be fetched, reports its cause. The order of issue counts it. What
every step leaves behind beside it (`settled`) is said in StepRunsMoves. -/
def Says.StepRunsCoreWord : Prop :=
  ∀ (s r : State) (c k t : Nat) (rest : List Nat) (ms : List Move) (v : Wave), s.agenda = .issue c k :: ms →
    r = { s with agenda := ms } → (cor s c).slots.get? k = some v → v.active = t :: rest → v.slow = none → v.ending = [] →
    (∀ w i u, fetchAt r t v.pc = .word w → (decode w = .ok i ∨ (∃ e, decode w = .error e) ∧ i = .unimplementedEncoding w) →
      u = setCursor c k v.active v.pc w false r →
      (mayIssue u w = true → step s = settled (exec i (countIssue (readTokens (usesOf i) u))) ∧
        (cor (countIssue (readTokens (usesOf i) u)) c).issue = (cor s c).issue + 1) ∧
      (mayIssue u w = false → step s = settled (.next r))) ∧
    (∀ cause key, fetchAt r t v.pc = .bad cause key →
      step s = settled (.next (fetchFault cause key (setCursor c k v.active v.pc 0 false r)))) ∧
    (v.pc.toNat % 4 ≠ 0 → fetchAt r t v.pc = .bad 0x03 none)

/-- R258, R260: the next word of a Porter, read from its SRAM at its program counter, is executed when it is a word of the extension;
outside its SRAM the step faults, and another word is executed as the base set has it (a presumption of the model, log 76). -/
def Says.StepRunsPorterWord : Prop :=
  ∀ (s r : State) (p : Nat) (ms : List Move) (w : Word), s.agenda = .porter p :: ms → r = { s with agenda := ms } →
    w = BitVec.ofNat 32 (readNat s (sramKey p (porterOf s p).pc.toNat) 4) →
    ((porterOf s p).halted = true → step s = settled (.next r)) ∧
    ((porterOf s p).halted = false → 256 * 1024 < (porterOf s p).pc.toNat + 4 ∨ (porterOf s p).pc.toNat % 4 ≠ 0 →
      step s = .fault .porterFetch) ∧
    ((porterOf s p).halted = false → (porterOf s p).pc.toNat + 4 ≤ 256 * 1024 → (porterOf s p).pc.toNat % 4 = 0 →
      (∀ i, decodePorter w = .ok i → step s = settled (exec i { r with cur := ⟨p, 0, [], (porterOf s p).pc.zeroExtend 64, w, false⟩ })) ∧
      ∀ e, decodePorter w = .error e → step s = settled (.next (porterBase p w r))) ∧
    (w = 0x30200073 → (porterOf s p).halted = false → (porterOf s p).pc.toNat + 4 ≤ 256 * 1024 → (porterOf s p).pc.toNat % 4 = 0 →
      ∃ t, step s = settled (.next t) ∧ (porterOf t p).pc = (porterOf s p).mepc ∧ (porterOf t p).inException = false ∧
        (∀ n, (porterOf t p).get n = (porterOf s p).get n) ∧ t.mem = s.mem)

/-- A step with no encoding is the step it names; with nothing on the agenda the next move is the free one (log 2); an upset
poisons what it names, in the Garret the snapshot that stands there (R322). Every step then lets waits whose word has come to be poisoned
report it, and keeps what squads that have stopped show (R326, R363): where none waits and none has stopped, it leaves nothing. -/
def Says.StepRunsMoves : Prop :=
  (∀ (s : State) (i : Instr) (ms : List Move), s.agenda = .event i :: ms → isEvent i = true →
    step s = settled (exec i { s with agenda := ms })) ∧
  (∀ s : State, s.waits = [] → (∀ e ∈ s.squads, squadStopped s e.1 = false) → settled (.next s) = .next s) ∧
  (∀ s : State, s.agenda = [] → step s = step { s with agenda := [Config.freeMove s.fresh], fresh := s.fresh + 1 }) ∧
  (∀ (s : State) (t n : Nat) (ms : List Move), s.agenda = .upset (.v t n) :: ms → (s.threads.get? t).isSome →
    ∃ u, step s = settled (.next u) ∧ n ∈ (thr u t).poisonV ∧ u.mem = s.mem) ∧
  (∀ (s : State) (key : Nat) (ms : List Move), s.agenda = .upset (.mem key) :: ms → ¬(2 ^ 44 ≤ key ∧ key < 2 ^ 45) →
    (key < 2 ^ 40 → slotAt s key = none) → ∃ u, step s = settled (.next u) ∧ granule key ∈ u.poison ∧ u.mem = s.mem) ∧
  (∀ (s : State) (key n lid : Nat) (l : Launch) (x : Snapshot) (ms : List Move), s.agenda = .upset (.mem key) :: ms → key < 2 ^ 40 →
    slotAt s key = some n → s.launches.get? lid = some l → x ∈ l.snapshots → x.slot = n → ∃ u, step s = settled (.next u) ∧ u.mem = s.mem ∧
      ∃ y ∈ (launchOf u lid).snapshots, y.slot = n ∧ granule (x.piece * 65536 + key % 65536) ∈ y.poison) ∧
  ∀ (i : Instr) (s : State), encode i ≠ none → Laws.RoundTrip.decoderOf i = decode → execWord i s = exec i s

/-- A step runs the decoded word, or the move it names (O58). -/
def Obligations.StepRunsWhatItDecodes : Prop := Says.StepRunsCoreWord ∧ Says.StepRunsPorterWord ∧ Says.StepRunsMoves

/-- What the machine is right after reset: bring-up has not begun, no partition, context or launch stands, no register of a thread,
squad or Porter is held, and function 0 holds group 0 (R242, R286; the rest of the reset state is the model's choice, log 4). -/
def Obligations.ResetState : Prop :=
  State.reset.stage = 0 ∧ State.reset.contexts = [] ∧ State.reset.launches = [] ∧ State.reset.threads = [] ∧
  State.reset.squads = [] ∧ State.reset.partitions = [] ∧ State.reset.mem = [] ∧ State.reset.poison = [] ∧
  (fnOf State.reset 0).groups = [0] ∧ (∀ q, (queueOf State.reset q).enabled = false) ∧
  (∀ p, (porterOf State.reset p).halted = true) ∧ State.reset.Canonical ∧
  ∀ c k, step { State.reset with agenda := [.issue c k] } = .next State.reset

/-- Every step keeps memory in its canonical form: keys strictly rising, no entry equal to what an unlisted key reads as. -/
def Obligations.CanonicalKept : Prop := ∀ s t : State, s.Canonical → Steps s t → t.Canonical
end

