-- ==== Sys2Proof/Laws/State.lean ====
section
/-! SUPPORT. One lemma for each field of State and each update of it: what the update leaves alone, and what it writes. -/

namespace Sys2Proof.Machine

/-! ### modThread -/

@[simp] theorem modThread_fresh (t : Nat) (f : Thread → Thread) (s : State) : (modThread t f s).fresh = s.fresh := rfl
@[simp] theorem modThread_agenda (t : Nat) (f : Thread → Thread) (s : State) : (modThread t f s).agenda = s.agenda := rfl
@[simp] theorem modThread_cur (t : Nat) (f : Thread → Thread) (s : State) : (modThread t f s).cur = s.cur := rfl
@[simp] theorem modThread_mem (t : Nat) (f : Thread → Thread) (s : State) : (modThread t f s).mem = s.mem := rfl
@[simp] theorem modThread_poison (t : Nat) (f : Thread → Thread) (s : State) : (modThread t f s).poison = s.poison := rfl
@[simp] theorem modThread_corrected (t : Nat) (f : Thread → Thread) (s : State) : (modThread t f s).corrected = s.corrected := rfl
@[simp] theorem modThread_writers (t : Nat) (f : Thread → Thread) (s : State) : (modThread t f s).writers = s.writers := rfl
@[simp] theorem modThread_squads (t : Nat) (f : Thread → Thread) (s : State) : (modThread t f s).squads = s.squads := rfl
@[simp] theorem modThread_blocks (t : Nat) (f : Thread → Thread) (s : State) : (modThread t f s).blocks = s.blocks := rfl
@[simp] theorem modThread_gangs (t : Nat) (f : Thread → Thread) (s : State) : (modThread t f s).gangs = s.gangs := rfl
@[simp] theorem modThread_cores (t : Nat) (f : Thread → Thread) (s : State) : (modThread t f s).cores = s.cores := rfl
@[simp] theorem modThread_l2tlb (t : Nat) (f : Thread → Thread) (s : State) : (modThread t f s).l2tlb = s.l2tlb := rfl
@[simp] theorem modThread_agents (t : Nat) (f : Thread → Thread) (s : State) : (modThread t f s).agents = s.agents := rfl
@[simp] theorem modThread_pendRels (t : Nat) (f : Thread → Thread) (s : State) : (modThread t f s).pendRels = s.pendRels := rfl
@[simp] theorem modThread_syncs (t : Nat) (f : Thread → Thread) (s : State) : (modThread t f s).syncs = s.syncs := rfl
@[simp] theorem modThread_releases (t : Nat) (f : Thread → Thread) (s : State) : (modThread t f s).releases = s.releases := rfl
@[simp] theorem modThread_waits (t : Nat) (f : Thread → Thread) (s : State) : (modThread t f s).waits = s.waits := rfl
@[simp] theorem modThread_cmds (t : Nat) (f : Thread → Thread) (s : State) : (modThread t f s).cmds = s.cmds := rfl
@[simp] theorem modThread_claimants (t : Nat) (f : Thread → Thread) (s : State) : (modThread t f s).claimants = s.claimants := rfl
@[simp] theorem modThread_flash (t : Nat) (f : Thread → Thread) (s : State) : (modThread t f s).flash = s.flash := rfl
@[simp] theorem modThread_patrol (t : Nat) (f : Thread → Thread) (s : State) : (modThread t f s).patrol = s.patrol := rfl
@[simp] theorem modThread_cfgReply (t : Nat) (f : Thread → Thread) (s : State) : (modThread t f s).cfgReply = s.cfgReply := rfl
@[simp] theorem modThread_hostCores (t : Nat) (f : Thread → Thread) (s : State) : (modThread t f s).hostCores = s.hostCores := rfl
@[simp] theorem modThread_strongroom (t : Nat) (f : Thread → Thread) (s : State) : (modThread t f s).strongroom = s.strongroom := rfl
@[simp] theorem modThread_launches (t : Nat) (f : Thread → Thread) (s : State) : (modThread t f s).launches = s.launches := rfl
@[simp] theorem modThread_fifos (t : Nat) (f : Thread → Thread) (s : State) : (modThread t f s).fifos = s.fifos := rfl
@[simp] theorem modThread_holds (t : Nat) (f : Thread → Thread) (s : State) : (modThread t f s).holds = s.holds := rfl
@[simp] theorem modThread_contexts (t : Nat) (f : Thread → Thread) (s : State) : (modThread t f s).contexts = s.contexts := rfl
@[simp] theorem modThread_chains (t : Nat) (f : Thread → Thread) (s : State) : (modThread t f s).chains = s.chains := rfl
@[simp] theorem modThread_partitions (t : Nat) (f : Thread → Thread) (s : State) : (modThread t f s).partitions = s.partitions := rfl
@[simp] theorem modThread_functions (t : Nat) (f : Thread → Thread) (s : State) : (modThread t f s).functions = s.functions := rfl
@[simp] theorem modThread_queues (t : Nat) (f : Thread → Thread) (s : State) : (modThread t f s).queues = s.queues := rfl
@[simp] theorem modThread_porters (t : Nat) (f : Thread → Thread) (s : State) : (modThread t f s).porters = s.porters := rfl
@[simp] theorem modThread_exports (t : Nat) (f : Thread → Thread) (s : State) : (modThread t f s).exports = s.exports := rfl
@[simp] theorem modThread_pubs (t : Nat) (f : Thread → Thread) (s : State) : (modThread t f s).pubs = s.pubs := rfl
@[simp] theorem modThread_storage (t : Nat) (f : Thread → Thread) (s : State) : (modThread t f s).storage = s.storage := rfl
@[simp] theorem modThread_claims (t : Nat) (f : Thread → Thread) (s : State) : (modThread t f s).claims = s.claims := rfl
@[simp] theorem modThread_ats (t : Nat) (f : Thread → Thread) (s : State) : (modThread t f s).ats = s.ats := rfl
@[simp] theorem modThread_hubDeny (t : Nat) (f : Thread → Thread) (s : State) : (modThread t f s).hubDeny = s.hubDeny := rfl
@[simp] theorem modThread_captures (t : Nat) (f : Thread → Thread) (s : State) : (modThread t f s).captures = s.captures := rfl
@[simp] theorem modThread_revokes (t : Nat) (f : Thread → Thread) (s : State) : (modThread t f s).revokes = s.revokes := rfl
@[simp] theorem modThread_hubCopies (t : Nat) (f : Thread → Thread) (s : State) : (modThread t f s).hubCopies = s.hubCopies := rfl
@[simp] theorem modThread_published (t : Nat) (f : Thread → Thread) (s : State) : (modThread t f s).published = s.published := rfl
@[simp] theorem modThread_invals (t : Nat) (f : Thread → Thread) (s : State) : (modThread t f s).invals = s.invals := rfl
@[simp] theorem modThread_fills (t : Nat) (f : Thread → Thread) (s : State) : (modThread t f s).fills = s.fills := rfl
@[simp] theorem modThread_routes (t : Nat) (f : Thread → Thread) (s : State) : (modThread t f s).routes = s.routes := rfl
@[simp] theorem modThread_events (t : Nat) (f : Thread → Thread) (s : State) : (modThread t f s).events = s.events := rfl
@[simp] theorem modThread_completions (t : Nat) (f : Thread → Thread) (s : State) : (modThread t f s).completions = s.completions := rfl
@[simp] theorem modThread_stage (t : Nat) (f : Thread → Thread) (s : State) : (modThread t f s).stage = s.stage := rfl
@[simp] theorem modThread_config (t : Nat) (f : Thread → Thread) (s : State) : (modThread t f s).config = s.config := rfl
@[simp] theorem modThread_mapOuts (t : Nat) (f : Thread → Thread) (s : State) : (modThread t f s).mapOuts = s.mapOuts := rfl
@[simp] theorem modThread_cellPhase (t : Nat) (f : Thread → Thread) (s : State) : (modThread t f s).cellPhase = s.cellPhase := rfl
@[simp] theorem modThread_cellBad (t : Nat) (f : Thread → Thread) (s : State) : (modThread t f s).cellBad = s.cellBad := rfl
@[simp] theorem modThread_cellSpares (t : Nat) (f : Thread → Thread) (s : State) : (modThread t f s).cellSpares = s.cellSpares := rfl
@[simp] theorem modThread_heldReqs (t : Nat) (f : Thread → Thread) (s : State) : (modThread t f s).heldReqs = s.heldReqs := rfl
@[simp] theorem modThread_islands (t : Nat) (f : Thread → Thread) (s : State) : (modThread t f s).islands = s.islands := rfl
@[simp] theorem modThread_ports (t : Nat) (f : Thread → Thread) (s : State) : (modThread t f s).ports = s.ports := rfl
@[simp] theorem modThread_counterMono (t : Nat) (f : Thread → Thread) (s : State) : (modThread t f s).counterMono = s.counterMono := rfl
@[simp] theorem modThread_leafNext (t : Nat) (f : Thread → Thread) (s : State) : (modThread t f s).leafNext = s.leafNext := rfl
@[simp] theorem modThread_leafLimit (t : Nat) (f : Thread → Thread) (s : State) : (modThread t f s).leafLimit = s.leafLimit := rfl
@[simp] theorem modThread_firmware (t : Nat) (f : Thread → Thread) (s : State) : (modThread t f s).firmware = s.firmware := rfl
@[simp] theorem modThread_devnum (t : Nat) (f : Thread → Thread) (s : State) : (modThread t f s).devnum = s.devnum := rfl
@[simp] theorem modThread_throttled (t : Nat) (f : Thread → Thread) (s : State) : (modThread t f s).throttled = s.throttled := rfl
@[simp] theorem modThread_shutDown (t : Nat) (f : Thread → Thread) (s : State) : (modThread t f s).shutDown = s.shutDown := rfl
@[simp] theorem modThread_pcieGen (t : Nat) (f : Thread → Thread) (s : State) : (modThread t f s).pcieGen = s.pcieGen := rfl
@[simp] theorem modThread_aer (t : Nat) (f : Thread → Thread) (s : State) : (modThread t f s).aer = s.aer := rfl
@[simp] theorem modThread_nextId (t : Nat) (f : Thread → Thread) (s : State) : (modThread t f s).nextId = s.nextId := rfl

/-! ### modSquad -/

@[simp] theorem modSquad_fresh (q : Nat) (f : Squad → Squad) (s : State) : (modSquad q f s).fresh = s.fresh := rfl
@[simp] theorem modSquad_agenda (q : Nat) (f : Squad → Squad) (s : State) : (modSquad q f s).agenda = s.agenda := rfl
@[simp] theorem modSquad_cur (q : Nat) (f : Squad → Squad) (s : State) : (modSquad q f s).cur = s.cur := rfl
@[simp] theorem modSquad_mem (q : Nat) (f : Squad → Squad) (s : State) : (modSquad q f s).mem = s.mem := rfl
@[simp] theorem modSquad_poison (q : Nat) (f : Squad → Squad) (s : State) : (modSquad q f s).poison = s.poison := rfl
@[simp] theorem modSquad_corrected (q : Nat) (f : Squad → Squad) (s : State) : (modSquad q f s).corrected = s.corrected := rfl
@[simp] theorem modSquad_writers (q : Nat) (f : Squad → Squad) (s : State) : (modSquad q f s).writers = s.writers := rfl
@[simp] theorem modSquad_threads (q : Nat) (f : Squad → Squad) (s : State) : (modSquad q f s).threads = s.threads := rfl
@[simp] theorem modSquad_blocks (q : Nat) (f : Squad → Squad) (s : State) : (modSquad q f s).blocks = s.blocks := rfl
@[simp] theorem modSquad_gangs (q : Nat) (f : Squad → Squad) (s : State) : (modSquad q f s).gangs = s.gangs := rfl
@[simp] theorem modSquad_cores (q : Nat) (f : Squad → Squad) (s : State) : (modSquad q f s).cores = s.cores := rfl
@[simp] theorem modSquad_l2tlb (q : Nat) (f : Squad → Squad) (s : State) : (modSquad q f s).l2tlb = s.l2tlb := rfl
@[simp] theorem modSquad_agents (q : Nat) (f : Squad → Squad) (s : State) : (modSquad q f s).agents = s.agents := rfl
@[simp] theorem modSquad_pendRels (q : Nat) (f : Squad → Squad) (s : State) : (modSquad q f s).pendRels = s.pendRels := rfl
@[simp] theorem modSquad_syncs (q : Nat) (f : Squad → Squad) (s : State) : (modSquad q f s).syncs = s.syncs := rfl
@[simp] theorem modSquad_releases (q : Nat) (f : Squad → Squad) (s : State) : (modSquad q f s).releases = s.releases := rfl
@[simp] theorem modSquad_waits (q : Nat) (f : Squad → Squad) (s : State) : (modSquad q f s).waits = s.waits := rfl
@[simp] theorem modSquad_cmds (q : Nat) (f : Squad → Squad) (s : State) : (modSquad q f s).cmds = s.cmds := rfl
@[simp] theorem modSquad_claimants (q : Nat) (f : Squad → Squad) (s : State) : (modSquad q f s).claimants = s.claimants := rfl
@[simp] theorem modSquad_flash (q : Nat) (f : Squad → Squad) (s : State) : (modSquad q f s).flash = s.flash := rfl
@[simp] theorem modSquad_patrol (q : Nat) (f : Squad → Squad) (s : State) : (modSquad q f s).patrol = s.patrol := rfl
@[simp] theorem modSquad_cfgReply (q : Nat) (f : Squad → Squad) (s : State) : (modSquad q f s).cfgReply = s.cfgReply := rfl
@[simp] theorem modSquad_hostCores (q : Nat) (f : Squad → Squad) (s : State) : (modSquad q f s).hostCores = s.hostCores := rfl
@[simp] theorem modSquad_strongroom (q : Nat) (f : Squad → Squad) (s : State) : (modSquad q f s).strongroom = s.strongroom := rfl
@[simp] theorem modSquad_launches (q : Nat) (f : Squad → Squad) (s : State) : (modSquad q f s).launches = s.launches := rfl
@[simp] theorem modSquad_fifos (q : Nat) (f : Squad → Squad) (s : State) : (modSquad q f s).fifos = s.fifos := rfl
@[simp] theorem modSquad_holds (q : Nat) (f : Squad → Squad) (s : State) : (modSquad q f s).holds = s.holds := rfl
@[simp] theorem modSquad_contexts (q : Nat) (f : Squad → Squad) (s : State) : (modSquad q f s).contexts = s.contexts := rfl
@[simp] theorem modSquad_chains (q : Nat) (f : Squad → Squad) (s : State) : (modSquad q f s).chains = s.chains := rfl
@[simp] theorem modSquad_partitions (q : Nat) (f : Squad → Squad) (s : State) : (modSquad q f s).partitions = s.partitions := rfl
@[simp] theorem modSquad_functions (q : Nat) (f : Squad → Squad) (s : State) : (modSquad q f s).functions = s.functions := rfl
@[simp] theorem modSquad_queues (q : Nat) (f : Squad → Squad) (s : State) : (modSquad q f s).queues = s.queues := rfl
@[simp] theorem modSquad_porters (q : Nat) (f : Squad → Squad) (s : State) : (modSquad q f s).porters = s.porters := rfl
@[simp] theorem modSquad_exports (q : Nat) (f : Squad → Squad) (s : State) : (modSquad q f s).exports = s.exports := rfl
@[simp] theorem modSquad_pubs (q : Nat) (f : Squad → Squad) (s : State) : (modSquad q f s).pubs = s.pubs := rfl
@[simp] theorem modSquad_storage (q : Nat) (f : Squad → Squad) (s : State) : (modSquad q f s).storage = s.storage := rfl
@[simp] theorem modSquad_claims (q : Nat) (f : Squad → Squad) (s : State) : (modSquad q f s).claims = s.claims := rfl
@[simp] theorem modSquad_ats (q : Nat) (f : Squad → Squad) (s : State) : (modSquad q f s).ats = s.ats := rfl
@[simp] theorem modSquad_hubDeny (q : Nat) (f : Squad → Squad) (s : State) : (modSquad q f s).hubDeny = s.hubDeny := rfl
@[simp] theorem modSquad_captures (q : Nat) (f : Squad → Squad) (s : State) : (modSquad q f s).captures = s.captures := rfl
@[simp] theorem modSquad_revokes (q : Nat) (f : Squad → Squad) (s : State) : (modSquad q f s).revokes = s.revokes := rfl
@[simp] theorem modSquad_hubCopies (q : Nat) (f : Squad → Squad) (s : State) : (modSquad q f s).hubCopies = s.hubCopies := rfl
@[simp] theorem modSquad_published (q : Nat) (f : Squad → Squad) (s : State) : (modSquad q f s).published = s.published := rfl
@[simp] theorem modSquad_invals (q : Nat) (f : Squad → Squad) (s : State) : (modSquad q f s).invals = s.invals := rfl
@[simp] theorem modSquad_fills (q : Nat) (f : Squad → Squad) (s : State) : (modSquad q f s).fills = s.fills := rfl
@[simp] theorem modSquad_routes (q : Nat) (f : Squad → Squad) (s : State) : (modSquad q f s).routes = s.routes := rfl
@[simp] theorem modSquad_events (q : Nat) (f : Squad → Squad) (s : State) : (modSquad q f s).events = s.events := rfl
@[simp] theorem modSquad_completions (q : Nat) (f : Squad → Squad) (s : State) : (modSquad q f s).completions = s.completions := rfl
@[simp] theorem modSquad_stage (q : Nat) (f : Squad → Squad) (s : State) : (modSquad q f s).stage = s.stage := rfl
@[simp] theorem modSquad_config (q : Nat) (f : Squad → Squad) (s : State) : (modSquad q f s).config = s.config := rfl
@[simp] theorem modSquad_mapOuts (q : Nat) (f : Squad → Squad) (s : State) : (modSquad q f s).mapOuts = s.mapOuts := rfl
@[simp] theorem modSquad_cellPhase (q : Nat) (f : Squad → Squad) (s : State) : (modSquad q f s).cellPhase = s.cellPhase := rfl
@[simp] theorem modSquad_cellBad (q : Nat) (f : Squad → Squad) (s : State) : (modSquad q f s).cellBad = s.cellBad := rfl
@[simp] theorem modSquad_cellSpares (q : Nat) (f : Squad → Squad) (s : State) : (modSquad q f s).cellSpares = s.cellSpares := rfl
@[simp] theorem modSquad_heldReqs (q : Nat) (f : Squad → Squad) (s : State) : (modSquad q f s).heldReqs = s.heldReqs := rfl
@[simp] theorem modSquad_islands (q : Nat) (f : Squad → Squad) (s : State) : (modSquad q f s).islands = s.islands := rfl
@[simp] theorem modSquad_ports (q : Nat) (f : Squad → Squad) (s : State) : (modSquad q f s).ports = s.ports := rfl
@[simp] theorem modSquad_counterMono (q : Nat) (f : Squad → Squad) (s : State) : (modSquad q f s).counterMono = s.counterMono := rfl
@[simp] theorem modSquad_leafNext (q : Nat) (f : Squad → Squad) (s : State) : (modSquad q f s).leafNext = s.leafNext := rfl
@[simp] theorem modSquad_leafLimit (q : Nat) (f : Squad → Squad) (s : State) : (modSquad q f s).leafLimit = s.leafLimit := rfl
@[simp] theorem modSquad_firmware (q : Nat) (f : Squad → Squad) (s : State) : (modSquad q f s).firmware = s.firmware := rfl
@[simp] theorem modSquad_devnum (q : Nat) (f : Squad → Squad) (s : State) : (modSquad q f s).devnum = s.devnum := rfl
@[simp] theorem modSquad_throttled (q : Nat) (f : Squad → Squad) (s : State) : (modSquad q f s).throttled = s.throttled := rfl
@[simp] theorem modSquad_shutDown (q : Nat) (f : Squad → Squad) (s : State) : (modSquad q f s).shutDown = s.shutDown := rfl
@[simp] theorem modSquad_pcieGen (q : Nat) (f : Squad → Squad) (s : State) : (modSquad q f s).pcieGen = s.pcieGen := rfl
@[simp] theorem modSquad_aer (q : Nat) (f : Squad → Squad) (s : State) : (modSquad q f s).aer = s.aer := rfl
@[simp] theorem modSquad_nextId (q : Nat) (f : Squad → Squad) (s : State) : (modSquad q f s).nextId = s.nextId := rfl

/-! ### modBlock -/

@[simp] theorem modBlock_fresh (b : Nat) (f : Block → Block) (s : State) : (modBlock b f s).fresh = s.fresh := rfl
@[simp] theorem modBlock_agenda (b : Nat) (f : Block → Block) (s : State) : (modBlock b f s).agenda = s.agenda := rfl
@[simp] theorem modBlock_cur (b : Nat) (f : Block → Block) (s : State) : (modBlock b f s).cur = s.cur := rfl
@[simp] theorem modBlock_mem (b : Nat) (f : Block → Block) (s : State) : (modBlock b f s).mem = s.mem := rfl
@[simp] theorem modBlock_poison (b : Nat) (f : Block → Block) (s : State) : (modBlock b f s).poison = s.poison := rfl
@[simp] theorem modBlock_corrected (b : Nat) (f : Block → Block) (s : State) : (modBlock b f s).corrected = s.corrected := rfl
@[simp] theorem modBlock_writers (b : Nat) (f : Block → Block) (s : State) : (modBlock b f s).writers = s.writers := rfl
@[simp] theorem modBlock_threads (b : Nat) (f : Block → Block) (s : State) : (modBlock b f s).threads = s.threads := rfl
@[simp] theorem modBlock_squads (b : Nat) (f : Block → Block) (s : State) : (modBlock b f s).squads = s.squads := rfl
@[simp] theorem modBlock_gangs (b : Nat) (f : Block → Block) (s : State) : (modBlock b f s).gangs = s.gangs := rfl
@[simp] theorem modBlock_cores (b : Nat) (f : Block → Block) (s : State) : (modBlock b f s).cores = s.cores := rfl
@[simp] theorem modBlock_l2tlb (b : Nat) (f : Block → Block) (s : State) : (modBlock b f s).l2tlb = s.l2tlb := rfl
@[simp] theorem modBlock_agents (b : Nat) (f : Block → Block) (s : State) : (modBlock b f s).agents = s.agents := rfl
@[simp] theorem modBlock_pendRels (b : Nat) (f : Block → Block) (s : State) : (modBlock b f s).pendRels = s.pendRels := rfl
@[simp] theorem modBlock_syncs (b : Nat) (f : Block → Block) (s : State) : (modBlock b f s).syncs = s.syncs := rfl
@[simp] theorem modBlock_releases (b : Nat) (f : Block → Block) (s : State) : (modBlock b f s).releases = s.releases := rfl
@[simp] theorem modBlock_waits (b : Nat) (f : Block → Block) (s : State) : (modBlock b f s).waits = s.waits := rfl
@[simp] theorem modBlock_cmds (b : Nat) (f : Block → Block) (s : State) : (modBlock b f s).cmds = s.cmds := rfl
@[simp] theorem modBlock_claimants (b : Nat) (f : Block → Block) (s : State) : (modBlock b f s).claimants = s.claimants := rfl
@[simp] theorem modBlock_flash (b : Nat) (f : Block → Block) (s : State) : (modBlock b f s).flash = s.flash := rfl
@[simp] theorem modBlock_patrol (b : Nat) (f : Block → Block) (s : State) : (modBlock b f s).patrol = s.patrol := rfl
@[simp] theorem modBlock_cfgReply (b : Nat) (f : Block → Block) (s : State) : (modBlock b f s).cfgReply = s.cfgReply := rfl
@[simp] theorem modBlock_hostCores (b : Nat) (f : Block → Block) (s : State) : (modBlock b f s).hostCores = s.hostCores := rfl
@[simp] theorem modBlock_strongroom (b : Nat) (f : Block → Block) (s : State) : (modBlock b f s).strongroom = s.strongroom := rfl
@[simp] theorem modBlock_launches (b : Nat) (f : Block → Block) (s : State) : (modBlock b f s).launches = s.launches := rfl
@[simp] theorem modBlock_fifos (b : Nat) (f : Block → Block) (s : State) : (modBlock b f s).fifos = s.fifos := rfl
@[simp] theorem modBlock_holds (b : Nat) (f : Block → Block) (s : State) : (modBlock b f s).holds = s.holds := rfl
@[simp] theorem modBlock_contexts (b : Nat) (f : Block → Block) (s : State) : (modBlock b f s).contexts = s.contexts := rfl
@[simp] theorem modBlock_chains (b : Nat) (f : Block → Block) (s : State) : (modBlock b f s).chains = s.chains := rfl
@[simp] theorem modBlock_partitions (b : Nat) (f : Block → Block) (s : State) : (modBlock b f s).partitions = s.partitions := rfl
@[simp] theorem modBlock_functions (b : Nat) (f : Block → Block) (s : State) : (modBlock b f s).functions = s.functions := rfl
@[simp] theorem modBlock_queues (b : Nat) (f : Block → Block) (s : State) : (modBlock b f s).queues = s.queues := rfl
@[simp] theorem modBlock_porters (b : Nat) (f : Block → Block) (s : State) : (modBlock b f s).porters = s.porters := rfl
@[simp] theorem modBlock_exports (b : Nat) (f : Block → Block) (s : State) : (modBlock b f s).exports = s.exports := rfl
@[simp] theorem modBlock_pubs (b : Nat) (f : Block → Block) (s : State) : (modBlock b f s).pubs = s.pubs := rfl
@[simp] theorem modBlock_storage (b : Nat) (f : Block → Block) (s : State) : (modBlock b f s).storage = s.storage := rfl
@[simp] theorem modBlock_claims (b : Nat) (f : Block → Block) (s : State) : (modBlock b f s).claims = s.claims := rfl
@[simp] theorem modBlock_ats (b : Nat) (f : Block → Block) (s : State) : (modBlock b f s).ats = s.ats := rfl
@[simp] theorem modBlock_hubDeny (b : Nat) (f : Block → Block) (s : State) : (modBlock b f s).hubDeny = s.hubDeny := rfl
@[simp] theorem modBlock_captures (b : Nat) (f : Block → Block) (s : State) : (modBlock b f s).captures = s.captures := rfl
@[simp] theorem modBlock_revokes (b : Nat) (f : Block → Block) (s : State) : (modBlock b f s).revokes = s.revokes := rfl
@[simp] theorem modBlock_hubCopies (b : Nat) (f : Block → Block) (s : State) : (modBlock b f s).hubCopies = s.hubCopies := rfl
@[simp] theorem modBlock_published (b : Nat) (f : Block → Block) (s : State) : (modBlock b f s).published = s.published := rfl
@[simp] theorem modBlock_invals (b : Nat) (f : Block → Block) (s : State) : (modBlock b f s).invals = s.invals := rfl
@[simp] theorem modBlock_fills (b : Nat) (f : Block → Block) (s : State) : (modBlock b f s).fills = s.fills := rfl
@[simp] theorem modBlock_routes (b : Nat) (f : Block → Block) (s : State) : (modBlock b f s).routes = s.routes := rfl
@[simp] theorem modBlock_events (b : Nat) (f : Block → Block) (s : State) : (modBlock b f s).events = s.events := rfl
@[simp] theorem modBlock_completions (b : Nat) (f : Block → Block) (s : State) : (modBlock b f s).completions = s.completions := rfl
@[simp] theorem modBlock_stage (b : Nat) (f : Block → Block) (s : State) : (modBlock b f s).stage = s.stage := rfl
@[simp] theorem modBlock_config (b : Nat) (f : Block → Block) (s : State) : (modBlock b f s).config = s.config := rfl
@[simp] theorem modBlock_mapOuts (b : Nat) (f : Block → Block) (s : State) : (modBlock b f s).mapOuts = s.mapOuts := rfl
@[simp] theorem modBlock_cellPhase (b : Nat) (f : Block → Block) (s : State) : (modBlock b f s).cellPhase = s.cellPhase := rfl
@[simp] theorem modBlock_cellBad (b : Nat) (f : Block → Block) (s : State) : (modBlock b f s).cellBad = s.cellBad := rfl
@[simp] theorem modBlock_cellSpares (b : Nat) (f : Block → Block) (s : State) : (modBlock b f s).cellSpares = s.cellSpares := rfl
@[simp] theorem modBlock_heldReqs (b : Nat) (f : Block → Block) (s : State) : (modBlock b f s).heldReqs = s.heldReqs := rfl
@[simp] theorem modBlock_islands (b : Nat) (f : Block → Block) (s : State) : (modBlock b f s).islands = s.islands := rfl
@[simp] theorem modBlock_ports (b : Nat) (f : Block → Block) (s : State) : (modBlock b f s).ports = s.ports := rfl
@[simp] theorem modBlock_counterMono (b : Nat) (f : Block → Block) (s : State) : (modBlock b f s).counterMono = s.counterMono := rfl
@[simp] theorem modBlock_leafNext (b : Nat) (f : Block → Block) (s : State) : (modBlock b f s).leafNext = s.leafNext := rfl
@[simp] theorem modBlock_leafLimit (b : Nat) (f : Block → Block) (s : State) : (modBlock b f s).leafLimit = s.leafLimit := rfl
@[simp] theorem modBlock_firmware (b : Nat) (f : Block → Block) (s : State) : (modBlock b f s).firmware = s.firmware := rfl
@[simp] theorem modBlock_devnum (b : Nat) (f : Block → Block) (s : State) : (modBlock b f s).devnum = s.devnum := rfl
@[simp] theorem modBlock_throttled (b : Nat) (f : Block → Block) (s : State) : (modBlock b f s).throttled = s.throttled := rfl
@[simp] theorem modBlock_shutDown (b : Nat) (f : Block → Block) (s : State) : (modBlock b f s).shutDown = s.shutDown := rfl
@[simp] theorem modBlock_pcieGen (b : Nat) (f : Block → Block) (s : State) : (modBlock b f s).pcieGen = s.pcieGen := rfl
@[simp] theorem modBlock_aer (b : Nat) (f : Block → Block) (s : State) : (modBlock b f s).aer = s.aer := rfl
@[simp] theorem modBlock_nextId (b : Nat) (f : Block → Block) (s : State) : (modBlock b f s).nextId = s.nextId := rfl

/-! ### modCore -/

@[simp] theorem modCore_fresh (c : Nat) (f : Core → Core) (s : State) : (modCore c f s).fresh = s.fresh := rfl
@[simp] theorem modCore_agenda (c : Nat) (f : Core → Core) (s : State) : (modCore c f s).agenda = s.agenda := rfl
@[simp] theorem modCore_cur (c : Nat) (f : Core → Core) (s : State) : (modCore c f s).cur = s.cur := rfl
@[simp] theorem modCore_mem (c : Nat) (f : Core → Core) (s : State) : (modCore c f s).mem = s.mem := rfl
@[simp] theorem modCore_poison (c : Nat) (f : Core → Core) (s : State) : (modCore c f s).poison = s.poison := rfl
@[simp] theorem modCore_corrected (c : Nat) (f : Core → Core) (s : State) : (modCore c f s).corrected = s.corrected := rfl
@[simp] theorem modCore_writers (c : Nat) (f : Core → Core) (s : State) : (modCore c f s).writers = s.writers := rfl
@[simp] theorem modCore_threads (c : Nat) (f : Core → Core) (s : State) : (modCore c f s).threads = s.threads := rfl
@[simp] theorem modCore_squads (c : Nat) (f : Core → Core) (s : State) : (modCore c f s).squads = s.squads := rfl
@[simp] theorem modCore_blocks (c : Nat) (f : Core → Core) (s : State) : (modCore c f s).blocks = s.blocks := rfl
@[simp] theorem modCore_gangs (c : Nat) (f : Core → Core) (s : State) : (modCore c f s).gangs = s.gangs := rfl
@[simp] theorem modCore_l2tlb (c : Nat) (f : Core → Core) (s : State) : (modCore c f s).l2tlb = s.l2tlb := rfl
@[simp] theorem modCore_agents (c : Nat) (f : Core → Core) (s : State) : (modCore c f s).agents = s.agents := rfl
@[simp] theorem modCore_pendRels (c : Nat) (f : Core → Core) (s : State) : (modCore c f s).pendRels = s.pendRels := rfl
@[simp] theorem modCore_syncs (c : Nat) (f : Core → Core) (s : State) : (modCore c f s).syncs = s.syncs := rfl
@[simp] theorem modCore_releases (c : Nat) (f : Core → Core) (s : State) : (modCore c f s).releases = s.releases := rfl
@[simp] theorem modCore_waits (c : Nat) (f : Core → Core) (s : State) : (modCore c f s).waits = s.waits := rfl
@[simp] theorem modCore_cmds (c : Nat) (f : Core → Core) (s : State) : (modCore c f s).cmds = s.cmds := rfl
@[simp] theorem modCore_claimants (c : Nat) (f : Core → Core) (s : State) : (modCore c f s).claimants = s.claimants := rfl
@[simp] theorem modCore_flash (c : Nat) (f : Core → Core) (s : State) : (modCore c f s).flash = s.flash := rfl
@[simp] theorem modCore_patrol (c : Nat) (f : Core → Core) (s : State) : (modCore c f s).patrol = s.patrol := rfl
@[simp] theorem modCore_cfgReply (c : Nat) (f : Core → Core) (s : State) : (modCore c f s).cfgReply = s.cfgReply := rfl
@[simp] theorem modCore_hostCores (c : Nat) (f : Core → Core) (s : State) : (modCore c f s).hostCores = s.hostCores := rfl
@[simp] theorem modCore_strongroom (c : Nat) (f : Core → Core) (s : State) : (modCore c f s).strongroom = s.strongroom := rfl
@[simp] theorem modCore_launches (c : Nat) (f : Core → Core) (s : State) : (modCore c f s).launches = s.launches := rfl
@[simp] theorem modCore_fifos (c : Nat) (f : Core → Core) (s : State) : (modCore c f s).fifos = s.fifos := rfl
@[simp] theorem modCore_holds (c : Nat) (f : Core → Core) (s : State) : (modCore c f s).holds = s.holds := rfl
@[simp] theorem modCore_contexts (c : Nat) (f : Core → Core) (s : State) : (modCore c f s).contexts = s.contexts := rfl
@[simp] theorem modCore_chains (c : Nat) (f : Core → Core) (s : State) : (modCore c f s).chains = s.chains := rfl
@[simp] theorem modCore_partitions (c : Nat) (f : Core → Core) (s : State) : (modCore c f s).partitions = s.partitions := rfl
@[simp] theorem modCore_functions (c : Nat) (f : Core → Core) (s : State) : (modCore c f s).functions = s.functions := rfl
@[simp] theorem modCore_queues (c : Nat) (f : Core → Core) (s : State) : (modCore c f s).queues = s.queues := rfl
@[simp] theorem modCore_porters (c : Nat) (f : Core → Core) (s : State) : (modCore c f s).porters = s.porters := rfl
@[simp] theorem modCore_exports (c : Nat) (f : Core → Core) (s : State) : (modCore c f s).exports = s.exports := rfl
@[simp] theorem modCore_pubs (c : Nat) (f : Core → Core) (s : State) : (modCore c f s).pubs = s.pubs := rfl
@[simp] theorem modCore_storage (c : Nat) (f : Core → Core) (s : State) : (modCore c f s).storage = s.storage := rfl
@[simp] theorem modCore_claims (c : Nat) (f : Core → Core) (s : State) : (modCore c f s).claims = s.claims := rfl
@[simp] theorem modCore_ats (c : Nat) (f : Core → Core) (s : State) : (modCore c f s).ats = s.ats := rfl
@[simp] theorem modCore_hubDeny (c : Nat) (f : Core → Core) (s : State) : (modCore c f s).hubDeny = s.hubDeny := rfl
@[simp] theorem modCore_captures (c : Nat) (f : Core → Core) (s : State) : (modCore c f s).captures = s.captures := rfl
@[simp] theorem modCore_revokes (c : Nat) (f : Core → Core) (s : State) : (modCore c f s).revokes = s.revokes := rfl
@[simp] theorem modCore_hubCopies (c : Nat) (f : Core → Core) (s : State) : (modCore c f s).hubCopies = s.hubCopies := rfl
@[simp] theorem modCore_published (c : Nat) (f : Core → Core) (s : State) : (modCore c f s).published = s.published := rfl
@[simp] theorem modCore_invals (c : Nat) (f : Core → Core) (s : State) : (modCore c f s).invals = s.invals := rfl
@[simp] theorem modCore_fills (c : Nat) (f : Core → Core) (s : State) : (modCore c f s).fills = s.fills := rfl
@[simp] theorem modCore_routes (c : Nat) (f : Core → Core) (s : State) : (modCore c f s).routes = s.routes := rfl
@[simp] theorem modCore_events (c : Nat) (f : Core → Core) (s : State) : (modCore c f s).events = s.events := rfl
@[simp] theorem modCore_completions (c : Nat) (f : Core → Core) (s : State) : (modCore c f s).completions = s.completions := rfl
@[simp] theorem modCore_stage (c : Nat) (f : Core → Core) (s : State) : (modCore c f s).stage = s.stage := rfl
@[simp] theorem modCore_config (c : Nat) (f : Core → Core) (s : State) : (modCore c f s).config = s.config := rfl
@[simp] theorem modCore_mapOuts (c : Nat) (f : Core → Core) (s : State) : (modCore c f s).mapOuts = s.mapOuts := rfl
@[simp] theorem modCore_cellPhase (c : Nat) (f : Core → Core) (s : State) : (modCore c f s).cellPhase = s.cellPhase := rfl
@[simp] theorem modCore_cellBad (c : Nat) (f : Core → Core) (s : State) : (modCore c f s).cellBad = s.cellBad := rfl
@[simp] theorem modCore_cellSpares (c : Nat) (f : Core → Core) (s : State) : (modCore c f s).cellSpares = s.cellSpares := rfl
@[simp] theorem modCore_heldReqs (c : Nat) (f : Core → Core) (s : State) : (modCore c f s).heldReqs = s.heldReqs := rfl
@[simp] theorem modCore_islands (c : Nat) (f : Core → Core) (s : State) : (modCore c f s).islands = s.islands := rfl
@[simp] theorem modCore_ports (c : Nat) (f : Core → Core) (s : State) : (modCore c f s).ports = s.ports := rfl
@[simp] theorem modCore_counterMono (c : Nat) (f : Core → Core) (s : State) : (modCore c f s).counterMono = s.counterMono := rfl
@[simp] theorem modCore_leafNext (c : Nat) (f : Core → Core) (s : State) : (modCore c f s).leafNext = s.leafNext := rfl
@[simp] theorem modCore_leafLimit (c : Nat) (f : Core → Core) (s : State) : (modCore c f s).leafLimit = s.leafLimit := rfl
@[simp] theorem modCore_firmware (c : Nat) (f : Core → Core) (s : State) : (modCore c f s).firmware = s.firmware := rfl
@[simp] theorem modCore_devnum (c : Nat) (f : Core → Core) (s : State) : (modCore c f s).devnum = s.devnum := rfl
@[simp] theorem modCore_throttled (c : Nat) (f : Core → Core) (s : State) : (modCore c f s).throttled = s.throttled := rfl
@[simp] theorem modCore_shutDown (c : Nat) (f : Core → Core) (s : State) : (modCore c f s).shutDown = s.shutDown := rfl
@[simp] theorem modCore_pcieGen (c : Nat) (f : Core → Core) (s : State) : (modCore c f s).pcieGen = s.pcieGen := rfl
@[simp] theorem modCore_aer (c : Nat) (f : Core → Core) (s : State) : (modCore c f s).aer = s.aer := rfl
@[simp] theorem modCore_nextId (c : Nat) (f : Core → Core) (s : State) : (modCore c f s).nextId = s.nextId := rfl

/-! ### modAgent -/

@[simp] theorem modAgent_fresh (a : Nat) (f : Agent → Agent) (s : State) : (modAgent a f s).fresh = s.fresh := rfl
@[simp] theorem modAgent_agenda (a : Nat) (f : Agent → Agent) (s : State) : (modAgent a f s).agenda = s.agenda := rfl
@[simp] theorem modAgent_cur (a : Nat) (f : Agent → Agent) (s : State) : (modAgent a f s).cur = s.cur := rfl
@[simp] theorem modAgent_mem (a : Nat) (f : Agent → Agent) (s : State) : (modAgent a f s).mem = s.mem := rfl
@[simp] theorem modAgent_poison (a : Nat) (f : Agent → Agent) (s : State) : (modAgent a f s).poison = s.poison := rfl
@[simp] theorem modAgent_corrected (a : Nat) (f : Agent → Agent) (s : State) : (modAgent a f s).corrected = s.corrected := rfl
@[simp] theorem modAgent_writers (a : Nat) (f : Agent → Agent) (s : State) : (modAgent a f s).writers = s.writers := rfl
@[simp] theorem modAgent_threads (a : Nat) (f : Agent → Agent) (s : State) : (modAgent a f s).threads = s.threads := rfl
@[simp] theorem modAgent_squads (a : Nat) (f : Agent → Agent) (s : State) : (modAgent a f s).squads = s.squads := rfl
@[simp] theorem modAgent_blocks (a : Nat) (f : Agent → Agent) (s : State) : (modAgent a f s).blocks = s.blocks := rfl
@[simp] theorem modAgent_gangs (a : Nat) (f : Agent → Agent) (s : State) : (modAgent a f s).gangs = s.gangs := rfl
@[simp] theorem modAgent_cores (a : Nat) (f : Agent → Agent) (s : State) : (modAgent a f s).cores = s.cores := rfl
@[simp] theorem modAgent_l2tlb (a : Nat) (f : Agent → Agent) (s : State) : (modAgent a f s).l2tlb = s.l2tlb := rfl
@[simp] theorem modAgent_pendRels (a : Nat) (f : Agent → Agent) (s : State) : (modAgent a f s).pendRels = s.pendRels := rfl
@[simp] theorem modAgent_syncs (a : Nat) (f : Agent → Agent) (s : State) : (modAgent a f s).syncs = s.syncs := rfl
@[simp] theorem modAgent_releases (a : Nat) (f : Agent → Agent) (s : State) : (modAgent a f s).releases = s.releases := rfl
@[simp] theorem modAgent_waits (a : Nat) (f : Agent → Agent) (s : State) : (modAgent a f s).waits = s.waits := rfl
@[simp] theorem modAgent_cmds (a : Nat) (f : Agent → Agent) (s : State) : (modAgent a f s).cmds = s.cmds := rfl
@[simp] theorem modAgent_claimants (a : Nat) (f : Agent → Agent) (s : State) : (modAgent a f s).claimants = s.claimants := rfl
@[simp] theorem modAgent_flash (a : Nat) (f : Agent → Agent) (s : State) : (modAgent a f s).flash = s.flash := rfl
@[simp] theorem modAgent_patrol (a : Nat) (f : Agent → Agent) (s : State) : (modAgent a f s).patrol = s.patrol := rfl
@[simp] theorem modAgent_cfgReply (a : Nat) (f : Agent → Agent) (s : State) : (modAgent a f s).cfgReply = s.cfgReply := rfl
@[simp] theorem modAgent_hostCores (a : Nat) (f : Agent → Agent) (s : State) : (modAgent a f s).hostCores = s.hostCores := rfl
@[simp] theorem modAgent_strongroom (a : Nat) (f : Agent → Agent) (s : State) : (modAgent a f s).strongroom = s.strongroom := rfl
@[simp] theorem modAgent_launches (a : Nat) (f : Agent → Agent) (s : State) : (modAgent a f s).launches = s.launches := rfl
@[simp] theorem modAgent_fifos (a : Nat) (f : Agent → Agent) (s : State) : (modAgent a f s).fifos = s.fifos := rfl
@[simp] theorem modAgent_holds (a : Nat) (f : Agent → Agent) (s : State) : (modAgent a f s).holds = s.holds := rfl
@[simp] theorem modAgent_contexts (a : Nat) (f : Agent → Agent) (s : State) : (modAgent a f s).contexts = s.contexts := rfl
@[simp] theorem modAgent_chains (a : Nat) (f : Agent → Agent) (s : State) : (modAgent a f s).chains = s.chains := rfl
@[simp] theorem modAgent_partitions (a : Nat) (f : Agent → Agent) (s : State) : (modAgent a f s).partitions = s.partitions := rfl
@[simp] theorem modAgent_functions (a : Nat) (f : Agent → Agent) (s : State) : (modAgent a f s).functions = s.functions := rfl
@[simp] theorem modAgent_queues (a : Nat) (f : Agent → Agent) (s : State) : (modAgent a f s).queues = s.queues := rfl
@[simp] theorem modAgent_porters (a : Nat) (f : Agent → Agent) (s : State) : (modAgent a f s).porters = s.porters := rfl
@[simp] theorem modAgent_exports (a : Nat) (f : Agent → Agent) (s : State) : (modAgent a f s).exports = s.exports := rfl
@[simp] theorem modAgent_pubs (a : Nat) (f : Agent → Agent) (s : State) : (modAgent a f s).pubs = s.pubs := rfl
@[simp] theorem modAgent_storage (a : Nat) (f : Agent → Agent) (s : State) : (modAgent a f s).storage = s.storage := rfl
@[simp] theorem modAgent_claims (a : Nat) (f : Agent → Agent) (s : State) : (modAgent a f s).claims = s.claims := rfl
@[simp] theorem modAgent_ats (a : Nat) (f : Agent → Agent) (s : State) : (modAgent a f s).ats = s.ats := rfl
@[simp] theorem modAgent_hubDeny (a : Nat) (f : Agent → Agent) (s : State) : (modAgent a f s).hubDeny = s.hubDeny := rfl
@[simp] theorem modAgent_captures (a : Nat) (f : Agent → Agent) (s : State) : (modAgent a f s).captures = s.captures := rfl
@[simp] theorem modAgent_revokes (a : Nat) (f : Agent → Agent) (s : State) : (modAgent a f s).revokes = s.revokes := rfl
@[simp] theorem modAgent_hubCopies (a : Nat) (f : Agent → Agent) (s : State) : (modAgent a f s).hubCopies = s.hubCopies := rfl
@[simp] theorem modAgent_published (a : Nat) (f : Agent → Agent) (s : State) : (modAgent a f s).published = s.published := rfl
@[simp] theorem modAgent_invals (a : Nat) (f : Agent → Agent) (s : State) : (modAgent a f s).invals = s.invals := rfl
@[simp] theorem modAgent_fills (a : Nat) (f : Agent → Agent) (s : State) : (modAgent a f s).fills = s.fills := rfl
@[simp] theorem modAgent_routes (a : Nat) (f : Agent → Agent) (s : State) : (modAgent a f s).routes = s.routes := rfl
@[simp] theorem modAgent_events (a : Nat) (f : Agent → Agent) (s : State) : (modAgent a f s).events = s.events := rfl
@[simp] theorem modAgent_completions (a : Nat) (f : Agent → Agent) (s : State) : (modAgent a f s).completions = s.completions := rfl
@[simp] theorem modAgent_stage (a : Nat) (f : Agent → Agent) (s : State) : (modAgent a f s).stage = s.stage := rfl
@[simp] theorem modAgent_config (a : Nat) (f : Agent → Agent) (s : State) : (modAgent a f s).config = s.config := rfl
@[simp] theorem modAgent_mapOuts (a : Nat) (f : Agent → Agent) (s : State) : (modAgent a f s).mapOuts = s.mapOuts := rfl
@[simp] theorem modAgent_cellPhase (a : Nat) (f : Agent → Agent) (s : State) : (modAgent a f s).cellPhase = s.cellPhase := rfl
@[simp] theorem modAgent_cellBad (a : Nat) (f : Agent → Agent) (s : State) : (modAgent a f s).cellBad = s.cellBad := rfl
@[simp] theorem modAgent_cellSpares (a : Nat) (f : Agent → Agent) (s : State) : (modAgent a f s).cellSpares = s.cellSpares := rfl
@[simp] theorem modAgent_heldReqs (a : Nat) (f : Agent → Agent) (s : State) : (modAgent a f s).heldReqs = s.heldReqs := rfl
@[simp] theorem modAgent_islands (a : Nat) (f : Agent → Agent) (s : State) : (modAgent a f s).islands = s.islands := rfl
@[simp] theorem modAgent_ports (a : Nat) (f : Agent → Agent) (s : State) : (modAgent a f s).ports = s.ports := rfl
@[simp] theorem modAgent_counterMono (a : Nat) (f : Agent → Agent) (s : State) : (modAgent a f s).counterMono = s.counterMono := rfl
@[simp] theorem modAgent_leafNext (a : Nat) (f : Agent → Agent) (s : State) : (modAgent a f s).leafNext = s.leafNext := rfl
@[simp] theorem modAgent_leafLimit (a : Nat) (f : Agent → Agent) (s : State) : (modAgent a f s).leafLimit = s.leafLimit := rfl
@[simp] theorem modAgent_firmware (a : Nat) (f : Agent → Agent) (s : State) : (modAgent a f s).firmware = s.firmware := rfl
@[simp] theorem modAgent_devnum (a : Nat) (f : Agent → Agent) (s : State) : (modAgent a f s).devnum = s.devnum := rfl
@[simp] theorem modAgent_throttled (a : Nat) (f : Agent → Agent) (s : State) : (modAgent a f s).throttled = s.throttled := rfl
@[simp] theorem modAgent_shutDown (a : Nat) (f : Agent → Agent) (s : State) : (modAgent a f s).shutDown = s.shutDown := rfl
@[simp] theorem modAgent_pcieGen (a : Nat) (f : Agent → Agent) (s : State) : (modAgent a f s).pcieGen = s.pcieGen := rfl
@[simp] theorem modAgent_aer (a : Nat) (f : Agent → Agent) (s : State) : (modAgent a f s).aer = s.aer := rfl
@[simp] theorem modAgent_nextId (a : Nat) (f : Agent → Agent) (s : State) : (modAgent a f s).nextId = s.nextId := rfl

/-! ### modLaunch -/

@[simp] theorem modLaunch_fresh (l : Nat) (f : Launch → Launch) (s : State) : (modLaunch l f s).fresh = s.fresh := rfl
@[simp] theorem modLaunch_agenda (l : Nat) (f : Launch → Launch) (s : State) : (modLaunch l f s).agenda = s.agenda := rfl
@[simp] theorem modLaunch_cur (l : Nat) (f : Launch → Launch) (s : State) : (modLaunch l f s).cur = s.cur := rfl
@[simp] theorem modLaunch_mem (l : Nat) (f : Launch → Launch) (s : State) : (modLaunch l f s).mem = s.mem := rfl
@[simp] theorem modLaunch_poison (l : Nat) (f : Launch → Launch) (s : State) : (modLaunch l f s).poison = s.poison := rfl
@[simp] theorem modLaunch_corrected (l : Nat) (f : Launch → Launch) (s : State) : (modLaunch l f s).corrected = s.corrected := rfl
@[simp] theorem modLaunch_writers (l : Nat) (f : Launch → Launch) (s : State) : (modLaunch l f s).writers = s.writers := rfl
@[simp] theorem modLaunch_threads (l : Nat) (f : Launch → Launch) (s : State) : (modLaunch l f s).threads = s.threads := rfl
@[simp] theorem modLaunch_squads (l : Nat) (f : Launch → Launch) (s : State) : (modLaunch l f s).squads = s.squads := rfl
@[simp] theorem modLaunch_blocks (l : Nat) (f : Launch → Launch) (s : State) : (modLaunch l f s).blocks = s.blocks := rfl
@[simp] theorem modLaunch_gangs (l : Nat) (f : Launch → Launch) (s : State) : (modLaunch l f s).gangs = s.gangs := rfl
@[simp] theorem modLaunch_cores (l : Nat) (f : Launch → Launch) (s : State) : (modLaunch l f s).cores = s.cores := rfl
@[simp] theorem modLaunch_l2tlb (l : Nat) (f : Launch → Launch) (s : State) : (modLaunch l f s).l2tlb = s.l2tlb := rfl
@[simp] theorem modLaunch_agents (l : Nat) (f : Launch → Launch) (s : State) : (modLaunch l f s).agents = s.agents := rfl
@[simp] theorem modLaunch_pendRels (l : Nat) (f : Launch → Launch) (s : State) : (modLaunch l f s).pendRels = s.pendRels := rfl
@[simp] theorem modLaunch_syncs (l : Nat) (f : Launch → Launch) (s : State) : (modLaunch l f s).syncs = s.syncs := rfl
@[simp] theorem modLaunch_releases (l : Nat) (f : Launch → Launch) (s : State) : (modLaunch l f s).releases = s.releases := rfl
@[simp] theorem modLaunch_waits (l : Nat) (f : Launch → Launch) (s : State) : (modLaunch l f s).waits = s.waits := rfl
@[simp] theorem modLaunch_cmds (l : Nat) (f : Launch → Launch) (s : State) : (modLaunch l f s).cmds = s.cmds := rfl
@[simp] theorem modLaunch_claimants (l : Nat) (f : Launch → Launch) (s : State) : (modLaunch l f s).claimants = s.claimants := rfl
@[simp] theorem modLaunch_flash (l : Nat) (f : Launch → Launch) (s : State) : (modLaunch l f s).flash = s.flash := rfl
@[simp] theorem modLaunch_patrol (l : Nat) (f : Launch → Launch) (s : State) : (modLaunch l f s).patrol = s.patrol := rfl
@[simp] theorem modLaunch_cfgReply (l : Nat) (f : Launch → Launch) (s : State) : (modLaunch l f s).cfgReply = s.cfgReply := rfl
@[simp] theorem modLaunch_hostCores (l : Nat) (f : Launch → Launch) (s : State) : (modLaunch l f s).hostCores = s.hostCores := rfl
@[simp] theorem modLaunch_strongroom (l : Nat) (f : Launch → Launch) (s : State) : (modLaunch l f s).strongroom = s.strongroom := rfl
@[simp] theorem modLaunch_fifos (l : Nat) (f : Launch → Launch) (s : State) : (modLaunch l f s).fifos = s.fifos := rfl
@[simp] theorem modLaunch_holds (l : Nat) (f : Launch → Launch) (s : State) : (modLaunch l f s).holds = s.holds := rfl
@[simp] theorem modLaunch_contexts (l : Nat) (f : Launch → Launch) (s : State) : (modLaunch l f s).contexts = s.contexts := rfl
@[simp] theorem modLaunch_chains (l : Nat) (f : Launch → Launch) (s : State) : (modLaunch l f s).chains = s.chains := rfl
@[simp] theorem modLaunch_partitions (l : Nat) (f : Launch → Launch) (s : State) : (modLaunch l f s).partitions = s.partitions := rfl
@[simp] theorem modLaunch_functions (l : Nat) (f : Launch → Launch) (s : State) : (modLaunch l f s).functions = s.functions := rfl
@[simp] theorem modLaunch_queues (l : Nat) (f : Launch → Launch) (s : State) : (modLaunch l f s).queues = s.queues := rfl
@[simp] theorem modLaunch_porters (l : Nat) (f : Launch → Launch) (s : State) : (modLaunch l f s).porters = s.porters := rfl
@[simp] theorem modLaunch_exports (l : Nat) (f : Launch → Launch) (s : State) : (modLaunch l f s).exports = s.exports := rfl
@[simp] theorem modLaunch_pubs (l : Nat) (f : Launch → Launch) (s : State) : (modLaunch l f s).pubs = s.pubs := rfl
@[simp] theorem modLaunch_storage (l : Nat) (f : Launch → Launch) (s : State) : (modLaunch l f s).storage = s.storage := rfl
@[simp] theorem modLaunch_claims (l : Nat) (f : Launch → Launch) (s : State) : (modLaunch l f s).claims = s.claims := rfl
@[simp] theorem modLaunch_ats (l : Nat) (f : Launch → Launch) (s : State) : (modLaunch l f s).ats = s.ats := rfl
@[simp] theorem modLaunch_hubDeny (l : Nat) (f : Launch → Launch) (s : State) : (modLaunch l f s).hubDeny = s.hubDeny := rfl
@[simp] theorem modLaunch_captures (l : Nat) (f : Launch → Launch) (s : State) : (modLaunch l f s).captures = s.captures := rfl
@[simp] theorem modLaunch_revokes (l : Nat) (f : Launch → Launch) (s : State) : (modLaunch l f s).revokes = s.revokes := rfl
@[simp] theorem modLaunch_hubCopies (l : Nat) (f : Launch → Launch) (s : State) : (modLaunch l f s).hubCopies = s.hubCopies := rfl
@[simp] theorem modLaunch_published (l : Nat) (f : Launch → Launch) (s : State) : (modLaunch l f s).published = s.published := rfl
@[simp] theorem modLaunch_invals (l : Nat) (f : Launch → Launch) (s : State) : (modLaunch l f s).invals = s.invals := rfl
@[simp] theorem modLaunch_fills (l : Nat) (f : Launch → Launch) (s : State) : (modLaunch l f s).fills = s.fills := rfl
@[simp] theorem modLaunch_routes (l : Nat) (f : Launch → Launch) (s : State) : (modLaunch l f s).routes = s.routes := rfl
@[simp] theorem modLaunch_events (l : Nat) (f : Launch → Launch) (s : State) : (modLaunch l f s).events = s.events := rfl
@[simp] theorem modLaunch_completions (l : Nat) (f : Launch → Launch) (s : State) : (modLaunch l f s).completions = s.completions := rfl
@[simp] theorem modLaunch_stage (l : Nat) (f : Launch → Launch) (s : State) : (modLaunch l f s).stage = s.stage := rfl
@[simp] theorem modLaunch_config (l : Nat) (f : Launch → Launch) (s : State) : (modLaunch l f s).config = s.config := rfl
@[simp] theorem modLaunch_mapOuts (l : Nat) (f : Launch → Launch) (s : State) : (modLaunch l f s).mapOuts = s.mapOuts := rfl
@[simp] theorem modLaunch_cellPhase (l : Nat) (f : Launch → Launch) (s : State) : (modLaunch l f s).cellPhase = s.cellPhase := rfl
@[simp] theorem modLaunch_cellBad (l : Nat) (f : Launch → Launch) (s : State) : (modLaunch l f s).cellBad = s.cellBad := rfl
@[simp] theorem modLaunch_cellSpares (l : Nat) (f : Launch → Launch) (s : State) : (modLaunch l f s).cellSpares = s.cellSpares := rfl
@[simp] theorem modLaunch_heldReqs (l : Nat) (f : Launch → Launch) (s : State) : (modLaunch l f s).heldReqs = s.heldReqs := rfl
@[simp] theorem modLaunch_islands (l : Nat) (f : Launch → Launch) (s : State) : (modLaunch l f s).islands = s.islands := rfl
@[simp] theorem modLaunch_ports (l : Nat) (f : Launch → Launch) (s : State) : (modLaunch l f s).ports = s.ports := rfl
@[simp] theorem modLaunch_counterMono (l : Nat) (f : Launch → Launch) (s : State) : (modLaunch l f s).counterMono = s.counterMono := rfl
@[simp] theorem modLaunch_leafNext (l : Nat) (f : Launch → Launch) (s : State) : (modLaunch l f s).leafNext = s.leafNext := rfl
@[simp] theorem modLaunch_leafLimit (l : Nat) (f : Launch → Launch) (s : State) : (modLaunch l f s).leafLimit = s.leafLimit := rfl
@[simp] theorem modLaunch_firmware (l : Nat) (f : Launch → Launch) (s : State) : (modLaunch l f s).firmware = s.firmware := rfl
@[simp] theorem modLaunch_devnum (l : Nat) (f : Launch → Launch) (s : State) : (modLaunch l f s).devnum = s.devnum := rfl
@[simp] theorem modLaunch_throttled (l : Nat) (f : Launch → Launch) (s : State) : (modLaunch l f s).throttled = s.throttled := rfl
@[simp] theorem modLaunch_shutDown (l : Nat) (f : Launch → Launch) (s : State) : (modLaunch l f s).shutDown = s.shutDown := rfl
@[simp] theorem modLaunch_pcieGen (l : Nat) (f : Launch → Launch) (s : State) : (modLaunch l f s).pcieGen = s.pcieGen := rfl
@[simp] theorem modLaunch_aer (l : Nat) (f : Launch → Launch) (s : State) : (modLaunch l f s).aer = s.aer := rfl
@[simp] theorem modLaunch_nextId (l : Nat) (f : Launch → Launch) (s : State) : (modLaunch l f s).nextId = s.nextId := rfl

/-! ### modWave -/

@[simp] theorem modWave_fresh (f : Wave → Wave) (s : State) : (modWave f s).fresh = s.fresh := rfl
@[simp] theorem modWave_agenda (f : Wave → Wave) (s : State) : (modWave f s).agenda = s.agenda := rfl
@[simp] theorem modWave_cur (f : Wave → Wave) (s : State) : (modWave f s).cur = s.cur := rfl
@[simp] theorem modWave_mem (f : Wave → Wave) (s : State) : (modWave f s).mem = s.mem := rfl
@[simp] theorem modWave_poison (f : Wave → Wave) (s : State) : (modWave f s).poison = s.poison := rfl
@[simp] theorem modWave_corrected (f : Wave → Wave) (s : State) : (modWave f s).corrected = s.corrected := rfl
@[simp] theorem modWave_writers (f : Wave → Wave) (s : State) : (modWave f s).writers = s.writers := rfl
@[simp] theorem modWave_threads (f : Wave → Wave) (s : State) : (modWave f s).threads = s.threads := rfl
@[simp] theorem modWave_squads (f : Wave → Wave) (s : State) : (modWave f s).squads = s.squads := rfl
@[simp] theorem modWave_blocks (f : Wave → Wave) (s : State) : (modWave f s).blocks = s.blocks := rfl
@[simp] theorem modWave_gangs (f : Wave → Wave) (s : State) : (modWave f s).gangs = s.gangs := rfl
@[simp] theorem modWave_l2tlb (f : Wave → Wave) (s : State) : (modWave f s).l2tlb = s.l2tlb := rfl
@[simp] theorem modWave_agents (f : Wave → Wave) (s : State) : (modWave f s).agents = s.agents := rfl
@[simp] theorem modWave_pendRels (f : Wave → Wave) (s : State) : (modWave f s).pendRels = s.pendRels := rfl
@[simp] theorem modWave_syncs (f : Wave → Wave) (s : State) : (modWave f s).syncs = s.syncs := rfl
@[simp] theorem modWave_releases (f : Wave → Wave) (s : State) : (modWave f s).releases = s.releases := rfl
@[simp] theorem modWave_waits (f : Wave → Wave) (s : State) : (modWave f s).waits = s.waits := rfl
@[simp] theorem modWave_cmds (f : Wave → Wave) (s : State) : (modWave f s).cmds = s.cmds := rfl
@[simp] theorem modWave_claimants (f : Wave → Wave) (s : State) : (modWave f s).claimants = s.claimants := rfl
@[simp] theorem modWave_flash (f : Wave → Wave) (s : State) : (modWave f s).flash = s.flash := rfl
@[simp] theorem modWave_patrol (f : Wave → Wave) (s : State) : (modWave f s).patrol = s.patrol := rfl
@[simp] theorem modWave_cfgReply (f : Wave → Wave) (s : State) : (modWave f s).cfgReply = s.cfgReply := rfl
@[simp] theorem modWave_hostCores (f : Wave → Wave) (s : State) : (modWave f s).hostCores = s.hostCores := rfl
@[simp] theorem modWave_strongroom (f : Wave → Wave) (s : State) : (modWave f s).strongroom = s.strongroom := rfl
@[simp] theorem modWave_launches (f : Wave → Wave) (s : State) : (modWave f s).launches = s.launches := rfl
@[simp] theorem modWave_fifos (f : Wave → Wave) (s : State) : (modWave f s).fifos = s.fifos := rfl
@[simp] theorem modWave_holds (f : Wave → Wave) (s : State) : (modWave f s).holds = s.holds := rfl
@[simp] theorem modWave_contexts (f : Wave → Wave) (s : State) : (modWave f s).contexts = s.contexts := rfl
@[simp] theorem modWave_chains (f : Wave → Wave) (s : State) : (modWave f s).chains = s.chains := rfl
@[simp] theorem modWave_partitions (f : Wave → Wave) (s : State) : (modWave f s).partitions = s.partitions := rfl
@[simp] theorem modWave_functions (f : Wave → Wave) (s : State) : (modWave f s).functions = s.functions := rfl
@[simp] theorem modWave_queues (f : Wave → Wave) (s : State) : (modWave f s).queues = s.queues := rfl
@[simp] theorem modWave_porters (f : Wave → Wave) (s : State) : (modWave f s).porters = s.porters := rfl
@[simp] theorem modWave_exports (f : Wave → Wave) (s : State) : (modWave f s).exports = s.exports := rfl
@[simp] theorem modWave_pubs (f : Wave → Wave) (s : State) : (modWave f s).pubs = s.pubs := rfl
@[simp] theorem modWave_storage (f : Wave → Wave) (s : State) : (modWave f s).storage = s.storage := rfl
@[simp] theorem modWave_claims (f : Wave → Wave) (s : State) : (modWave f s).claims = s.claims := rfl
@[simp] theorem modWave_ats (f : Wave → Wave) (s : State) : (modWave f s).ats = s.ats := rfl
@[simp] theorem modWave_hubDeny (f : Wave → Wave) (s : State) : (modWave f s).hubDeny = s.hubDeny := rfl
@[simp] theorem modWave_captures (f : Wave → Wave) (s : State) : (modWave f s).captures = s.captures := rfl
@[simp] theorem modWave_revokes (f : Wave → Wave) (s : State) : (modWave f s).revokes = s.revokes := rfl
@[simp] theorem modWave_hubCopies (f : Wave → Wave) (s : State) : (modWave f s).hubCopies = s.hubCopies := rfl
@[simp] theorem modWave_published (f : Wave → Wave) (s : State) : (modWave f s).published = s.published := rfl
@[simp] theorem modWave_invals (f : Wave → Wave) (s : State) : (modWave f s).invals = s.invals := rfl
@[simp] theorem modWave_fills (f : Wave → Wave) (s : State) : (modWave f s).fills = s.fills := rfl
@[simp] theorem modWave_routes (f : Wave → Wave) (s : State) : (modWave f s).routes = s.routes := rfl
@[simp] theorem modWave_events (f : Wave → Wave) (s : State) : (modWave f s).events = s.events := rfl
@[simp] theorem modWave_completions (f : Wave → Wave) (s : State) : (modWave f s).completions = s.completions := rfl
@[simp] theorem modWave_stage (f : Wave → Wave) (s : State) : (modWave f s).stage = s.stage := rfl
@[simp] theorem modWave_config (f : Wave → Wave) (s : State) : (modWave f s).config = s.config := rfl
@[simp] theorem modWave_mapOuts (f : Wave → Wave) (s : State) : (modWave f s).mapOuts = s.mapOuts := rfl
@[simp] theorem modWave_cellPhase (f : Wave → Wave) (s : State) : (modWave f s).cellPhase = s.cellPhase := rfl
@[simp] theorem modWave_cellBad (f : Wave → Wave) (s : State) : (modWave f s).cellBad = s.cellBad := rfl
@[simp] theorem modWave_cellSpares (f : Wave → Wave) (s : State) : (modWave f s).cellSpares = s.cellSpares := rfl
@[simp] theorem modWave_heldReqs (f : Wave → Wave) (s : State) : (modWave f s).heldReqs = s.heldReqs := rfl
@[simp] theorem modWave_islands (f : Wave → Wave) (s : State) : (modWave f s).islands = s.islands := rfl
@[simp] theorem modWave_ports (f : Wave → Wave) (s : State) : (modWave f s).ports = s.ports := rfl
@[simp] theorem modWave_counterMono (f : Wave → Wave) (s : State) : (modWave f s).counterMono = s.counterMono := rfl
@[simp] theorem modWave_leafNext (f : Wave → Wave) (s : State) : (modWave f s).leafNext = s.leafNext := rfl
@[simp] theorem modWave_leafLimit (f : Wave → Wave) (s : State) : (modWave f s).leafLimit = s.leafLimit := rfl
@[simp] theorem modWave_firmware (f : Wave → Wave) (s : State) : (modWave f s).firmware = s.firmware := rfl
@[simp] theorem modWave_devnum (f : Wave → Wave) (s : State) : (modWave f s).devnum = s.devnum := rfl
@[simp] theorem modWave_throttled (f : Wave → Wave) (s : State) : (modWave f s).throttled = s.throttled := rfl
@[simp] theorem modWave_shutDown (f : Wave → Wave) (s : State) : (modWave f s).shutDown = s.shutDown := rfl
@[simp] theorem modWave_pcieGen (f : Wave → Wave) (s : State) : (modWave f s).pcieGen = s.pcieGen := rfl
@[simp] theorem modWave_aer (f : Wave → Wave) (s : State) : (modWave f s).aer = s.aer := rfl
@[simp] theorem modWave_nextId (f : Wave → Wave) (s : State) : (modWave f s).nextId = s.nextId := rfl

/-! ### mapThreads -/

@[simp] theorem mapThreads_fresh (ts : List Nat) (f : Nat → Thread → Thread) (s : State) : (mapThreads ts f s).fresh = s.fresh := rfl
@[simp] theorem mapThreads_agenda (ts : List Nat) (f : Nat → Thread → Thread) (s : State) : (mapThreads ts f s).agenda = s.agenda := rfl
@[simp] theorem mapThreads_cur (ts : List Nat) (f : Nat → Thread → Thread) (s : State) : (mapThreads ts f s).cur = s.cur := rfl
@[simp] theorem mapThreads_mem (ts : List Nat) (f : Nat → Thread → Thread) (s : State) : (mapThreads ts f s).mem = s.mem := rfl
@[simp] theorem mapThreads_poison (ts : List Nat) (f : Nat → Thread → Thread) (s : State) : (mapThreads ts f s).poison = s.poison := rfl
@[simp] theorem mapThreads_corrected (ts : List Nat) (f : Nat → Thread → Thread) (s : State) : (mapThreads ts f s).corrected = s.corrected := rfl
@[simp] theorem mapThreads_writers (ts : List Nat) (f : Nat → Thread → Thread) (s : State) : (mapThreads ts f s).writers = s.writers := rfl
@[simp] theorem mapThreads_squads (ts : List Nat) (f : Nat → Thread → Thread) (s : State) : (mapThreads ts f s).squads = s.squads := rfl
@[simp] theorem mapThreads_blocks (ts : List Nat) (f : Nat → Thread → Thread) (s : State) : (mapThreads ts f s).blocks = s.blocks := rfl
@[simp] theorem mapThreads_gangs (ts : List Nat) (f : Nat → Thread → Thread) (s : State) : (mapThreads ts f s).gangs = s.gangs := rfl
@[simp] theorem mapThreads_cores (ts : List Nat) (f : Nat → Thread → Thread) (s : State) : (mapThreads ts f s).cores = s.cores := rfl
@[simp] theorem mapThreads_l2tlb (ts : List Nat) (f : Nat → Thread → Thread) (s : State) : (mapThreads ts f s).l2tlb = s.l2tlb := rfl
@[simp] theorem mapThreads_agents (ts : List Nat) (f : Nat → Thread → Thread) (s : State) : (mapThreads ts f s).agents = s.agents := rfl
@[simp] theorem mapThreads_pendRels (ts : List Nat) (f : Nat → Thread → Thread) (s : State) : (mapThreads ts f s).pendRels = s.pendRels := rfl
@[simp] theorem mapThreads_syncs (ts : List Nat) (f : Nat → Thread → Thread) (s : State) : (mapThreads ts f s).syncs = s.syncs := rfl
@[simp] theorem mapThreads_releases (ts : List Nat) (f : Nat → Thread → Thread) (s : State) : (mapThreads ts f s).releases = s.releases := rfl
@[simp] theorem mapThreads_waits (ts : List Nat) (f : Nat → Thread → Thread) (s : State) : (mapThreads ts f s).waits = s.waits := rfl
@[simp] theorem mapThreads_cmds (ts : List Nat) (f : Nat → Thread → Thread) (s : State) : (mapThreads ts f s).cmds = s.cmds := rfl
@[simp] theorem mapThreads_claimants (ts : List Nat) (f : Nat → Thread → Thread) (s : State) : (mapThreads ts f s).claimants = s.claimants := rfl
@[simp] theorem mapThreads_flash (ts : List Nat) (f : Nat → Thread → Thread) (s : State) : (mapThreads ts f s).flash = s.flash := rfl
@[simp] theorem mapThreads_patrol (ts : List Nat) (f : Nat → Thread → Thread) (s : State) : (mapThreads ts f s).patrol = s.patrol := rfl
@[simp] theorem mapThreads_cfgReply (ts : List Nat) (f : Nat → Thread → Thread) (s : State) : (mapThreads ts f s).cfgReply = s.cfgReply := rfl
@[simp] theorem mapThreads_hostCores (ts : List Nat) (f : Nat → Thread → Thread) (s : State) : (mapThreads ts f s).hostCores = s.hostCores := rfl
@[simp] theorem mapThreads_strongroom (ts : List Nat) (f : Nat → Thread → Thread) (s : State) : (mapThreads ts f s).strongroom = s.strongroom := rfl
@[simp] theorem mapThreads_launches (ts : List Nat) (f : Nat → Thread → Thread) (s : State) : (mapThreads ts f s).launches = s.launches := rfl
@[simp] theorem mapThreads_fifos (ts : List Nat) (f : Nat → Thread → Thread) (s : State) : (mapThreads ts f s).fifos = s.fifos := rfl
@[simp] theorem mapThreads_holds (ts : List Nat) (f : Nat → Thread → Thread) (s : State) : (mapThreads ts f s).holds = s.holds := rfl
@[simp] theorem mapThreads_contexts (ts : List Nat) (f : Nat → Thread → Thread) (s : State) : (mapThreads ts f s).contexts = s.contexts := rfl
@[simp] theorem mapThreads_chains (ts : List Nat) (f : Nat → Thread → Thread) (s : State) : (mapThreads ts f s).chains = s.chains := rfl
@[simp] theorem mapThreads_partitions (ts : List Nat) (f : Nat → Thread → Thread) (s : State) : (mapThreads ts f s).partitions = s.partitions := rfl
@[simp] theorem mapThreads_functions (ts : List Nat) (f : Nat → Thread → Thread) (s : State) : (mapThreads ts f s).functions = s.functions := rfl
@[simp] theorem mapThreads_queues (ts : List Nat) (f : Nat → Thread → Thread) (s : State) : (mapThreads ts f s).queues = s.queues := rfl
@[simp] theorem mapThreads_porters (ts : List Nat) (f : Nat → Thread → Thread) (s : State) : (mapThreads ts f s).porters = s.porters := rfl
@[simp] theorem mapThreads_exports (ts : List Nat) (f : Nat → Thread → Thread) (s : State) : (mapThreads ts f s).exports = s.exports := rfl
@[simp] theorem mapThreads_pubs (ts : List Nat) (f : Nat → Thread → Thread) (s : State) : (mapThreads ts f s).pubs = s.pubs := rfl
@[simp] theorem mapThreads_storage (ts : List Nat) (f : Nat → Thread → Thread) (s : State) : (mapThreads ts f s).storage = s.storage := rfl
@[simp] theorem mapThreads_claims (ts : List Nat) (f : Nat → Thread → Thread) (s : State) : (mapThreads ts f s).claims = s.claims := rfl
@[simp] theorem mapThreads_ats (ts : List Nat) (f : Nat → Thread → Thread) (s : State) : (mapThreads ts f s).ats = s.ats := rfl
@[simp] theorem mapThreads_hubDeny (ts : List Nat) (f : Nat → Thread → Thread) (s : State) : (mapThreads ts f s).hubDeny = s.hubDeny := rfl
@[simp] theorem mapThreads_captures (ts : List Nat) (f : Nat → Thread → Thread) (s : State) : (mapThreads ts f s).captures = s.captures := rfl
@[simp] theorem mapThreads_revokes (ts : List Nat) (f : Nat → Thread → Thread) (s : State) : (mapThreads ts f s).revokes = s.revokes := rfl
@[simp] theorem mapThreads_hubCopies (ts : List Nat) (f : Nat → Thread → Thread) (s : State) : (mapThreads ts f s).hubCopies = s.hubCopies := rfl
@[simp] theorem mapThreads_published (ts : List Nat) (f : Nat → Thread → Thread) (s : State) : (mapThreads ts f s).published = s.published := rfl
@[simp] theorem mapThreads_invals (ts : List Nat) (f : Nat → Thread → Thread) (s : State) : (mapThreads ts f s).invals = s.invals := rfl
@[simp] theorem mapThreads_fills (ts : List Nat) (f : Nat → Thread → Thread) (s : State) : (mapThreads ts f s).fills = s.fills := rfl
@[simp] theorem mapThreads_routes (ts : List Nat) (f : Nat → Thread → Thread) (s : State) : (mapThreads ts f s).routes = s.routes := rfl
@[simp] theorem mapThreads_events (ts : List Nat) (f : Nat → Thread → Thread) (s : State) : (mapThreads ts f s).events = s.events := rfl
@[simp] theorem mapThreads_completions (ts : List Nat) (f : Nat → Thread → Thread) (s : State) : (mapThreads ts f s).completions = s.completions := rfl
@[simp] theorem mapThreads_stage (ts : List Nat) (f : Nat → Thread → Thread) (s : State) : (mapThreads ts f s).stage = s.stage := rfl
@[simp] theorem mapThreads_config (ts : List Nat) (f : Nat → Thread → Thread) (s : State) : (mapThreads ts f s).config = s.config := rfl
@[simp] theorem mapThreads_mapOuts (ts : List Nat) (f : Nat → Thread → Thread) (s : State) : (mapThreads ts f s).mapOuts = s.mapOuts := rfl
@[simp] theorem mapThreads_cellPhase (ts : List Nat) (f : Nat → Thread → Thread) (s : State) : (mapThreads ts f s).cellPhase = s.cellPhase := rfl
@[simp] theorem mapThreads_cellBad (ts : List Nat) (f : Nat → Thread → Thread) (s : State) : (mapThreads ts f s).cellBad = s.cellBad := rfl
@[simp] theorem mapThreads_cellSpares (ts : List Nat) (f : Nat → Thread → Thread) (s : State) : (mapThreads ts f s).cellSpares = s.cellSpares := rfl
@[simp] theorem mapThreads_heldReqs (ts : List Nat) (f : Nat → Thread → Thread) (s : State) : (mapThreads ts f s).heldReqs = s.heldReqs := rfl
@[simp] theorem mapThreads_islands (ts : List Nat) (f : Nat → Thread → Thread) (s : State) : (mapThreads ts f s).islands = s.islands := rfl
@[simp] theorem mapThreads_ports (ts : List Nat) (f : Nat → Thread → Thread) (s : State) : (mapThreads ts f s).ports = s.ports := rfl
@[simp] theorem mapThreads_counterMono (ts : List Nat) (f : Nat → Thread → Thread) (s : State) : (mapThreads ts f s).counterMono = s.counterMono := rfl
@[simp] theorem mapThreads_leafNext (ts : List Nat) (f : Nat → Thread → Thread) (s : State) : (mapThreads ts f s).leafNext = s.leafNext := rfl
@[simp] theorem mapThreads_leafLimit (ts : List Nat) (f : Nat → Thread → Thread) (s : State) : (mapThreads ts f s).leafLimit = s.leafLimit := rfl
@[simp] theorem mapThreads_firmware (ts : List Nat) (f : Nat → Thread → Thread) (s : State) : (mapThreads ts f s).firmware = s.firmware := rfl
@[simp] theorem mapThreads_devnum (ts : List Nat) (f : Nat → Thread → Thread) (s : State) : (mapThreads ts f s).devnum = s.devnum := rfl
@[simp] theorem mapThreads_throttled (ts : List Nat) (f : Nat → Thread → Thread) (s : State) : (mapThreads ts f s).throttled = s.throttled := rfl
@[simp] theorem mapThreads_shutDown (ts : List Nat) (f : Nat → Thread → Thread) (s : State) : (mapThreads ts f s).shutDown = s.shutDown := rfl
@[simp] theorem mapThreads_pcieGen (ts : List Nat) (f : Nat → Thread → Thread) (s : State) : (mapThreads ts f s).pcieGen = s.pcieGen := rfl
@[simp] theorem mapThreads_aer (ts : List Nat) (f : Nat → Thread → Thread) (s : State) : (mapThreads ts f s).aer = s.aer := rfl
@[simp] theorem mapThreads_nextId (ts : List Nat) (f : Nat → Thread → Thread) (s : State) : (mapThreads ts f s).nextId = s.nextId := rfl

/-! ### writeBytes -/

@[simp] theorem writeBytes_fresh (a : Nat) (bs : List Byte) (s : State) : (writeBytes a bs s).fresh = s.fresh := rfl
@[simp] theorem writeBytes_agenda (a : Nat) (bs : List Byte) (s : State) : (writeBytes a bs s).agenda = s.agenda := rfl
@[simp] theorem writeBytes_cur (a : Nat) (bs : List Byte) (s : State) : (writeBytes a bs s).cur = s.cur := rfl
@[simp] theorem writeBytes_poison (a : Nat) (bs : List Byte) (s : State) : (writeBytes a bs s).poison = s.poison := rfl
@[simp] theorem writeBytes_corrected (a : Nat) (bs : List Byte) (s : State) : (writeBytes a bs s).corrected = s.corrected := rfl
@[simp] theorem writeBytes_writers (a : Nat) (bs : List Byte) (s : State) : (writeBytes a bs s).writers = s.writers := rfl
@[simp] theorem writeBytes_threads (a : Nat) (bs : List Byte) (s : State) : (writeBytes a bs s).threads = s.threads := rfl
@[simp] theorem writeBytes_squads (a : Nat) (bs : List Byte) (s : State) : (writeBytes a bs s).squads = s.squads := rfl
@[simp] theorem writeBytes_blocks (a : Nat) (bs : List Byte) (s : State) : (writeBytes a bs s).blocks = s.blocks := rfl
@[simp] theorem writeBytes_gangs (a : Nat) (bs : List Byte) (s : State) : (writeBytes a bs s).gangs = s.gangs := rfl
@[simp] theorem writeBytes_cores (a : Nat) (bs : List Byte) (s : State) : (writeBytes a bs s).cores = s.cores := rfl
@[simp] theorem writeBytes_l2tlb (a : Nat) (bs : List Byte) (s : State) : (writeBytes a bs s).l2tlb = s.l2tlb := rfl
@[simp] theorem writeBytes_agents (a : Nat) (bs : List Byte) (s : State) : (writeBytes a bs s).agents = s.agents := rfl
@[simp] theorem writeBytes_pendRels (a : Nat) (bs : List Byte) (s : State) : (writeBytes a bs s).pendRels = s.pendRels := rfl
@[simp] theorem writeBytes_syncs (a : Nat) (bs : List Byte) (s : State) : (writeBytes a bs s).syncs = s.syncs := rfl
@[simp] theorem writeBytes_releases (a : Nat) (bs : List Byte) (s : State) : (writeBytes a bs s).releases = s.releases := rfl
@[simp] theorem writeBytes_waits (a : Nat) (bs : List Byte) (s : State) : (writeBytes a bs s).waits = s.waits := rfl
@[simp] theorem writeBytes_cmds (a : Nat) (bs : List Byte) (s : State) : (writeBytes a bs s).cmds = s.cmds := rfl
@[simp] theorem writeBytes_claimants (a : Nat) (bs : List Byte) (s : State) : (writeBytes a bs s).claimants = s.claimants := rfl
@[simp] theorem writeBytes_flash (a : Nat) (bs : List Byte) (s : State) : (writeBytes a bs s).flash = s.flash := rfl
@[simp] theorem writeBytes_patrol (a : Nat) (bs : List Byte) (s : State) : (writeBytes a bs s).patrol = s.patrol := rfl
@[simp] theorem writeBytes_cfgReply (a : Nat) (bs : List Byte) (s : State) : (writeBytes a bs s).cfgReply = s.cfgReply := rfl
@[simp] theorem writeBytes_hostCores (a : Nat) (bs : List Byte) (s : State) : (writeBytes a bs s).hostCores = s.hostCores := rfl
@[simp] theorem writeBytes_strongroom (a : Nat) (bs : List Byte) (s : State) : (writeBytes a bs s).strongroom = s.strongroom := rfl
@[simp] theorem writeBytes_launches (a : Nat) (bs : List Byte) (s : State) : (writeBytes a bs s).launches = s.launches := rfl
@[simp] theorem writeBytes_fifos (a : Nat) (bs : List Byte) (s : State) : (writeBytes a bs s).fifos = s.fifos := rfl
@[simp] theorem writeBytes_holds (a : Nat) (bs : List Byte) (s : State) : (writeBytes a bs s).holds = s.holds := rfl
@[simp] theorem writeBytes_contexts (a : Nat) (bs : List Byte) (s : State) : (writeBytes a bs s).contexts = s.contexts := rfl
@[simp] theorem writeBytes_chains (a : Nat) (bs : List Byte) (s : State) : (writeBytes a bs s).chains = s.chains := rfl
@[simp] theorem writeBytes_partitions (a : Nat) (bs : List Byte) (s : State) : (writeBytes a bs s).partitions = s.partitions := rfl
@[simp] theorem writeBytes_functions (a : Nat) (bs : List Byte) (s : State) : (writeBytes a bs s).functions = s.functions := rfl
@[simp] theorem writeBytes_queues (a : Nat) (bs : List Byte) (s : State) : (writeBytes a bs s).queues = s.queues := rfl
@[simp] theorem writeBytes_porters (a : Nat) (bs : List Byte) (s : State) : (writeBytes a bs s).porters = s.porters := rfl
@[simp] theorem writeBytes_exports (a : Nat) (bs : List Byte) (s : State) : (writeBytes a bs s).exports = s.exports := rfl
@[simp] theorem writeBytes_pubs (a : Nat) (bs : List Byte) (s : State) : (writeBytes a bs s).pubs = s.pubs := rfl
@[simp] theorem writeBytes_storage (a : Nat) (bs : List Byte) (s : State) : (writeBytes a bs s).storage = s.storage := rfl
@[simp] theorem writeBytes_claims (a : Nat) (bs : List Byte) (s : State) : (writeBytes a bs s).claims = s.claims := rfl
@[simp] theorem writeBytes_ats (a : Nat) (bs : List Byte) (s : State) : (writeBytes a bs s).ats = s.ats := rfl
@[simp] theorem writeBytes_hubDeny (a : Nat) (bs : List Byte) (s : State) : (writeBytes a bs s).hubDeny = s.hubDeny := rfl
@[simp] theorem writeBytes_captures (a : Nat) (bs : List Byte) (s : State) : (writeBytes a bs s).captures = s.captures := rfl
@[simp] theorem writeBytes_revokes (a : Nat) (bs : List Byte) (s : State) : (writeBytes a bs s).revokes = s.revokes := rfl
@[simp] theorem writeBytes_hubCopies (a : Nat) (bs : List Byte) (s : State) : (writeBytes a bs s).hubCopies = s.hubCopies := rfl
@[simp] theorem writeBytes_published (a : Nat) (bs : List Byte) (s : State) : (writeBytes a bs s).published = s.published := rfl
@[simp] theorem writeBytes_invals (a : Nat) (bs : List Byte) (s : State) : (writeBytes a bs s).invals = s.invals := rfl
@[simp] theorem writeBytes_fills (a : Nat) (bs : List Byte) (s : State) : (writeBytes a bs s).fills = s.fills := rfl
@[simp] theorem writeBytes_routes (a : Nat) (bs : List Byte) (s : State) : (writeBytes a bs s).routes = s.routes := rfl
@[simp] theorem writeBytes_events (a : Nat) (bs : List Byte) (s : State) : (writeBytes a bs s).events = s.events := rfl
@[simp] theorem writeBytes_completions (a : Nat) (bs : List Byte) (s : State) : (writeBytes a bs s).completions = s.completions := rfl
@[simp] theorem writeBytes_stage (a : Nat) (bs : List Byte) (s : State) : (writeBytes a bs s).stage = s.stage := rfl
@[simp] theorem writeBytes_config (a : Nat) (bs : List Byte) (s : State) : (writeBytes a bs s).config = s.config := rfl
@[simp] theorem writeBytes_mapOuts (a : Nat) (bs : List Byte) (s : State) : (writeBytes a bs s).mapOuts = s.mapOuts := rfl
@[simp] theorem writeBytes_cellPhase (a : Nat) (bs : List Byte) (s : State) : (writeBytes a bs s).cellPhase = s.cellPhase := rfl
@[simp] theorem writeBytes_cellBad (a : Nat) (bs : List Byte) (s : State) : (writeBytes a bs s).cellBad = s.cellBad := rfl
@[simp] theorem writeBytes_cellSpares (a : Nat) (bs : List Byte) (s : State) : (writeBytes a bs s).cellSpares = s.cellSpares := rfl
@[simp] theorem writeBytes_heldReqs (a : Nat) (bs : List Byte) (s : State) : (writeBytes a bs s).heldReqs = s.heldReqs := rfl
@[simp] theorem writeBytes_islands (a : Nat) (bs : List Byte) (s : State) : (writeBytes a bs s).islands = s.islands := rfl
@[simp] theorem writeBytes_ports (a : Nat) (bs : List Byte) (s : State) : (writeBytes a bs s).ports = s.ports := rfl
@[simp] theorem writeBytes_counterMono (a : Nat) (bs : List Byte) (s : State) : (writeBytes a bs s).counterMono = s.counterMono := rfl
@[simp] theorem writeBytes_leafNext (a : Nat) (bs : List Byte) (s : State) : (writeBytes a bs s).leafNext = s.leafNext := rfl
@[simp] theorem writeBytes_leafLimit (a : Nat) (bs : List Byte) (s : State) : (writeBytes a bs s).leafLimit = s.leafLimit := rfl
@[simp] theorem writeBytes_firmware (a : Nat) (bs : List Byte) (s : State) : (writeBytes a bs s).firmware = s.firmware := rfl
@[simp] theorem writeBytes_devnum (a : Nat) (bs : List Byte) (s : State) : (writeBytes a bs s).devnum = s.devnum := rfl
@[simp] theorem writeBytes_throttled (a : Nat) (bs : List Byte) (s : State) : (writeBytes a bs s).throttled = s.throttled := rfl
@[simp] theorem writeBytes_shutDown (a : Nat) (bs : List Byte) (s : State) : (writeBytes a bs s).shutDown = s.shutDown := rfl
@[simp] theorem writeBytes_pcieGen (a : Nat) (bs : List Byte) (s : State) : (writeBytes a bs s).pcieGen = s.pcieGen := rfl
@[simp] theorem writeBytes_aer (a : Nat) (bs : List Byte) (s : State) : (writeBytes a bs s).aer = s.aer := rfl
@[simp] theorem writeBytes_nextId (a : Nat) (bs : List Byte) (s : State) : (writeBytes a bs s).nextId = s.nextId := rfl

/-! ### What each update writes -/

@[simp] theorem modThread_threads (t : Nat) (f : Thread → Thread) (s : State) : (modThread t f s).threads = s.threads.adj t f := rfl
@[simp] theorem modSquad_squads (q : Nat) (f : Squad → Squad) (s : State) : (modSquad q f s).squads = s.squads.adj q f := rfl
@[simp] theorem modBlock_blocks (b : Nat) (f : Block → Block) (s : State) : (modBlock b f s).blocks = s.blocks.adj b f := rfl
@[simp] theorem modCore_cores (c : Nat) (f : Core → Core) (s : State) : (modCore c f s).cores = s.cores.put c (f (cor s c)) := rfl
@[simp] theorem modAgent_agents (a : Nat) (f : Agent → Agent) (s : State) : (modAgent a f s).agents = s.agents.adj a f := rfl
@[simp] theorem modLaunch_launches (l : Nat) (f : Launch → Launch) (s : State) : (modLaunch l f s).launches = s.launches.adj l f := rfl
@[simp] theorem writeBytes_mem (a : Nat) (bs : List Byte) (s : State) : (writeBytes a bs s).mem = cellsSet s.mem a bs := rfl

end Sys2Proof.Machine
end

