-- ==== Sys2Proof/Laws/Memory.lean ====
section
/-! SUPPORT. Laws of memory: the canonical form is kept, a read after a write of the same bytes gives what was written, and a write
leaves every other byte alone. -/

namespace Sys2Proof.Machine

/-- The keys after a write: the written key, or keys that stood. -/
theorem mem_cellSet {m : List Host.Cell} {a : Nat} {b : Byte} {c : Host.Cell} (h : c ∈ cellSet m a b) :
    c ∈ m ∨ (c = (a, b) ∧ b ≠ unwritten) := by
  induction m with
  | nil => by_cases hb : b = unwritten <;> simp_all [cellSet]
  | cons e r ih =>
    obtain ⟨x, v⟩ := e
    by_cases hb : b = unwritten <;> by_cases h1 : a < x <;> by_cases h2 : a = x <;> simp only [cellSet, hb, h1, h2, if_true, if_false] at h <;>
      grind

/-- One byte written keeps the canonical form. -/
theorem cellSet_wf {m : List Host.Cell} (h : Memory.wf m) (a : Nat) (b : Byte) : Memory.wf (cellSet m a b) := by
  constructor
  · obtain ⟨h, -⟩ := h
    induction m with
    | nil => unfold cellSet; split <;> simp
    | cons e r ih =>
      obtain ⟨x, v⟩ := e
      obtain ⟨h1, h2⟩ := List.pairwise_cons.mp h
      unfold cellSet
      split
      · split
        · exact h
        · rename_i hax _
          refine List.pairwise_cons.mpr ⟨fun c hc => ?_, h⟩
          rcases List.mem_cons.mp hc with rfl | hc
          · exact hax
          · exact Nat.lt_trans hax (h1 c hc)
      · split
        · rename_i hax
          split
          · exact h2
          · exact List.pairwise_cons.mpr ⟨fun c hc => hax ▸ h1 c hc, h2⟩
        · refine List.pairwise_cons.mpr ⟨fun c hc => ?_, ih h2⟩
          rcases mem_cellSet hc with hc | ⟨rfl, -⟩
          · exact h1 c hc
          · simp only; omega
  · intro c hc
    rcases mem_cellSet hc with hc | ⟨rfl, hb⟩
    · exact h.2 c hc
    · exact hb

/-- Bytes written keep the canonical form. -/
theorem cellsSet_wf {m : List Host.Cell} (h : Memory.wf m) (a : Nat) (bs : List Byte) : Memory.wf (cellsSet m a bs) := by
  induction bs generalizing m a with
  | nil => exact h
  | cons b r ih => exact ih (cellSet_wf h a b) (a + 1)

theorem writeBytes_wf {s : State} (h : Memory.wf s.mem) (a : Nat) (bs : List Byte) : Memory.wf (writeBytes a bs s).mem :=
  cellsSet_wf h a bs

/-- A key below every key of the list is unlisted. -/
theorem cellGet_of_lt {m : List Host.Cell} {a : Nat} (h : ∀ c ∈ m, a < c.1) : cellGet m a = unwritten := by
  induction m with
  | nil => rfl
  | cons e r ih =>
    obtain ⟨x, v⟩ := e
    have := h (x, v) List.mem_cons_self
    unfold cellGet
    rw [if_neg (by simp only at this; omega)]
    exact ih fun c hc => h c (List.mem_cons_of_mem _ hc)

/-- A byte read where it was written. -/
theorem cellGet_cellSet_self {m : List Host.Cell} (h : Memory.wf m) (a : Nat) (b : Byte) : cellGet (cellSet m a b) a = b := by
  obtain ⟨h, -⟩ := h
  induction m with
  | nil => unfold cellSet; split <;> simp_all [cellGet]
  | cons e r ih =>
    obtain ⟨x, v⟩ := e
    obtain ⟨h1, h2⟩ := List.pairwise_cons.mp h
    unfold cellSet
    split
    · rename_i hax
      split
      · rename_i hb
        rw [cellGet_of_lt, hb]
        intro c hc
        rcases List.mem_cons.mp hc with rfl | hc
        · exact hax
        · exact Nat.lt_trans hax (h1 c hc)
      · simp [cellGet]
    · split
      · rename_i hax
        split
        · rename_i hb
          rw [cellGet_of_lt (fun c hc => hax ▸ h1 c hc), hb]
        · simp [cellGet]
      · rename_i hax
        simp [cellGet, Ne.symm hax, ih h2]

/-- A byte read where nothing was written. -/
theorem cellGet_cellSet_ne {m : List Host.Cell} {a x : Nat} (b : Byte) (h : x ≠ a) : cellGet (cellSet m a b) x = cellGet m x := by
  induction m with
  | nil => unfold cellSet; split <;> simp [cellGet, Ne.symm h]
  | cons e r ih =>
    obtain ⟨y, v⟩ := e
    unfold cellSet
    split
    · split
      · rfl
      · simp [cellGet, Ne.symm h]
    · split
      · rename_i hay
        subst hay
        split <;> simp [cellGet, Ne.symm h]
      · simp only [cellGet]; split <;> [rfl; exact ih]

/-- A write leaves every byte outside it alone. -/
theorem cellGet_cellsSet_ne {m : List Host.Cell} {a x : Nat} {bs : List Byte} (h : x < a ∨ a + bs.length ≤ x) :
    cellGet (cellsSet m a bs) x = cellGet m x := by
  induction bs generalizing m a with
  | nil => rfl
  | cons b r ih =>
    simp only [List.length_cons] at h
    simp only [cellsSet]
    rw [ih (by omega), cellGet_cellSet_ne b (by omega)]

/-- Every written byte reads as written. -/
theorem cellGet_cellsSet {m : List Host.Cell} (h : Memory.wf m) {a i : Nat} {bs : List Byte} (hi : i < bs.length) :
    cellGet (cellsSet m a bs) (a + i) = bs[i] := by
  induction bs generalizing m a i with
  | nil => exact absurd hi (by simp)
  | cons b r ih =>
    simp only [cellsSet]
    cases i with
    | zero => rw [cellGet_cellsSet_ne (.inl (by omega)), Nat.add_zero, cellGet_cellSet_self h]; rfl
    | succ j =>
      have := ih (cellSet_wf h a b) (a := a + 1) (i := j) (by simpa using hi)
      simpa [Nat.add_assoc, Nat.add_comm 1 j] using this

/-- A read of the bytes just written gives them. -/
theorem readBytes_writeBytes {s : State} (h : Memory.wf s.mem) (a : Nat) (bs : List Byte) :
    readBytes (writeBytes a bs s) a bs.length = bs := by
  apply List.ext_getElem (by simp [readBytes, cellsGet])
  intro i h1 h2
  simp [readBytes, cellsGet, cellGet_cellsSet h h2]

/-- A byte outside a write reads as before. -/
theorem readByte_writeBytes_ne {s : State} {a x : Nat} {bs : List Byte} (h : x < a ∨ a + bs.length ≤ x) :
    readByte (writeBytes a bs s) x = readByte s x := cellGet_cellsSet_ne h

@[simp] theorem natLe_length (n x : Nat) : (natLe n x).length = n := by
  induction n generalizing x with
  | zero => rfl
  | succ n ih => simp [natLe, ih]

/-- A little-endian number read back from its bytes. -/
theorem leNat_natLe (n x : Nat) : leNat (natLe n x) = x % 256 ^ n := by
  induction n generalizing x with
  | zero => simp [natLe, leNat, Nat.mod_one]
  | succ n ih =>
    simp only [natLe, leNat, ih, BitVec.toNat_ofNat]
    rw [show (2 : Nat) ^ 8 = 256 from rfl, Nat.mod_mod, Nat.pow_succ, Nat.mul_comm (256 ^ n) 256, Nat.mod_mul]

end Sys2Proof.Machine
end

