-- ==== Sys2Proof/Laws/Table.lean ====
section
/-! SUPPORT. Laws of the sparse tables: what is read after a write. -/

namespace Sys2Proof.Machine.Tbl

variable {α : Type}

@[simp] theorem get?_nil (k : Nat) : get? ([] : Tbl α) k = none := rfl

theorem get?_cons (j k : Nat) (a : α) (r : Tbl α) : get? ((j, a) :: r) k = if j = k then some a else get? r k := rfl

/-- A table reads, at the key just put, what was put. -/
@[simp] theorem get?_put_self (t : Tbl α) (k : Nat) (a : α) : get? (put t k a) k = some a := by
  induction t with
  | nil => simp [put, get?_cons]
  | cons e r ih =>
    obtain ⟨j, b⟩ := e
    unfold put
    split
    · simp [get?_cons]
    · split
      · simp [get?_cons]
      · rename_i h; simp [get?_cons, h, ih]

/-- Putting at one key changes no other. -/
theorem get?_put_ne {t : Tbl α} {k x : Nat} {a : α} (h : x ≠ k) : get? (put t k a) x = get? t x := by
  induction t with
  | nil => simp [put, get?_cons, Ne.symm h]
  | cons e r ih =>
    obtain ⟨j, b⟩ := e
    unfold put
    split
    · simp [get?_cons, Ne.symm h]
    · split
      · rename_i hk; subst hk; simp [get?_cons, Ne.symm h]
      · simp [get?_cons, ih]

/-- A table after a change at key `k`. -/
theorem get?_adj (t : Tbl α) (k x : Nat) (f : α → α) : get? (adj t k f) x = if x = k then (get? t x).map f else get? t x := by
  induction t with
  | nil => simp [adj]
  | cons e r ih =>
    obtain ⟨j, b⟩ := e
    unfold adj
    split
    · rename_i hj
      subst hj
      by_cases hx : x = j
      · simp [get?_cons, hx]
      · simp [get?_cons, hx, Ne.symm hx]
    · rename_i hj
      by_cases hx : x = k
      · subst hx; simp [get?_cons, hj, ih]
      · simp [get?_cons, hx, ih]

@[simp] theorem getD_put_self (t : Tbl α) (k : Nat) (a d : α) : getD (put t k a) k d = a := by simp [getD]

theorem getD_put_ne {t : Tbl α} {k x : Nat} {a d : α} (h : x ≠ k) : getD (put t k a) x d = getD t x d := by
  simp [getD, get?_put_ne h]

theorem getD_adj_ne {t : Tbl α} {k x : Nat} {f : α → α} {d : α} (h : x ≠ k) : getD (adj t k f) x d = getD t x d := by
  simp [getD, get?_adj, h]

theorem getD_adj_self {t : Tbl α} {k : Nat} {f : α → α} {d : α} (h : (get? t k).isSome) :
    getD (adj t k f) k d = f (getD t k d) := by
  obtain ⟨a, ha⟩ := Option.isSome_iff_exists.mp h
  simp [getD, get?_adj, ha]

@[simp] theorem isSome_get?_adj (t : Tbl α) (k x : Nat) (f : α → α) : (get? (adj t k f) x).isSome = (get? t x).isSome := by
  rw [get?_adj]; split <;> simp

/-- A change that is none leaves the table as it is. -/
@[simp] theorem adj_id (t : Tbl α) (k : Nat) : adj t k (fun a => a) = t := by
  induction t with
  | nil => rfl
  | cons e r ih => obtain ⟨j, b⟩ := e; unfold adj; split <;> simp_all

end Sys2Proof.Machine.Tbl
end

