-- ==== Sys2Proof/Laws/Lanes.lean ====
section
/-! SUPPORT. Laws of the lane words: what reading a thread's registers gives after each operation, and what a lane word does when no
lane has a cause. -/

namespace Sys2Proof.Machine

/-! ### Threads by key -/

theorem thr_modThread_self {t : Nat} {f : Thread → Thread} {s : State} (h : (s.threads.get? t).isSome) :
    thr (modThread t f s) t = f (thr s t) := Tbl.getD_adj_self h

theorem thr_modThread_ne {t u : Nat} {f : Thread → Thread} {s : State} (h : u ≠ t) : thr (modThread t f s) u = thr s u :=
  Tbl.getD_adj_ne h

@[simp] theorem thr_modSquad (q t : Nat) (f : Squad → Squad) (s : State) : thr (modSquad q f s) t = thr s t := rfl
@[simp] theorem thr_modAgent (a t : Nat) (f : Agent → Agent) (s : State) : thr (modAgent a f s) t = thr s t := rfl
@[simp] theorem thr_modCore (c t : Nat) (f : Core → Core) (s : State) : thr (modCore c f s) t = thr s t := rfl
@[simp] theorem thr_modWave (t : Nat) (f : Wave → Wave) (s : State) : thr (modWave f s) t = thr s t := rfl
@[simp] theorem thr_endMove (a t : Nat) (s : State) : thr (endMove a s) t = thr s t := rfl

/-- A thread that is absent reads as the default whatever is done to others. -/
theorem thr_modThread_absent {t : Nat} {f : Thread → Thread} {s : State} (h : s.threads.get? t = none) (u : Nat) :
    thr (modThread t f s) u = thr s u := by
  by_cases hu : u = t
  · subst hu; simp [thr, Tbl.getD, Tbl.get?_adj, h]
  · exact thr_modThread_ne hu

/-- An update that keeps a field of a thread keeps it in every thread. -/
theorem field_modThread {β : Type} (p : Thread → β) {t : Nat} {f : Thread → Thread} (hp : ∀ th, p (f th) = p th) (s : State) (u : Nat) :
    p (thr (modThread t f s) u) = p (thr s u) := by
  by_cases hu : u = t
  · subst hu
    cases h : s.threads.get? u with
    | none => rw [thr_modThread_absent h]
    | some a => rw [thr_modThread_self (by simp [h]), hp]
  · rw [thr_modThread_ne hu]

/-! ### A register file after a write -/

theorem getD_setIfInBounds {α : Type} {n : Nat} (v : Vector α n) (i j : Nat) (x d : α) (hj : j < n) :
    (v.setIfInBounds i x).getD j d = if i = j then x else v.getD j d := by
  have h : ∀ w : Vector α n, w.getD j d = w[j] := fun w => by simp [Vector.getD, hj]
  rw [h, h, Vector.getElem_setIfInBounds hj]

theorem getD_setIfInBounds_ne {α : Type} {n : Nat} (v : Vector α n) {i j : Nat} (x d : α) (h : i ≠ j) :
    (v.setIfInBounds i x).getD j d = v.getD j d := by
  by_cases hj : j < n
  · rw [getD_setIfInBounds v i j x d hj, if_neg h]
  · simp [Vector.getD, hj]

/-! ### Functions that read only their own thread -/

/-- A function of a thread that no change of another thread alters. -/
def ReadsOwn {α : Type} (f : State → Bool → Nat → α) : Prop :=
  ∀ s t g sh u, u ≠ t → f (modThread t g s) sh u = f s sh u

theorem readsOwn_readV (n : Nat) : ReadsOwn fun s sh t => readV s sh t n := by
  intro s t g sh u h; simp only [readV, thr_modThread_ne h]

theorem readsOwn_readK (n : Nat) : ReadsOwn fun s sh t => readK s sh t n := by
  intro s t g sh u h; simp only [readK, thr_modThread_ne h]

@[simp] theorem sqd_modThread (t q : Nat) (f : Thread → Thread) (s : State) : sqd (modThread t f s) q = sqd s q := rfl
@[simp] theorem curWave_modThread (t : Nat) (f : Thread → Thread) (s : State) : curWave (modThread t f s) = curWave s := rfl
@[simp] theorem readS_modThread (t : Nat) (f : Thread → Thread) (s : State) (sh : Bool) (q n : Nat) :
    readS (modThread t f s) sh q n = readS s sh q n := rfl
@[simp] theorem readJ_modThread (t : Nat) (f : Thread → Thread) (s : State) (sh : Bool) (q n : Nat) :
    readJ (modThread t f s) sh q n = readJ s sh q n := rfl

theorem readsOwn_src (x : Src) : ReadsOwn fun s sh t => src s sh t x := by
  intro s t g sh u h
  cases x <;> simp only [src, readV, thr_modThread_ne h, readS_modThread, sqd_modThread]

theorem readsOwn_src64 (x : Src) : ReadsOwn fun s sh t => src64 s sh t x := by
  intro s t g sh u h
  cases x <;> simp only [src64, src, readV, thr_modThread_ne h, readS64, readS_modThread, sqd_modThread]

theorem readsOwn_laneSpecial (i : Nat) : ReadsOwn fun s _ t => laneSpecial s t i := by
  intro s t g sh u h
  unfold laneSpecial
  simp only [thr_modThread_ne h, sqd_modThread]
  rfl

theorem readsOwn_const {α : Type} (c : α) : ReadsOwn fun _ _ _ => c := fun _ _ _ _ _ _ => rfl

theorem ReadsOwn.map {α β : Type} {f : State → Bool → Nat → α} (h : ReadsOwn f) (g : α → β) : ReadsOwn fun s sh t => g (f s sh t) := by
  intro s t k sh u hu; simp only [h s t k sh u hu]

theorem ReadsOwn.map₂ {α β γ : Type} {f : State → Bool → Nat → α} {f' : State → Bool → Nat → β} (h : ReadsOwn f) (h' : ReadsOwn f')
    (g : α → β → γ) : ReadsOwn fun s sh t => g (f s sh t) (f' s sh t) := by
  intro s t k sh u hu; simp only [h s t k sh u hu, h' s t k sh u hu]

theorem ReadsOwn.map₃ {α β γ δ : Type} {f : State → Bool → Nat → α} {f' : State → Bool → Nat → β} {f'' : State → Bool → Nat → γ}
    (h : ReadsOwn f) (h' : ReadsOwn f') (h'' : ReadsOwn f'') (g : α → β → γ → δ) :
    ReadsOwn fun s sh t => g (f s sh t) (f' s sh t) (f'' s sh t) := by
  intro s t k sh u hu; simp only [h s t k sh u hu, h' s t k sh u hu, h'' s t k sh u hu]

/-! ### One write in each lane -/

/-- Each thread of a list changed by a function of its own state: every thread ends as that function says, and only those change. -/
theorem foldl_modThread {α : Type} {f : State → Bool → Nat → α} (hf : ReadsOwn f) (g : α → α → Thread → Thread) {ts : List Nat}
    (hn : ts.Nodup) (s : State) (u : Nat) (hp : ∀ t ∈ ts, (s.threads.get? t).isSome) :
    thr (ts.foldl (fun s t => modThread t (g (f s false t) (f s true t)) s) s) u =
      if u ∈ ts then g (f s false u) (f s true u) (thr s u) else thr s u := by
  induction ts generalizing s with
  | nil => simp
  | cons t r ih =>
    obtain ⟨ht, hr⟩ := List.nodup_cons.mp hn
    have hp' : ∀ x ∈ r, ((modThread t (g (f s false t) (f s true t)) s).threads.get? x).isSome := by
      intro x hx
      simpa using hp x (List.mem_cons_of_mem _ hx)
    rw [List.foldl_cons, ih hr _ hp']
    by_cases hu : u = t
    · subst hu
      simp [ht, thr_modThread_self (hp u List.mem_cons_self)]
    · simp [hu, hf _ t _ _ u hu, thr_modThread_ne hu]

/-- What such a fold does to the rest of the state. -/
theorem foldl_modThread_frame {ts : List Nat} (g : State → Nat → Thread → Thread) (s : State) :
    ts.foldl (fun s t => modThread t (g s t) s) s =
      { s with threads := (ts.foldl (fun s t => modThread t (g s t) s) s).threads } := by
  induction ts generalizing s with
  | nil => rfl
  | cons t r ih => rw [List.foldl_cons, ih]; rfl

/-- SETTING A REGISTER IN EACH LANE: what it writes. -/
theorem setLanes_readV {vd : Nat} (hv : vd < 128) {f : State → Bool → Nat → Word} (hf : ReadsOwn f) {ts : List Nat} (hn : ts.Nodup)
    {s : State} (hp : ∀ t ∈ ts, (s.threads.get? t).isSome) (sh : Bool) (u n : Nat) :
    readV (setLanes vd f ts s) sh u n = if u ∈ ts ∧ n = vd then f s sh u else readV s sh u n := by
  have h := foldl_modThread hf (fun x y => Thread.setV vd x y) hn s u hp
  simp only [readV, setLanes, h]
  by_cases hu : u ∈ ts
  · by_cases hn : n = vd
    · subst hn
      cases sh <;> simp [hu, Thread.setV, getD_setIfInBounds _ _ _ _ _ hv]
    · cases sh <;> simp [hu, hn, Thread.setV, getD_setIfInBounds_ne _ _ _ (Ne.symm hn)]
  · simp [hu]

theorem setLanes_readK {vd : Nat} {f : State → Bool → Nat → Word} (hf : ReadsOwn f) {ts : List Nat} (hn : ts.Nodup)
    {s : State} (hp : ∀ t ∈ ts, (s.threads.get? t).isSome) (sh : Bool) (u n : Nat) :
    readK (setLanes vd f ts s) sh u n = readK s sh u n := by
  have h := foldl_modThread hf (fun x y => Thread.setV vd x y) hn s u hp
  simp only [readK, setLanes, h]
  by_cases hu : u ∈ ts <;> cases sh <;> simp [hu, Thread.setV]

theorem setLanes_frame (vd : Nat) (f : State → Bool → Nat → Word) (ts : List Nat) (s : State) :
    setLanes vd f ts s = { s with threads := (setLanes vd f ts s).threads } :=
  foldl_modThread_frame (fun s t => Thread.setV vd (f s false t) (f s true t)) s

/-- SETTING A REGISTER PAIR IN EACH LANE. -/
theorem setLanes64_readV {vd : Nat} (hv : vd + 1 < 128) {f : State → Bool → Nat → DWord} (hf : ReadsOwn f) {ts : List Nat}
    (hn : ts.Nodup) {s : State} (hp : ∀ t ∈ ts, (s.threads.get? t).isSome) (sh : Bool) (u n : Nat) :
    readV (setLanes64 vd f ts s) sh u n =
      if u ∈ ts ∧ n = vd then lowWord (f s sh u) else if u ∈ ts ∧ n = vd + 1 then highWord (f s sh u) else readV s sh u n := by
  have h := foldl_modThread hf (fun x y => Thread.setV64 vd x y) hn s u hp
  simp only [readV, setLanes64, h]
  by_cases hu : u ∈ ts
  · by_cases h1 : n = vd
    · subst h1
      cases sh <;> simp [hu, Thread.setV64, Thread.setV, getD_setIfInBounds_ne, getD_setIfInBounds _ _ _ _ _ (by omega : n < 128)]
    · by_cases h2 : n = vd + 1
      · subst h2
        cases sh <;> simp [hu, Thread.setV64, Thread.setV, getD_setIfInBounds _ _ _ _ _ hv]
      · cases sh <;> simp [hu, h1, h2, Thread.setV64, Thread.setV, getD_setIfInBounds_ne _ _ _ (Ne.symm h1),
          getD_setIfInBounds_ne _ _ _ (Ne.symm h2)]
  · simp [hu]

theorem setLanes64_readK {vd : Nat} {f : State → Bool → Nat → DWord} (hf : ReadsOwn f) {ts : List Nat} (hn : ts.Nodup)
    {s : State} (hp : ∀ t ∈ ts, (s.threads.get? t).isSome) (sh : Bool) (u n : Nat) :
    readK (setLanes64 vd f ts s) sh u n = readK s sh u n := by
  have h := foldl_modThread hf (fun x y => Thread.setV64 vd x y) hn s u hp
  simp only [readK, setLanes64, h]
  by_cases hu : u ∈ ts <;> cases sh <;> simp [hu, Thread.setV64, Thread.setV]

theorem setLanes64_frame (vd : Nat) (f : State → Bool → Nat → DWord) (ts : List Nat) (s : State) :
    setLanes64 vd f ts s = { s with threads := (setLanes64 vd f ts s).threads } :=
  foldl_modThread_frame (fun s t => Thread.setV64 vd (f s false t) (f s true t)) s

/-- SETTING A PREDICATE IN EACH LANE. -/
theorem setLaneK_readK {kd : Nat} (hk : kd < 8) {f : State → Bool → Nat → Bool} (hf : ReadsOwn f) {ts : List Nat} (hn : ts.Nodup)
    {s : State} (hp : ∀ t ∈ ts, (s.threads.get? t).isSome) (sh : Bool) (u n : Nat) :
    readK (setLaneK kd f ts s) sh u n = if u ∈ ts ∧ n = kd then f s sh u else readK s sh u n := by
  have h := foldl_modThread hf (fun x y => Thread.setK kd x y) hn s u hp
  simp only [readK, setLaneK, h]
  by_cases hu : u ∈ ts
  · by_cases hn : n = kd
    · subst hn
      cases sh <;> simp [hu, Thread.setK, getD_setIfInBounds _ _ _ _ _ hk]
    · cases sh <;> simp [hu, hn, Thread.setK, getD_setIfInBounds_ne _ _ _ (Ne.symm hn)]
  · simp [hu]

theorem setLaneK_readV {kd : Nat} {f : State → Bool → Nat → Bool} (hf : ReadsOwn f) {ts : List Nat} (hn : ts.Nodup)
    {s : State} (hp : ∀ t ∈ ts, (s.threads.get? t).isSome) (sh : Bool) (u n : Nat) :
    readV (setLaneK kd f ts s) sh u n = readV s sh u n := by
  have h := foldl_modThread hf (fun x y => Thread.setK kd x y) hn s u hp
  simp only [readV, setLaneK, h]
  by_cases hu : u ∈ ts <;> cases sh <;> simp [hu, Thread.setK]

theorem setLaneK_frame (kd : Nat) (f : State → Bool → Nat → Bool) (ts : List Nat) (s : State) :
    setLaneK kd f ts s = { s with threads := (setLaneK kd f ts s).threads } :=
  foldl_modThread_frame (fun s t => Thread.setK kd (f s false t) (f s true t)) s

/-! ### The run's squad writes -/

/-- A fold of squad changes changes squads only. -/
theorem foldl_modSquad_frame {α : Type} (l : List α) (q : α → Nat) (f : α → Squad → Squad) (s : State) :
    l.foldl (fun s x => modSquad (q x) (f x) s) s = { s with squads := (l.foldl (fun s x => modSquad (q x) (f x) s) s).squads } := by
  induction l generalizing s with
  | nil => rfl
  | cons x r ih => rw [List.foldl_cons, ih]; rfl

/-- COMMITTING A RUN'S SQUAD WRITES changes squads only. -/
theorem commitWrites_frame (s : State) : commitWrites s = { s with squads := (commitWrites s).squads } :=
  foldl_modSquad_frame (curWave s).writes (·.squad) (fun w q => commitWrite q w) s

@[simp] theorem commitWrites_threads (s : State) : (commitWrites s).threads = s.threads := by rw [commitWrites_frame]
@[simp] theorem commitWrites_cores (s : State) : (commitWrites s).cores = s.cores := by rw [commitWrites_frame]
@[simp] theorem commitWrites_agents (s : State) : (commitWrites s).agents = s.agents := by rw [commitWrites_frame]
@[simp] theorem commitWrites_cur (s : State) : (commitWrites s).cur = s.cur := by rw [commitWrites_frame]
@[simp] theorem commitWrites_mem (s : State) : (commitWrites s).mem = s.mem := by rw [commitWrites_frame]

/-! ### The end of a run -/

/-- THE END OF A THREAD'S RUN keeps every register, and changes threads and agents only. -/
theorem leaveRun_frame (t : Nat) (pc : DWord) (b : Bool) (s : State) :
    leaveRun t pc b s = { s with threads := (leaveRun t pc b s).threads, agents := (leaveRun t pc b s).agents } := rfl

theorem leaveRun_readV (t : Nat) (pc : DWord) (b : Bool) (s : State) (sh : Bool) (u n : Nat) :
    readV (leaveRun t pc b s) sh u n = readV s sh u n := by
  have h1 := field_modThread (·.v) (t := t) (f := fun th => { th with pc := pc, inWave := false, inRun := b, direct := false, deny := none, answered := false, badPage := none, slowEnd := s.cur.slow, shWord := 0 })
    (fun _ => rfl) s u
  have h2 := field_modThread (·.shV) (t := t) (f := fun th => { th with pc := pc, inWave := false, inRun := b, direct := false, deny := none, answered := false, badPage := none, slowEnd := s.cur.slow, shWord := 0 })
    (fun _ => rfl) s u
  cases sh <;> simp only [readV, leaveRun, thr_endMove, h1, h2]

theorem leaveRun_readK (t : Nat) (pc : DWord) (b : Bool) (s : State) (sh : Bool) (u n : Nat) :
    readK (leaveRun t pc b s) sh u n = readK s sh u n := by
  have h1 := field_modThread (·.k) (t := t) (f := fun th => { th with pc := pc, inWave := false, inRun := b, direct := false, deny := none, answered := false, badPage := none, slowEnd := s.cur.slow, shWord := 0 })
    (fun _ => rfl) s u
  have h2 := field_modThread (·.shK) (t := t) (f := fun th => { th with pc := pc, inWave := false, inRun := b, direct := false, deny := none, answered := false, badPage := none, slowEnd := s.cur.slow, shWord := 0 })
    (fun _ => rfl) s u
  cases sh <;> simp only [readK, leaveRun, thr_endMove, h1, h2]

theorem leaveRuns_frame (ts : List Nat) (pc : Nat → DWord) (s : State) :
    leaveRuns ts pc s = { s with threads := (leaveRuns ts pc s).threads, agents := (leaveRuns ts pc s).agents } := by
  unfold leaveRuns
  induction ts generalizing s with
  | nil => rfl
  | cons t r ih => rw [List.foldl_cons, ih]; rfl

theorem leaveRuns_readV (ts : List Nat) (pc : Nat → DWord) (s : State) (sh : Bool) (u n : Nat) :
    readV (leaveRuns ts pc s) sh u n = readV s sh u n := by
  unfold leaveRuns
  induction ts generalizing s with
  | nil => rfl
  | cons t r ih => rw [List.foldl_cons, ih, leaveRun_readV]

theorem leaveRuns_readK (ts : List Nat) (pc : Nat → DWord) (s : State) (sh : Bool) (u n : Nat) :
    readK (leaveRuns ts pc s) sh u n = readK s sh u n := by
  unfold leaveRuns
  induction ts generalizing s with
  | nil => rfl
  | cons t r ih => rw [List.foldl_cons, ih, leaveRun_readK]

/-- Each thread whose run ends stands at the address given for it. -/
theorem leaveRuns_pc {ts : List Nat} (hn : ts.Nodup) (pc : Nat → DWord) {s : State} (hp : ∀ t ∈ ts, (s.threads.get? t).isSome)
    {u : Nat} (hu : u ∈ ts) : (thr (leaveRuns ts pc s) u).pc = pc u := by
  unfold leaveRuns
  have keep : ∀ (r : List Nat) (s : State), u ∉ r → (thr (r.foldl (fun s t => leaveRun t (pc t) false s) s) u).pc = (thr s u).pc := by
    intro r
    induction r with
    | nil => intros; rfl
    | cons t r ih =>
      intro s h
      rw [List.foldl_cons, ih _ (fun hr => h (List.mem_cons_of_mem _ hr))]
      simp only [leaveRun, thr_endMove]
      rw [thr_modThread_ne (fun he => h (List.mem_cons.mpr (.inl he)))]
  induction ts generalizing s with
  | nil => simp at hu
  | cons t r ih =>
    obtain ⟨ht, hr⟩ := List.nodup_cons.mp hn
    rw [List.foldl_cons]
    rcases List.mem_cons.mp hu with rfl | hur
    · rw [keep r _ ht]
      simp only [leaveRun, thr_endMove]
      rw [thr_modThread_self (hp u List.mem_cons_self)]
    · refine ih hr (fun x hx => ?_) hur
      have := hp x (List.mem_cons_of_mem _ hx)
      simpa [leaveRun, endMove] using this

/-! ### The wave -/

theorem dropThreads_frame (ts : List Nat) (s : State) : dropThreads ts s = { s with cores := (dropThreads ts s).cores } := by
  cases h : s.cur.slow <;> simp only [dropThreads, modWave_cur, h, Bool.false_eq_true, if_true, if_false] <;> rfl

theorem advance_frame (s : State) : advance s = { s with cores := (advance s).cores } := rfl

theorem readV_congr {s t : State} (h : s.threads = t.threads) (sh : Bool) (u n : Nat) : readV s sh u n = readV t sh u n := by
  simp only [readV, thr, h]

theorem readK_congr {s t : State} (h : s.threads = t.threads) (sh : Bool) (u n : Nat) : readK s sh u n = readK t sh u n := by
  simp only [readK, thr, h]

/-! ### A word without a cause -/

theorem faultsOf_none {s : State} {ts : List Nat} {check : Nat → Option Cause} (h : ∀ t ∈ ts, check t = none) :
    faultsOf s ts check = [] := by
  unfold faultsOf
  rw [List.filterMap_eq_nil_iff]
  intro t ht
  simp [h t ht]

theorem squadsIn_nil (s : State) : squadsIn s [] = [] := by simp [squadsIn, sortBy]

/-- A RUN'S LAST LANE WORD, where no lane has a cause: the run's squad writes are made, every thread's run ends and the threads
leave the wave. -/
theorem lastLane_ok {check : Nat → Option Cause} {finish : List Nat → State → State} {s : State}
    (h : ∀ t ∈ s.cur.threads, check t = none) :
    lastLane check finish s = dropThreads s.cur.threads (finish s.cur.threads (commitWrites s)) := by
  simp [lastLane, faultsOf_none h, mismatched, classP, squadsIn_nil]

/-- A LANE WORD where no lane has a cause. -/
theorem laneWord_ok {e : Bool} {check : Nat → Option Cause} {act : List Nat → State → State} {s : State}
    (h : ∀ t ∈ s.cur.threads, check t = none) :
    laneWord e check act s =
      if e then dropThreads s.cur.threads (leaveRuns s.cur.threads (fun _ => s.cur.pc + 4) (act s.cur.threads (commitWrites s)))
      else advance (act s.cur.threads s) := by
  cases e
  · simp [laneWord, faultsOf_none h, noteFaults]
  · simp [laneWord, lastLane_ok h]

/-- A LANE WORD whose action changes threads only, where no lane has a cause: its registers are those the action leaves. -/
theorem laneWord_regs {e : Bool} {check : Nat → Option Cause} {act : List Nat → State → State} {s : State}
    (h : ∀ t ∈ s.cur.threads, check t = none)
    (ha : ∀ s', act s.cur.threads s' = { s' with threads := (act s.cur.threads s').threads }) :
    OnlyThreads e s (laneWord e check act s) ∧
    (∀ sh u n, readV (laneWord e check act s) sh u n = readV (act s.cur.threads (actsOn e s)) sh u n) ∧
    ∀ sh u n, readK (laneWord e check act s) sh u n = readK (act s.cur.threads (actsOn e s)) sh u n := by
  rw [laneWord_ok h]
  cases e
  · simp only [Bool.false_eq_true, if_false, actsOn]
    obtain ⟨t, ht⟩ : ∃ t, act s.cur.threads s = { s with threads := t } := ⟨_, ha s⟩
    rw [ht]
    exact ⟨⟨rfl, rfl, fun _ => rfl⟩, fun sh u n => readV_congr rfl .., fun sh u n => readK_congr rfl ..⟩
  · simp only [if_true, actsOn]
    obtain ⟨q, hq⟩ : ∃ q, commitWrites s = { s with squads := q } := ⟨_, commitWrites_frame s⟩
    obtain ⟨t, ht⟩ : ∃ t, act s.cur.threads { s with squads := q } = { s with squads := q, threads := t } := ⟨_, ha _⟩
    rw [hq, ht]
    obtain ⟨u, a, hl⟩ : ∃ u a, leaveRuns s.cur.threads (fun _ => s.cur.pc + 4) { s with squads := q, threads := t } =
        { s with squads := q, threads := u, agents := a } := ⟨_, _, leaveRuns_frame ..⟩
    obtain ⟨c, hd⟩ : ∃ c, dropThreads s.cur.threads { s with squads := q, threads := u, agents := a } =
        { s with squads := q, threads := u, agents := a, cores := c } := ⟨_, dropThreads_frame ..⟩
    refine ⟨⟨by rw [hl, hd], by rw [hl, hd, actsOn, if_pos rfl, hq], fun h => by cases h⟩, fun sh v n => ?_, fun sh v n => ?_⟩
    · have hr := leaveRuns_readV s.cur.threads (fun _ => s.cur.pc + 4) { s with squads := q, threads := t } sh v n
      rw [hl] at hr
      rw [hl, hd]
      exact (readV_congr rfl ..).trans hr
    · have hr := leaveRuns_readK s.cur.threads (fun _ => s.cur.pc + 4) { s with squads := q, threads := t } sh v n
      rw [hl] at hr
      rw [hl, hd]
      exact (readK_congr rfl ..).trans hr

theorem actsOn_threads (e : Bool) (s : State) : (actsOn e s).threads = s.threads := by cases e <;> simp [actsOn]

/-- A LANE WORD THAT WRITES ONE v REGISTER, where no lane has a cause. -/
theorem laneWord_setLanes {e : Bool} {check : Nat → Option Cause} {vd : Nat} (hv : vd < 128) {f : State → Bool → Nat → Word}
    (hf : ReadsOwn f) {s : State} (hs : AtWord s) (h : ∀ t ∈ s.cur.threads, check t = none) :
    (∀ u ∈ s.cur.threads, ∀ sh, readV (laneWord e check (setLanes vd f) s) sh u vd = f (actsOn e s) sh u) ∧
    OtherV [vd] s (laneWord e check (setLanes vd f) s) ∧ OnlyThreads e s (laneWord e check (setLanes vd f) s) := by
  obtain ⟨h1, h2, h3⟩ := laneWord_regs (e := e) h (setLanes_frame vd f s.cur.threads)
  have hp : ∀ t ∈ s.cur.threads, ((actsOn e s).threads.get? t).isSome := by rw [actsOn_threads]; exact hs.2
  refine ⟨fun u hu sh => ?_, ⟨fun u n sh hn => ?_, fun u n sh => ?_⟩, h1⟩
  · rw [h2, setLanes_readV hv hf hs.1 hp, if_pos ⟨hu, rfl⟩]
  · rw [h2, setLanes_readV hv hf hs.1 hp, if_neg (by simpa [imp_iff_not_or] using hn), readV_congr (actsOn_threads e s)]
  · rw [h3, setLanes_readK hf hs.1 hp, readK_congr (actsOn_threads e s)]

/-- A LANE WORD THAT WRITES A REGISTER PAIR, where no lane has a cause. -/
theorem laneWord_setLanes64 {e : Bool} {check : Nat → Option Cause} {vd : Nat} (hv : vd + 1 < 128) {f : State → Bool → Nat → DWord}
    (hf : ReadsOwn f) {s : State} (hs : AtWord s) (h : ∀ t ∈ s.cur.threads, check t = none) :
    (∀ u ∈ s.cur.threads, ∀ sh, readV (laneWord e check (setLanes64 vd f) s) sh u vd = lowWord (f (actsOn e s) sh u) ∧
      readV (laneWord e check (setLanes64 vd f) s) sh u (vd + 1) = highWord (f (actsOn e s) sh u)) ∧
    OtherV [vd, vd + 1] s (laneWord e check (setLanes64 vd f) s) ∧ OnlyThreads e s (laneWord e check (setLanes64 vd f) s) := by
  obtain ⟨h1, h2, h3⟩ := laneWord_regs (e := e) h (setLanes64_frame vd f s.cur.threads)
  have hp : ∀ t ∈ s.cur.threads, ((actsOn e s).threads.get? t).isSome := by rw [actsOn_threads]; exact hs.2
  refine ⟨fun u hu sh => ⟨?_, ?_⟩, ⟨fun u n sh hn => ?_, fun u n sh => ?_⟩, h1⟩
  · rw [h2, setLanes64_readV hv hf hs.1 hp, if_pos ⟨hu, rfl⟩]
  · rw [h2, setLanes64_readV hv hf hs.1 hp, if_neg (by omega), if_pos ⟨hu, rfl⟩]
  · have : ¬(u ∈ s.cur.threads ∧ n = vd) ∧ ¬(u ∈ s.cur.threads ∧ n = vd + 1) := by
      rcases hn with hn | hn
      · exact ⟨fun h => hn h.1, fun h => hn h.1⟩
      · simp only [List.mem_cons, List.not_mem_nil, or_false, not_or] at hn
        exact ⟨fun h => hn.1 h.2, fun h => hn.2 h.2⟩
    rw [h2, setLanes64_readV hv hf hs.1 hp, if_neg this.1, if_neg this.2, readV_congr (actsOn_threads e s)]
  · rw [h3, setLanes64_readK hf hs.1 hp, readK_congr (actsOn_threads e s)]

/-- A LANE WORD THAT WRITES ONE k PREDICATE, where no lane has a cause. -/
theorem laneWord_setLaneK {e : Bool} {check : Nat → Option Cause} {kd : Nat} (hk : kd < 8) {f : State → Bool → Nat → Bool}
    (hf : ReadsOwn f) {s : State} (hs : AtWord s) (h : ∀ t ∈ s.cur.threads, check t = none) :
    (∀ u ∈ s.cur.threads, ∀ sh, readK (laneWord e check (setLaneK kd f) s) sh u kd = f (actsOn e s) sh u) ∧
    OtherK kd s (laneWord e check (setLaneK kd f) s) ∧ OnlyThreads e s (laneWord e check (setLaneK kd f) s) := by
  obtain ⟨h1, h2, h3⟩ := laneWord_regs (e := e) h (setLaneK_frame kd f s.cur.threads)
  have hp : ∀ t ∈ s.cur.threads, ((actsOn e s).threads.get? t).isSome := by rw [actsOn_threads]; exact hs.2
  refine ⟨fun u hu sh => ?_, ⟨fun u n sh hn => ?_, fun u n sh => ?_⟩, h1⟩
  · rw [h3, setLaneK_readK hk hf hs.1 hp, if_pos ⟨hu, rfl⟩]
  · rw [h3, setLaneK_readK hk hf hs.1 hp, if_neg (by simpa [imp_iff_not_or] using hn), readK_congr (actsOn_threads e s)]
  · rw [h2, setLaneK_readV hf hs.1 hp, readV_congr (actsOn_threads e s)]

/-! ### One lemma for each shape of lane word -/

theorem readsOwn_of1 (xa : Src) (f : Word → Word) : ReadsOwn (of1 xa f) := (readsOwn_src xa).map f
theorem readsOwn_of2 (xa xb : Src) (f : Word → Word → Word) : ReadsOwn (of2 xa xb f) := (readsOwn_src xa).map₂ (readsOwn_src xb) f
theorem readsOwn_of3 (vd : Fin 128) (xa xb : Src) (f : Word → Word → Word → Word) : ReadsOwn (of3 vd xa xb f) :=
  (readsOwn_readV vd.val).map₃ (readsOwn_src xa) (readsOwn_src xb) f

/-- A lane word that sets a register from the lane's own state. -/
theorem writesV_of {i : Instr} {e : Bool} {vd : Fin 128} {f : Val Word} (hf : ReadsOwn f)
    (h : ∀ s, exec i s = .next (laneWord e (useCauses s (usesOf i)) (setLanes vd.val f) s)) : WritesV i e vd f := by
  intro s hs
  obtain ⟨h1, h2, h3⟩ := laneWord_setLanes (e := e) vd.isLt hf hs.1 hs.2
  exact ⟨_, h s, h1, h2, h3⟩

theorem writesV_lane1 {i : Instr} {e : Bool} {vd : Fin 128} {xa : Src} {f : Word → Word}
    (h : ∀ s, exec i s = .next (lane1 e vd xa f s)) (hu : usesOf i = use1 vd xa) : WritesV i e vd (of1 xa f) :=
  writesV_of (readsOwn_of1 xa f) fun s => by rw [h, hu]; rfl

theorem writesV_lane2 {i : Instr} {e : Bool} {vd : Fin 128} {xa xb : Src} {f : Word → Word → Word}
    (h : ∀ s, exec i s = .next (lane2 e vd xa xb f s)) (hu : usesOf i = use2 vd xa xb) : WritesV i e vd (of2 xa xb f) :=
  writesV_of (readsOwn_of2 xa xb f) fun s => by rw [h, hu]; rfl

theorem writesV_lane3 {i : Instr} {e : Bool} {vd : Fin 128} {xa xb : Src} {f : Word → Word → Word → Word}
    (h : ∀ s, exec i s = .next (lane3 e vd xa xb f s)) (hu : usesOf i = use3 vd xa xb) : WritesV i e vd (of3 vd xa xb f) :=
  writesV_of (readsOwn_of3 vd xa xb f) fun s => by rw [h, hu]; rfl

/-- A lane word that sets a register pair. -/
theorem writesV64_of {i : Instr} {e : Bool} {vd : Fin 128} (hv : vd.val + 1 < 128) {f : Val DWord} (hf : ReadsOwn f)
    (h : ∀ s, exec i s = .next (laneWord e (useCauses s (usesOf i)) (setLanes64 vd.val f) s)) : WritesV64 i e vd f := by
  intro s hs
  obtain ⟨h1, h2, h3⟩ := laneWord_setLanes64 (e := e) hv hf hs.1 hs.2
  exact ⟨_, h s, h1, h2, h3⟩

/-- A lane word that sets a predicate. -/
theorem writesK_of {i : Instr} {e : Bool} {kd : Fin 8} {f : Val Bool} (hf : ReadsOwn f)
    (h : ∀ s, exec i s = .next (laneWord e (useCauses s (usesOf i)) (setLaneK kd.val f) s)) : WritesK i e kd f := by
  intro s hs
  obtain ⟨h1, h2, h3⟩ := laneWord_setLaneK (e := e) kd.isLt hf hs.1 hs.2
  exact ⟨_, h s, h1, h2, h3⟩

end Sys2Proof.Machine
end

