-- ==== Sys2Proof/Laws/Squads.lean ====
section
/-! SUPPORT. Laws of the squad words: the run's squad writes, what they leave in the registers, and what a squad word does when no
squad has a cause. -/

namespace Sys2Proof.Machine

/-! ### The squads of a wave -/

theorem nodup_eraseDups (l : List Nat) : l.eraseDups.Nodup := by
  induction h : l.length using Nat.strong_induction_on generalizing l with
  | _ n ih =>
    cases l with
    | nil => simp
    | cons a r =>
      rw [List.eraseDups_cons]
      refine List.nodup_cons.mpr ⟨by simp [List.mem_eraseDups], ih _ ?_ _ rfl⟩
      subst h
      exact Nat.lt_succ_of_le (List.length_filter_le _ r)

theorem perm_insertBy {α : Type} (le : α → α → Bool) (a : α) (l : List α) : (insertBy le a l).Perm (a :: l) := by
  induction l with
  | nil => rfl
  | cons b r ih =>
    unfold insertBy
    split
    · rfl
    · exact (List.Perm.cons b ih).trans (List.Perm.swap a b r)

theorem perm_sortBy {α : Type} (le : α → α → Bool) (l : List α) : (sortBy le l).Perm l := by
  induction l with
  | nil => rfl
  | cons a r ih => exact (perm_insertBy le a _).trans (List.Perm.cons a ih)

/-- THE SQUADS OF A WAVE, each once. -/
theorem squadsIn_nodup (s : State) (ts : List Nat) : (squadsIn s ts).Nodup :=
  (perm_sortBy _ _).nodup_iff.mpr (nodup_eraseDups _)

theorem mem_squadsIn (s : State) (ts : List Nat) (q : Nat) : q ∈ squadsIn s ts ↔ ∃ t ∈ ts, squadOf t = q := by
  rw [squadsIn, (perm_sortBy _ _).mem_iff, List.mem_eraseDups, List.mem_map]

/-! ### Squads and waves by key -/

theorem sqd_modSquad_self {q : Nat} {f : Squad → Squad} {s : State} (h : (s.squads.get? q).isSome) :
    sqd (modSquad q f s) q = f (sqd s q) := Tbl.getD_adj_self h

theorem sqd_modSquad_ne {q x : Nat} {f : Squad → Squad} {s : State} (h : x ≠ q) : sqd (modSquad q f s) x = sqd s x :=
  Tbl.getD_adj_ne h

@[simp] theorem sqd_modWave (q : Nat) (f : Wave → Wave) (s : State) : sqd (modWave f s) q = sqd s q := rfl

theorem cor_modWave (f : Wave → Wave) (s : State) :
    cor (modWave f s) s.cur.core = { cor s s.cur.core with slots := (cor s s.cur.core).slots.adj s.cur.slot f } := by
  simp [cor, modWave, modCore]

@[simp] theorem issue_modWave (f : Wave → Wave) (s : State) :
    (cor (modWave f s) s.cur.core).issue = (cor s s.cur.core).issue := by rw [cor_modWave]

theorem curWave_modWave {f : Wave → Wave} {s : State} (h : ((cor s s.cur.core).slots.get? s.cur.slot).isSome) :
    curWave (modWave f s) = f (curWave s) := by
  simp only [curWave, modWave_cur, cor_modWave]
  exact Tbl.getD_adj_self h

theorem slot_modWave (f : Wave → Wave) (s : State) :
    ((cor (modWave f s) s.cur.core).slots.get? s.cur.slot).isSome = ((cor s s.cur.core).slots.get? s.cur.slot).isSome := by
  simp [cor_modWave]

/-! ### The run's squad writes, as they are made -/

/-- A squad write of the word being executed. -/
def writeOf (s : State) (q : Nat) (j : Bool) (n : Nat) (x y : Word) : SWrite :=
  ⟨q, s.cur.pc, j, n, x, y, (cor s s.cur.core).issue⟩

/-- Squad writes put in the wave of the word. -/
def addWrites (l : List SWrite) (s : State) : State := modWave (fun w => { w with writes := w.writes ++ l }) s

theorem writeS_eq (q n : Nat) (x y : Word) (s : State) : writeS q n x y s = addWrites [writeOf s q false n x y] s := rfl

theorem writeJ_eq (q n : Nat) (x y : Bool) (s : State) :
    writeJ q n x y s = addWrites [writeOf s q true n (if x then 1 else 0) (if y then 1 else 0)] s := rfl

@[simp] theorem addWrites_nil (s : State) (h : ((cor s s.cur.core).slots.get? s.cur.slot).isSome) :
    curWave (addWrites [] s) = curWave s := by
  rw [addWrites, curWave_modWave h]; simp

theorem addWrites_cur (l : List SWrite) (s : State) : (addWrites l s).cur = s.cur := rfl

theorem adj_adj {α : Type} (t : Tbl α) (k : Nat) (f g : α → α) : (t.adj k f).adj k g = t.adj k (fun a => g (f a)) := by
  induction t with
  | nil => rfl
  | cons e r ih =>
    obtain ⟨j, b⟩ := e
    by_cases h : j = k
    · simp [Tbl.adj, h]
    · simp [Tbl.adj, h, ih]

theorem put_put {α : Type} (t : Tbl α) (k : Nat) (a b : α) : (t.put k a).put k b = t.put k b := by
  induction t with
  | nil => simp [Tbl.put]
  | cons e r ih =>
    obtain ⟨j, c⟩ := e
    by_cases h : k < j
    · simp [Tbl.put, h]
    · by_cases h' : j = k
      · subst h'; simp [Tbl.put]
      · simp [Tbl.put, h, h', ih]

theorem modWave_modWave (f g : Wave → Wave) (s : State) : modWave g (modWave f s) = modWave (fun w => g (f w)) s := by
  simp only [modWave, modCore, cor, Tbl.getD_put_self, put_put, adj_adj]

theorem addWrites_addWrites (l r : List SWrite) (s : State) : addWrites r (addWrites l s) = addWrites (l ++ r) s := by
  simp only [addWrites, modWave_modWave, List.append_assoc]

/-- A write at the word's own address is not read by the word. -/
theorem runWrite?_addWrites {l : List SWrite} {s : State} (h : ∀ w ∈ l, w.pc = s.cur.pc) (q : Nat) (j : Bool) (n : Nat) :
    runWrite? (addWrites l s) q j n = runWrite? s q j n := by
  cases hs : (cor s s.cur.core).slots.get? s.cur.slot with
  | none =>
    have h1 : curWave (addWrites l s) = curWave s := by
      simp only [curWave, addWrites, modWave_cur, cor_modWave, Tbl.getD, Tbl.get?_adj, hs]; simp
    unfold runWrite?
    rw [h1]; rfl
  | some w =>
    have h1 : (curWave (addWrites l s)).writes = (curWave s).writes ++ l := congrArg Wave.writes (curWave_modWave (by simp [hs]))
    unfold runWrite?
    rw [h1, List.filter_append, addWrites_cur, show l.filter (fun w => w.squad == q && w.isJ == j && w.n == n && decide (w.pc.toNat < s.cur.pc.toNat)) = [] from
      List.filter_eq_nil_iff.mpr fun w hw => by simp [h w hw], List.append_nil]

theorem entry_addWrites (l : List SWrite) (s : State) : (curWave (addWrites l s)).entry = (curWave s).entry := by
  cases hs : (cor s s.cur.core).slots.get? s.cur.slot with
  | none => simp only [curWave, addWrites, modWave_cur, cor_modWave, Tbl.getD, Tbl.get?_adj, hs]; simp
  | some w =>
    have h1 := curWave_modWave (f := fun w => { w with writes := w.writes ++ l }) (s := s) (by simp [hs])
    rw [addWrites, h1]

/-- What a squad word reads where the run wrote nothing earlier: alike in states with the same squads and entry values. -/
theorem baseS?_congr {s t : State} (hc : t.cur.slow = s.cur.slow) (he : (curWave t).entry = (curWave s).entry) (hq : t.squads = s.squads)
    (sh : Bool) (q n : Nat) : baseS? t sh q n = baseS? s sh q n := by simp only [baseS?, entryOf?, sqd, hc, he, hq]

theorem baseJ?_congr {s t : State} (hc : t.cur.slow = s.cur.slow) (he : (curWave t).entry = (curWave s).entry) (hq : t.squads = s.squads)
    (sh : Bool) (q n : Nat) : baseJ? t sh q n = baseJ? s sh q n := by simp only [baseJ?, entryOf?, sqd, hc, he, hq]

theorem readS_addWrites {l : List SWrite} {s : State} (h : ∀ w ∈ l, w.pc = s.cur.pc) (sh : Bool) (q n : Nat) :
    readS (addWrites l s) sh q n = readS s sh q n := by
  simp only [readS, runWrite?_addWrites h, baseS?_congr (s := s) (t := addWrites l s) rfl (entry_addWrites l s) rfl]

theorem readJ_addWrites {l : List SWrite} {s : State} (h : ∀ w ∈ l, w.pc = s.cur.pc) (sh : Bool) (q n : Nat) :
    readJ (addWrites l s) sh q n = readJ s sh q n := by
  simp only [readJ, runWrite?_addWrites h, baseJ?_congr (s := s) (t := addWrites l s) rfl (entry_addWrites l s) rfl]

/-- A function of a squad that the word's own writes do not alter. -/
def ReadsBefore {α : Type} (f : State → Bool → Nat → α) : Prop :=
  ∀ s l sh q, (∀ w ∈ l, w.pc = s.cur.pc) → f (addWrites l s) sh q = f s sh q

theorem readsBefore_readS (n : Nat) : ReadsBefore fun s sh q => readS s sh q n := fun _ _ _ _ h => readS_addWrites h ..
theorem readsBefore_readJ (n : Nat) : ReadsBefore fun s sh q => readJ s sh q n := fun _ _ _ _ h => readJ_addWrites h ..
theorem readsBefore_readS64 (n : Nat) : ReadsBefore fun s sh q => readS64 s sh q n := by
  intro s l sh q h; simp only [readS64, readS_addWrites h]
theorem readsBefore_urdsValue (i : Nat) : ReadsBefore fun s _ q => urdsValue s q i := fun _ _ _ _ _ => rfl
theorem readsBefore_const {α : Type} (c : α) : ReadsBefore fun _ _ _ => c := fun _ _ _ _ _ => rfl

theorem ReadsBefore.map {α β : Type} {f : State → Bool → Nat → α} (h : ReadsBefore f) (g : α → β) :
    ReadsBefore fun s sh q => g (f s sh q) := by
  intro s l sh q hl; simp only [h s l sh q hl]

theorem ReadsBefore.map₂ {α β γ : Type} {f : State → Bool → Nat → α} {f' : State → Bool → Nat → β} (h : ReadsBefore f)
    (h' : ReadsBefore f') (g : α → β → γ) : ReadsBefore fun s sh q => g (f s sh q) (f' s sh q) := by
  intro s l sh q hl; simp only [h s l sh q hl, h' s l sh q hl]

/-- The writes of every squad of a list, made one after another, are all put in the wave. -/
theorem foldl_addWrites {g : State → Nat → List SWrite} (hpc : ∀ s q, ∀ w ∈ g s q, w.pc = s.cur.pc)
    (hg : ∀ s l q, (∀ w ∈ l, w.pc = s.cur.pc) → g (addWrites l s) q = g s q) (qs : List Nat) (s : State) (l : List SWrite)
    (hl : ∀ w ∈ l, w.pc = s.cur.pc) :
    qs.foldl (fun s q => addWrites (g s q) s) (addWrites l s) = addWrites (l ++ qs.flatMap (g s)) s := by
  induction qs generalizing l with
  | nil => simp
  | cons q r ih =>
    rw [List.foldl_cons, hg s l q hl, addWrites_addWrites, ih]
    · simp [List.append_assoc]
    · intro w hw
      rcases List.mem_append.mp hw with hw | hw
      · exact hl w hw
      · exact hpc s q w hw

/-! ### Committing -/

/-- What committing leaves of a squad: its own writes, in order. -/
theorem sqd_foldl_commit (l : List SWrite) (s : State) (q : Nat) (h : (s.squads.get? q).isSome) :
    sqd (l.foldl (fun s w => modSquad w.squad (fun k => commitWrite k w) s) s) q =
      (l.filter (·.squad == q)).foldl commitWrite (sqd s q) := by
  induction l generalizing s with
  | nil => rfl
  | cons w r ih =>
    rw [List.foldl_cons, ih]
    · by_cases hq : w.squad = q
      · subst hq; simp [sqd_modSquad_self h]
      · simp [hq, sqd_modSquad_ne (Ne.symm hq)]
    · simpa using h

theorem sqd_commitWrites {s : State} {q : Nat} (h : (s.squads.get? q).isSome) :
    sqd (commitWrites s) q = ((curWave s).writes.filter (·.squad == q)).foldl commitWrite (sqd s q) := sqd_foldl_commit _ s q h

/-- The issue numbers of what is architectural stay below a bound. -/
def Below (b : Nat) (k : Squad) : Prop := ∀ n, k.seqS.getD n 0 < b ∧ k.seqJ.getD n 0 < b

theorem below_commitWrite {b : Nat} {k : Squad} (h : Below b k) {w : SWrite} (hw : w.seq < b) : Below b (commitWrite k w) := by
  intro n
  unfold commitWrite
  split
  · split
    · refine ⟨(h n).1, ?_⟩
      by_cases hn : n = w.n
      · subst hn; simpa [Squad.setJ] using hw
      · simpa [Squad.setJ, Tbl.getD_put_ne hn] using (h n).2
    · exact h n
  · split
    · refine ⟨?_, (h n).2⟩
      by_cases hn : n = w.n
      · subst hn; simpa [Squad.setS] using hw
      · simpa [Squad.setS, Tbl.getD_put_ne hn] using (h n).1
    · exact h n

theorem below_foldl {b : Nat} (l : List SWrite) {k : Squad} (h : Below b k) (hl : ∀ w ∈ l, w.seq < b) :
    Below b (l.foldl commitWrite k) := by
  induction l generalizing k with
  | nil => exact h
  | cons w r ih =>
    exact ih (below_commitWrite h (hl w List.mem_cons_self)) fun x hx => hl x (List.mem_cons_of_mem _ hx)

/-- A write later than every one before it stands. -/
theorem commitWrite_s {k : Squad} {w : SWrite} (hj : w.isJ = false) (h : k.seqS.getD w.n 0 < w.seq) :
    (commitWrite k w).s = k.s.setIfInBounds w.n w.val ∧ (commitWrite k w).shS = k.shS.setIfInBounds w.n w.sh ∧
    (commitWrite k w).j = k.j ∧ (commitWrite k w).shJ = k.shJ := by
  simp [commitWrite, hj, h, Squad.setS]

theorem commitWrite_j {k : Squad} {w : SWrite} (hj : w.isJ = true) (h : k.seqJ.getD w.n 0 < w.seq) :
    (commitWrite k w).j = k.j.setIfInBounds w.n (w.val != 0) ∧ (commitWrite k w).shJ = k.shJ.setIfInBounds w.n (w.sh != 0) ∧
    (commitWrite k w).s = k.s ∧ (commitWrite k w).shS = k.shS := by
  simp [commitWrite, hj, h, Squad.setJ]

/-! ### A squad word without a cause -/

theorem squadFaults_none {s : State} {ts : List Nat} {check : Nat → List Nat → Option Cause}
    (h : ∀ q ∈ squadsIn s ts, check q (ofSquad q ts) = none) : squadFaults s ts check = [] := by
  unfold squadFaults
  rw [List.flatMap_eq_nil_iff]
  intro q hq
  simp [h q hq]

/-- A SQUAD WORD where no squad has a cause: each squad acts once, in squad order. After a last word the run's squad writes are
made and the runs end; else the wave goes on, and in slow gear the word is noted as executed. -/
theorem squadWord_ok {e : Bool} {check : State → Nat → List Nat → Option Cause} {act : Nat → List Nat → State → State} {s : State}
    (h : ∀ q ∈ squadsIn s s.cur.threads, check s q (ofSquad q s.cur.threads) = none)
    (hcur : ∀ q ts s, (act q ts s).cur = s.cur) :
    ∃ f : Wave → Wave, (∀ w, (f w).writes = w.writes ∧ (f w).entry = w.entry) ∧
    squadWord e check act s =
      if e then
        dropThreads s.cur.threads (leaveRuns s.cur.threads (fun _ => s.cur.pc + 4)
          (commitWrites ((squadsIn s s.cur.threads).foldl (fun s q => act q (ofSquad q s.cur.threads) s) s)))
      else modWave f ((squadsIn s s.cur.threads).foldl (fun s' q => act q (ofSquad q s.cur.threads) s') s) := by
  have hf := squadFaults_none h
  have hc : ∀ (qs : List Nat) (ts : List Nat) (s : State), (qs.foldl (fun s q => act q (ofSquad q ts) s) s).cur = s.cur := by
    intro qs ts
    induction qs with
    | nil => intro s; rfl
    | cons q r ih => intro s; rw [List.foldl_cons, ih, hcur]
  have hc' : ∀ (qs : List Nat) (s : State), (qs.foldl (fun s q => act q (ofSquad q s.cur.threads) s) s) =
      qs.foldl (fun s' q => act q (ofSquad q s.cur.threads) s') s := by
    intro qs
    have aux : ∀ (qs : List Nat) (ts : List Nat) (s : State), s.cur.threads = ts →
        (qs.foldl (fun s q => act q (ofSquad q s.cur.threads) s) s) = qs.foldl (fun s' q => act q (ofSquad q ts) s') s := by
      intro qs ts
      induction qs with
      | nil => intro s _; rfl
      | cons q r ih => intro s hs; rw [List.foldl_cons, List.foldl_cons, ih _ (by rw [hcur, hs]), hs]
    exact fun s => aux qs _ s rfl
  cases e
  · cases hs : s.cur.slow
    · refine ⟨fun w => match w.slow with
          | none => { w with pc := w.pc + 4 }
          | some k => { w with slow := some { k with pc := k.pc + 4 } }, fun w => by cases h : w.slow <;> simp only [h, and_self], ?_⟩
      simp only [squadWord, Bool.false_eq_true, if_false, hf, hs, noteFaults, List.isEmpty_nil, if_true, List.map_nil,
        List.contains_nil, advance]
      try rfl
    · refine ⟨fun w =>
          match w.slow with
          | none => { w with pc := w.pc + 4 }
          | some k => { w with slow := some { k with
              pc := k.pc + 4, done := k.done ++ (squadsIn s s.cur.threads).map fun q => (q, s.cur.pc) } },
        fun w => by cases h : w.slow <;> simp only [h, and_self], ?_⟩
      simp only [squadWord, Bool.false_eq_true, if_false, hf, hs, if_true, advance, modWave_modWave,
        hc (squadsIn s s.cur.threads) s.cur.threads s]
      congr 1
      funext w
      cases w.slow <;> simp
  · refine ⟨id, fun _ => ⟨rfl, rfl⟩, ?_⟩
    simp [squadWord, lastSquadWord, hf, mismatched, classP, squadsIn_nil, hc, hc', commitWrites_cur]

/-! ### What a squad word leaves in the registers -/

/-- A squad that is not in the machine reads as the default, whatever is committed. -/
theorem sqd_foldl_commit_absent (l : List SWrite) (s : State) (q : Nat) (h : s.squads.get? q = none) :
    sqd (l.foldl (fun s w => modSquad w.squad (fun k => commitWrite k w) s) s) q = sqd s q := by
  induction l generalizing s with
  | nil => rfl
  | cons w r ih =>
    have h' : (modSquad w.squad (fun k => commitWrite k w) s).squads.get? q = none := by
      simp [modSquad, Tbl.get?_adj, h]
    rw [List.foldl_cons, ih _ h']
    simp [sqd, Tbl.getD, modSquad, Tbl.get?_adj, h]

theorem filter_flatMap_one {α : Type} (g : Nat → List α) (key : α → Nat) (hk : ∀ q, ∀ w ∈ g q, key w = q) {qs : List Nat}
    (hn : qs.Nodup) (q : Nat) : (qs.flatMap g).filter (fun w => key w == q) = if q ∈ qs then g q else [] := by
  have one (a : Nat) : (g a).filter (fun w => key w == q) = if a = q then g q else [] := by
    split
    · rename_i h; subst h; simpa using hk a
    · simpa using fun w hw => by rw [hk a w hw]; assumption
  rw [List.filter_flatMap, funext one]
  induction qs with
  | nil => rfl
  | cons a r ih =>
    have := List.nodup_cons.mp hn
    rw [List.flatMap_cons, ih this.2]
    rcases eq_or_ne a q with rfl | h
    · simp [this.1]
    · simp [h, h.symm]

/-- What making the writes of a list of squads leaves: they stand after the wave's own, and only cores differ. -/
theorem foldWrites_facts {g : State → Nat → List SWrite} (hpc : ∀ s q, ∀ w ∈ g s q, w.pc = s.cur.pc)
    (hg : ∀ s l q, (∀ w ∈ l, w.pc = s.cur.pc) → g (addWrites l s) q = g s q) (qs : List Nat) {s : State}
    (hs : ((cor s s.cur.core).slots.get? s.cur.slot).isSome) :
    ∃ cs, qs.foldl (fun s q => addWrites (g s q) s) s = { s with cores := cs } ∧
      ((cor { s with cores := cs } s.cur.core).slots.get? s.cur.slot).isSome ∧
      (curWave { s with cores := cs }).writes = (curWave s).writes ++ qs.flatMap (g s) ∧
      (curWave { s with cores := cs }).entry = (curWave s).entry := by
  cases qs with
  | nil => exact ⟨s.cores, rfl, hs, by simp, rfl⟩
  | cons q r =>
    refine ⟨(addWrites ((q :: r).flatMap (g s)) s).cores, ?_, ?_, ?_, entry_addWrites _ s⟩
    · rw [List.foldl_cons, foldl_addWrites hpc hg r s (g s q) (hpc s q), List.flatMap_cons]; rfl
    · exact (slot_modWave (fun w => { w with writes := w.writes ++ (q :: r).flatMap (g s) }) s).trans hs
    · exact congrArg Wave.writes (curWave_modWave (f := fun w => { w with writes := w.writes ++ (q :: r).flatMap (g s) }) hs)

/-- A SQUAD WORD THAT WRITES REGISTERS, where no squad has a cause: `g` gives each squad's writes. -/
theorem squadWord_writes {e : Bool} {check : State → Nat → List Nat → Option Cause} {g : State → Nat → List SWrite} {s : State}
    (hs : ((cor s s.cur.core).slots.get? s.cur.slot).isSome)
    (h : ∀ q ∈ squadsIn s s.cur.threads, check s q (ofSquad q s.cur.threads) = none)
    (hpc : ∀ s q, ∀ w ∈ g s q, w.pc = s.cur.pc ∧ w.squad = q)
    (hg : ∀ s l q, (∀ w ∈ l, w.pc = s.cur.pc) → g (addWrites l s) q = g s q) {t : State}
    (ht : t = squadWord e check (fun q _ s => addWrites (g s q) s) s) :
    t.cur = s.cur ∧
    OnlySquads e s t ∧
    (e = false → (curWave t).writes = (curWave s).writes ++ (squadsIn s s.cur.threads).flatMap (g s) ∧
      (curWave t).entry = (curWave s).entry) ∧
    (e = true → ∀ q, sqd t q = if q ∈ squadsIn s s.cur.threads ∧ (s.squads.get? q).isSome
      then (g s q).foldl commitWrite (sqd (commitWrites s) q) else sqd (commitWrites s) q) := by
  obtain ⟨f, hf, he⟩ := squadWord_ok (e := e) (act := fun q _ s => addWrites (g s q) s) h (fun _ _ _ => rfl)
  obtain ⟨cs, h1, h2, h3, h4⟩ := foldWrites_facts (fun s q w hw => (hpc s q w hw).1) hg (squadsIn s s.cur.threads) hs
  rw [he, h1] at ht
  cases e
  · simp only [Bool.false_eq_true, if_false] at ht
    subst ht
    refine ⟨rfl, ⟨rfl, fun _ => ⟨rfl, rfl, rfl⟩, fun u n sh => readV_congr rfl .., fun u n sh => readK_congr rfl ..⟩, fun _ => ?_, fun h => (Bool.noConfusion h : _)⟩
    have := curWave_modWave (f := f) (s := { s with cores := cs }) h2
    rw [this, (hf _).1, (hf _).2, h3, h4]
    exact ⟨rfl, rfl⟩
  · simp only [if_true] at ht
    have hcw : commitWrites { s with cores := cs } =
        { s with cores := cs, squads := (commitWrites { s with cores := cs }).squads } := commitWrites_frame _
    have hq : t.squads = (commitWrites { s with cores := cs }).squads := by
      rw [ht, dropThreads_frame, leaveRuns_frame]
    have hsq : ∀ q, sqd t q = sqd (commitWrites { s with cores := cs }) q := fun q => by simp only [sqd, hq]
    have ht' : t = dropThreads s.cur.threads (leaveRuns s.cur.threads (fun _ => s.cur.pc + 4) (commitWrites { s with cores := cs })) := ht
    refine ⟨?_, ⟨?_, fun h => (Bool.noConfusion h : _), fun u n sh => ?_, fun u n sh => ?_⟩, fun h => (Bool.noConfusion h : _), fun _ q => ?_⟩
    · rw [ht', dropThreads_frame, leaveRuns_frame, hcw]
    · rw [ht', dropThreads_frame, leaveRuns_frame, hcw]
    · rw [readV_congr (t := leaveRuns s.cur.threads (fun _ => s.cur.pc + 4) (commitWrites { s with cores := cs }))
        (by rw [ht', dropThreads_frame]), leaveRuns_readV]
      exact readV_congr (by rw [hcw]) ..
    · rw [readK_congr (t := leaveRuns s.cur.threads (fun _ => s.cur.pc + 4) (commitWrites { s with cores := cs }))
        (by rw [ht', dropThreads_frame]), leaveRuns_readK]
      exact readK_congr (by rw [hcw]) ..
    · rw [hsq]
      cases hp : s.squads.get? q with
      | none =>
        have e1 : sqd (commitWrites { s with cores := cs }) q = sqd { s with cores := cs } q :=
          sqd_foldl_commit_absent _ _ q hp
        have e2 : sqd (commitWrites s) q = sqd s q := sqd_foldl_commit_absent _ _ q hp
        simp [e1, e2]; rfl
      | some k =>
        have e1 := sqd_commitWrites (s := { s with cores := cs }) (q := q) (by simp [hp])
        have e2 := sqd_commitWrites (s := s) (q := q) (by simp [hp])
        have hfl := filter_flatMap_one (g s) (·.squad) (fun q w hw => (hpc s q w hw).2) (squadsIn_nodup s s.cur.threads) q
        rw [e1, h3, List.filter_append, List.foldl_append, hfl, e2]
        have e3 : sqd { s with cores := cs } q = sqd s q := rfl
        rw [e3]
        by_cases hm : q ∈ squadsIn s s.cur.threads <;> simp [hm]

/-- What the run's next word reads after writes at the word's own address. -/
theorem runWrite?_next {s t : State} {l : List SWrite} (hc : t.cur = s.cur) (hw : (curWave t).writes = (curWave s).writes ++ l)
    (hl : ∀ w ∈ l, w.pc = s.cur.pc) (hn : s.cur.pc.toNat + 4 < 2 ^ 64) (q : Nat) (j : Bool) (n : Nat) :
    runWrite? { t with cur := { t.cur with pc := s.cur.pc + 4 } } q j n =
      ((l.filter fun w => w.squad == q && w.isJ == j && w.n == n).getLast?).or
        (runWrite? { s with cur := { s.cur with pc := s.cur.pc + 4 } } q j n) := by
  have hpc : s.cur.pc.toNat < (s.cur.pc + 4).toNat := by
    rw [BitVec.toNat_add]; simp; omega
  have hlf : (l.filter fun w => w.squad == q && w.isJ == j && w.n == n && decide (w.pc.toNat < (s.cur.pc + 4).toNat)) =
      l.filter fun w => w.squad == q && w.isJ == j && w.n == n := by
    refine List.filter_congr fun w hw => ?_
    simp only [hl w hw, hpc, decide_true, Bool.and_true]
  have e1 : curWave { t with cur := { t.cur with pc := s.cur.pc + 4 } } = curWave t := rfl
  have e2 : curWave { s with cur := { s.cur with pc := s.cur.pc + 4 } } = curWave s := rfl
  simp only [runWrite?, e1, e2, hw, List.filter_append, hlf, List.getLast?_append]

/-- The issue numbers of a squad's writes stay below the word's after the run's earlier writes are made. -/
theorem below_commitWrites {s : State} (hs : AtSquadWord s) {q : Nat} (hq : q ∈ squadsIn s s.cur.threads) :
    Below (cor s s.cur.core).issue (sqd (commitWrites s) q) := by
  rw [sqd_commitWrites (hs.2.2.1 q hq)]
  exact below_foldl _ (hs.2.2.2.2 q hq) fun w hw => hs.2.2.2.1 w (List.mem_of_mem_filter hw)

/-- The last of a squad's writes that names a register. -/
def lastWrite (l : List SWrite) (j : Bool) (n : Nat) : Option SWrite := (l.filter fun w => w.isJ == j && w.n == n).getLast?

theorem lastWrite_nil (j : Bool) (n : Nat) : lastWrite [] j n = none := rfl

/-- Writes later than all that stands, of one squad: each register holds the last of them that names it. -/
theorem commit_lastWrite {b : Nat} (l : List SWrite) {k : Squad} (hk : Below b k) (hl : ∀ w ∈ l, w.seq = b)
    (hn : (l.map fun w => (w.isJ, w.n)).Nodup) (hb : ∀ w ∈ l, if w.isJ then w.n < 8 else w.n < 64) (sh : Bool) (n : Nat) :
    ((if sh then (l.foldl commitWrite k).shS else (l.foldl commitWrite k).s).getD n 0 =
      match lastWrite l false n with
      | some w => if sh then w.sh else w.val
      | none => (if sh then k.shS else k.s).getD n 0) ∧
    ((if sh then (l.foldl commitWrite k).shJ else (l.foldl commitWrite k).j).getD n false =
      match lastWrite l true n with
      | some w => (if sh then w.sh else w.val) != 0
      | none => (if sh then k.shJ else k.j).getD n false) := by
  induction l using List.reverseRecOn with
  | nil => exact ⟨rfl, rfl⟩
  | append_singleton r w ih =>
    have hw : w.seq = b := hl w (by simp)
    have hr : ∀ x ∈ r, x.seq = b := fun x hx => hl x (by simp [hx])
    have hnr : (r.map fun w => (w.isJ, w.n)).Nodup := by
      rw [List.map_append] at hn; exact (List.nodup_append.mp hn).1
    have hnot : ∀ x ∈ r, ¬(x.isJ = w.isJ ∧ x.n = w.n) := by
      intro x hx h
      rw [List.map_append, List.nodup_append] at hn
      exact hn.2.2 _ (List.mem_map_of_mem hx) (w.isJ, w.n) (by simp) (by simp [h.1, h.2])
    have ih := ih hr hnr (fun x hx => hb x (by simp [hx]))
    have hwb := hb w (by simp)
    -- the register the last write names has seen no other of them
    have fresh : ∀ (r : List SWrite) (k : Squad), Below b k → (∀ x ∈ r, ¬(x.isJ = w.isJ ∧ x.n = w.n)) →
        (w.isJ = false → (r.foldl commitWrite k).seqS.getD w.n 0 < b) ∧ (w.isJ = true → (r.foldl commitWrite k).seqJ.getD w.n 0 < b) := by
      intro r k hk hx
      have keepS : ∀ (r : List SWrite) (k : Squad), (∀ x ∈ r, ¬(x.isJ = false ∧ x.n = w.n)) →
          (r.foldl commitWrite k).seqS.getD w.n 0 = k.seqS.getD w.n 0 := by
        intro r
        induction r with
        | nil => intros; rfl
        | cons a r ih =>
          intro k h
          rw [List.foldl_cons, ih _ (fun x hx => h x (by simp [hx]))]
          have ha := h a (by simp)
          unfold commitWrite
          cases haj : a.isJ
          · simp only [Bool.false_eq_true, if_false]
            split
            · rw [Tbl.getD_put_ne (fun he => ha ⟨haj, he.symm⟩)]
            · rfl
          · simp only [if_true]; split <;> rfl
      have keepJ : ∀ (r : List SWrite) (k : Squad), (∀ x ∈ r, ¬(x.isJ = true ∧ x.n = w.n)) →
          (r.foldl commitWrite k).seqJ.getD w.n 0 = k.seqJ.getD w.n 0 := by
        intro r
        induction r with
        | nil => intros; rfl
        | cons a r ih =>
          intro k h
          rw [List.foldl_cons, ih _ (fun x hx => h x (by simp [hx]))]
          have ha := h a (by simp)
          unfold commitWrite
          cases haj : a.isJ
          · simp only [Bool.false_eq_true, if_false]; split <;> rfl
          · simp only [if_true]
            split
            · rw [Tbl.getD_put_ne (fun he => ha ⟨haj, he.symm⟩)]
            · rfl
      refine ⟨fun h => ?_, fun h => ?_⟩
      · rw [keepS r k (by rw [h] at hx; exact hx)]; exact (hk w.n).1
      · rw [keepJ r k (by rw [h] at hx; exact hx)]; exact (hk w.n).2
    have hf := fresh r k hk hnot
    rw [List.foldl_append]
    simp only [List.foldl_cons, List.foldl_nil]
    have hlw : ∀ j m, lastWrite (r ++ [w]) j m = if w.isJ = j ∧ w.n = m then some w else lastWrite r j m := by
      intro j m
      simp only [lastWrite, List.filter_append]
      by_cases h : w.isJ = j ∧ w.n = m
      · simp [h.1, h.2]
      · have : ([w].filter fun w => w.isJ == j && w.n == m) = [] := by
          rw [List.filter_eq_nil_iff]; intro x hx; simp only [List.mem_singleton] at hx; subst hx
          simpa using h
        rw [this, if_neg h, List.append_nil]
    rw [hlw, hlw]
    cases hj : w.isJ
    · obtain ⟨h1, h2, h3, h4⟩ := commitWrite_s (k := r.foldl commitWrite k) hj (by rw [hw]; exact hf.1 hj)
      simp only [hj, Bool.false_eq_true, if_false] at hwb
      rw [h1, h2, h3, h4]
      refine ⟨?_, by simpa using ih.2⟩
      by_cases hm : w.n = n
      · subst hm; cases sh <;> simp [getD_setIfInBounds _ _ _ _ _ hwb]
      · have := ih.1
        cases sh <;> simpa [hm, getD_setIfInBounds_ne _ _ _ hm] using this
    · obtain ⟨h1, h2, h3, h4⟩ := commitWrite_j (k := r.foldl commitWrite k) hj (by rw [hw]; exact hf.2 hj)
      simp only [hj, if_true] at hwb
      rw [h1, h2, h3, h4]
      refine ⟨by simpa using ih.1, ?_⟩
      by_cases hm : w.n = n
      · subst hm; cases sh <;> simp [getD_setIfInBounds _ _ _ _ _ hwb]
      · have := ih.2
        cases sh <;> simpa [hm, getD_setIfInBounds_ne _ _ _ hm] using this

/-- WHAT A SQUAD WORD LEAVES: each register it writes in a squad holds the word's write, and every other what the run left. -/
theorem squadWord_after {e : Bool} {check : State → Nat → List Nat → Option Cause} {g : State → Nat → List SWrite} {s : State}
    (hs : AtSquadWord s) (h : ∀ q ∈ squadsIn s s.cur.threads, check s q (ofSquad q s.cur.threads) = none)
    (hpc : ∀ s q, ∀ w ∈ g s q, w.pc = s.cur.pc ∧ w.squad = q ∧ w.seq = (cor s s.cur.core).issue ∧ if w.isJ then w.n < 8 else w.n < 64)
    (hn : ∀ s q, ((g s q).map fun w => (w.isJ, w.n)).Nodup)
    (hg : ∀ s l q, (∀ w ∈ l, w.pc = s.cur.pc) → g (addWrites l s) q = g s q) {t : State}
    (ht : t = squadWord e check (fun q _ s => addWrites (g s q) s) s) :
    OnlySquads e s t ∧ ∀ q sh n,
      (afterS e s.cur.pc t sh q n =
        match (if q ∈ squadsIn s s.cur.threads then lastWrite (g s q) false n else none) with
        | some w => if sh then w.sh else w.val
        | none => afterS e s.cur.pc (actsOn e s) sh q n) ∧
      (afterJ e s.cur.pc t sh q n =
        match (if q ∈ squadsIn s s.cur.threads then lastWrite (g s q) true n else none) with
        | some w => (if sh then w.sh else w.val) != 0
        | none => afterJ e s.cur.pc (actsOn e s) sh q n) := by
  obtain ⟨hc, ho, hw, hcm⟩ := squadWord_writes hs.1 h (fun s q w hw => ⟨(hpc s q w hw).1, (hpc s q w hw).2.1⟩) hg ht
  refine ⟨ho, fun q sh n => ?_⟩
  cases e
  · obtain ⟨hw, hen⟩ := hw rfl
    have hl : ∀ w ∈ (squadsIn s s.cur.threads).flatMap (g s), w.pc = s.cur.pc := by
      intro w hw
      obtain ⟨q, _, hq⟩ := List.mem_flatMap.mp hw
      exact (hpc s q w hq).1
    have hlast : ∀ j m, (((squadsIn s s.cur.threads).flatMap (g s)).filter fun w => w.squad == q && w.isJ == j && w.n == m).getLast? =
        if q ∈ squadsIn s s.cur.threads then lastWrite (g s q) j m else none := by
      intro j m
      have h1 : ((squadsIn s s.cur.threads).flatMap (g s)).filter (fun w => w.squad == q && w.isJ == j && w.n == m) =
          (((squadsIn s s.cur.threads).flatMap (g s)).filter (fun w => w.squad == q)).filter (fun w => w.isJ == j && w.n == m) := by
        rw [List.filter_filter]
        refine List.filter_congr fun w _ => ?_
        cases (w.squad == q) <;> simp
      rw [h1, filter_flatMap_one (g s) (·.squad) (fun q w hw => (hpc s q w hw).2.1) (squadsIn_nodup s s.cur.threads) q]
      split <;> rfl
    have hr := fun j m => runWrite?_next hc hw hl hs.2.1 q j m
    have hbS : ∀ sh x m, baseS? { t with cur := { t.cur with pc := s.cur.pc + 4 } } sh x m =
        baseS? { s with cur := { s.cur with pc := s.cur.pc + 4 } } sh x m :=
      baseS?_congr (show t.cur.slow = s.cur.slow by rw [hc]) hen (ho.2.1 rfl).2.2
    have hbJ : ∀ sh x m, baseJ? { t with cur := { t.cur with pc := s.cur.pc + 4 } } sh x m =
        baseJ? { s with cur := { s.cur with pc := s.cur.pc + 4 } } sh x m :=
      baseJ?_congr (show t.cur.slow = s.cur.slow by rw [hc]) hen (ho.2.1 rfl).2.2
    simp only [hlast] at hr
    constructor
    · simp only [afterS, Bool.false_eq_true, if_false, readS, hr, actsOn]
      cases (if q ∈ squadsIn s s.cur.threads then lastWrite (g s q) false n else none)
      · simp only [Option.none_or, hbS]
      · rfl
    · simp only [afterJ, Bool.false_eq_true, if_false, readJ, hr, actsOn]
      cases (if q ∈ squadsIn s s.cur.threads then lastWrite (g s q) true n else none)
      · simp only [Option.none_or, hbJ]
      · rfl
  · simp only [afterS, afterJ, if_true, actsOn, hcm rfl q]
    by_cases hq : q ∈ squadsIn s s.cur.threads
    · have hp := hs.2.2.1 q hq
      simp only [hq, hp, and_self, if_true]
      exact commit_lastWrite (g s q) (below_commitWrites hs hq) (fun w hw => (hpc s q w hw).2.2.1) (hn s q)
        (fun w hw => (hpc s q w hw).2.2.2) sh n
    · simp [hq]

/-- A SQUAD WORD THAT WRITES ONE s REGISTER, where no squad has a cause. -/
theorem squadSet_ok {e : Bool} {u : Uses} {sd : Fin 64} {f : State → Bool → Nat → Word} (hf : ReadsBefore f) {s : State}
    (hs : AtSquadWord s) (h : ∀ q ∈ squadsIn s s.cur.threads, squadCauses s u q = none) :
    (∀ q ∈ squadsIn s s.cur.threads, ∀ sh, afterS e s.cur.pc (squadSet e u sd f s) sh q sd.val = f s sh q) ∧
    OtherS [sd.val] e s (squadSet e u sd f s) ∧ OnlySquads e s (squadSet e u sd f s) := by
  have hg : ∀ s l q, (∀ w ∈ l, w.pc = s.cur.pc) →
      [writeOf (addWrites l s) q false sd.val (f (addWrites l s) false q) (f (addWrites l s) true q)] =
      [writeOf s q false sd.val (f s false q) (f s true q)] := by
    intro s l q hl
    rw [hf s l false q hl, hf s l true q hl]
    simp only [writeOf, addWrites, modWave_cur, issue_modWave]
  obtain ⟨ho, hr⟩ := squadWord_after (e := e) (check := fun s q _ => squadCauses s u q)
    (g := fun s q => [writeOf s q false sd.val (f s false q) (f s true q)]) hs h
    (fun s q w hw => by
      simp only [List.mem_singleton] at hw; subst hw; exact ⟨rfl, rfl, rfl, by simp only [writeOf, Bool.false_eq_true, if_false]; exact sd.isLt⟩)
    (fun _ _ => by simp) hg rfl
  have hl : ∀ q j n, lastWrite [writeOf s q false sd.val (f s false q) (f s true q)] j n =
      if j = false ∧ sd.val = n then some (writeOf s q false sd.val (f s false q) (f s true q)) else none := by
    intro q j n
    by_cases hn : sd.val = n <;> cases j <;> simp [lastWrite, writeOf, hn]
  simp only [hl] at hr
  refine ⟨fun q hq sh => ?_, ⟨fun q n sh hn => ?_, fun q n sh => ?_⟩, ho⟩
  · have := (hr q sh sd.val).1
    simp only [hq, and_self, if_true] at this
    refine Eq.trans this ?_
    cases sh <;> rfl
  · have := (hr q sh n).1
    have hx : (if q ∈ squadsIn s s.cur.threads then
        (if False = False ∧ sd.val = n then some (writeOf s q false sd.val (f s false q) (f s true q)) else none) else none) = none := by
      rcases hn with hn | hn
      · simp [hn]
      · simp only [List.mem_singleton] at hn; simp [Ne.symm hn]
    simp only [true_and] at hx this
    rw [hx] at this
    exact this
  · have := (hr q sh n).2
    simp only [Bool.true_eq_false, false_and, if_false, ite_self] at this
    exact this

/-- A SQUAD WORD THAT WRITES A REGISTER PAIR, where no squad has a cause. -/
theorem squadSet64_ok {e : Bool} {u : Uses} {sd : Fin 64} (hsd : sd.val + 1 < 64) {f : State → Bool → Nat → DWord} (hf : ReadsBefore f) {s : State}
    (hs : AtSquadWord s) (h : ∀ q ∈ squadsIn s s.cur.threads, squadCauses s u q = none) :
    (∀ q ∈ squadsIn s s.cur.threads, ∀ sh, afterS e s.cur.pc (squadSet64 e u sd f s) sh q sd.val = lowWord (f s sh q) ∧
      afterS e s.cur.pc (squadSet64 e u sd f s) sh q (sd.val + 1) = highWord (f s sh q)) ∧
    OtherS [sd.val, sd.val + 1] e s (squadSet64 e u sd f s) ∧ OnlySquads e s (squadSet64 e u sd f s) := by
  let g : State → Nat → List SWrite := fun s q => [writeOf s q false sd.val (lowWord (f s false q)) (lowWord (f s true q)),
    writeOf s q false (sd.val + 1) (highWord (f s false q)) (highWord (f s true q))]
  have heq : squadSet64 e u sd f s = squadWord e (fun s q _ => squadCauses s u q) (fun q _ s => addWrites (g s q) s) s := by
    unfold squadSet64
    congr 1
    funext q _ s
    simp only [writeS64, writeS_eq, g]
    have : writeOf (addWrites [writeOf s q false sd.val (lowWord (f s false q)) (lowWord (f s true q))] s) q false (sd.val + 1)
        (highWord (f s false q)) (highWord (f s true q)) =
        writeOf s q false (sd.val + 1) (highWord (f s false q)) (highWord (f s true q)) := by
      simp only [writeOf, addWrites, modWave_cur, issue_modWave]
    rw [this, addWrites_addWrites]; rfl
  have hg : ∀ s l q, (∀ w ∈ l, w.pc = s.cur.pc) → g (addWrites l s) q = g s q := by
    intro s l q hl
    simp only [g, hf s l false q hl, hf s l true q hl]
    simp only [writeOf, addWrites, modWave_cur, issue_modWave]
  obtain ⟨ho, hr⟩ := squadWord_after (e := e) (check := fun s q _ => squadCauses s u q) (g := g) hs h
    (fun s q w hw => by
      simp only [g, List.mem_cons, List.not_mem_nil, or_false] at hw
      rcases hw with hw | hw <;> subst hw <;> refine ⟨rfl, rfl, rfl, ?_⟩ <;> simp only [writeOf, Bool.false_eq_true, if_false]
      · exact sd.isLt
      · exact hsd)
    (fun _ _ => by simp [g, writeOf]) hg heq
  have hl : ∀ q j n, lastWrite (g s q) j n =
      if j = false ∧ sd.val = n then some (writeOf s q false sd.val (lowWord (f s false q)) (lowWord (f s true q)))
      else if j = false ∧ sd.val + 1 = n then some (writeOf s q false (sd.val + 1) (highWord (f s false q)) (highWord (f s true q)))
      else none := by
    intro q j n
    by_cases hn : sd.val = n
    · cases j <;> simp [lastWrite, writeOf, g, hn]
    · by_cases hm : sd.val + 1 = n <;> cases j <;> simp [lastWrite, writeOf, g, hn, hm]
  simp only [hl] at hr
  refine ⟨fun q hq sh => ⟨?_, ?_⟩, ⟨fun q n sh hn => ?_, fun q n sh => ?_⟩, ho⟩
  · have := (hr q sh sd.val).1
    simp only [hq, and_self, if_true] at this
    refine Eq.trans this ?_
    cases sh <;> rfl
  · have := (hr q sh (sd.val + 1)).1
    simp only [hq, and_self, if_true, true_and, Nat.left_eq_add, Nat.succ_ne_self, if_false] at this
    refine Eq.trans this ?_
    cases sh <;> rfl
  · have := (hr q sh n).1
    rcases hn with hn | hn
    · simp only [hn, if_false] at this
      exact this
    · simp only [List.mem_cons, List.not_mem_nil, or_false, not_or] at hn
      simp only [true_and, Ne.symm hn.1, Ne.symm hn.2, if_false, ite_self] at this
      exact this
  · have := (hr q sh n).2
    simp only [Bool.true_eq_false, false_and, if_false, ite_self] at this
    exact this

/-- A SQUAD WORD THAT WRITES ONE j PREDICATE, where no squad has a cause. -/
theorem squadSetJ_ok {e : Bool} {u : Uses} {jd : Fin 8} {f : State → Bool → Nat → Bool} (hf : ReadsBefore f) {s : State}
    (hs : AtSquadWord s) (h : ∀ q ∈ squadsIn s s.cur.threads, squadCauses s u q = none) :
    (∀ q ∈ squadsIn s s.cur.threads, ∀ sh, afterJ e s.cur.pc (squadSetJ e u jd f s) sh q jd.val = f s sh q) ∧
    OtherJ jd.val e s (squadSetJ e u jd f s) ∧ OnlySquads e s (squadSetJ e u jd f s) := by
  let g : State → Nat → List SWrite := fun s q =>
    [writeOf s q true jd.val (if f s false q then 1 else 0) (if f s true q then 1 else 0)]
  have hg : ∀ s l q, (∀ w ∈ l, w.pc = s.cur.pc) → g (addWrites l s) q = g s q := by
    intro s l q hl
    simp only [g, hf s l false q hl, hf s l true q hl]
    simp only [writeOf, addWrites, modWave_cur, issue_modWave]
  obtain ⟨ho, hr⟩ := squadWord_after (e := e) (check := fun s q _ => squadCauses s u q) (g := g) hs h
    (fun s q w hw => by
      simp only [g, List.mem_singleton] at hw; subst hw; exact ⟨rfl, rfl, rfl, by simp only [writeOf, if_true]; exact jd.isLt⟩)
    (fun _ _ => by simp [g]) hg (t := squadSetJ e u jd f s) rfl
  have hl : ∀ q j n, lastWrite (g s q) j n =
      if j = true ∧ jd.val = n then some (writeOf s q true jd.val (if f s false q then 1 else 0) (if f s true q then 1 else 0)) else none := by
    intro q j n
    by_cases hn : jd.val = n <;> cases j <;> simp [lastWrite, writeOf, hn, g]
  simp only [hl] at hr
  refine ⟨fun q hq sh => ?_, ⟨fun q n sh hn => ?_, fun q n sh => ?_⟩, ho⟩
  · have := (hr q sh jd.val).2
    simp only [hq, and_self, if_true] at this
    refine Eq.trans this ?_
    cases sh <;> simp only [writeOf, if_true, Bool.false_eq_true, if_false] <;> split <;> simp [*]
  · have := (hr q sh n).2
    rcases hn with hn | hn
    · simp only [hn, if_false] at this
      exact this
    · simp only [true_and, Ne.symm hn, if_false, ite_self] at this
      exact this
  · have := (hr q sh n).1
    simp only [Bool.false_eq_true, false_and, if_false, ite_self] at this
    exact this

/-! ### One lemma for each shape of squad word -/

/-- A squad word that sets an s register. -/
theorem writesS_of {i : Instr} {e : Bool} {sd : Fin 64} {f : Val Word} (hf : ReadsBefore f)
    (h : ∀ s, exec i s = .next (squadSet e (usesOf i) sd f s)) : WritesS i e sd f := by
  intro s hs
  obtain ⟨h1, h2, h3⟩ := squadSet_ok (e := e) (sd := sd) hf hs.1 hs.2
  exact ⟨_, h s, h1, h2, h3⟩

/-- A squad word that sets a register pair. -/
theorem writesS64_of {i : Instr} {e : Bool} {sd : Fin 64} (hv : sd.val + 1 < 64) {f : Val DWord} (hf : ReadsBefore f)
    (h : ∀ s, exec i s = .next (squadSet64 e (usesOf i) sd f s)) : WritesS64 i e sd f := by
  intro s hs
  obtain ⟨h1, h2, h3⟩ := squadSet64_ok (e := e) hv hf hs.1 hs.2
  exact ⟨_, h s, h1, h2, h3⟩

/-- A squad word that sets a j predicate. -/
theorem writesJ_of {i : Instr} {e : Bool} {jd : Fin 8} {f : Val Bool} (hf : ReadsBefore f)
    (h : ∀ s, exec i s = .next (squadSetJ e (usesOf i) jd f s)) : WritesJ i e jd f := by
  intro s hs
  obtain ⟨h1, h2, h3⟩ := squadSetJ_ok (e := e) (jd := jd) hf hs.1 hs.2
  exact ⟨_, h s, h1, h2, h3⟩

theorem writesS_squad1 {i : Instr} {e : Bool} {sd sa : Fin 64} {f : Word → Word} (h : ∀ s, exec i s = .next (squad1 e sd sa f s))
    (hu : usesOf i = useU1 sd sa) : WritesS i e sd (ofS1 sa f) :=
  writesS_of ((readsBefore_readS sa.val).map f) fun s => by rw [h, hu]; rfl

theorem writesS_squad2 {i : Instr} {e : Bool} {sd sa sb : Fin 64} {f : Word → Word → Word}
    (h : ∀ s, exec i s = .next (squad2 e sd sa sb f s)) (hu : usesOf i = useU2 sd sa sb) : WritesS i e sd (ofS2 sa sb f) :=
  writesS_of ((readsBefore_readS sa.val).map₂ (readsBefore_readS sb.val) f) fun s => by rw [h, hu]; rfl

end Sys2Proof.Machine
end

