-- ==== Sys2Proof/Laws/Control.lean ====
section
/-! SUPPORT. Laws of the ends of runs: several threads changed at once, a run's last word, waits that are not there. -/

namespace Sys2Proof.Machine

/-! ### Several threads at once -/

theorem get?_map {α : Type} (t : Tbl α) (f : Nat → α → α) (k : Nat) :
    Tbl.get? (t.map fun e => (e.1, f e.1 e.2)) k = (Tbl.get? t k).map (f k) := by
  induction t with
  | nil => rfl
  | cons e r ih =>
    obtain ⟨j, b⟩ := e
    simp only [List.map_cons, Tbl.get?_cons, ih]
    split
    · next h => subst h; rfl
    · rfl

theorem mapThreads_threads (ts : List Nat) (f : Nat → Thread → Thread) (s : State) :
    (mapThreads ts f s).threads = s.threads.map fun e => (e.1, if ts.contains e.1 then f e.1 e.2 else e.2) := by
  unfold mapThreads
  refine List.map_congr_left fun e _ => ?_
  split <;> rfl

theorem get?_mapThreads (ts : List Nat) (f : Nat → Thread → Thread) (s : State) (u : Nat) :
    (mapThreads ts f s).threads.get? u = (s.threads.get? u).map fun th => if ts.contains u then f u th else th := by
  rw [mapThreads_threads]
  exact get?_map s.threads (fun k th => if ts.contains k then f k th else th) u

/-- A thread of the list changes as given. -/
theorem thr_mapThreads_mem {ts : List Nat} {f : Nat → Thread → Thread} {s : State} {u : Nat} (h : (s.threads.get? u).isSome)
    (hu : u ∈ ts) : thr (mapThreads ts f s) u = f u (thr s u) := by
  obtain ⟨th, hth⟩ := Option.isSome_iff_exists.mp h
  simp [thr, Tbl.getD, get?_mapThreads, hth, hu]

/-- A thread that is not of the list does not change. -/
theorem thr_mapThreads_not {ts : List Nat} {f : Nat → Thread → Thread} {s : State} {u : Nat} (hu : u ∉ ts) :
    thr (mapThreads ts f s) u = thr s u := by
  simp only [thr, Tbl.getD, get?_mapThreads, List.contains_eq_mem, hu, decide_false, Bool.false_eq_true, if_false, Option.map_id']

/-- A field that the change keeps is kept in every thread. -/
theorem field_mapThreads {β : Type} (p : Thread → β) {f : Nat → Thread → Thread} (hp : ∀ u th, p (f u th) = p th) (ts : List Nat)
    (s : State) (u : Nat) : p (thr (mapThreads ts f s) u) = p (thr s u) := by
  simp only [thr, Tbl.getD, get?_mapThreads]
  cases Tbl.get? s.threads u with
  | none => rfl
  | some th => simp only [Option.map_some]; split <;> simp [hp]

theorem readV_mapThreads {f : Nat → Thread → Thread} (h1 : ∀ u th, (f u th).v = th.v) (h2 : ∀ u th, (f u th).shV = th.shV)
    (ts : List Nat) (s : State) (sh : Bool) (u n : Nat) : readV (mapThreads ts f s) sh u n = readV s sh u n := by
  cases sh <;> simp only [readV, field_mapThreads (·.v) h1, field_mapThreads (·.shV) h2]

theorem readK_mapThreads {f : Nat → Thread → Thread} (h1 : ∀ u th, (f u th).k = th.k) (h2 : ∀ u th, (f u th).shK = th.shK)
    (ts : List Nat) (s : State) (sh : Bool) (u n : Nat) : readK (mapThreads ts f s) sh u n = readK s sh u n := by
  cases sh <;> simp only [readK, field_mapThreads (·.k) h1, field_mapThreads (·.shK) h2]

theorem mapThreads_frame (ts : List Nat) (f : Nat → Thread → Thread) (s : State) :
    mapThreads ts f s = { s with threads := (mapThreads ts f s).threads } := rfl

/-! ### The end of a run -/

theorem thr_dropThreads (ts : List Nat) (s : State) (u : Nat) : thr (dropThreads ts s) u = thr s u := by
  rw [dropThreads_frame]; rfl

theorem present_commitWrites {s : State} (hs : AtWord s) : ∀ t ∈ s.cur.threads, ((commitWrites s).threads.get? t).isSome := by
  rw [commitWrites_threads]; exact hs.2

theorem present_leaveRuns (ts : List Nat) (pc : Nat → DWord) (s : State) (u : Nat) :
    ((leaveRuns ts pc s).threads.get? u).isSome = (s.threads.get? u).isSome := by
  unfold leaveRuns
  induction ts generalizing s with
  | nil => rfl
  | cons t r ih => rw [List.foldl_cons, ih]; simp [leaveRun, endMove]

/-- A field of a thread that the end of its run keeps. -/
theorem field_leaveRuns {β : Type} (p : Thread → β)
    (hp : ∀ th pc b e, p { th with pc := pc, inWave := false, inRun := b, direct := false, deny := none, answered := false, badPage := none, slowEnd := e, shWord := 0 } = p th) (ts : List Nat)
    (pc : Nat → DWord) (s : State) (u : Nat) : p (thr (leaveRuns ts pc s) u) = p (thr s u) := by
  unfold leaveRuns
  induction ts generalizing s with
  | nil => rfl
  | cons t r ih =>
    rw [List.foldl_cons, ih]
    simp only [leaveRun, thr_endMove]
    exact field_modThread p (fun th => hp th _ _ _) s u

/-- The causes of a list are none where each is. -/
theorem lowest_none {l : List (Option Cause)} (h : ∀ c ∈ l, c = none) : lowest l = none := by
  unfold lowest
  induction l with
  | nil => rfl
  | cons a r ih =>
    have := h a List.mem_cons_self
    subst this
    exact ih fun c hc => h c (List.mem_cons_of_mem _ hc)

/-- A LAST WORD THAT ONLY MOVES ITS THREADS, where no lane has a cause. -/
theorem lastLane_leaveRuns {check : Nat → Option Cause} {pc : Nat → DWord} {s : State} (hs : AtWord s)
    (h : ∀ t ∈ s.cur.threads, check t = none) {t : State} (ht : t = lastLane check (fun ts s' => leaveRuns ts pc s') s) :
    (∀ u ∈ s.cur.threads, (thr t u).pc = pc u) ∧ OtherV [] s t ∧ OnlyThreads true s t := by
  rw [lastLane_ok h] at ht
  subst ht
  refine ⟨fun u hu => ?_, ⟨fun u n sh _ => ?_, fun u n sh => ?_⟩, ?_, ?_, ?_⟩
  · rw [thr_dropThreads, leaveRuns_pc hs.1 pc (present_commitWrites hs) hu]
  · rw [readV_congr (t := leaveRuns s.cur.threads pc (commitWrites s)) (by rw [dropThreads_frame]), leaveRuns_readV]
    exact readV_congr (commitWrites_threads s) ..
  · rw [readK_congr (t := leaveRuns s.cur.threads pc (commitWrites s)) (by rw [dropThreads_frame]), leaveRuns_readK]
    exact readK_congr (commitWrites_threads s) ..
  · rw [dropThreads_frame, leaveRuns_frame, commitWrites_frame]
  · rw [dropThreads_frame, leaveRuns_frame]; rfl
  · intro h; cases h

/-! ### Waits -/

/-- With nothing waiting there is nothing to serve. -/
theorem settle_nil {s : State} (h : s.waits = []) : settle s = s := by
  simp [settle, settleFor, settlePass, h, Tbl.keys]

end Sys2Proof.Machine
end

