-- ==== Sys2Proof/Tests/Slice0.lean ====
section
/-! SUPPORT. Tests: the encoding rules refuse, words of the spec decode, the spec's worked values, and, for each statement with
hypotheses, operands and a state that meet them. -/

section

set_option Elab.async false

open Sys2Proof Sys2Proof.Machine

/-! ### Ill-formed terms, one for each rule of encoding -/

theorem test_wf_pair : (Instr.iadd64 false 3 (.v 2) (.v 4)).wf = false := by decide
theorem test_wf_special : (Instr.movs false 3 0x20).wf = false := by decide
theorem test_wf_scope : (Instr.lkacq 4 ⟨.block, false, false⟩).wf = false := by decide
theorem test_wf_fence : (Instr.ufence ⟨.block, false, false⟩).wf = false := by decide
theorem test_wf_guard : (Instr.garm 0).wf = false := by decide
theorem test_wf_frame : (Instr.frame false 20).wf = false := by decide
theorem test_wf_conversion : (Instr.cvt false .f2e4 .rtz false 1 (.v 2)).wf = false := by decide
theorem test_wf_queue_source : (Instr.mxstr 1 (.v 3) 7 0 true false).wf = false := by decide

/-! ### Words written out from the encodings of 06 (Tables 6.4 to 6.14, 6.16 and 6.20) and 11 (Table 11.10) -/

theorem test_word_iadd : decode 0b0_0_0000001_0000011_00000001_10000100 = .ok (.iadd false 3 (.v 1) (.s 4)) := by decide +kernel
theorem test_word_movi : decode 0b0_0_0100011_0000101_1111111111111110 = .ok (.movi false 5 0xFFFE) := by decide +kernel
theorem test_word_icmp : decode 0b0_0_0101000_0010_001_00000010_11000001 = .ok (.icmp false .lt 1 (.v 2) .lane) := by decide +kernel
theorem test_word_sldw : decode 0x34020304 = .ok (.sldw false 2 (.v 3) 4) := by decide +kernel
theorem test_word_ldwp : decode 0x37060A02 = .ok (.ldwp false 6 10 2) := by decide +kernel
theorem test_word_ldwp_code : decode 0x37068A02 = .error .codeReserved := by decide +kernel
theorem test_word_qpushv : decode 0x47840009 = .ok (.qpushv 9 4) := by decide +kernel
theorem test_word_mxstr : decode 0x5D03070A = .ok (.mxstr 2 (.v 7) 3 1 false false) := by decide +kernel
theorem test_word_frame : decode 0x3F801805 = .ok (.frame false 24) := by decide +kernel
theorem test_word_br : decode 0x7D9FFFFD = .ok (.br 1 0xFFFFD) := by decide +kernel
theorem test_word_br_no_flag : decode 0x3D9FFFFD = .error .runPosition := by decide +kernel
theorem test_word_uadd : decode 0x808C1003 = .ok (.uadd false 6 2 3) := by decide +kernel
theorem test_word_ucmp : decode 0x8D042085 = .ok (.ucmp false .lt 2 4 5) := by decide +kernel
theorem test_word_urds : decode 0x8B840006 = .ok (.urds false 2 6) := by decide +kernel
theorem test_word_cpcopy : decode 0xD4948024 = .ok (.cpcopy 10 16 0 ⟨.block, false, true⟩) := by decide +kernel
theorem test_word_sscan : decode 0x6E070600 = .ok (.sscan .add false 7 (.v 6)) := by decide +kernel
theorem test_word_call : decode 0x7F000380 = .ok (.call 0x380) := by decide +kernel
theorem test_word_rfetch : decodePorter 0b0000000_00000_01011_000_01010_0001011 = .ok (.rfetch 10 11) := by decide +kernel
theorem test_word_bfx : decodePorter 0x0685A50B = .ok (.bfx 10 11 8 3 0) := by decide +kernel

/-! ### One lane word on a thread whose v1, v2 and v3 are set -/

/-- The state that places a word, with v1, v2 and v3 of its one thread set. -/
def Tests.lane (a b d : Word) : State :=
  modThread 32 (fun th => { th with v := ((th.v.set 1 a).set 2 b).set 3 d, shV := ((th.shV.set 1 a).set 2 b).set 3 d, inWave := true })
    { State.reset.withFetchWord 32 0 with cur := ⟨0, 0, [32], 0x10000, 0, false⟩ }

/-- v3 after one instruction. -/
def Tests.v3 (i : Instr) (a b d : Word) : Word :=
  match exec i (Tests.lane a b d) with
  | .next t => readV t false 32 3
  | _ => 0x0BAD0BAD

-- Table 7.3
theorem test_idiv : Tests.v3 (.idiv false 3 (.v 1) (.v 2)) 7 0xFFFFFFFE 0 = 0xFFFFFFFD ∧
    Tests.v3 (.idiv false 3 (.v 1) (.v 2)) 0x80000000 0xFFFFFFFF 0 = 0x80000000 := by decide +kernel
theorem test_irem : Tests.v3 (.irem false 3 (.v 1) (.v 2)) 0xFFFFFFF9 2 0 = 0xFFFFFFFF ∧
    Tests.v3 (.irem false 3 (.v 1) (.v 2)) 5 0 0 = 5 := by decide +kernel
theorem test_udiv : Tests.v3 (.udiv false 3 (.v 1) (.v 2)) 0xFFFFFFF9 2 0 = 0x7FFFFFFC ∧
    Tests.v3 (.udiv false 3 (.v 1) (.v 2)) 7 0 0 = 0xFFFFFFFF := by decide +kernel
-- R144's example
theorem test_bfe : Tests.v3 (.bfe false 3 (.v 1) (.v 2)) 0x0000F5A0 0x00008805 0 = 0xFFFFFFAD := by decide +kernel
-- R146's example: MOVI v1, 0 and MOVHI v1, 0x3F80 leave 1.0
theorem test_movhi : Tests.v3 (.movhi false 3 0x3F80) 0 0 0 = 0x3F800000 := by decide +kernel
-- R152's examples
theorem test_ffma : Tests.v3 (.ffma false 3 (.v 1) (.v 2)) 0x3F800001 0x3F800002 0x3F800000 = 0x40000002 ∧
    Tests.v3 (.ffma false 3 (.v 1) (.v 2)) 0x3F800001 0x3F800002 0xBF800000 = 0x34C00001 := by decide +kernel
theorem test_ffma_tie : Tests.v3 (.ffma false 3 (.v 1) (.v 2)) 0x3F800001 0x3F800001 0xBF800000 = 0x34800000 := by decide +kernel
-- R153: FMIN(+0, −0) is −0, and FMAX(+0, −0) is +0
theorem test_fmin : Tests.v3 (.fmin false 3 (.v 1) (.v 2)) 0 0x80000000 0 = 0x80000000 := by decide +kernel
theorem test_fmax : Tests.v3 (.fmax false 3 (.v 1) (.v 2)) 0 0x80000000 0 = 0 := by decide +kernel
-- R154: FCEIL(−0.3) is −0, FFLOOR(−0.3) is −1.0, FRINT(2.5) is 2.0 and FRINT(3.5) is 4.0
theorem test_fceil : Tests.v3 (.fceil false 3 (.v 1)) 0xBE99999A 0 0 = 0x80000000 := by decide +kernel
theorem test_ffloor : Tests.v3 (.ffloor false 3 (.v 1)) 0xBE99999A 0 0 = 0xBF800000 := by decide +kernel
theorem test_frint : Tests.v3 (.frint false 3 (.v 1)) 0x40200000 0 0 = 0x40000000 ∧
    Tests.v3 (.frint false 3 (.v 1)) 0x40600000 0 0 = 0x40800000 := by decide +kernel
-- R156's examples
theorem test_fclass : Tests.v3 (.fclass false 3 (.v 1)) 0x00000001 0 0 = 0x20 ∧
    Tests.v3 (.fclass false 3 (.v 1)) 0xFFC00000 0 0 = 0x200 := by decide +kernel
-- R157's example
theorem test_iadds2 : Tests.v3 (.iadds2 false 3 (.v 1) (.v 2)) 0x7FF00005 0x0020FFF0 0 = 0x7FFFFFF5 := by decide +kernel
theorem test_iadd2 : Tests.v3 (.iadd2 false 3 (.v 1) (.v 2)) 0x7FF00005 0x0020FFF0 0 = 0x8010FFF5 := by decide +kernel
-- Table 7.13 and R159
theorem test_cvt_f2i : Tests.v3 (.cvt false .f2i .rup false 3 (.v 1)) 0x40200000 0 0 = 3 ∧
    Tests.v3 (.cvt false .f2i .rdn false 3 (.v 1)) 0xC0200000 0 0 = 0xFFFFFFFD := by decide +kernel
theorem test_cvt_i2f : Tests.v3 (.cvt false .i2f .rup false 3 (.v 1)) 16777217 0 0 = 0x4B800001 := by decide +kernel
theorem test_cvt_q4d : Tests.v3 (.cvt false .q4d .rne false 3 (.v 1)) 0xB 0 0 = 0xBE9F0000 := by decide +kernel

-- Table 8.4: AADD of lanes 0, 2 and 3 on a word that holds 100, and AFADD of three lanes on 2^24
theorem test_aadd_group : groupResult .add 100 [(5, 0), (10, 0), (20, 0)] = ([100, 105, 115], some 135) := by decide +kernel
theorem test_afadd_group : groupResult .fadd 0x4B800000 [(0x3F800000, 0), (0x3F800000, 0), (0x40000000, 0)] =
    ([0x4B800000, 0x4B800000, 0x4B800001], some 0x4B800002) := by decide +kernel
-- Table 7.16, with the exited lane's 0
theorem test_fold : fold .add [10, 20, 0, 40] = 70 ∧ fold .imin [10, 20, 0, 40] = 0 := by decide +kernel
-- R158's example
theorem test_idp4 : Tests.v3 (.idp4 false 3 (.v 1) (.v 2)) 0xFC03FE01 0x08070605 100 = 82 := by decide +kernel
-- Table 5.3
theorem test_narrow : roundFP bf16 .rne (f32 0x3DCCCCCD) = 0x3DCD ∧ encodeFP e4m3 false (f32 0x41880000) = 0x58 ∧
    encodeFP e4m3 false (f32 0x43FA0000) = 0x7E ∧ encodeFP e5m2 true (f32 0x4788B800) = 0x7C ∧
    encodeFP e5m2 false (f32 0x37000000) = 0 := by decide +kernel
-- R112's example: a BF16 pass with products 2^24, 1, 1 and 1
theorem test_matrix_tree : treeSum 6 ([0x4B800000, 0x3F800000, 0x3F800000, 0x3F800000] ++ List.replicate 60 0) = 0x4B800001 := by
  decide +kernel
-- R114's example: the accumulator 2,943/64 drained with S = 3.0 as BF16
theorem test_drain : drainBytes 1 (toF32 ((f32 0x4237F000).mul (f32 0x40400000))) = [0x0A, 0x43] := by decide +kernel

/-! ### A state in which a word can act

Two threads of squad 1, whose squad has a handler, stand at a word in slot 0 of core 0; addresses below 1 GiB map to themselves.
Partition 0 is function 1's, which holds the queues of group 1. -/

def Tests.thread (a : Nat) : Thread :=
  { (default : Thread) with
    v := Vector.ofFn fun i => BitVec.ofNat 32 (64 * i.val + a), k := Vector.replicate 8 false
    shV := Vector.ofFn fun i => BitVec.ofNat 32 (64 * i.val + a), shK := Vector.replicate 8 false
    pc := 0x10000, live := true, agent := a, stk := BitVec.ofNat 64 (0x40000 + 0x1000 * a), inWave := true }

/-- S(q, 2) is 0x20000 and S(q, 3) is 0, so the pair is an address; S(q, n) is n for the others. -/
def Tests.squadRegs : Vector Word 64 := Vector.ofFn fun i => if i.val = 2 then 0x20000 else if i.val = 3 then 0 else BitVec.ofNat 32 i.val

def Tests.site : State :=
  let s := State.reset.withFetchWord 32 0x80000000
  let w : Wave := { (default : Wave) with start := 0x10000, pc := 0x10000, all := [32, 33], threads := [32, 33] }
  { s with
    cur := ⟨0, 0, [32, 33], 0x10000, 0x80000000, false⟩
    threads := [(32, Tests.thread 1), (33, Tests.thread 2)]
    agents := [(1, Agent.new ⟨true, false, 1, 1, 0⟩), (2, Agent.new ⟨true, false, 1, 1, 0⟩)]
    squads := s.squads.adj 1 fun q => { q with
      present := [0, 1], s := Tests.squadRegs, shS := Tests.squadRegs, tiles := [0, 1], gsq := 3, handler := true, hvec := 0x10100 }
    cores := s.cores.adj 0 fun c => { c with slots := [(0, w)], issue := 10 }
    launches := s.launches.adj 1 fun l => { l with hdr := { l.hdr with dimx := 4, windows := [9], flags := 0xFFFF } }
    functions := [(0, { Function.reset with features := 2 ^ 40 - 1 }), (1, { Function.reset with groups := [1], features := 2 ^ 40 - 1 })]
    partitions := [(0, { (default : Partition) with clusters := [0] })]
    nextId := 100 }

/-- Changes of the thread, the squad, the block and the launch of that state. -/
def Tests.withThread (f : Thread → Thread) : State := modThread 33 f (modThread 32 f Tests.site)
def Tests.withSquad (f : Squad → Squad) : State := modSquad 1 f Tests.site
def Tests.withBlock (f : Block → Block) : State := modBlock 1 f Tests.site
def Tests.withLaunch (f : Launch → Launch) : State := modLaunch 1 f Tests.site

/-- What `AtSquadWord` asks, where no squad write has become architectural. -/
theorem wit_squadWord_of (s : State) (h : ((cor s s.cur.core).slots.get? s.cur.slot).isSome ∧ s.cur.pc.toNat + 4 < 2 ^ 64 ∧
    (∀ q ∈ squadsIn s s.cur.threads, (s.squads.get? q).isSome ∧ (sqd s q).seqS = [] ∧ (sqd s q).seqJ = []) ∧
    (∀ w ∈ (curWave s).writes, w.seq < (cor s s.cur.core).issue) ∧ 0 < (cor s s.cur.core).issue) : AtSquadWord s :=
  ⟨h.1, h.2.1, fun q hq => (h.2.2.1 q hq).1, h.2.2.2.1, fun q hq n => by
    rw [(h.2.2.1 q hq).2.1, (h.2.2.1 q hq).2.2]
    exact ⟨h.2.2.2.2, h.2.2.2.2⟩⟩

/-- `Acts` as a closed question. -/
def Tests.acts (i : Instr) (q : Nat) (s : State) : Bool :=
  decide (((cor s s.cur.core).slots.get? s.cur.slot).isSome ∧ s.cur.pc.toNat + 4 < 2 ^ 64 ∧
    (∀ q ∈ squadsIn s s.cur.threads, (s.squads.get? q).isSome ∧ (sqd s q).seqS = [] ∧ (sqd s q).seqJ = []) ∧
    (∀ w ∈ (curWave s).writes, w.seq < (cor s s.cur.core).issue) ∧ 0 < (cor s s.cur.core).issue) &&
  decide (∀ q ∈ squadsIn s s.cur.threads, squadCauses s (usesOf i) q = none) &&
  decide (s.cur.threads.Nodup ∧ ∀ t ∈ s.cur.threads, (s.threads.get? t).isSome) &&
  decide (∀ u ∈ s.cur.threads, (s.agents.get? (thr s u).agent).isSome ∧ ∀ v ∈ s.cur.threads, (thr s v).agent = (thr s u).agent → v = u) &&
  decide (∀ u ∈ s.cur.threads, (thr s u).live = true ∧ (thr s u).wait = none ∧ (thr s u).susp = none ∧ (thr s u).shWord = 0) &&
  decide (s.cur.threads ≠ [] ∧ (∀ u ∈ s.cur.threads, squadOf u = q) ∧ s.waits = [] ∧ (sqd s q).state = .resident ∧
    (∀ w ∈ (curWave s).writes, w.pc.toNat < s.cur.pc.toNat) ∧
    (∀ n ∈ (usesOf i).sr, readS s false q n = readS s true q n) ∧ ∀ n ∈ (usesOf i).jr, readJ s false q n = readJ s true q n)

theorem wit_acts_of {i : Instr} {q : Nat} {s : State} (h : Tests.acts i q s = true) : Acts i q s := by
  simp only [Tests.acts, Bool.and_eq_true] at h
  obtain ⟨⟨⟨⟨⟨h1, h2⟩, h3⟩, h4⟩, h5⟩, h6⟩ := h
  have h2 := of_decide_eq_true h2
  have h3 := of_decide_eq_true h3
  have h4 := of_decide_eq_true h4
  have h5 := of_decide_eq_true h5
  have h6 := of_decide_eq_true h6
  exact ⟨⟨wit_squadWord_of s (of_decide_eq_true h1), h2⟩, ⟨h3, h4, h5⟩, h6⟩

theorem wit_squadWord : AtSquadWord Tests.site := wit_squadWord_of _ (by decide +kernel)

theorem wit_ready : Ready Tests.site ∧ Tests.site.Canonical := by unfold Ready AtWord OwnAgents State.Canonical; decide +kernel

/-! ### Operands and states that meet the hypotheses: words of the lanes (O1 to O17) -/

theorem wit_lane_values : LanesClear (.iadd true 127 (.v 126) .lane) Tests.site ∧ LanesClear (.popc false 0 (.s 63)) Tests.site ∧
    LanesClear (.bfi false 127 (.v 0) .zero) Tests.site ∧ LanesClear (.movhi true 127 0xFFFF) Tests.site ∧
    LanesClear (.movs false 127 0x1D) Tests.site ∧ LanesClear (.movs true 0 0x0C) Tests.site := by
  unfold LanesClear AtWord; decide +kernel

theorem wit_lane_predicates : LanesClear (.icmp true .geu 7 (.v 127) (.s 63)) Tests.site ∧
    LanesClear (.fcmp false .un 0 (.v 0) .zero) Tests.site ∧ LanesClear (.kandn false 7 0 7) Tests.site ∧
    LanesClear (.vtok true 7 (.v 127)) Tests.site := by
  unfold LanesClear AtWord; decide +kernel

theorem wit_lane_floats : (126 : Fin 128).val % 2 = 0 ∧ LanesClear (.iadd64 false 126 (.v 126) .zero) Tests.site ∧
    LanesClear (.imulw true 0 (.v 127) (.s 63)) Tests.site ∧ LanesClear (.ffma false 127 (.v 0) (.v 127)) Tests.site ∧
    LanesClear (.fclass false 127 (.v 127)) Tests.site ∧ LanesClear (.pack false 127 (.v 0) .lane) Tests.site ∧
    LanesClear (.frcp false 127 (.v 0)) Tests.site ∧ LanesClear (.cvt false .f2u .rup false 127 (.v 0)) Tests.site := by
  unfold LanesClear AtWord; decide +kernel

theorem wit_conversion_facts : (f32 0x7F800001).isNan = true ∧ 2 ^ 24 ≤ 2 ^ 24 ∧ (15 : Word).toNat < 16 := by decide +kernel

theorem wit_rounding : 0 < (1 : Nat) ∧ RMode.rdn = (if true then RMode.rdn else .rup) ∧ RMode.rup = (if true then RMode.rup else .rdn) ∧
    e5m2 ∈ [fp32, fp16, bf16, e4m3, e5m2] ∧ 0x7B < 2 * e5m2.signBit ∧ (decodeFP e5m2 0x7B).isNan = false := by decide +kernel

/-- A finite word's value, from its parts. -/
theorem wit_value_of {a : Word} {s : Bool} {n : Nat} {e : Int} {x : ℚ} (h : f32 a = .fin s n e)
    (hx : (if s then -1 else 1) * (n : ℚ) * (2 : ℚ) ^ e = x) : valueOf a = some x := by
  rw [valueOf, h, ratOf, hx]

theorem wit_float_parts : f32 0x40400000 = .fin false 12582912 (-22) ∧ f32 0xBF800000 = .fin true 8388608 (-23) ∧
    f32 0 = .fin false 0 (-149) ∧ f32 3 = .fin false 3 (-149) ∧ f32 0x80000003 = .fin true 3 (-149) ∧ f32 0x7F800000 = .inf false ∧
    f32 0xFF800000 = .inf true ∧ f32 0x7F000000 = .fin false 8388608 104 ∧ f32 0x00200000 = .fin false 2097152 (-149) ∧
    f32 0x80200000 = .fin true 2097152 (-149) ∧ f32 0x40800000 = .fin false 8388608 (-21) ∧ f32 0xC3150000 = .fin true 9764864 (-16) ∧
    f32 0xC3160000 = .fin true 9830400 (-16) ∧ f32 0x43000000 = .fin false 8388608 (-16) ∧ f32 0x3E800000 = .fin false 8388608 (-25) ∧
    f32 0x3F000000 = .fin false 8388608 (-24) ∧ f32 0x3F400000 = .fin false 12582912 (-24) := by decide +kernel

theorem wit_float_values : valueOf 0x40400000 = some 3 ∧ valueOf 0xBF800000 = some (-1) ∧ valueOf 0 = some 0 ∧
    valueOf 0x7F000000 = some (2 ^ (127 : ℤ)) ∧ valueOf 0x00200000 = some (2 ^ (-128 : ℤ)) ∧ valueOf 0x80200000 = some (-(2 ^ (-128 : ℤ))) ∧
    valueOf 0x40800000 = some (4 ^ (1 : ℤ)) ∧ valueOf 0xC3150000 = some ((-149 : ℤ) : ℚ) ∧ valueOf 0xC3160000 = some (-150) ∧
    valueOf 0x43000000 = some 128 ∧ valueOf 0x3E800000 = some (((0 : ℤ) : ℚ) + 1 / 4) ∧ valueOf 0x3F000000 = some (((0 : ℤ) : ℚ) + 1 / 2) ∧
    valueOf 0x3F400000 = some (((0 : ℤ) : ℚ) + 3 / 4) := by
  obtain ⟨a, b, c, -, -, -, -, d, e, f, g, h, i, j, k, l, m⟩ := wit_float_parts
  refine ⟨wit_value_of a ?_, wit_value_of b ?_, wit_value_of c ?_, wit_value_of d ?_, wit_value_of e ?_, wit_value_of f ?_,
    wit_value_of g ?_, wit_value_of h ?_, wit_value_of i ?_, wit_value_of j ?_, wit_value_of k ?_, wit_value_of l ?_, wit_value_of m ?_⟩ <;>
    norm_num [zpow_neg]

theorem wit_not_power (k : ℤ) : (3 : ℚ) ≠ 2 ^ k := by
  intro h
  rcases k with n | n
  · rw [Int.ofNat_eq_natCast, zpow_natCast] at h
    have e : (3 : ℕ) = 2 ^ n := by exact_mod_cast h
    rcases n with _ | n
    · omega
    · rw [pow_succ] at e
      omega
  · rw [zpow_negSucc] at h
    have e : (1 : ℚ) ≤ 2 ^ (n + 1) := one_le_pow₀ (by norm_num)
    have i := inv_le_one_of_one_le₀ e
    linarith

/-- FRCP of 3, whose value is in the range of FP32; and of the subnormals 3 · 2^−149 and −3 · 2^−149, whose values are not. -/
theorem wit_approximate : ¬Tabled .rcp 3 ∧
    (∃ v, ratOf (approxValue .rcp false 12582912 (-22)) = some v ∧ |v| ≤ (2 - (2 : ℚ) ^ (-23 : ℤ)) * 2 ^ 127) ∧
    (∃ v, ratOf (approxValue .rcp false 3 (-149)) = some v ∧ (2 - (2 : ℚ) ^ (-23 : ℤ)) * 2 ^ 127 < v) ∧
    (∃ v, ratOf (approxValue .rcp true 3 (-149)) = some v ∧ v < -((2 - (2 : ℚ) ^ (-23 : ℤ)) * 2 ^ 127)) ∧
    ∃ v, ratOf (approxValue .rsq false 12582912 (-22)) = some v := by
  refine ⟨?_, ⟨_, rfl, ?_⟩, ⟨_, rfl, ?_⟩, ⟨_, rfl, ?_⟩, _, rfl⟩
  · rintro (h | ⟨k, h⟩)
    · norm_num at h
    · exact wit_not_power k (by simpa using h)
  all_goals norm_num [zpow_neg, abs_le]

theorem wit_squad_values : SquadsClear (.uadd true 63 62 0) Tests.site ∧ SquadsClear (.umovhi false 63 0xFFFF) Tests.site ∧
    (62 : Fin 64).val % 2 = 0 ∧ SquadsClear (.uaddi64 false 62 62 0x400) Tests.site ∧ SquadsClear (.ucmp false .geu 7 63 0) Tests.site ∧
    SquadsClear (.jnot true 7 0) Tests.site ∧ SquadsClear (.urds false 63 0xBF) Tests.site ∧ (31 : Nat) < 32 ∧
    SquadsClear (.urds false 63 0x0C) Tests.site :=
  ⟨⟨wit_squadWord, by decide +kernel⟩, ⟨wit_squadWord, by decide +kernel⟩, by decide, ⟨wit_squadWord, by decide +kernel⟩,
    ⟨wit_squadWord, by decide +kernel⟩, ⟨wit_squadWord, by decide +kernel⟩, ⟨wit_squadWord, by decide +kernel⟩, by decide,
    ⟨wit_squadWord, by decide +kernel⟩⟩

theorem wit_words_without_effect : AtWord Tests.site ∧ AtSquadWord Tests.site ∧
    (∀ u ∈ Tests.site.cur.threads, (128 : BitVec 8).toNat ≤ (sqd Tests.site (squadOf u)).allot) ∧
    ((cor Tests.site 0).slots.get? 0).isSome ∧ (curWave Tests.site).slow = none ∧ Tests.site.cur.slow = false :=
  ⟨by unfold AtWord; decide +kernel, wit_squadWord, by decide +kernel⟩

theorem wit_branches : LanesClear (.br 7 0x80000) Tests.site ∧ LanesClear (.brn 0 0xFFFFF) Tests.site ∧
    (∀ u ∈ Tests.site.cur.threads, readK Tests.site false u 7 = readK Tests.site true u 7) ∧
    ∀ q ∈ squadsIn Tests.site Tests.site.cur.threads, squadCauses Tests.site { jr := [7] } q = none ∧
      readJ Tests.site false q 7 = readJ Tests.site true q 7 := by
  unfold LanesClear AtWord; decide +kernel

/-- Both threads hold 0x20000 in v2 and v3, at depth `d`. -/
def Tests.calling (d : Nat) : State :=
  Tests.withThread fun th => { th with v := (th.v.set 2 0x20000).set 3 0, shV := (th.shV.set 2 0x20000).set 3 0, depth := d }

/-- The areas of the two threads are apart, and the memory is in its canonical form. -/
theorem wit_call_areas : (Tests.calling 511).Canonical ∧ (∀ u ∈ (Tests.calling 511).cur.threads, ∀ v ∈ (Tests.calling 511).cur.threads,
    u ≠ v → (thr (Tests.calling 511) u).stk.toNat + 8 * (thr (Tests.calling 511) u).depth + 8 ≤
        (thr (Tests.calling 511) v).stk.toNat + 8 * (thr (Tests.calling 511) v).depth ∨
      (thr (Tests.calling 511) v).stk.toNat + 8 * (thr (Tests.calling 511) v).depth + 8 ≤
        (thr (Tests.calling 511) u).stk.toNat + 8 * (thr (Tests.calling 511) u).depth) := by
  unfold State.Canonical; decide +kernel

theorem wit_calls : AtWord (Tests.calling 511) ∧ (∀ u ∈ (Tests.calling 511).cur.threads, (thr (Tests.calling 511) u).depth < 512) ∧
    LanesClear (.callr (.v 2)) (Tests.calling 511) ∧ (∀ u ∈ (Tests.calling 511).cur.threads,
      src64 (Tests.calling 511) false u (.v 2) = src64 (Tests.calling 511) true u (.v 2) ∧
      (src64 (Tests.calling 511) false u (.v 2)).toNat % 4 = 0 ∧ canonical (src64 (Tests.calling 511) false u (.v 2)).toNat = true) ∧
    (∀ u ∈ (Tests.calling 1).cur.threads, 0 < (thr (Tests.calling 1) u).depth) := by
  unfold LanesClear AtWord; decide +kernel

/-- The same word with a third live thread of the squad outside the wave. -/
def Tests.twoOfThree : State :=
  { Tests.site with
    threads := Tests.site.threads.put 34 { Tests.thread 3 with inWave := false }
    agents := Tests.site.agents.put 3 (Agent.new ⟨true, false, 1, 1, 0⟩)
    squads := Tests.site.squads.adj 1 fun q => { q with present := [0, 1, 2] } }

theorem wit_exits : AtWord Tests.site ∧ (∀ u ∈ Tests.site.cur.threads, (thr Tests.site u).depth = 0) ∧ Tests.site.waits = [] ∧
    (∀ q ∈ squadsIn Tests.twoOfThree Tests.twoOfThree.cur.threads, (sqd Tests.twoOfThree q).entry = .none ∧
      ∃ u ∈ liveOf Tests.twoOfThree q, u ∉ Tests.twoOfThree.cur.threads) ∧
    squadsIn Tests.site Tests.site.cur.threads = [1] ∧ (∀ u ∈ liveOf Tests.site 1, u ∈ Tests.site.cur.threads) ∧
    (sqd Tests.site 1).entry = .none ∧ (sqd Tests.site 1).ended = false ∧ (sqd Tests.site 1).state = .resident ∧
    (sqd Tests.site 1).tile = [] := by
  unfold AtWord; decide +kernel

/-- The pieces of an access of each thread. -/
def Tests.pieces (s : State) (a : Access) (ea : Val DWord) (width : Nat) (u : Nat) : List Piece :=
  match threadTrans s u a (ea s false u) width with
  | .ok ps => ps
  | _ => []

/-- v0 of each thread is a word of the page at 0x20000: 0x20000 plus 0x100 for each agent. -/
def Tests.addressing : State :=
  Tests.withThread fun th => { th with
    v := (th.v.set 0 (BitVec.ofNat 32 (0x20000 + 256 * th.agent))).set 1 0
    shV := (th.shV.set 0 (BitVec.ofNat 32 (0x20000 + 256 * th.agent))).set 1 0 }

theorem wit_lane_accesses : LanesClear (.ldq true 124 (.v 0) .zero) Tests.addressing ∧ OwnAgents Tests.addressing ∧
    Tests.addressing.cur.threads ≠ [] ∧ (∀ u ∈ Tests.addressing.cur.threads,
      longAddress (.v 0) .zero Tests.addressing false u = longAddress (.v 0) .zero Tests.addressing true u ∧
      threadTrans Tests.addressing u .load (longAddress (.v 0) .zero Tests.addressing false u) 16 =
        .ok (Tests.pieces Tests.addressing .load (longAddress (.v 0) .zero) 16 u)) ∧
    LanesClear (.stb true 127 (.v 0) .zero) Tests.addressing ∧ (∀ u ∈ Tests.addressing.cur.threads,
      threadTrans Tests.addressing u .store (longAddress (.v 0) .zero Tests.addressing false u) 1 =
        .ok (Tests.pieces Tests.addressing .store (longAddress (.v 0) .zero) 1 u) ∧
      storeBytes Tests.addressing false u 127 1 = storeBytes Tests.addressing true u 127 1) := by
  unfold LanesClear AtWord OwnAgents; decide +kernel

/-- The local window of the launch is two units, and v0 is the lane. -/
def Tests.windowed : State :=
  modLaunch 1 (fun l => { l with hdr := { l.hdr with localUnits := 2 } })
    (Tests.withThread fun th => { th with v := th.v.set 0 0, shV := th.shV.set 0 0 })

theorem wit_window_accesses : (∀ u ∈ Tests.windowed.cur.threads, offsetLegal localWindow (.v 0) 0 16 Tests.windowed u ∧
      threadTrans Tests.windowed u .load (windowAddress 0xFFFFF00000000000 (.v 0) 0 16 Tests.windowed false u) 16 =
        .ok (Tests.pieces Tests.windowed .load (windowAddress 0xFFFFF00000000000 (.v 0) 0 16) 16 u)) ∧
    LanesClear (.sldq false 124 (.v 0) 0) Tests.windowed := by
  unfold LanesClear AtWord offsetLegal; decide +kernel

def Tests.piece (s : State) (a : Access) (ea : Val DWord) (width : Nat) (u : Nat) : Piece := (Tests.pieces s a ea width u).headD default

theorem wit_atomics : LanesClear (.acas 126 (.v 0) .zero) Tests.addressing ∧ OwnAgents Tests.addressing ∧ (∀ u ∈ Tests.addressing.cur.threads,
    threadTrans Tests.addressing u (.atomic .cas) (longAddress (.v 0) .zero Tests.addressing false u) 4 =
      .ok [Tests.piece Tests.addressing (.atomic .cas) (longAddress (.v 0) .zero) 4 u] ∧
    strictDead Tests.addressing (Tests.piece Tests.addressing (.atomic .cas) (longAddress (.v 0) .zero) 4 u).win = false ∧
    poisonIn Tests.addressing [Tests.piece Tests.addressing (.atomic .cas) (longAddress (.v 0) .zero) 4 u] = none ∧
    readV Tests.addressing false u 126 = readV Tests.addressing true u 126 ∧
    readV Tests.addressing false u 127 = readV Tests.addressing true u 127 ∧
    ∀ v ∈ Tests.addressing.cur.threads, squadOf v = squadOf u →
      (Tests.piece Tests.addressing (.atomic .cas) (longAddress (.v 0) .zero) 4 v).addr =
        (Tests.piece Tests.addressing (.atomic .cas) (longAddress (.v 0) .zero) 4 u).addr → v = u) := by
  unfold LanesClear AtWord OwnAgents; decide +kernel

theorem wit_atomic_groups : AtomOp.xor ≠ .fadd ∧ [(3 : Word)] ≠ [] ∧ [(31 : Nat), 0].Nodup ∧ (∀ k ∈ [(31 : Nat), 0], k < 32) := by decide

theorem wit_cross_lane : LanesClear (.shfl 127 (.v 0) (.s 63)) Tests.site ∧ (Tests.site.squads.get? 1).isSome ∧
    Tests.site.cur.threads ≠ [] ∧ (∀ u ∈ Tests.site.cur.threads, squadOf u = 1) ∧
    (∀ u ∈ liveOf Tests.site 1, u ∈ Tests.site.cur.threads) ∧ Tests.site.waits = [] ∧ (sqd Tests.site 1).state = .resident := by
  unfold LanesClear AtWord; decide +kernel

/-! ### Words of the squads that act on memory, queues, engines and objects (O18 to O27) -/

/-- The registers from s4 hold `d`. -/
def Tests.desc (d : List Word) : State :=
  Tests.withSquad fun q => { q with
    s := Vector.ofFn fun i => if i.val < 4 then Tests.squadRegs.getD i.val 0 else d.getD (i.val - 4) 0
    shS := Vector.ofFn fun i => if i.val < 4 then Tests.squadRegs.getD i.val 0 else d.getD (i.val - 4) 0 }

def Tests.rel : Ord := ⟨.device, true, true⟩

theorem wit_squad_memory : (∀ p ∈ Tests.site.cur.threads, laneOf 32 ≤ laneOf p) ∧ 32 ∈ Tests.site.cur.threads ∧
    Acts (.uldd true 62 2 0x3FF) 1 Tests.site ∧ Acts (.ustw true 63 2 0x400) 1 Tests.site ∧
    threadTrans Tests.site 32 .load (readS64 Tests.site false 1 2 + BitVec.ofInt 64 ((0x3FF : BitVec 11).toInt * 8)) 8 =
      .ok [⟨0x21FF8, 8, .rc, none⟩] ∧
    threadTrans Tests.site 32 .store (readS64 Tests.site false 1 2 + BitVec.ofInt 64 ((0x400 : BitVec 11).toInt * 4)) 4 =
      .ok [⟨0x1F000, 4, .rc, none⟩] :=
  ⟨by decide +kernel, by decide +kernel, wit_acts_of (by decide +kernel), wit_acts_of (by decide +kernel), by decide +kernel,
    by decide +kernel⟩

theorem wit_fence : Acts (.ufence Tests.rel) 1 Tests.site ∧ Tests.rel.rel = true ∧ Tests.rel.acq = true ∧ Tests.rel.scope ≠ .thread ∧
    Acts (.ufence ⟨.thread, true, true⟩) 1 Tests.site :=
  ⟨wit_acts_of (by decide +kernel), by decide, by decide, by decide, wit_acts_of (by decide +kernel)⟩

theorem wit_queue_words : 8 ≤ (15 : Fin 16).val ∧ (Tests.site.blocks.get? 1).isSome ∧ EarlierClaims Tests.site 1 ∧
    Acts (.qpush 15 63) 1 Tests.site ∧ Acts (.qpop 63 8) 1 Tests.site ∧ Acts (.qtry 0 7 8) 1 Tests.site :=
  ⟨by decide, by decide +kernel, by unfold EarlierClaims; decide +kernel, wit_acts_of (by decide +kernel),
    wit_acts_of (by decide +kernel), wit_acts_of (by decide +kernel)⟩

/-- q15 is full, and q8 holds one word, of three that a discarded stream claimed. -/
def Tests.q8Claimed : State := Tests.withBlock fun b => { b with
  data := (b.data.put 15 (List.replicate 256 7)).put 8 [9], claims := [⟨40, some 3, true⟩] }

theorem wit_claimed_words : EarlierClaims Tests.q8Claimed 1 ∧ ¬(wordsIn Tests.q8Claimed 1 15).length < queueCap 15 ∧
    (wordsIn Tests.q8Claimed 1 8).length < queueCap 8 ∧ (blk Tests.q8Claimed 1).claims.head? = some ⟨40, some 3, true⟩ ∧
    wordsClaimed Tests.q8Claimed 1 8 = some 3 ∧ Acts (.qpush 15 63) 1 Tests.q8Claimed ∧ Acts (.qpush 8 63) 1 Tests.q8Claimed ∧
    Acts (.qpop 63 8) 1 Tests.q8Claimed ∧ Acts (.qtry 0 7 8) 1 Tests.q8Claimed :=
  ⟨by unfold EarlierClaims; decide +kernel, by decide +kernel, by decide +kernel, by decide +kernel, by decide +kernel,
    wit_acts_of (by decide +kernel), wit_acts_of (by decide +kernel), wit_acts_of (by decide +kernel), wit_acts_of (by decide +kernel)⟩

/-- q15 holds two words. -/
def Tests.twoWords : State := Tests.withBlock fun b => { b with data := b.data.put 15 [7, 8] }

theorem wit_lane_queue_words : Ready Tests.twoWords ∧ Tests.twoWords.waits = [] ∧
    (∀ u ∈ Tests.twoWords.cur.threads, (sqd Tests.twoWords (squadOf u)).block = 1 ∧ (sqd Tests.twoWords (squadOf u)).state = .resident) ∧
    (Tests.twoWords.blocks.get? 1).isSome ∧ EarlierClaims Tests.twoWords 1 ∧ (∀ c ∈ (blk Tests.twoWords 1).claims, c.dropped = false) ∧
    Tests.twoWords.cur.threads.Pairwise (fun u v => laneOf u < laneOf v) ∧ LanesClear (.qpushv 15 127) Tests.twoWords ∧
    (∀ u ∈ Tests.twoWords.cur.threads, readV Tests.twoWords false u 127 = readV Tests.twoWords true u 127) ∧
    (wordsIn Tests.twoWords 1 15).length + Tests.twoWords.cur.threads.length ≤ queueCap 15 ∧
    LanesClear (.qpopv 0 15) Tests.twoWords ∧ Tests.twoWords.cur.threads.length ≤ (wordsIn Tests.twoWords 1 15).length := by
  unfold EarlierClaims Ready LanesClear AtWord OwnAgents; decide +kernel

/-- Descriptors of a load of planes from the local window, a drain of tile 1, a copy of one row, a gather and a fill. -/
def Tests.loading : State := Tests.desc [0, 0xFFFFF000, 0x10, 0]
def Tests.draining : State := Tests.desc [0x20000, 0, 0x01000001, 0]
def Tests.copying : State := Tests.desc [0x20000, 0, 0x30000, 0, 0x1000000, 0x100000, 0, 0]
def Tests.gathering : State := Tests.desc [0x20000, 0, 0, 0xFFFFF000, 65536, 65536, 0x30000, 0]
def Tests.filling : State := Tests.desc [0x20000, 0, 0x40000000, 0, 0, 0, 0, 0]

theorem wit_engine_pushes : Acts (.mxlds 4 .nq4 15 Tests.rel) 1 Tests.loading ∧
    mxldsCause ((List.range 4).map fun i => readS Tests.loading false 1 (4 + i)) = none ∧
    Acts (.mxswap 15) 1 Tests.site ∧ Acts (.mxdrn 63 4 0 Tests.rel) 1 Tests.draining ∧
    mxdrnCause Tests.draining 1 ((List.range 4).map fun i => readS Tests.draining false 1 (4 + i)) = none ∧
    Acts (.mxzero 1 0) 1 Tests.site ∧ 1 < (sqd Tests.site 1).tiles.length ∧
    Acts (.cpcopy 63 4 15 Tests.rel) 1 Tests.copying ∧
    cpcopyCause ((List.range 8).map fun i => readS Tests.copying false 1 (4 + i)) = none ∧
    Acts (.cpgath 63 4 15 Tests.rel) 1 Tests.gathering ∧ Acts (.cpscat 63 4 0 Tests.rel) 1 Tests.gathering ∧
    cpgathCause ((List.range 8).map fun i => readS Tests.gathering false 1 (4 + i)) = none ∧
    Acts (.cpfill 63 4 .b16 15 Tests.rel) 1 Tests.filling ∧
    cpfillCause 16 ((List.range 8).map fun i => readS Tests.filling false 1 (4 + i)) = none ∧
    (Tests.site.blocks.get? (sqd Tests.site 1).block).isSome :=
  ⟨wit_acts_of (by decide +kernel), by decide +kernel, wit_acts_of (by decide +kernel), wit_acts_of (by decide +kernel),
    by decide +kernel, wit_acts_of (by decide +kernel), by decide +kernel, wit_acts_of (by decide +kernel), by decide +kernel,
    wit_acts_of (by decide +kernel), wit_acts_of (by decide +kernel), by decide +kernel, wit_acts_of (by decide +kernel),
    by decide +kernel, by decide +kernel⟩

theorem wit_stream_push : LanesClear (.mxstr 1 (.v 127) 0 3 false true) Tests.site ∧ Ready Tests.site ∧ Tests.site.cur.threads ≠ [] ∧
    (∀ u ∈ Tests.site.cur.threads, squadOf u = 1 ∧ src Tests.site false u (.v 127) = src Tests.site true u (.v 127) ∧
      readV Tests.site false u 0 = readV Tests.site true u 0) ∧ (sqd Tests.site 1).state = .resident ∧
    (1 : Fin 8).val < (sqd Tests.site 1).tiles.length ∧ (blk Tests.site 1).q0.length < 16 := by
  unfold Ready LanesClear AtWord OwnAgents; decide +kernel

def Tests.holding (k : HoldKind) (key : Nat) : State :=
  Tests.withSquad fun q => { q with estate := [⟨k, 0x20000, key, 0, false⟩] }

theorem wit_storekeeper : (blk Tests.site 1).q4.length < 8 ∧ Acts (.alloc 62 63) 1 Tests.site ∧ estateCause Tests.site 1 = none ∧
    Acts (.free 2) 1 (Tests.holding .object 0x20000) ∧
    (∃ h ∈ (sqd (Tests.holding .object 0x20000) 1).estate, h.kind = .object ∧ h.handle = readS64 (Tests.holding .object 0x20000) false 1 2) ∧
    Acts (.fetch 62) 1 Tests.site ∧ (sqd Tests.site 1).tile = [] ∧ (blockHeader Tests.site 1).dimx ≠ 0 :=
  ⟨by decide +kernel, wit_acts_of (by decide +kernel), by decide +kernel, wit_acts_of (by decide +kernel), by decide +kernel,
    wit_acts_of (by decide +kernel), by decide +kernel⟩

/-- q4 is full, and the squad works on tile 2 of a launch with no dimension. -/
def Tests.storing : State := modSquad 1 (fun q => { q with tile := [2] })
  (modBlock 1 (fun b => { b with q4 := [1, 2, 3, 4, 5, 6, 7, 8], q6 := [3] }) (Tests.holding .object 0x20000))

theorem wit_full_storekeeper : ¬(blk Tests.storing 1).q4.length < 8 ∧ Acts (.alloc 62 63) 1 Tests.storing ∧
    estateCause Tests.storing 1 = none ∧ Acts (.free 2) 1 Tests.storing ∧
    (∃ h ∈ (sqd Tests.storing 1).estate, h.kind = .object ∧ h.handle = readS64 Tests.storing false 1 2) ∧
    Acts (.fetch 62) 1 Tests.storing ∧ NoneWaits Tests.storing ∧ (Tests.storing.launches.get? (sqd Tests.storing 1).lid).isSome ∧
    (sqd Tests.storing 1).tile = [2] ∧ (blk Tests.storing 1).q6 = [3] ∧ (blockHeader State.reset 0).dimx = 0 ∧
    (launchOf Tests.storing 1).hdr.order = 0 ∧ (0xFFFFFFFFFFFFFFFF : Nat) = 0xFFFFFFFFFFFFFFFF :=
  ⟨by decide +kernel, wit_acts_of (by decide +kernel), by decide +kernel, wit_acts_of (by decide +kernel), by decide +kernel,
    wit_acts_of (by decide +kernel), by unfold NoneWaits; decide +kernel, by decide +kernel⟩

/-- Both threads have arrived at barrier 15 in its present phase. -/
def Tests.arrived : State := Tests.withThread fun th => { th with arrivals := [(15, (0, (barOf Tests.site 1 15).phase))] }

/-- Both have an arrival in its past phase counted, and in the other state one still to be counted. -/
def Tests.passed : State := Tests.withThread fun th => { th with arrivals := [(15, (0, (barOf Tests.site 1 15).phase + 1))] }
def Tests.uncounted : State := Tests.withThread fun th => { th with arrivals := [(15, (1, (barOf Tests.site 1 15).phase + 1))] }

/-- A check on each thread of the word, for one of them. -/
theorem wit_arrivals_of {s : State} {n : Nat} {x : Nat × Nat} (h : (s.cur.threads.all fun u => (thr s u).arrivals.get? n == some x) = true)
    {u : Nat} (hu : u ∈ s.cur.threads) : (thr s u).arrivals.get? n = some x := by
  simpa using List.all_eq_true.1 h u hu

theorem wit_barriers : Acts (.bars 15) 1 Tests.site ∧ Acts (.bara 0) 1 Tests.site ∧ Acts (.barw 15) 1 Tests.site ∧
    (∀ u ∈ Tests.site.cur.threads, (thr Tests.site u).arrivals.get? 15 = none) ∧ Acts (.barw 15) 1 Tests.arrived ∧
    (∀ u ∈ Tests.arrived.cur.threads, ∃ k p, (thr Tests.arrived u).arrivals.get? 15 = some (k, p) ∧
      (0 < k ∨ p = (barOf Tests.arrived 1 15).phase)) ∧
    Acts (.barw 15) 1 Tests.uncounted ∧ (∀ u ∈ Tests.uncounted.cur.threads, ∃ k p,
      (thr Tests.uncounted u).arrivals.get? 15 = some (k, p) ∧ (0 < k ∨ p = (barOf Tests.uncounted 1 15).phase)) ∧
    Acts (.barw 15) 1 Tests.passed ∧ (∀ u ∈ Tests.passed.cur.threads, ∃ p,
      (thr Tests.passed u).arrivals.get? 15 = some (0, p) ∧ p ≠ (barOf Tests.passed 1 15).phase) ∧
    Acts .gbar 1 Tests.site ∧ (⟨40, 38, 0, [], []⟩ : Barrier).arrivals + 1 < 40 ∧ 40 ≤ (⟨40, 39, 0, [], []⟩ : Barrier).arrivals + 1 :=
  ⟨wit_acts_of (by decide +kernel), wit_acts_of (by decide +kernel), wit_acts_of (by decide +kernel), by decide +kernel,
    wit_acts_of (by decide +kernel), fun u hu => ⟨0, 0, wit_arrivals_of (by decide +kernel) hu, .inr (by decide +kernel)⟩,
    wit_acts_of (by decide +kernel), fun u hu => ⟨1, 1, wit_arrivals_of (by decide +kernel) hu, .inl (by decide)⟩,
    wit_acts_of (by decide +kernel), fun u hu => ⟨1, wit_arrivals_of (by decide +kernel) hu, by decide +kernel⟩,
    wit_acts_of (by decide +kernel), by decide⟩

/-- A launch with a local window, channel 15, and s4 and s5 for CHINIT. -/
def Tests.channels (c : Channel) : State :=
  modBlock 1 (fun b => { b with chans := b.chans.put 15 c })
    (modLaunch 1 (fun l => { l with hdr := { l.hdr with localUnits := 2 } }) (Tests.desc [0x100, 64]))

theorem wit_channels : Acts (.chinit 15 4 5) 1 (Tests.channels default) ∧
    chinitCause (Tests.channels default) 1 15 (readS (Tests.channels default) false 1 4) (readS (Tests.channels default) false 1 5) = none ∧
    Acts (.chpush 15 63) 1 (Tests.channels ⟨0x100, 2, 0, 1, 1, []⟩) ∧ (chanOf (Tests.channels ⟨0x100, 2, 0, 1, 1, []⟩) 1 15).cap ≠ 0 ∧
    (chanOf (Tests.channels ⟨0x100, 2, 0, 1, 1, []⟩) 1 15).allow ≠ 0 ∧ (chanOf (Tests.channels ⟨0x100, 2, 0, 2, 0, []⟩) 1 15).allow = 0 ∧
    Acts (.chpop 63 15) 1 (Tests.channels ⟨0x100, 2, 1, 1, 1, []⟩) ∧ (chanOf (Tests.channels ⟨0x100, 2, 1, 1, 1, []⟩) 1 15).count ≠ 0 ∧
    scratchKey (Tests.channels ⟨0x100, 2, 1, 1, 1, []⟩) 1 0x100 4 = some (localKey 1 0 0x104) ∧
    (∀ u ∈ Tests.site.cur.threads, (agt (Tests.channels ⟨0x100, 2, 1, 1, 1, []⟩) (thr (Tests.channels ⟨0x100, 2, 1, 1, 1, []⟩) u).agent).all = []) ∧
    (cor Tests.site (sqd Tests.site 1).core).pending = [] ∧ (chanOf (Tests.channels ⟨0x100, 2, 1, 0, 2, []⟩) 1 15).count = 0 ∧
    Acts (.chpop 63 15) 1 (Tests.channels ⟨0x100, 2, 1, 0, 2, []⟩) :=
  ⟨wit_acts_of (by decide +kernel), by decide +kernel, wit_acts_of (by decide +kernel), by decide +kernel, by decide +kernel,
    by decide +kernel, wit_acts_of (by decide +kernel), by decide +kernel, by decide +kernel, by decide +kernel, by decide +kernel,
    by decide +kernel, wit_acts_of (by decide +kernel)⟩

def Tests.armed : State := Tests.withBlock fun b => { b with guards := [(15, .armed 4)], armings := 5 }

theorem wit_guards : Acts (.garm 15) 1 Tests.site ∧ guardOf Tests.site 1 15 = .opened ∧ Acts (.gres 15 7) 1 Tests.armed ∧
    guardOf Tests.armed 1 15 = .armed 4 :=
  ⟨wit_acts_of (by decide +kernel), by decide +kernel, wit_acts_of (by decide +kernel), by decide +kernel⟩

theorem wit_objects : refCause Tests.site 1 2 (.cell true) 8 = none ∧ Acts (.lkacq 2 Tests.rel) 1 Tests.site ∧
    Acts (.lktry 7 2 Tests.rel) 1 Tests.site ∧ estateCause Tests.site 1 = none ∧
    Acts (.lkrel 2 Tests.rel) 1 (Tests.holding .lock 0x20000) ∧
    holds (Tests.holding .lock 0x20000) 1 .lock (refOf (Tests.holding .lock 0x20000) 1 2 (.cell true) 8).key = true ∧
    refCause Tests.site 1 2 (.cell true) 16 = none ∧ Acts (.prmake 2) 1 Tests.site ∧
    heldPromise Tests.site 1 (refOf Tests.site 1 2 (.cell true) 16).key = false ∧
    Acts (.prset 2 62 Tests.rel) 1 (Tests.holding .promise 0x20000) ∧
    holds (Tests.holding .promise 0x20000) 1 .promise (refOf (Tests.holding .promise 0x20000) 1 2 (.cell true) 16).key = true ∧
    refCause Tests.site 1 2 (.cell false) 16 = none ∧ Acts (.prwait 62 7 2 Tests.rel) 1 Tests.site ∧
    refCause Tests.site 1 2 (.signal false) 8 = none ∧ Acts (.waitsig 2 62 Tests.rel) 1 Tests.site ∧
    refCause Tests.site 1 2 (.signal true) 8 = none ∧ Acts (.sigadd 2 62 Tests.rel) 1 Tests.site :=
  ⟨by decide +kernel, wit_acts_of (by decide +kernel), wit_acts_of (by decide +kernel), by decide +kernel,
    wit_acts_of (by decide +kernel), by decide +kernel, by decide +kernel, wit_acts_of (by decide +kernel), by decide +kernel,
    wit_acts_of (by decide +kernel), by decide +kernel, by decide +kernel, wit_acts_of (by decide +kernel), by decide +kernel,
    wit_acts_of (by decide +kernel), by decide +kernel, wit_acts_of (by decide +kernel)⟩

theorem wit_estates : Acts (.setheir 63) 1 Tests.site ∧ Acts (.inherit 62) 1 Tests.site ∧ (62 : Fin 64).val % 2 = 0 ∧
    Acts (.inheritNb 62 7) 1 Tests.site ∧ Acts (.publish 9) 1 Tests.site ∧ publishCause Tests.site 1 (readS Tests.site false 1 9) = none :=
  ⟨wit_acts_of (by decide +kernel), wit_acts_of (by decide +kernel), by decide, wit_acts_of (by decide +kernel),
    wit_acts_of (by decide +kernel), by decide +kernel⟩

theorem wit_traps : Acts (.trap 0x7FF) 1 Tests.site ∧ Tests.site.cur.slow = false ∧ (sqd Tests.site 1).handler = true ∧
    (sqd Tests.site 1).entry = .none ∧ claimed Tests.site (sqd Tests.site 1).lid 0x10 = false ∧
    claimed Tests.site (sqd Tests.site 1).lid 0x11 = false ∧ (∀ u ∈ liveOf Tests.site 1, u ∈ Tests.site.cur.threads) ∧
    (∀ u ∈ Tests.site.cur.threads, u ∈ liveOf Tests.site 1) ∧ entryPending Tests.site 1 = false ∧
    (curWave Tests.site).all = Tests.site.cur.threads ∧ (curWave Tests.site).threads = Tests.site.cur.threads ∧
    (0xFFFFFFFF : Word).getLsbD 30 = true ∧ claimed Tests.site (sqd Tests.site 1).lid 0x01 = false ∧
    (∀ u ∈ Tests.site.cur.threads, (thr Tests.site u).deny = none) :=
  ⟨wit_acts_of (by decide +kernel), by decide +kernel⟩

theorem wit_handler_return : Acts .hret 1 (Tests.withSquad fun q => { q with entry := .inProgress }) ∧
    (sqd (Tests.withSquad fun q => { q with entry := .inProgress }) 1).entry = .inProgress ∧ (sqd Tests.site 1).deferred = [] ∧
    (∀ u ∈ Tests.site.cur.threads, (thr Tests.site u).mark = false) :=
  ⟨wit_acts_of (by decide +kernel), by decide +kernel⟩

theorem wit_special_writes : Acts (.srw 0x10 63) 1 Tests.site ∧ Acts (.srw 0xBF 0) 1 Tests.site ∧
    (∀ n ∈ (sqd Tests.site 1).present, n < 32 ∧ (Tests.site.threads.get? (threadKey 1 n)).isSome) :=
  ⟨wit_acts_of (by decide +kernel), wit_acts_of (by decide +kernel), by decide +kernel⟩

theorem wit_unimplemented : Tests.site.cur.slow = false ∧ (0xBFFFFFFF : Word).getLsbD 30 = false ∧
    ((cor Tests.site 0).slots.get? 0).isSome ∧ decode 0xBFFFFFFF = .error .majorReserved ∧
    decode 0x7F800003 = .ok .exit ∧ endsRun .exit = true := by decide +kernel

/-! ### The Porters, and the moves of the ordering machine (O28 to O33) -/

/-- Porter 0 at a word, with x1 and x2 set, and queue 0 enabled and mapped with the chains given. -/
def Tests.porter (x y : Word) (f : Porter → Porter) (avail fetched : List (Nat × List (DWord × Nat × Nat))) : State :=
  modQueue 0 (fun k => { k with enabled := true, mapped := true, avail := avail, fetched := fetched })
    (modPorter 0 (fun k => f { k with halted := false, x := (k.x.set 1 x).set 2 y }) { Tests.site with cur := ⟨0, 0, [], 0, 0, false⟩ })

theorem wit_porter_fields : Tests.site.cur.core = 0 ∧ (31 : Fin 32).val + ((0 : Fin 32).val + 1) ≤ 32 ∧ (0 : Fin 32).val + ((31 : Fin 32).val + 1) ≤ 32 ∧
    32 < (31 : Fin 32).val + ((1 : Fin 32).val + 1) ∧ (3 : Fin 4).val ≠ 0 ∧
    (porterOf (modPorter 0 (fun k => { k with halted := true, image := [1] }) Tests.site) 0).halted = true ∧
    (porterOf (modPorter 0 (fun k => { k with halted := true, image := [1] }) Tests.site) 0).image ≠ [] ∧
    (porterOf (Tests.porter 0 0 (fun k => { k with inException := true }) [] []) 0).halted = false ∧
    (porterOf (Tests.porter 0 0 (fun k => { k with inException := true, mcause := 31 }) [] []) 0).inException = true ∧
    (porterOf (Tests.porter 0 0 (fun k => { k with inException := true, mcause := 31 }) [] []) 0).reported = false ∧
    (24 : Nat) ≤ (31 : Word).toNat ∧ (31 : Word).toNat < 32 ∧ (27 : Word).toNat < 32 ∧
    (porterOf (Tests.porter 0 0 (fun k => { k with mtvec := 3, image := natLe 8 0 }) [] []) 0).mtvec ≠ 0 ∧
    fieldAt (porterOf (Tests.porter 0 0 (fun k => { k with mtvec := 3, image := natLe 8 0 }) [] []) 0).image 7 1 = 0 ∧
    fieldAt (porterOf (Tests.porter 0 0 (fun k => { k with mtvec := 3, image := natLe 8 (2 ^ 56) }) [] []) 0).image 7 1 ≠ 0 := by decide +kernel

theorem wit_porter_queues : (Tests.porter 0 0 id [] []).cur.core = 0 ∧ (porterOf (Tests.porter 0 0 id [] []) 0).get 1 = 0 ∧
    (queueOf (Tests.porter 0 0 id [] []) 0).enabled = true ∧ queueUp (Tests.porter 0 0 id [] []) 0 = true ∧
    (queueOf (Tests.porter 0 0 id [] []) 0).avail = [] ∧
    (queueOf (Tests.porter 0 0 id [(7, [(0x5000, 16, 2)])] []) 0).avail = [(7, [(0x5000, 16, 2)])] ∧ chainFault (Tests.porter 0 0 id [(7, [(0x5000, 16, 2)])] []) 0 (7, [(0x5000, 16, 2)]) = none ∧
    (porterOf (Tests.porter 0x70000 5 id [] [(7, [])]) 0).get 1 = 0x70000 ∧
    ((0x70000 : Word).toNat / 2 ^ 16, []) ∈ (queueOf (Tests.porter 0x70000 5 id [] [(7, [])]) 0).fetched ∧
    (queueOf (Tests.porter 0x70000 5 id [] [(7, [])]) 0).lost = false := by decide +kernel

theorem wit_porter_waits : (porterOf (Tests.porter 15 0 id [] []) 0).get 1 = 15 ∧ (15 : Word).toNat % 32 < 16 ∧
    (porterOf (Tests.porter 15 0 id [] []) 0).get 2 = 0 ∧ (porterOf (Tests.porter 31 0x3FFF0 id [] []) 0).get 2 = 0x3FFF0 ∧
    16 ≤ (31 : Word).toNat % 32 ∧ (0x3FFF0 : Word).toNat % 8 = 0 ∧ (0x3FFF0 : Word).toNat + 16 ≤ 256 * 1024 ∧
    (∃ n ∈ (porterOf (Tests.porter 0x80000000 0 (fun k => { k with fired := [31] }) [] []) 0).fired, n < 32 ∧ (0x80000000 : Word).getLsbD n = true) ∧
    (∀ n ∈ (porterOf (Tests.porter 1 0 (fun k => { k with fired := [31], armed := [0] }) [] []) 0).fired, ¬(n < 32 ∧ (1 : Word).getLsbD n = true)) ∧
    (∃ n ∈ (porterOf (Tests.porter 1 0 (fun k => { k with fired := [31], armed := [0] }) [] []) 0).armed, n < 32 ∧ (1 : Word).getLsbD n = true) := by
  decide +kernel

/-- Launch 1 of queue 0 stands at stage 5 with a header of zeros. -/
def Tests.staged : State :=
  modLaunch 1 (fun l => { l with stage := 5, queue := 0, raw := List.replicate 512 0, part := 0 }) (Tests.porter 0x3FE00 0 id [] [])

theorem wit_porter_dispatch : (porterOf Tests.staged 0).get 1 = 0x3FE00 ∧ (0x3FE00 : Word).toNat % 64 = 0 ∧
    (0x3FE00 : Word).toNat + 512 ≤ 256 * 1024 ∧
    (stagedWith Tests.staged 0 (readBytes Tests.staged (sramKey 0 0x3FE00) 512)).head? = some 1 ∧ (Tests.staged.launches.get? 1).isSome ∧
    (porterOf (Tests.porter 1 0 id [] []) 0).get 1 = 1 ∧
    some (launchOf { Tests.porter 1 0 id [] [] with functions := [(1, { Function.reset with groups := [0] })] } 1).part =
      partOfQueue { Tests.porter 1 0 id [] [] with functions := [(1, { Function.reset with groups := [0] })] } 0 := by decide +kernel

theorem wit_memory : Tests.site.Canonical ∧ ¬(0x20000 ≤ 0x20004 ∧ 0x20004 < 0x20000 + [(1 : Byte), 2, 3, 4].length) ∧
    (natLe 2 0x1234)[1]? = some (0x12 : Byte) := by unfold State.Canonical; decide +kernel

/-- Agent 1 has an entry of the kind given in its RC pool. -/
def Tests.entry (k : EntryKind) : State :=
  modAgent 1 (fun g => { g with rc := [⟨0, 5, k, [], false, none, 0x20100, 0, 0x10000, none, 0⟩], nextSeq := 1, nextSid := 6 }) Tests.site

/-- An access through no window. -/
theorem wit_quiet_none (s : State) : Quiet s none := fun _ h => nomatch h

theorem wit_store_leaves : (Tests.entry (.store 0x20100 [1, 2] .rc)).Canonical ∧
    entryOf (Tests.entry (.store 0x20100 [1, 2] .rc)) 1 5 = some ⟨0, 5, .store 0x20100 [1, 2] .rc, [], false, none, 0x20100, 0, 0x10000, none, 0⟩ ∧
    mayLeave (agt (Tests.entry (.store 0x20100 [1, 2] .rc)) 1) ⟨0, 5, .store 0x20100 [1, 2] .rc, [], false, none, 0x20100, 0, 0x10000, none, 0⟩ = true ∧
    lanesBefore (Tests.entry (.store 0x20100 [1, 2] .rc)) 1 ⟨0, 5, .store 0x20100 [1, 2] .rc, [], false, none, 0x20100, 0, 0x10000, none, 0⟩ = true ∧
    winDead Tests.site none = false ∧ Quiet (Tests.entry (.store 0x20100 [1, 2] .rc)) none ∧ coreStop (agt (Tests.entry (.store 0x20100 [1, 2] .rc)) 1).place .rc 0x20100 = true ∧
    coreStop (agt (Tests.entry (.store (localKey 1 0 0) [1, 2] .rc)) 1).place .rc (localKey 1 0 0) = false ∧
    snapshotDue (Tests.entry (.store (localKey 1 0 0) [1, 2] .rc)) 1 (localKey 1 0 0) 2 = false :=
  ⟨by unfold State.Canonical; decide +kernel, by decide +kernel, by decide +kernel, by decide +kernel, by decide +kernel,
    wit_quiet_none _, by decide +kernel⟩

/-- A window of another device, with a port up and no injector. -/
theorem wit_quiet : Quiet { Tests.site with ports := [(2, { (default : Port) with up := true })], devnum := 7 } (some ⟨0, 3, 0, false⟩) :=
  fun _ _ => .inr (by decide +kernel)

/-- Core 0 has one pending store, and agent 1 one release that nothing holds back. -/
def Tests.pending : State :=
  modCore 0 (fun c => { c with pending := [⟨(1, 5), 0x20100, [1, 2], false, [], false, 0x20100, 0, none⟩] })
    { Tests.site with pendRels := [(50, ⟨1, .thread, 0, 0, false, 51⟩)], syncs := [(51, ⟨[50], [50], .fence, false, none⟩)] }

theorem wit_carry_and_release : Tests.pending.Canonical ∧
    (cor Tests.pending 0).pending.find? (fun x => x.sid == (1, 5) && x.addr == 0x20100) = some ⟨(1, 5), 0x20100, [1, 2], false, [], false, 0x20100, 0, none⟩ ∧
    (∀ x ∈ (cor Tests.pending 0).pending.takeWhile (fun x => !(x.sid == (1, 5) && x.addr == 0x20100)),
      overlaps x.addr x.bytes.length 0x20100 2 = false) ∧ snapshotDue Tests.pending 1 0x20100 2 = false ∧ winDead Tests.pending none = false ∧ Quiet Tests.pending none ∧
    (∀ p ∈ (cor Tests.pending 0).pending, overlaps p.addr p.bytes.length 0x20102 1 = false) ∧
    Tests.pending.pendRels.get? 50 = some ⟨1, .thread, 0, 0, false, 51⟩ ∧
    releaseReady Tests.pending 50 ⟨1, .thread, 0, 0, false, 51⟩ = true ∧
    (Tests.pending.syncs.get? 51).map (fun z => (z.left, z.rels, z.op, z.moves)) = some ([50], [50], .fence, false) :=
  ⟨by unfold State.Canonical; decide +kernel, by decide +kernel, by decide +kernel, by decide +kernel, by decide +kernel,
    wit_quiet_none _, by decide +kernel⟩

/-- Agent 1 has a load of 16 bytes to v124 issued. -/
def Tests.load : Load := ⟨3, 9, 0xFFFC, 0, 0x20100, 16, 4, .v 32 124, [⟨0x20100, 16, .rc, none⟩], []⟩
def Tests.loads : State := modAgent 1 (fun g => { g with loads := [Tests.load], nextSeq := 4 }) Tests.site

theorem wit_load_performs : (agt Tests.loads 1).loads.find? (fun l => l.seq == 3) = some Tests.load ∧ threadOfAgent Tests.loads 1 = some 32 ∧
    Tests.load.word.getLsbD 30 = false ∧ 124 + (Tests.load.width + 3) / 4 ≤ 128 ∧
    Tests.load.left = [(0, ⟨0x20100, 16, .rc, none⟩)] ∧
    (Tests.load.left.filter fun x => pieceReady Tests.loads 1 Tests.load x.2 && !inRefresh Tests.loads x.2.addr x.2.len) =
      [(0, ⟨0x20100, 16, .rc, none⟩)] ∧ winDead Tests.loads none = false ∧ Quiet Tests.loads none ∧
    (∀ b ∈ loadPiece Tests.loads 1 Tests.load.seq ⟨0x20100, 16, .rc, none⟩, b.poison = false ∧ b.dead = false) ∧
    slotOf Tests.loads 32 = some 0 ∧
    ((cor Tests.loads (sqd Tests.loads (squadOf 32)).core).slots.getD 0 default).ending = [] ∧
    (thr Tests.loads 32).live = true ∧ (Tests.loads.threads.get? 32).isSome ∧
    (agt Tests.loads 1).all = [] ∧ (cor Tests.loads (agt Tests.loads 1).place.core).copies = [] :=
  ⟨by decide +kernel, by decide +kernel, by decide +kernel, by decide +kernel, by decide +kernel, by decide +kernel, by decide +kernel,
    wit_quiet_none _, by decide +kernel⟩

/-- A load across two pages, whose second part waits for an SO store of its thread; and one whose second part is performed. -/
def Tests.split (got : Tbl (List ReadByte)) : Load :=
  { Tests.load with pieces := [⟨0x20100, 8, .rc, none⟩, ⟨0x21000, 8, .so, none⟩], got := got }
def Tests.splits (got : Tbl (List ReadByte)) : State := modAgent 1 (fun g => { g with
  loads := [Tests.split got], nextSeq := 4, so := [⟨1, 5, .store 0x22000 [1] .so, [], false, none, 0x22000, 0, 0x10000, none, 0⟩] }) Tests.site

theorem wit_load_part :
    ((Tests.split []).left.filter fun x => pieceReady (Tests.splits []) 1 (Tests.split []) x.2 && !inRefresh (Tests.splits []) x.2.addr x.2.len) =
      [(0, ⟨0x20100, 8, .rc, none⟩)] ∧ (Tests.split []).left ≠ [(0, ⟨0x20100, 8, .rc, none⟩)] ∧
    (agt (Tests.splits []) 1).loads.find? (fun l => l.seq == 3) = some (Tests.split []) ∧ threadOfAgent (Tests.splits []) 1 = some 32 ∧
    slotOf (Tests.splits []) 32 = some 0 ∧ winDead (Tests.splits []) none = false ∧
    ((cor (Tests.splits []) (sqd (Tests.splits []) (squadOf 32)).core).slots.getD 0 default).ending = [] ∧
    (Tests.split [(1, [])]).left = [(0, ⟨0x20100, 8, .rc, none⟩)] := by decide +kernel

def Tests.cas : EntryKind := .atomic .cas 0x20100 1 2 (.v 32 127) 0 0 .rc

theorem wit_atomic_performs : (Tests.entry Tests.cas).Canonical ∧
    entryOf (Tests.entry Tests.cas) 1 5 = some ⟨0, 5, Tests.cas, [], false, none, 0x20100, 0, 0x10000, none, 0⟩ ∧
    atomGroup (Tests.entry Tests.cas) 0x20100 0 = [⟨1, ⟨0, 5, Tests.cas, [], false, none, 0x20100, 0, 0x10000, none, 0⟩⟩] ∧
    ((Tests.entry Tests.cas).threads.get? 32).isSome ∧ (thr (Tests.entry Tests.cas) 32).live = true ∧ winDead (Tests.entry Tests.cas) none = false ∧
    atomicReady (Tests.entry Tests.cas) 0x20100 [⟨1, ⟨0, 5, Tests.cas, [], false, none, 0x20100, 0, 0x10000, none, 0⟩⟩] = true ∧
    poisonIn (Tests.entry Tests.cas) [⟨0x20100, 4, .rc, none⟩] = none ∧ Quiet (Tests.entry Tests.cas) none :=
  ⟨by unfold State.Canonical; decide +kernel, by decide +kernel, by decide +kernel, by decide +kernel, by decide +kernel,
    by decide +kernel, by decide +kernel, by decide +kernel, wit_quiet_none _⟩

/-- What holds of a table's default and of each of its entries holds of what it reads as. -/
theorem wit_table_of {α : Type} {p : α → Prop} {d : α} (hd : p d) (t : Tbl α) (h : ∀ e ∈ t, p e.2) (k : Nat) : p (t.getD k d) := by
  induction t with
  | nil => exact hd
  | cons e r ih =>
    have ht := ih fun x hx => h x (List.mem_cons_of_mem _ hx)
    by_cases hk : e.1 = k
    · simpa [Tbl.getD, Tbl.get?, hk] using h e List.mem_cons_self
    · simpa [Tbl.getD, Tbl.get?, hk] using ht

theorem wit_effects : (Tests.channels ⟨0x100, 2, 0, 1, 0, []⟩).Canonical ∧ (Tests.channels ⟨0x100, 2, 0, 1, 0, []⟩).waits = [] ∧
    (∀ e ∈ (Tests.channels ⟨0x100, 2, 0, 1, 0, []⟩).launches, e.2.eligible = false ∧ 6 ≤ e.2.stage) ∧
    ((Tests.channels ⟨0x100, 2, 0, 1, 0, []⟩).threads.get? 32).isSome ∧ ((Tests.channels ⟨0x100, 2, 0, 1, 0, []⟩).blocks.get? 1).isSome ∧
    scratchKey (Tests.channels ⟨0x100, 2, 0, 1, 0, []⟩) 1 0x100 4 = some (localKey 1 0 0x104) ∧
    (sqd (Tests.channels ⟨0x100, 2, 0, 1, 0, []⟩) 1).lid < 2 ^ 32 ∧
    ∀ c, (cor (Tests.channels ⟨0x100, 2, 0, 1, 0, []⟩) c).pending = [] :=
  ⟨by unfold State.Canonical; decide +kernel, by decide +kernel, by decide +kernel, by decide +kernel, by decide +kernel,
    by decide +kernel, by decide +kernel, wit_table_of (p := fun k : Core => k.pending = []) rfl _ (by decide +kernel)⟩

/-! ### Launches, rows and picks (O34 to O39) -/

/-- The header of a launch of one cluster at 0x70000, with barriers of 512 and one squad of one thread; its code object at 0x80000. -/
def Tests.header : List Byte :=
  natLe 2 1 ++ natLe 2 512 ++ natLe 4 0 ++ natLe 8 0x80000 ++ List.replicate 32 0 ++ natLe 8 0 ++ natLe 4 0 ++ natLe 4 0 ++ natLe 2 1 ++
  natLe 1 7 ++ natLe 1 0 ++ natLe 2 0 ++ natLe 2 0 ++ List.replicate 24 0 ++ List.replicate 16 0 ++ natLe 2 512 ++ List.replicate 30 0 ++
  List.replicate 64 0 ++ natLe 8 0x8004C ++ natLe 8 0 ++ natLe 1 16 ++ natLe 1 1 ++ natLe 1 1 ++ natLe 5 0 ++ List.replicate 280 0

def Tests.codeHeader : List Byte := natLe 4 0x4F435A44 ++ natLe 8 0 ++ natLe 4 16 ++ List.replicate 48 0

/-- Queue `q` has one chain, buffer 7: a command of the body given, and a writable part of 16 bytes. -/
def Tests.inHand (q opcode : Nat) (body : List Byte) (s : State) : State :=
  writeBytes (hostKey 0x5000) (natLe 2 opcode ++ natLe 2 0 ++ natLe 4 body.length ++ natLe 8 0x77 ++ body)
    (modQueue q (fun k => { k with
      enabled := true, mapped := true, avail := [(7, [(0x5000, 16 + body.length, 0), (0x6000, 16, 2)])] }) s)

/-- Porter 0 with that header in its SRAM, which no launch of its queue 0 has. -/
def Tests.dispatching : State :=
  writeBytes (sramKey 0 0x3FE00) Tests.header (writeBytes 0x80000 Tests.codeHeader
    (modPart 0 (fun p => { p with saveSize := 0x8000 }) (Tests.porter 0x3FE00 0 id [] [])))

theorem wit_porter_new_launch : (porterOf Tests.dispatching 0).get 1 = 0x3FE00 ∧
    readBytes Tests.dispatching (sramKey 0 0x3FE00) 512 = Tests.header ∧ stagedWith Tests.dispatching 0 Tests.header = [] ∧
    (Tests.dispatching.contexts.find? (fun e => e.2.part == (partOfQueue Tests.dispatching 0).getD 0)).map (·.1) = some 1 ∧
    checkHeader Tests.dispatching (fnOfQueue Tests.dispatching 0) ((partOfQueue Tests.dispatching 0).getD 0)
      (hubView Tests.dispatching 1) (headerOf Tests.header).code.toNat Tests.header = none ∧
    headerPages Tests.dispatching (hubView Tests.dispatching 1) (headerOf Tests.header) none = [] := by
  and_intros <;> decide +kernel

/-- The command's chain has been taken, and it has started. -/
def Tests.begun (c : CmdId) (s : State) : State := markStarted c (takeChain c s)

theorem wit_inHand_of {c : CmdId} {r : CmdRule} {s : State}
    (h : (cmdReady (takeChain c s) c r && (refusal (takeChain c s) c r).isNone) = true) : InHand c r s (Tests.begun c s) := by
  simp only [Bool.and_eq_true, Option.isNone_iff_eq_none] at h
  exact ⟨takeChain c s, rfl, h.1, h.2, rfl⟩

def Tests.launching : State :=
  Tests.inHand 17 1 (natLe 8 0x70000 ++ natLe 4 1 ++ natLe 4 0) (writeBytes 0x80000 Tests.codeHeader (writeBytes 0x70000 Tests.header
    (modPart 0 (fun p => { p with saveSize := 0x8000 }) Tests.site)))

def Tests.launching' : State := Tests.begun (17, 7) Tests.launching
def Tests.headerAt : List Piece := [⟨0x70000, 512, .rc, none⟩]

theorem wit_launch : InHand (17, 7) ruleLaunch Tests.launching Tests.launching' ∧ argAt Tests.launching' (17, 7) 0 8 % 64 = 0 ∧
    ContextOk Tests.launching' (17, 7) 8 ∧ ZeroField Tests.launching' (17, 7) 12 4 ∧
    rangeOf Tests.launching' (hubView Tests.launching' (argAt Tests.launching' (17, 7) 8 4)) false (argAt Tests.launching' (17, 7) 0 8) 512 =
      .ok Tests.headerAt ∧
    checkHeader Tests.launching' (fnOfQueue Tests.launching' 17)
      (Tests.launching'.contexts.getD (argAt Tests.launching' (17, 7) 8 4) default).part
      (hubView Tests.launching' (argAt Tests.launching' (17, 7) 8 4)) (argAt Tests.launching' (17, 7) 0 8)
      (readPieces Tests.launching' Tests.headerAt) = none := by
  refine ⟨wit_inHand_of (by decide +kernel), by decide +kernel, ?_, ?_, by decide +kernel, by decide +kernel⟩
  · unfold ContextOk; decide +kernel
  · unfold ZeroField; decide +kernel

/-- Launch 1 at stage 3, its code object's digest recorded as given. -/
def Tests.measuring (d : List Byte) : State :=
  writeBytes 0x80000 Tests.codeHeader (modLaunch 1 (fun l => { l with
    stage := 3, ctx := 1, hdr := { l.hdr with flags := 0, code := 0x80000, digest := d } }) Tests.site)

def Tests.measured : State := Tests.measuring (shake (Tests.codeHeader ++ List.replicate 64 0))

theorem wit_measured : (Tests.measured.launches.get? 1).isSome ∧ (launchOf Tests.measured 1).stage = 3 ∧
    (launchOf Tests.measured 1).ended = false ∧ (launchOf Tests.measured 1).hdr.receipt = false ∧
    codeObject Tests.measured (hubView Tests.measured (launchOf Tests.measured 1).ctx) (launchOf Tests.measured 1).hdr = some ⟨16, 0, 0, 0⟩ ∧
    rangeOf Tests.measured (hubView Tests.measured (launchOf Tests.measured 1).ctx) false (launchOf Tests.measured 1).hdr.code.toNat
      (⟨16, 0, 0, 0⟩ : CodeObject).digested = .ok [⟨0x80000, 128, .rc, none⟩] ∧
    rangeOf Tests.measured (hubView Tests.measured (launchOf Tests.measured 1).ctx) false (launchOf Tests.measured 1).hdr.args.toNat
      (launchOf Tests.measured 1).hdr.argsize = .ok [] :=
  by and_intros <;> decide +kernel

theorem wit_measuring_digest (d : List Byte) : (launchOf (Tests.measuring d) 1).hdr.digest = d := by
  simp only [launchOf, Tests.measuring, writeBytes_launches, modLaunch]
  rw [Tbl.getD_adj_self (by decide +kernel)]

theorem wit_digest_matches : readPieces Tests.measured [⟨0x80000, 128, .rc, none⟩] = Tests.codeHeader ++ List.replicate 64 0 ∧
    (launchOf Tests.measured 1).hdr.digest = shake (Tests.codeHeader ++ List.replicate 64 0) :=
  ⟨by decide +kernel, wit_measuring_digest _⟩

theorem wit_digest_differs : shake (readPieces (Tests.measuring []) [⟨0x80000, 128, .rc, none⟩]) ≠ (launchOf (Tests.measuring []) 1).hdr.digest ∧
    codeObject (Tests.measuring []) (hubView (Tests.measuring []) (launchOf (Tests.measuring []) 1).ctx) (launchOf (Tests.measuring []) 1).hdr =
      some ⟨16, 0, 0, 0⟩ := by decide +kernel

/-- Launch 1 waits at the head of FIFO 7 for one cluster, with a barrier of 512 in its header. -/
def Tests.binding : State :=
  modLaunch 1 (fun l => { l with stage := 6, blocks := [], gangs := [], clusters := [], hdr := { l.hdr with clusters := 1, set := 1, prio := 7, bars := [512] } })
    { Tests.site with fifos := [(7, [1])], blocks := [], gangs := [], squads := [], cores := [], holds := [(1, 5)] }

theorem wit_bind : (∃ h ∈ Tests.binding.holds, h.1 = 1) ∧ headLaunch Tests.binding = some 1 ∧ (Tests.binding.launches.get? 1).isSome ∧
    (partOf Tests.binding (launchOf Tests.binding 1).part).frozen = false ∧ chooseClusters Tests.binding (launchOf Tests.binding 1) = some [0] ∧
    (∀ c ∈ clusterCores 0, (cor Tests.binding c).rows = []) ∧ Tests.binding.blocks = [] ∧ Tests.binding.gangs = [] :=
  by and_intros <;> decide +kernel

/-- Launch 1 is held at stage 5. -/
def Tests.heldBack : State := modLaunch 1 (fun l => { l with stage := 5 }) { Tests.site with holds := [(1, 5)] }

theorem wit_hold : (∃ h ∈ Tests.heldBack.holds, h.1 = 1) ∧
    (∀ h ∈ Tests.heldBack.holds, (launchOf Tests.heldBack h.1).part = (launchOf Tests.heldBack 1).part → h.1 = 1) ∧
    (launchOf Tests.heldBack 1).stage = 5 ∧ (launchOf Tests.heldBack 1).ended = false ∧
    mayQueue Tests.heldBack (launchOf Tests.heldBack 1) = true := by decide +kernel

/-- A block of launch 1 waits on core 1, none of its squads being loaded. -/
def Tests.waitingBlock : State :=
  modPart 0 (fun p => { p with save := 0x1000000, saveSize := 0x100000 })
    { Tests.site with blocks := Tests.site.blocks.put 2 { (blk Tests.site 1) with core := 1, order := 1 } }

/-- Where some area can be given, one is given, whichever the free choice is. -/
theorem wit_area_of {pt n : Nat} {s : State} (h : (lowestArea (partOf s pt) n).isSome) : ∃ a, takeAreas pt [n] s =
    some ([a], modPart pt (fun p => { p with areas := p.areas ++ [(a, n)] }) { s with fresh := s.fresh + 1 }) := by
  obtain ⟨a, ha⟩ := Option.isSome_iff_exists.mp h
  obtain ⟨c, hc⟩ : ∃ c, freeArea (partOf s pt) n (Config.freeNat s.fresh) = some c := by
    simp only [freeArea]
    split
    · exact ⟨_, rfl⟩
    · exact ⟨a, ha⟩
  simp only [takeAreas, hc]
  exact ⟨c, rfl⟩

theorem wit_row_load : (cor Tests.waitingBlock 1).rows.get? 15 = none ∧ (cor Tests.waitingBlock 1).mappedOut = false ∧
    savedSquads Tests.waitingBlock 1 = [] ∧ waitingBlocks Tests.waitingBlock 1 = [2] ∧
    roleAt (blockHeader Tests.waitingBlock 2).roles 0 (nextIndex Tests.waitingBlock 2) =
      some (0, { (default : Role) with entry := 0x10000, allot := 128, squads := 1, threads := 1 }) ∧
    fits Tests.waitingBlock 1 2 (needOfRole (blockHeader Tests.waitingBlock 2)
      { (default : Role) with entry := 0x10000, allot := 128, squads := 1, threads := 1 }) = true ∧
    (lowestArea (partOf Tests.waitingBlock (launchOf Tests.waitingBlock (blk Tests.waitingBlock 2).lid).part) 4096).isSome ∧
    (sqd (Tests.withSquad fun q => { q with state := .loading }) 1).state = .loading ∧
    (sqd (Tests.withSquad fun q => { q with state := .loading }) 1).present = [0, 1] ∧
    (∀ b ∈ waitingBlocks (Tests.withSquad fun q => { q with state := .loading }) 0,
      blockPrio (Tests.withSquad fun q => { q with state := .loading }) b ≤ prioOf (Tests.withSquad fun q => { q with state := .loading }) 1) := by
  decide +kernel

theorem wit_row_areas : ∃ as s', takeAreas (launchOf Tests.waitingBlock (blk Tests.waitingBlock 2).lid).part (List.replicate 1 4096)
      Tests.waitingBlock = some (as, s') ∧
    (coreAreas 1 (placeNew 1 15 2 (nextIndex Tests.waitingBlock 2) 0
      { (default : Role) with entry := 0x10000, allot := 128, squads := 1, threads := 1 } as s')).isSome := by
  obtain ⟨a, ha⟩ := wit_area_of (pt := 0) (s := Tests.waitingBlock) (n := 4096) (by decide +kernel)
  exact ⟨_, _, ha, rfl⟩

/-- Squad 1 in a state of Table 1.7, its threads in no wave, and core 0 as given. -/
def Tests.resting (f : Squad → Squad) (g : Core → Core) : State :=
  modCore 0 (fun c => g { c with slots := [] }) (modSquad 1 f (Tests.withThread fun th => { th with inWave := false }))

/-- Squad 1 is on its way to the save area that it and its block have. -/
def Tests.saving : State :=
  let s := Tests.resting (fun q => { q with state := .saving, saveArea := 0x1000000 }) id
  modPart 0 (fun p => { p with areas := [(0x1000000, saveBytes s 1)] })
    (modBlock 1 (fun b => { b with saveArea := some 0x2000000, backing := some 0x3000000 }) s)

theorem wit_row_saves : (sqd Tests.saving 1).state = .saving ∧ inWaves Tests.saving 1 = [] ∧ matrixDone Tests.saving 1 = true ∧
    (saveOut 1 Tests.saving).isSome := by decide +kernel

def Tests.rotating : State :=
  Tests.resting (fun q => { q with state := .evicted }) fun c => { c with rows := [], ctx := [], sinceRotation := 1024 }

theorem wit_rows_change :
    (sqd (Tests.withSquad fun q => { q with state := .draining, conveyed := true }) 1).state = .draining ∧
    commandsLeft (Tests.withSquad fun q => { q with state := .draining, conveyed := true }) 1 = false ∧
    (freeRow 1 (Tests.withSquad fun q => { q with state := .draining, conveyed := true })).isSome ∧
    liveOf (Tests.resting (fun q => { q with state := .restoring, planes := some (none, none) }) id) 1 = [32, 33] ∧
    (Tests.resting (fun q => { q with state := .restoring, planes := some (none, none) }) id).waits = [] ∧
    (sqd (Tests.resting (fun q => { q with state := .restoring, planes := some (none, none) }) id) 1).entry = .none ∧
    (cor Tests.rotating 0).sinceRotation = 1024 ∧ savedSquads Tests.rotating 0 = [1] ∧ (cor Tests.rotating 0).rows = [] ∧
    (cor Tests.rotating 0).ctx = [] ∧ (shortfall Tests.rotating 0 (sqd Tests.rotating 1).block [needOf Tests.rotating 1] []).none = true := by
  decide +kernel

/-- Both threads wait for a pick. -/
def Tests.picking (f : Thread → Thread) : State :=
  modThread 33 f (modThread 32 f (Tests.resting id id))

theorem wit_picks : (cor (Tests.picking id) 0).slots.get? 3 = none ∧ picksStopped (Tests.picking id) 0 = false ∧
    chooseWave (Tests.picking id) (considered (Tests.picking id) 0 (candidates (Tests.picking id) 0)) = [32, 33] ∧
    (∀ u ∈ [32, 33], ((Tests.picking id).threads.get? u).isSome) ∧ (coreThreads (Tests.picking id) 0).Nodup ∧
    (candidates (Tests.picking id) 0).Nodup ∧ 32 ∈ coreThreads (Tests.picking fun th => { th with inRun := true }) 0 ∧
    resumable (Tests.picking fun th => { th with inRun := true }) 32 = true ∧ (boundThreads (Tests.picking id) 0).Nodup ∧
    directGear (Tests.picking fun th => { th with direct := true }) [32, 33] ≠ none ∧
    (∀ u ∈ [32, 33], (thr (Tests.picking id) u).direct = false) ∧
    byLane (runGroup (Tests.picking fun th => { th with inRun := true }) 32) = [32, 33] := by decide +kernel

/-- The word at 0x10000, and the wave of slot 0, as given. -/
def Tests.wave (w : Nat) (f : Wave → Wave) : State :=
  writeNat 0x10000 4 w (modCore 0 (fun c => { c with slots := c.slots.adj 0 f }) Tests.site)
def Tests.slow (todo : List Nat) : Slow := { (default : Slow) with todo := todo, pc := 0x10000, first := [32] }
def Tests.faulted : State := Tests.wave 0xC0000000 fun w => { w with faults := [{ (default : RunFault) with thread := 32, squad := 1 }] }
def Tests.rerun (todo : List Nat) : State :=
  modLaunch 1 (fun l => { l with hdr := { l.hdr with flags := 0 } }) (Tests.wave 0 fun w => { w with slow := some (Tests.slow todo) })

theorem wit_slow_gear : (cor Tests.faulted 0).slots.get? 0 = some ((cor Tests.faulted 0).slots.getD 0 default) ∧
    ((cor Tests.faulted 0).slots.getD 0 default).slow = none ∧ ((cor Tests.faulted 0).slots.getD 0 default).faults ≠ [] ∧
    attemptOver Tests.faulted ((cor Tests.faulted 0).slots.getD 0 default) = true ∧
    pendingFaults Tests.faulted ((cor Tests.faulted 0).slots.getD 0 default) = [] ∧
    (∀ u ∈ ((cor Tests.faulted 0).slots.getD 0 default).threads, (Tests.faulted.threads.get? u).isSome) ∧
    ((cor (Tests.rerun [32, 33]) 0).slots.get? 0).map (fun w => (w.slow, w.ending)) = some (some (Tests.slow [32, 33]), []) ∧
    loadsOut (Tests.rerun [32, 33]) [32] = false ∧ fetchAt (Tests.rerun [32, 33]) 32 0x10000 = .word 0 ∧
    available (setCursor 0 0 [32] 0x10000 0 true (Tests.rerun [32, 33])) (usesOf (instrOf 0)) 32 = true ∧
    (Tests.slow [32, 33]).atEnd = [] ∧ (Tests.slow [32, 33]).one = none ∧
    ((cor (Tests.rerun []) 0).slots.get? 0).map (fun w => (w.slow, w.ending)) = some (some (Tests.slow []), []) ∧
    (∀ u ∈ (Tests.slow []).first, squadOf u = 1) ∧ (Tests.slow []).stopped = [] ∧ (sqd (Tests.rerun []) 1).killed = false ∧
    (launchOf (Tests.rerun []) (sqd (Tests.rerun []) 1).lid).hdr.vanrep = false :=
  by and_intros <;> decide +kernel

theorem wit_handler_entry : ((Tests.resting (fun q => { q with entry := .pending default }) id).squads.get? 1).isSome ∧
    (sqd (Tests.resting (fun q => { q with entry := .pending default }) id) 1).entry = .pending default ∧
    inWaves (Tests.resting (fun q => { q with entry := .pending default }) id) 1 = [] ∧
    (sqd (Tests.resting (fun q => { q with entry := .pending default }) id) 1).present = [0, 1] := by decide +kernel

/-- Squad 1 has ended with the estate given. -/
def Tests.ended (e : List Holding) : State := Tests.withSquad fun q => { q with ended := true, estate := e, heir := 0xFFFFFFFE }
def Tests.locked : List Holding := [⟨.lock, 0x20000, 0x20000, 0, false⟩]
def Tests.escalated : State := modLaunch 1 (fun l => { l with escalation := some (0, 5, 0, 0, 0) }) (Tests.resting id id)

theorem wit_conveyance : (Tests.ended Tests.locked).Canonical ∧ mayConvey (Tests.ended []) 1 = true ∧ (sqd (Tests.ended []) 1).estate = [] ∧
    mayConvey (Tests.ended Tests.locked) 1 = true ∧ (sqd (Tests.ended Tests.locked) 1).estate = Tests.locked ∧
    (sqd (Tests.ended Tests.locked) 1).heir = 0xFFFFFFFE ∧ (Tests.ended Tests.locked).waits = [] ∧
    (∀ c, (cor (Tests.ended Tests.locked) c).pending = []) ∧ (∀ e ∈ (Tests.ended Tests.locked).launches, e.2.eligible = false) ∧
    (launchOf Tests.escalated 1).escalation = some (0, 5, 0, 0, 0) ∧ (launchOf Tests.escalated 1).ended = false ∧
    (launchOf Tests.escalated 1).killed = false ∧ (launchOf Tests.escalated 1).eligible = false ∧
    (launchOf Tests.escalated 1).dump = none ∧ launchStopped Tests.escalated 1 = true ∧ (launchOf Tests.escalated 1).proceeded = false ∧
    (launchOf Tests.escalated 1).whole = false ∧ (launchOf Tests.escalated 1).roll = none :=
  ⟨by unfold State.Canonical; decide +kernel, by decide +kernel, by decide +kernel, by decide +kernel, by decide +kernel, by decide +kernel,
    by decide +kernel, wit_table_of (p := fun k : Core => k.pending = []) rfl _ (by decide +kernel), by decide +kernel, by decide +kernel,
    by decide +kernel, by decide +kernel, by decide +kernel, by decide +kernel, by decide +kernel, by decide +kernel⟩

theorem wit_escalated_eligible : (launchOf (modLaunch 1 (fun l => { l with eligible := true }) Tests.escalated) 1).eligible = true ∧
    launchStopped (modLaunch 1 (fun l => { l with eligible := true }) Tests.escalated) 1 = true := by decide +kernel

/-- Squad 1 has ended and holds one thing; its heir is squad 5 of its launch, which is loaded, or squad 0, which is not. -/
def Tests.bequest (k : HoldKind) (heir : Nat) : State :=
  let s := modSquad 1 (fun q => { q with heir := heir }) (Tests.ended [⟨k, 0x20000, 0x20000, 0, false⟩])
  { s with squads := s.squads.put 9 { (sqd Tests.site 1) with gsq := 5, estate := [] } }

theorem wit_bequest : ∀ k ∈ [HoldKind.lock, .promise, .object], (Tests.bequest k 5).Canonical ∧ mayConvey (Tests.bequest k 5) 1 = true ∧
    (sqd (Tests.bequest k 5) 1).estate = [⟨k, 0x20000, 0x20000, 0, false⟩] ∧ accepts (Tests.bequest k 5) 1 5 = true ∧
    (sqd (Tests.bequest k 5) 1).lid = 1 ∧ squadNamed (Tests.bequest k 5) 1 5 = some 9 ∧ (sqd (Tests.bequest k 5) 9).gsq = 5 ∧
    (Tests.bequest k 5).waits = [] ∧ (∀ e ∈ (Tests.bequest k 5).launches, e.2.eligible = false) ∧ mayConvey (Tests.bequest k 0) 1 = true ∧
    accepts (Tests.bequest k 0) 1 0 = true ∧ squadNamed (Tests.bequest k 0) 1 0 = none ∧
    unloadedNamed (Tests.bequest k 0) 1 0 = some (1, 0) := by unfold State.Canonical; decide +kernel

theorem wit_holdings_stand : HoldingStands (Tests.ended Tests.locked) 1 ⟨.lock, 0x20000, 0x20000, 0, false⟩ 0x20000 ∧
    HoldingStands (Tests.bequest .lock 5) 1 ⟨.lock, 0x20000, 0x20000, 0, false⟩ 0x20000 ∧
    HoldingStands (Tests.bequest .promise 0) 1 ⟨.promise, 0x20000, 0x20000, 0, false⟩ 0x20000 ∧
    HoldingStands (Tests.bequest .object 5) 1 ⟨.object, 0x20000, 0x20000, 0, false⟩ 0x20000 ∧
    ∀ c, (cor (Tests.bequest .lock 5) c).pending = [] :=
  ⟨⟨⟨0x20000, 8, .rc, none⟩, by decide +kernel, by decide +kernel, by decide +kernel⟩,
    ⟨⟨0x20000, 8, .rc, none⟩, by decide +kernel, by decide +kernel, by decide +kernel⟩,
    ⟨⟨0x20000, 16, .rc, none⟩, by decide +kernel, by decide +kernel, by decide +kernel⟩, rfl,
    wit_table_of (p := fun k : Core => k.pending = []) rfl _ (by decide +kernel)⟩

theorem wit_kill : ((Tests.resting id id).squads.get? 1).isSome ∧ (sqd (Tests.resting id id) 1).ended = false ∧
    (sqd (Tests.resting id id) 1).state = .resident ∧ (sqd (Tests.resting id id) 1).tile = [] ∧ (Tests.resting id id).waits = [] ∧
    (∀ e ∈ (Tests.resting id id).cmds, e.2.squad ≠ 1) ∧ ∀ u ∈ threadsOf (Tests.resting id id) 1,
      (thr (Tests.resting id id) u).inWave = false ∧ (thr (Tests.resting id id) u).wait = none ∧ (thr (Tests.resting id id) u).susp = none ∧
      (thr (Tests.resting id id) u).frozen = none := by
  decide +kernel

/-- Every squad of launch 1 has ended and been conveyed, and its command is in hand. -/
def Tests.finished (f : Launch → Launch) : State :=
  modQueue 17 (fun k => { k with enabled := true, fetched := [(7, [(0x6000, 16, 2)])] })
    (modLaunch 1 (fun l => f { l with whole := true, queue := 17, buf := 7 }) (Tests.withSquad fun q => { q with ended := true, conveyed := true }))

def Tests.committing : State := Tests.finished fun l => { l with eligible := true }
def Tests.ending : State := Tests.finished id
def Tests.sealed : State := Tests.finished fun l => { l with sealed := true, hdr := { l.hdr with flags := 0, posts := [(0, 1)] } }

theorem wit_launch_ends : gangsEnded Tests.committing 1 = true ∧
    launchQuiet Tests.committing 1 = true ∧
    allConveyed Tests.committing 1 = true ∧
    (launchOf Tests.committing 1).ended = false ∧
    (launchOf Tests.committing 1).roll = none ∧
    (launchOf Tests.committing 1).replays = 0 ∧ (launchOf Tests.ending 1).eligible = false ∧
    (launchOf Tests.ending 1).killed = false ∧ (launchOf Tests.ending 1).sealed = false ∧
    (launchOf Tests.ending 1).heldPublish = [] ∧ gangsEnded Tests.ending 1 = true ∧
    (launchOf Tests.sealed 1).hdr.receipt = false ∧ (launchOf Tests.sealed 1).sealed = true ∧ (launchOf Tests.sealed 1).badAddr = none ∧
    (launchOf Tests.sealed 1).abandoned = false ∧ publishing Tests.sealed 1 = false ∧ holdsChain Tests.sealed (17, 7) = true ∧
    (launchOf Tests.sealed 1).hdr.posts = [(0, 1)] :=
  by and_intros <;> decide +kernel

/-- Launch 1 may roll back; agent 1 has a store to piece 2 to perform. -/
def Tests.rolled (f : Launch → Launch) : State :=
  modLaunch 1 (fun l => f { l with eligible := true, hdr := { l.hdr with prio := 7 } }) { Tests.site with config := { Tests.site.config with garret := 1 } }
def Tests.rolling : State := Tests.rolled fun l => { l with roll := some ⟨.killed, 0x0E, 2 ^ 56 + 3, 0, none⟩, rolling := true }
def Tests.copied : State := modAgent 1 (fun g => { g with rc := [⟨0, 5, .store 0x20100 [1, 2] .rc, [], false, none, 0x20100, 0, 0x10000, none, 0⟩] }) (Tests.rolled id)

theorem wit_rollback : (launchOf Tests.copied 1).eligible = true ∧ wantsPiece Tests.copied 1 2 = true ∧
    hasSnapshot (launchOf Tests.copied 1) 2 = false ∧ garretRoom Tests.copied = true ∧
    squadsOf { Tests.rolled (fun l => { l with roll := some ⟨.killed, 0x0E, 2 ^ 56 + 3, 0, none⟩ }) with squads := [] } 1 = [] ∧
    (launchOf (Tests.rolled fun l => { l with roll := some ⟨.killed, 0x0E, 2 ^ 56 + 3, 0, none⟩ }) 1).rolling = false ∧
    (launchOf Tests.rolling 1).roll = some ⟨.killed, 0x0E, 2 ^ 56 + 3, 0, none⟩ ∧ (launchOf Tests.rolling 1).ended = false ∧ (launchOf Tests.rolling 1).rolling = true ∧
    (launchOf Tests.rolling 1).eligible = true ∧ (launchOf Tests.rolling 1).resources = [] ∧ (launchOf Tests.rolling 1).replays = 0 ∧
    killResource ⟨.killed, 0x0E, 2 ^ 56 + 3, 0, none⟩ 0 = 2 ^ 56 + 3 ∧ resCode (2 ^ 56 + 3) ≠ 6 ∧ (∀ e ∈ Tests.rolling.agents, e.2.all = []) ∧ Tests.rolling.cmds = [] ∧
    ∀ c ∈ Tests.rolling.cores, c.2.pending = [] :=
  by and_intros <;> decide +kernel

/-! ### Translation, engines and publications (O36, O40 to O44) -/

/-- Function 0's management queue has a buffer for a record of 32 bytes. -/
def Tests.recording : State :=
  modQueue 0 (fun k => { k with enabled := true, mapped := true, avail := [(7, [(0x6000, 32, 2)])] }) Tests.site

theorem wit_events : ownerOf Tests.site 1 ≠ ownerHost ∧ ownerOf Tests.site 2 = ownerHost ∧
    (fnOf (modFn 0 (fun f => { f with records := List.replicate 256 default }) Tests.site) (fnOfPart none)).records.length = 256 ∧
    (mgmtQueue Tests.site 0).bind (recordBuffer Tests.site) = none ∧ (fnOf Tests.site (fnOfPart none)).records = [] ∧
    mgmtQueue Tests.recording 0 = some 0 ∧ recordBuffer Tests.recording 0 = some (7, [(0x6000, 32, 2)]) ∧ Tests.recording.Canonical ∧
    (queueOf Tests.recording 0).fetched = [] ∧ queueUp Tests.recording 0 = true ∧ badChain [(0x6000, 32, 2)] = false ∧
    descWritable (0x6000, 32, 2) = true ∧ Tests.site.routes = [] := by
  and_intros <;> first | decide +kernel | (unfold State.Canonical; decide +kernel)

theorem wit_refused : Tests.site.claimants = [] ∧
    mayStart (takeChain (17, 7) (Tests.inHand 17 0xFFF [] Tests.site)) (17, 7) = true ∧
    isOpcode (fieldAt (readablePart (takeChain (17, 7) (Tests.inHand 17 0xFFF [] Tests.site)) (17, 7)) 0 2) = false ∧
    writableLen (chainOf (modQueue 17 (fun k => { k with fetched := [(7, [(0x6000, 15, 2)])] }) Tests.site) (17, 7)) < 16 ∧
    commandRule (.launch 16 7) = some ((16, 7), ruleLaunch) ∧
    cmdReady (takeChain (16, 7) (Tests.inHand 16 1 (List.replicate 16 0) Tests.site)) (16, 7) ruleLaunch = true ∧
    refusal (takeChain (16, 7) (Tests.inHand 16 1 (List.replicate 16 0) Tests.site)) (16, 7) ruleLaunch = some (0x02, 0) ∧
    (readablePart (takeChain (17, 7) (Tests.inHand 17 1 (List.replicate 15 0) Tests.site)) (17, 7)).length = 31 ∧
    (readablePart (takeChain (17, 7) (Tests.inHand 17 1 (List.replicate 16 0) Tests.site)) (17, 7)).length = 32 ∧
    fieldAt (readablePart (takeChain (17, 7) (Tests.inHand 17 1 (List.replicate 16 0) Tests.site)) (17, 7)) 4 4 = ruleLaunch.length :=
  ⟨by decide +kernel, by decide +kernel, by decide +kernel, by decide +kernel, rfl, by decide +kernel, by decide +kernel, by decide +kernel,
    by decide +kernel, by decide +kernel⟩

theorem wit_tlb : canonical 0x20000 = true ∧ inWindows 0x20000 = false ∧ walk Tests.site 1 0x20000 = some (0xC000000000000003, 30) ∧
    (leafOf 0xC000000000000003 30).isSome ∧ walk Tests.site 1 0x7FFFFFFFF000 = none ∧
    (cor Tests.site 0).tlb.length ≤ 64 :=
  by and_intros <;> decide +kernel

/-- Function 1 has an ATS request and a page request of thread 32 for page 0x20000. -/
def Tests.asking (a : Asking) : State :=
  modFn 1 (fun f => { f with priOut := [⟨1, 0x20000, true, true, true, [a], 3⟩], stopPri := true })
    (modThread 32 (fun th => { th with pri := true, inWave := false }) { Tests.site with ats := [⟨1, 0x20000, [a], none, false⟩] })
def Tests.invalid (cmd : Option (Nat × Nat)) : State :=
  modQueue 16 (fun k => { k with fetched := [(7, [])] }) { Tests.site with invals := [⟨1, 0x20000, 4096, true, [], [(1, 3)], [], cmd⟩] }

theorem wit_translation : (Tests.asking ⟨0, .thread 32, true, true⟩).ats[0]? = some ⟨1, 0x20000, [⟨0, .thread 32, true, true⟩], none, false⟩ ∧
    fnOfCtx (Tests.asking ⟨0, .thread 32, true, true⟩) 1 = 1 ∧ 0x20000 % 2 ^ 12 = 0 ∧
    (fnOf (Tests.asking ⟨0, .thread 32, true, true⟩) 1).priOut[0]? = some ⟨1, 0x20000, true, true, true, [⟨0, .thread 32, true, true⟩], 3⟩ ∧
    ((Tests.asking ⟨0, .thread 32, true, true⟩).threads.get? 32).isSome ∧ (thr (Tests.asking ⟨0, .thread 32, true, true⟩) 32).pri = true ∧
    (fnOf (Tests.asking ⟨0, .thread 32, true, true⟩) 1).stopPri = true ∧
    (Tests.invalid none).invals[0]? = some ⟨1, 0x20000, 4096, true, [], [(1, 3)], [], none⟩ ∧
    invalDone (Tests.invalid none) ⟨1, 0x20000, 4096, true, [], [(1, 3)], [], none⟩ = true ∧
    invalDone (Tests.invalid (some (16, 7))) ⟨1, 0x20000, 4096, true, [], [(1, 3)], [], some (16, 7)⟩ = true ∧
    holdsChain (Tests.invalid (some (16, 7))) (16, 7) = true :=
  by and_intros <;> decide +kernel

/-- Command 60 of squad 1 stands alone in the queue of its engine. -/
def Tests.cmd (kind : CmdKind) (desc : List Word) (token : Option Nat) : Cmd :=
  { (default : Cmd) with
    squad := 1, lid := 1, block := 1, core := 0, kind := kind, desc := desc, ord := noOrd, token := token, agent := 3, ready := true }
def Tests.engine (k : Cmd) : State :=
  { Tests.channels default with
    cmds := [(60, k)]
    blocks := (Tests.channels default).blocks.adj 1 fun b =>
      if k.kind.queue = 0 then { b with q0 := [60] } else if k.kind.queue = 2 then { b with q2 := [60] } else { b with q4 := [60] } }

/-- A load of E4M3 planes from the local window, its scale record at 0x30000, with the parts given. -/
def Tests.mxldsCmd (parts : List Chunk) : Cmd := { Tests.cmd (.mxlds .e4m3) [0, 0xFFFFF000, 0x30000, 0] none with parts := parts }
def Tests.record : List Byte := natLe 8 0xFFFFF00000001000 ++ natLe 4 0x3F800000 ++ natLe 4 1
def Tests.planes (parts : List Chunk) : State := writeBytes 0x30000 Tests.record (Tests.engine (Tests.mxldsCmd parts))
def Tests.recordPart (bs : Option (List Byte)) : Chunk := ⟨some 0x30000, 0, 16, bs⟩
def Tests.allParts : List Chunk :=
  [Tests.recordPart (some Tests.record), ⟨some 0xFFFFF00000001000, 16, 64, some (List.replicate 64 127)⟩,
    ⟨some 0xFFFFF00000000000, 256, 4096, some (List.replicate 4096 0x38)⟩]

theorem wit_planes : ∀ parts ∈ [[], [Tests.recordPart none], [Tests.recordPart (some Tests.record)], Tests.allParts],
    headCmd (Tests.planes parts) 0 = some 60 ∧
    gate (Tests.planes parts) (Tests.mxldsCmd parts) = .run ∧ (Tests.planes parts).waits = [] ∧ (Tests.mxldsCmd parts).ready = true := by
  decide +kernel

theorem wit_planes_cmd (parts : List Chunk) : (Tests.planes parts).cmds.get? 60 = some (Tests.mxldsCmd parts) := rfl

theorem wit_plane_parts : (∀ x ∈ (Tests.mxldsCmd [Tests.recordPart (some Tests.record)]).parts, x.bs.isSome ∧ x.dst < 16) ∧
    gathered [Tests.recordPart (some Tests.record)] 0 16 = Tests.record ∧
    recordCause .e4m3 (fieldAt Tests.record 0 8) (fieldAt Tests.record 12 4) = none ∧
    (∃ x ∈ Tests.allParts, 16 ≤ x.dst) ∧ (∀ x ∈ Tests.allParts, x.bs.isSome) := by decide +kernel

/-- One run of bytes can be read, or written, by a command at once. -/
def Tests.readable (s : State) (k : Cmd) (a m : Nat) : Bool :=
  match touch s k false a m with
  | .ok ps => !mustWait s ps && !poisoned (cmdBytes s k ps) && ps.all fun p => p.win == none
  | _ => false

def Tests.writable (s : State) (k : Cmd) (a m : Nat) : Bool :=
  match touch s k true a m with
  | .ok qs => !leased s qs
  | _ => false

theorem wit_readable_of {s : State} {k : Cmd} {x : Chunk} {a : Nat} (ha : x.src = some a) (hl : 0 < x.len)
    (h : ((List.range (x.len + 1)).all fun o => (List.range (x.len + 1 - o)).all fun m => Tests.readable s k (a + o) m) = true) :
    Readable s k x := by
  refine ⟨hl, a, ha, fun o m ho => ?_⟩
  have h1 := List.all_eq_true.1 (List.all_eq_true.1 h o (List.mem_range.2 (by omega))) m (List.mem_range.2 (by omega))
  unfold Tests.readable at h1
  split at h1
  · rename_i ps hps
    simp only [Bool.and_eq_true, Bool.not_eq_true', List.all_eq_true, beq_iff_eq] at h1
    exact ⟨ps, hps, h1.1.1, h1.1.2, fun p hp w hw => by simp [h1.2 p hp] at hw⟩
  · simp at h1

theorem wit_writable_of {s : State} {k : Cmd} {x : Chunk} (hl : 0 < x.len)
    (h : ((List.range (x.len + 1)).all fun o => (List.range (x.len + 1 - o)).all fun m => Tests.writable s k (x.dst + o) m) = true) :
    Writable s k x := by
  refine ⟨hl, fun o m ho => ?_⟩
  have h1 := List.all_eq_true.1 (List.all_eq_true.1 h o (List.mem_range.2 (by omega))) m (List.mem_range.2 (by omega))
  unfold Tests.writable at h1
  split at h1
  · rename_i qs hqs
    exact ⟨qs, hqs, by simpa using h1⟩
  · simp at h1

theorem wit_record_readable :
    Readable (Tests.planes [Tests.recordPart none]) (Tests.mxldsCmd [Tests.recordPart none]) (Tests.recordPart none) :=
  wit_readable_of rfl (by decide) (by decide +kernel)

theorem wit_swap_and_zero : headCmd (Tests.engine (Tests.cmd .mxswap [] none)) 0 = some 60 ∧
    gate (Tests.engine (Tests.cmd .mxswap [] none)) (Tests.cmd .mxswap [] none) = .run ∧
    headCmd (Tests.engine (Tests.cmd (.mxzero 1) [] none)) 0 = some 60 ∧ ((Tests.engine (Tests.cmd (.mxzero 1) [] none)).squads.get? 1).isSome :=
  by and_intros <;> decide +kernel

/-- A stream of one row of lane 0 into tile 1, from the local window or from q8. -/
def Tests.stream (q8 : Bool) : Cmd := Tests.cmd (.mxstr 1 [(0, 0x1000, 127, 5)] q8 true) [] none
def Tests.streaming (q8 : Bool) : State :=
  modBlock 1 (fun b => { b with claims := [⟨60, none, false⟩], data := b.data.put 8 (List.replicate 16 0x38383838) }) (Tests.engine (Tests.stream q8))

theorem wit_stream : headCmd (Tests.streaming true) 0 = some 60 ∧ (Tests.streaming true).cmds.get? 60 = some (Tests.stream true) ∧
    gate (Tests.streaming true) (Tests.stream true) = .run ∧ (sqd (Tests.streaming true) 1).state = .resident ∧
    streamCause (Tests.streaming true) (Tests.stream true) (usedPlane (Tests.streaming true) 0 1) 1 = none ∧
    (Tests.streaming true).waits = [] ∧ (Tests.stream true).ord.rel = false ∧ (blk (Tests.streaming true) 1).claims = [⟨60, none, false⟩] ∧
    rowSize (usedPlane (Tests.streaming true) 0 1) / 4 ≤ (wordsIn (Tests.streaming true) 1 8).length :=
  by and_intros <;> decide +kernel

def Tests.rowLoad (k : Nat) : Load := { (default : Load) with seq := 5, pieces := [⟨k, 64, .rc, none⟩] }

theorem wit_stream_scratch : headCmd (Tests.streaming false) 0 = some 60 ∧ (Tests.streaming false).cmds.get? 60 = some (Tests.stream false) ∧
    (0x1000 : Word).toNat % rowSize (usedPlane (Tests.streaming false) 0 1) = 0 ∧ scratchKey (Tests.streaming false) 1 0x1000 0 = some (localKey 1 0 0x1000) ∧
    scratchKey (Tests.streaming false) 1 0x1000 (rowSize (usedPlane (Tests.streaming false) 0 1) - 1) = some (localKey 1 0 0x103F) ∧
    pieceReady (Tests.streaming false) (thr (Tests.streaming false) (threadKey 1 0)).agent (Tests.rowLoad (localKey 1 0 0x1000))
      ⟨localKey 1 0 0x1000, 64, .rc, none⟩ = true ∧
    ∀ x ∈ loadPiece (Tests.streaming false) (thr (Tests.streaming false) (threadKey 1 0)).agent 5 ⟨localKey 1 0 0x1000, 64, .rc, none⟩, x.poison = false :=
  by and_intros <;> decide +kernel

theorem wit_passes : 63 < columns .e4m3 ∧ 127 < columns .nq4 ∧ (2049 : Nat) ∉ rowKeys Plane.reset 1 1 ∧
    headCmd (Tests.engine (Tests.cmd .mxdrn [0x20000, 0, 0x01000001, 0] (some 63))) 0 = some 60 ∧
    gate (Tests.engine (Tests.cmd .mxdrn [0x20000, 0, 0x01000001, 0] (some 63))) (Tests.cmd .mxdrn [0x20000, 0, 0x01000001, 0] (some 63)) = .run ∧
    (Tests.cmd .mxdrn [0x20000, 0, 0x01000001, 0] (some 63)).ready = true ∧
    (Tests.engine (Tests.cmd .mxdrn [0x20000, 0, 0x01000001, 0] (some 63))).waits = [] ∧
    RecordsTaken (Tests.engine (Tests.cmd .mxdrn [0x20000, 0, 0x01000001, 0] (some 63))) 1 ∧
    TakesValue (Tests.engine (Tests.cmd .mxdrn [0x20000, 0, 0x01000001, 0] (some 63))) 1 63 0 := by
  and_intros <;> first | decide +kernel | (unfold RecordsTaken; decide +kernel) | (unfold TakesValue; decide +kernel)

/-- A copy of one row of 256 bytes, and a fill of 64. -/
def Tests.copyCmd : Cmd := Tests.cmd .cpcopy [0x20000, 0, 0x30000, 0, 256, 1, 0, 0] (some 63)
def Tests.fillCmd : Cmd := Tests.cmd (.cpfill 2) [0x20000, 0, 64, 0x1234, 0, 0, 0, 0] (some 63)

/-- The copy with two bytes to read, with its bytes read, and with nothing left to move. -/
def Tests.copyWith (bs : Option (List Byte)) : Cmd := { Tests.copyCmd with held := some ⟨[⟨some 0x20000, 0x30000, 2, bs⟩], false⟩ }
def Tests.copied' : Cmd := { Tests.copyCmd with held := some ⟨[], false⟩ }

theorem wit_copy : copyStarted (Tests.engine Tests.copyCmd) 60 Tests.copyCmd = true ∧ gate (Tests.engine Tests.copyCmd) Tests.copyCmd = .run ∧
    gate (Tests.engine { Tests.copyCmd with shut := true }) { Tests.copyCmd with shut := true } = .discard ∧
    copyStarted (Tests.engine { Tests.copyCmd with shut := true }) 60 { Tests.copyCmd with shut := true } = true ∧ Tests.copyCmd.kind.queue = 2 ∧
    (Tests.engine Tests.copyCmd).waits = [] ∧ RecordsTaken (Tests.engine Tests.copyCmd) 1 ∧ TakesValue (Tests.engine Tests.copyCmd) 1 63 0 ∧
    Tests.copyCmd.started = false ∧ Tests.copyCmd.ready = true ∧ Tests.copyCmd.held = none ∧ Tests.copyCmd.ord.rel = false ∧
    copyStarted (Tests.engine Tests.fillCmd) 60 Tests.fillCmd = true ∧ gate (Tests.engine Tests.fillCmd) Tests.fillCmd = .run ∧
    copyStarted (Tests.engine (Tests.copyWith none)) 60 (Tests.copyWith none) = true ∧
    copyStarted (Tests.engine Tests.copied') 60 Tests.copied' = true := by
  and_intros <;> first | decide +kernel | (unfold RecordsTaken; decide +kernel) | (unfold TakesValue; decide +kernel)

theorem wit_copy_bytes :
    Readable (Tests.engine (Tests.copyWith none)) (Tests.copyWith none) ⟨some 0x20000, 0x30000, 2, none⟩ ∧
    Writable (Tests.engine (Tests.copyWith (some [1, 2]))) (Tests.copyWith (some [1, 2])) ⟨some 0x20000, 0x30000, 2, some [1, 2]⟩ :=
  ⟨wit_readable_of rfl (by decide) (by decide +kernel), wit_writable_of (by decide) (by decide +kernel)⟩

/-- A gather of one element of four bytes whose index list stands at 0x30000, with the parts of its list given. -/
def Tests.gatherCmd (n : Word) (parts : List Chunk) : Cmd :=
  { Tests.cmd .cpgath [0x20000, 0, 0, 0xFFFFF000, 4, n, 0x30000, 0] (some 63) with parts := parts }
def Tests.listPart (bs : Option (List Byte)) : Chunk := ⟨some 0x30000, 0, 4, bs⟩

theorem wit_gather : ∀ k ∈ [Tests.gatherCmd 1 [], Tests.gatherCmd 1 [Tests.listPart none], Tests.gatherCmd 1 [Tests.listPart (some [0, 0, 0, 0])],
      Tests.gatherCmd 0 []],
    copyStarted (Tests.engine k) 60 k = true ∧ gate (Tests.engine k) k = .run ∧ k.held = none ∧ k.kind = .cpgath ∧ k.started = false ∧
    RecordsTaken (Tests.engine k) 1 ∧ TakesValue (Tests.engine k) 1 63 0 ∧ k.ready = true := by
  unfold RecordsTaken TakesValue; decide +kernel

theorem wit_gather_list : desc32 (Tests.gatherCmd 1 []).desc 5 ≠ 0 ∧ desc32 (Tests.gatherCmd 0 []).desc 5 = 0 ∧
    Readable (Tests.engine (Tests.gatherCmd 1 [Tests.listPart none])) (Tests.gatherCmd 1 [Tests.listPart none]) (Tests.listPart none) :=
  ⟨by decide, by decide, wit_readable_of rfl (by decide) (by decide +kernel)⟩

/-- A heap of 1 MiB, an ALLOC whose thread waits, and a FREE. -/
def Tests.heap (objects : List (Nat × Nat × Nat)) (s : State) : State :=
  modPart 0 (fun p => { p with heap := 0x100000, heapSize := 0x100000, objects := objects }) s
def Tests.allocCmd : Cmd := Tests.cmd (.alloc 65) [] (some 62)
def Tests.allocWait : Wait := { (default : Wait) with threads := [32], squad := 1, kind := .alloc 60 62 }
def Tests.allocating : State :=
  modThread 32 (fun th => { th with wait := some 9, inWave := false })
    { Tests.heap [(0x100000, 128, 1)] (Tests.engine Tests.allocCmd) with waits := [(9, Tests.allocWait)] }
def Tests.freeCmd : Cmd := Tests.cmd (.free 0x100000) [] none
def Tests.freeing : State := Tests.heap [(0x100000, 128, 1)] (Tests.engine Tests.freeCmd)
def Tests.dispensing (pos : Nat) : State :=
  modLaunch 1 (fun l => { l with nextPos := pos, hdr := { l.hdr with dimx := 4, dimy := 1, dimz := 1 } }) Tests.site

theorem wit_storekeeper_replies : Tests.allocating.Canonical ∧ RecordsTaken Tests.allocating 1 ∧
    TakesValue Tests.allocating 1 62 0 ∧ TakesValue Tests.allocating 1 63 0 ∧ Tests.freeCmd.ready = true ∧
    (blk Tests.allocating 1).q4 = [60] ∧ Tests.allocating.cmds.get? 60 = some Tests.allocCmd ∧
    classOf 65 = some 128 ∧ blockFree (partOf Tests.allocating (launchOf Tests.allocating 1).part) 128 0x100080 = true ∧
    anyFree (partOf Tests.allocating (launchOf Tests.allocating 1).part) 128 = true ∧ Tests.allocating.waits = [(9, Tests.allocWait)] ∧
    (thr Tests.allocating 32).wait = some 9 ∧ (sqd Tests.allocating 1).state = .resident ∧ (blk Tests.freeing 1).q4 = [60] ∧
    Tests.freeing.cmds.get? 60 = some Tests.freeCmd ∧ Tests.freeing.waits = [] ∧
    (partOf Tests.freeing (launchOf Tests.freeing 1).part).objects.find? (fun o => o.1 == 0x100000) = some (0x100000, 128, 1) ∧
    blockEnded (Tests.dispensing 3) 1 = false ∧ (blockHeader (Tests.dispensing 3) 1).dimx ≠ 0 ∧ (blk (Tests.dispensing 3) 1).exhausted = false ∧
    (launchOf (Tests.dispensing 3) 1).handedBack = [] ∧ (blk (Tests.dispensing 3) 1).q6.length < 2 ∧
    nextTile (launchOf (Tests.dispensing 3) 1).hdr 3 = some (3, 4) ∧ nextTile (launchOf (Tests.dispensing 4) 1).hdr 4 = none := by
  and_intros <;> first | decide +kernel | (unfold State.Canonical; decide +kernel) | (unfold RecordsTaken; decide +kernel) | (unfold TakesValue; decide +kernel)

/-- Window 50 of context 1, with a dirty line, at a step of its publication. -/
def Tests.pubWin (step : Nat) : PubWin :=
  { base := 0x30000, host := 0x50000, size := 65536, counter := 0x40000, ctx := 1, part := 0, pending := [⟨1, 20, true, false⟩, ⟨1, 21, false, false⟩], step := step, dirty := [0x30080 / 128] }
def Tests.publishing (step : Nat) : State := { Tests.site with pubs := [(50, Tests.pubWin step)] }

theorem wit_publications : mayPublish (Tests.publishing 0) ⟨1, 20, true, false⟩ = true ∧ (Tests.publishing 0).Canonical ∧ (Tests.publishing 1).Canonical ∧ (Tests.publishing 2).pubs.get? 50 = some (Tests.pubWin 2) ∧
    rangeOf (Tests.publishing 0) (hubView (Tests.publishing 0) 1) true 0x40000 8 = .ok [⟨0x40000, 8, .rc, none⟩] ∧
    rangeOf (Tests.publishing 1) (hubView (Tests.publishing 1) 1) false 0x30000 65536 = .ok ((List.range 16).map fun i => ⟨0x30000 + 4096 * i, 4096, .rc, none⟩) ∧
    dirtyLines (Tests.pubWin 1) ((List.range 16).map fun i => ⟨0x30000 + 4096 * i, 4096, .rc, none⟩) = [(0x601, 0x80)] ∧
    rangeOf (Tests.publishing 1) (hubView (Tests.publishing 1) 1) true (0x50000 + 0x80) 128 = .ok [⟨0x50080, 128, .rc, none⟩] := by
  unfold State.Canonical; decide +kernel

/-! ### Commands of the work queues (O45 to O50) -/

theorem wit_ctx_of {s : State} {c : CmdId} {off : Nat} (h : ctxOk s c.1 (argAt s c off 4) = true) : ContextOk s c off := h
theorem wit_zero_of {s : State} {c : CmdId} {off n : Nat} (h : (reservedAt s c off n).2 = false) : ZeroField s c off n := h

/-- The command of queue `q`, taken from its ring and started. -/
def Tests.taken (q : Nat) (s : State) : State := Tests.begun (q, 7) s

/-- A status record stands in host memory. -/
theorem wit_status_of {s : State} {c : CmdId} {a : Nat} (h : a < hostKey 0) : ¬StatusAt s c a := by
  rintro ⟨-, x, d, y, -, -, hle, -⟩
  simp only [hostKey] at h hle
  omega

/-- Context 1 with a page of the host at 1 GiB, translated, and a PUB page at 2 GiB. -/
def Tests.pages : State :=
  modCore coreCount (fun c => { c with tlb := [⟨1, 0x40000000, 30, 0, some (0x700000000, true, true, false)⟩] })
    (writeNat 0x3008 8 0x5000000000000003 (writeNat 0x3010 8 0x4200000080000003 Tests.site))

def Tests.copyCommand : State := Tests.inHand 17 3 (natLe 8 0x20000 ++ natLe 8 0x30000 ++ natLe 8 1 ++ natLe 4 1 ++ natLe 4 0) Tests.site
def Tests.copyTaken : State := Tests.taken 17 Tests.copyCommand

theorem wit_copy_command : InHand (17, 7) ruleCopy Tests.copyCommand Tests.copyTaken ∧ copyOf Tests.copyCommand (17, 7) = none ∧ argAt Tests.copyTaken (17, 7) 16 8 = 1 ∧
    ContextOk Tests.copyTaken (17, 7) 24 ∧ ZeroField Tests.copyTaken (17, 7) 28 4 ∧
    rangeOf Tests.copyTaken (hubView Tests.copyTaken (argAt Tests.copyTaken (17, 7) 24 4)) false (argAt Tests.copyTaken (17, 7) 0 8)
      (argAt Tests.copyTaken (17, 7) 16 8) = .ok [⟨0x20000, 1, .rc, none⟩] ∧
    rangeOf Tests.copyTaken (hubView Tests.copyTaken (argAt Tests.copyTaken (17, 7) 24 4)) true (argAt Tests.copyTaken (17, 7) 8 8)
      (argAt Tests.copyTaken (17, 7) 16 8) = .ok [⟨0x30000, 1, .rc, none⟩] :=
  ⟨wit_inHand_of (by decide +kernel), by decide +kernel, by decide +kernel, wit_ctx_of (by decide +kernel), wit_zero_of (by decide +kernel),
    by decide +kernel, by decide +kernel⟩

/-- That COPY with what is left of it. -/
def Tests.hubCopy (todo : List (Nat × Nat)) (got : Tbl DumpBytes) : HubCopy := ⟨17, 7, todo, got⟩
def Tests.copyStep (todo : List (Nat × Nat)) (got : Tbl DumpBytes) : State := { Tests.copyTaken with hubCopies := [Tests.hubCopy todo got] }

theorem wit_copy_steps : copyOf (Tests.copyStep [(0, 1)] []) (17, 7) = some (Tests.hubCopy [(0, 1)] []) ∧
    (∀ y ∈ (Tests.hubCopy [(0, 1)] []).todo, 0 < y.2) ∧
    rangeOf (Tests.copyStep [(0, 1)] []) (hubView (Tests.copyStep [(0, 1)] []) (argAt (Tests.copyStep [(0, 1)] []) (17, 7) 24 4)) false
      (argAt (Tests.copyStep [(0, 1)] []) (17, 7) 0 8 + 0 + 0) 1 = .ok [⟨0x20000, 1, .rc, none⟩] ∧
    Quiet (Tests.copyStep [(0, 1)] []) none ∧ AtHome (Tests.copyStep [(0, 1)] []) (queueAgent 17) ∧
    winDead (Tests.copyStep [(0, 1)] []) none = false ∧
    copyOf (Tests.copyStep [] [(0, [(5, true)])]) (17, 7) = some (Tests.hubCopy [] [(0, [(5, true)])]) ∧
    rangeOf (Tests.copyStep [] [(0, [(5, true)])]) (hubView (Tests.copyStep [] [(0, [(5, true)])])
        (argAt (Tests.copyStep [] [(0, [(5, true)])]) (17, 7) 24 4)) true (argAt (Tests.copyStep [] [(0, [(5, true)])]) (17, 7) 8 8 + 0) 1 =
      .ok [⟨0x30000, 1, .rc, none⟩] ∧ (Tests.site.agents.get? 1).isSome ∧ [(5 : Byte)].length = 1 ∧
    copyOf (Tests.copyStep [] []) (17, 7) = some (Tests.hubCopy [] []) ∧ holdsChain (Tests.copyStep [] []) (17, 7) = true :=
  ⟨by decide +kernel, by decide +kernel, by decide +kernel, wit_quiet_none _, by unfold AtHome; decide +kernel, by decide +kernel⟩

/-- SIGNAL_SET or SIGNAL_WAIT of the signal at 0x20000 with the value given. -/
def Tests.signal (op value : Nat) : State := Tests.inHand 17 op (natLe 8 0x20000 ++ natLe 8 value ++ natLe 4 1 ++ natLe 4 0) Tests.site
def Tests.setTaken : State := Tests.taken 17 (Tests.signal 4 (2 ^ 64 - 1))
def Tests.waitTaken (value : Nat) : State := Tests.taken 17 (Tests.signal 5 value)

theorem wit_signal_set : Tests.setTaken.Canonical ∧ InHand (17, 7) ruleSignalSet (Tests.signal 4 (2 ^ 64 - 1)) Tests.setTaken ∧
    argAt Tests.setTaken (17, 7) 0 8 % 8 = 0 ∧ ContextOk Tests.setTaken (17, 7) 16 ∧ ZeroField Tests.setTaken (17, 7) 20 4 ∧
    (agt Tests.setTaken (queueAgent 17)).place.onCore = false ∧ Tests.setTaken.holds = [] ∧ Tests.setTaken.waits = [] ∧ (∀ e ∈ Tests.setTaken.launches, 6 ≤ e.2.stage) ∧
    translate Tests.setTaken (hubView Tests.setTaken (argAt Tests.setTaken (17, 7) 16 4)) none (.signal true) (argAt Tests.setTaken (17, 7) 0 8) 8 =
      .ok [⟨0x20000, 8, .rc, none⟩] ∧
    winDead Tests.setTaken none = false ∧ ∀ a, 0x20000 ≤ a → a < 0x20000 + 8 → ¬StatusAt Tests.setTaken (17, 7) a :=
  ⟨by unfold State.Canonical; decide +kernel, wit_inHand_of (by decide +kernel), by decide +kernel,
    wit_ctx_of (by decide +kernel), wit_zero_of (by decide +kernel), by decide +kernel, by decide +kernel, by decide +kernel,
    by decide +kernel, by decide +kernel, by decide +kernel, fun _ _ h => wit_status_of (Nat.lt_trans h (by decide +kernel))⟩

theorem wit_signal_wait : InHand (17, 7) ruleSignalWait (Tests.signal 5 0) (Tests.waitTaken 0) ∧
    InHand (17, 7) ruleSignalWait (Tests.signal 5 1) (Tests.waitTaken 1) ∧ ContextOk (Tests.waitTaken 1) (17, 7) 16 ∧ ZeroField (Tests.waitTaken 1) (17, 7) 20 4 ∧
    translate (Tests.waitTaken 1) (hubView (Tests.waitTaken 1) (argAt (Tests.waitTaken 1) (17, 7) 16 4)) none (.signal false)
      (argAt (Tests.waitTaken 1) (17, 7) 0 8) 8 = .ok [⟨0x20000, 8, .rc, none⟩] ∧
    argAt (Tests.waitTaken 0) (17, 7) 8 8 ≤ readNat (Tests.waitTaken 0) 0x20000 8 ∧
    ¬argAt (Tests.waitTaken 1) (17, 7) 8 8 ≤ readNat (Tests.waitTaken 1) 0x20000 8 :=
  ⟨wit_inHand_of (by decide +kernel), wit_inHand_of (by decide +kernel), wit_ctx_of (by decide +kernel),
    wit_zero_of (by decide +kernel), by decide +kernel, by decide +kernel, by decide +kernel⟩

def Tests.pubCreate : State :=
  Tests.inHand 17 6 (natLe 8 0x80000000 ++ natLe 8 0x40000000 ++ natLe 8 65536 ++ natLe 8 0x40010000 ++ natLe 4 1 ++ natLe 4 0) Tests.pages
def Tests.pubTaken : State := Tests.taken 17 Tests.pubCreate

theorem wit_pub_create : InHand (17, 7) rulePubCreate Tests.pubCreate Tests.pubTaken ∧ argAt Tests.pubTaken (17, 7) 0 8 = 0x80000000 ∧
    argAt Tests.pubTaken (17, 7) 8 8 = 0x40000000 ∧ argAt Tests.pubTaken (17, 7) 16 8 = 65536 ∧ argAt Tests.pubTaken (17, 7) 24 8 = 0x40010000 ∧
    argAt Tests.pubTaken (17, 7) 32 4 = 1 ∧ ContextOk Tests.pubTaken (17, 7) 32 ∧ ZeroField Tests.pubTaken (17, 7) 36 4 ∧
    badLeaf Tests.pubTaken 1 0x80000000 65536 (fun f => f.pub) = none ∧ badLeaf Tests.pubTaken 1 0x40000000 65536 (fun f => f.kind == .host) = none ∧
    badLeaf Tests.pubTaken 1 0x40010000 8 (fun f => f.kind == .host) = none ∧
    rangeOf Tests.pubTaken (hubView Tests.pubTaken 1) false 0x80000000 65536 = .ok ((List.range 16).map fun i => ⟨0x80000000 + 4096 * i, 4096, .rc, none⟩) ∧
    rangeOf Tests.pubTaken (hubView Tests.pubTaken 1) true 0x40000000 65536 = .ok ((List.range 16).map fun i => ⟨hostKey (0x700000000 + 4096 * i), 4096, .rc, none⟩) ∧
    rangeOf Tests.pubTaken (hubView Tests.pubTaken 1) true 0x40010000 8 = .ok [⟨hostKey 0x700010000, 8, .rc, none⟩] :=
  ⟨wit_inHand_of (by decide +kernel), by decide +kernel, by decide +kernel, by decide +kernel, by decide +kernel,
    by decide +kernel, wit_ctx_of (by decide +kernel), wit_zero_of (by decide +kernel), by decide +kernel, by decide +kernel,
    by decide +kernel, by decide +kernel, by decide +kernel, by decide +kernel⟩

/-- PUB_DESTROY of window 50, with the publications given. -/
def Tests.pubDestroy (l : List Publication) : State :=
  Tests.inHand 17 7 (natLe 4 50 ++ natLe 4 0) { Tests.site with pubs := [(50, { Tests.pubWin 0 with pending := l })] }

theorem wit_pub_destroy : InHand (17, 7) rulePubDestroy (Tests.pubDestroy []) (Tests.taken 17 (Tests.pubDestroy [])) ∧
    winOk (Tests.taken 17 (Tests.pubDestroy [])) 17 (argAt (Tests.taken 17 (Tests.pubDestroy [])) (17, 7) 0 4) = true ∧
    ZeroField (Tests.taken 17 (Tests.pubDestroy [])) (17, 7) 4 4 ∧ publicationsLeft (Tests.taken 17 (Tests.pubDestroy [])) 50 = false ∧
    InHand (17, 7) rulePubDestroy (Tests.pubDestroy [⟨1, 20, false, false⟩]) (Tests.taken 17 (Tests.pubDestroy [⟨1, 20, false, false⟩])) ∧ publicationsLeft (Tests.taken 17 (Tests.pubDestroy [⟨1, 20, false, false⟩])) 50 = true :=
  ⟨wit_inHand_of (by decide +kernel), by decide +kernel, wit_zero_of (by decide +kernel), by decide +kernel,
    wit_inHand_of (by decide +kernel), by decide +kernel⟩

/-- CELLAR_FILL of the first 4 KiB of a grant: on the die given, or on all of them. -/
def Tests.fillOn (die : Nat) : State :=
  Tests.inHand 17 2 (natLe 8 0x20000 ++ natLe 4 1 ++ natLe 1 die ++ natLe 3 0 ++ natLe 8 0 ++ natLe 8 4096)
    (modPart 0 (fun p => { p with cellar := (List.range 8).map fun d => (d, (0x10000, 4096)) }) Tests.site)
def Tests.fillTaken (die : Nat) : State := Tests.taken 17 (Tests.fillOn die)

theorem wit_fill : (Tests.fillTaken 7).Canonical ∧ InHand (17, 7) ruleCellarFill (Tests.fillOn 7) (Tests.fillTaken 7) ∧
    partOfQueue (Tests.fillTaken 7) 17 = some 0 ∧ argAt (Tests.fillTaken 7) (17, 7) 24 8 = 4096 ∧ argAt (Tests.fillTaken 7) (17, 7) 16 8 = 0 ∧
    diesOf (argAt (Tests.fillTaken 7) (17, 7) 12 1) = [7] ∧ ContextOk (Tests.fillTaken 7) (17, 7) 8 ∧ ZeroField (Tests.fillTaken 7) (17, 7) 13 3 ∧
    cellarGrant (Tests.fillTaken 7) 0 7 = (0x10000, 4096) ∧ rangeOf (Tests.fillTaken 7) (hubView (Tests.fillTaken 7) 1) false 0x20000 4096 =
      .ok [⟨0x20000, 4096, .rc, none⟩] ∧ (hubBytes (Tests.fillTaken 7) [⟨0x20000, 4096, .rc, none⟩]).length = 4096 ∧
    diesBusy (Tests.fillTaken 7) 0 [7] = false ∧ inWindows (argAt (Tests.fillTaken 7) (17, 7) 0 8) = false ∧ Quiet (Tests.fillTaken 7) none :=
  ⟨by unfold State.Canonical; decide +kernel, wit_inHand_of (by decide +kernel), by decide +kernel, by decide +kernel,
    by decide +kernel, by decide +kernel, wit_ctx_of (by decide +kernel), wit_zero_of (by decide +kernel), by decide +kernel,
    by decide +kernel, by decide +kernel, by decide +kernel, by decide +kernel, wit_quiet_none _⟩

/-- A fill from an address in the local window. -/
def Tests.fillWindow : State :=
  Tests.inHand 17 2 (natLe 8 0xFFFFF00000000000 ++ natLe 4 1 ++ natLe 1 7 ++ natLe 3 0 ++ natLe 8 0 ++ natLe 8 0)
    (modPart 0 (fun p => { p with cellar := (List.range 8).map fun d => (d, (0x10000, 4096)) }) Tests.site)

theorem wit_fill_window : InHand (17, 7) ruleCellarFill Tests.fillWindow (Tests.taken 17 Tests.fillWindow) ∧
    ContextOk (Tests.taken 17 Tests.fillWindow) (17, 7) 8 ∧ argAt (Tests.taken 17 Tests.fillWindow) (17, 7) 12 1 = 7 ∧
    ZeroField (Tests.taken 17 Tests.fillWindow) (17, 7) 13 3 ∧ argAt (Tests.taken 17 Tests.fillWindow) (17, 7) 16 8 = 0 ∧
    argAt (Tests.taken 17 Tests.fillWindow) (17, 7) 24 8 = 0 ∧ inWindows (argAt (Tests.taken 17 Tests.fillWindow) (17, 7) 0 8) = true :=
  ⟨wit_inHand_of (by decide +kernel), wit_ctx_of (by decide +kernel), by decide +kernel, wit_zero_of (by decide +kernel),
    by decide +kernel, by decide +kernel, by decide +kernel⟩

theorem wit_fill_all : InHand (17, 7) ruleCellarFill (Tests.fillOn 0xFF) (Tests.fillTaken 0xFF) ∧
    diesOf (argAt (Tests.fillTaken 0xFF) (17, 7) 12 1) = [0, 1, 2, 3, 4, 5, 6, 7] ∧
    (∀ d ∈ [0, 1, 2, 3, 4, 5, 6, 7], cellarGrant (Tests.fillTaken 0xFF) 0 d = (0x10000, 4096)) ∧
    rangeOf (Tests.fillTaken 0xFF) (hubView (Tests.fillTaken 0xFF) 1) false 0x20000 4096 = .ok [⟨0x20000, 4096, .rc, none⟩] ∧
    diesBusy (Tests.fillTaken 0xFF) 0 [0, 1, 2, 3, 4, 5, 6, 7] = true :=
  ⟨wit_inHand_of (by decide +kernel), by decide +kernel, by decide +kernel, by decide +kernel, by decide +kernel⟩

/-- A chain of context 1, with a journal of 64 entries at 0x50000, and the drains given. -/
def Tests.chain (drains : List (Nat × Nat)) : Chain := ⟨[1, 2], 63, 0, (0x50000, 64), 0, 0, 0, drains, []⟩
def Tests.filled (c : Tbl Chain) : State :=
  modQueue 17 (fun k => { k with fetched := [(7, [(0x6000, 16, 2)])] })
    { Tests.site with fills := [⟨0, [7], 0, 4096, 17, 7, 1, []⟩], chains := c }

theorem wit_fill_ends : (Tests.filled []).fills[0]? = some ⟨0, [7], 0, 4096, 17, 7, 1, []⟩ ∧ holdsChain (Tests.filled []) (17, 7) = true ∧
    (Tests.filled []).chains.get? 1 = none ∧ (Tests.filled [(1, Tests.chain [])]).chains.get? 1 = some (Tests.chain []) ∧
    rangeOf (Tests.filled [(1, Tests.chain [])]) (hubView (Tests.filled [(1, Tests.chain [])]) 1) true
      ((Tests.chain []).journal.1.toNat + 64 * (((Tests.chain []).counter + 1) % (Tests.chain []).journal.2)) 64 = .ok [⟨0x50000, 64, .rc, none⟩] ∧
    linkFree (Tests.filled [(1, Tests.chain [])]) 1 (1, 17, 7) = true ∧
    linkFree (Tests.filled [(1, Tests.chain [(17, 8)])]) 1 (1, 17, 7) = false :=
  by and_intros <;> decide +kernel

/-- RECEIPT_SEAL of context 1, with launch 1 running with RECEIPT in the context given. -/
def Tests.sealing (ctx : Nat) : State :=
  Tests.inHand 17 8 (natLe 8 0x50000 ++ natLe 4 64 ++ natLe 2 4095 ++ natLe 2 0 ++ natLe 4 1 ++ natLe 4 0)
    (modLaunch 1 (fun l => { l with ctx := ctx }) Tests.site)
def Tests.sealTaken (ctx : Nat) : State := Tests.taken 17 (Tests.sealing ctx)

theorem wit_seal : InHand (17, 7) ruleReceiptSeal (Tests.sealing 2) (Tests.sealTaken 2) ∧ argAt (Tests.sealTaken 2) (17, 7) 0 8 % 64 = 0 ∧
    isPow2In 64 65536 (argAt (Tests.sealTaken 2) (17, 7) 8 4) = true ∧ isPow2In 64 65536 65536 = true ∧ argAt (Tests.sealTaken 2) (17, 7) 12 2 = 4095 ∧
    ZeroField (Tests.sealTaken 2) (17, 7) 14 2 ∧ ContextOk (Tests.sealTaken 2) (17, 7) 16 ∧ ZeroField (Tests.sealTaken 2) (17, 7) 20 4 ∧
    badLeaf (Tests.sealTaken 2) 1 0x50000 (64 * 64) (fun f => f.w && f.kind == .device) = none ∧
    receiptsInFlight (Tests.sealTaken 2) 1 = false ∧ InHand (17, 7) ruleReceiptSeal (Tests.sealing 1) (Tests.sealTaken 1) ∧
    receiptsInFlight (Tests.sealTaken 1) 1 = true :=
  ⟨wit_inHand_of (by decide +kernel), by decide +kernel, by decide +kernel, by decide +kernel, by decide +kernel, wit_zero_of (by decide +kernel),
    wit_ctx_of (by decide +kernel), wit_zero_of (by decide +kernel), by decide +kernel, by decide +kernel,
    wit_inHand_of (by decide +kernel), by decide +kernel⟩

/-- RECEIPT_REQUEST of context 1 with flags, chains and counts of leaves as given. -/
def Tests.requesting (flags ctx : Nat) (c : Tbl Chain) (next limit : Nat) : State :=
  Tests.inHand 17 9 (natLe 8 0x60000 ++ List.replicate 16 9 ++ natLe 4 1 ++ natLe 4 flags)
    { modLaunch 1 (fun l => { l with ctx := ctx }) Tests.site with chains := c, leafNext := next, leafLimit := limit }
def Tests.requestTaken (flags ctx : Nat) (c : Tbl Chain) (next limit : Nat) : State := Tests.taken 17 (Tests.requesting flags ctx c next limit)

theorem wit_receipt : InHand (17, 7) ruleReceiptRequest (Tests.requesting 3 1 [] 0 0) (Tests.requestTaken 3 1 [] 0 0) ∧
    (Tests.requestTaken 3 1 [] 0 0).chains.get? 1 = none ∧ ContextOk (Tests.requestTaken 3 1 [] 0 0) (17, 7) 24 ∧
    InHand (17, 7) ruleReceiptRequest (Tests.requesting 3 1 [(1, Tests.chain [])] 0 0) (Tests.requestTaken 3 1 [(1, Tests.chain [])] 0 0) ∧
    (Tests.requestTaken 3 1 [(1, Tests.chain [])] 0 0).chains.get? 1 = some (Tests.chain []) ∧
    argAt (Tests.requestTaken 3 1 [(1, Tests.chain [])] 0 0) (17, 7) 28 4 = 3 ∧ receiptsInFlight (Tests.requestTaken 3 1 [(1, Tests.chain [])] 0 0) 1 = true :=
  ⟨wit_inHand_of (by decide +kernel), by decide +kernel, wit_ctx_of (by decide +kernel), wit_inHand_of (by decide +kernel),
    by decide +kernel, by decide +kernel, by decide +kernel⟩

theorem wit_receipt_leaf : InHand (17, 7) ruleReceiptRequest (Tests.requesting 2 1 [(1, Tests.chain [])] 5 6) (Tests.requestTaken 2 1 [(1, Tests.chain [])] 5 6) ∧
    argAt (Tests.requestTaken 2 1 [(1, Tests.chain [])] 5 6) (17, 7) 28 4 % 2 = 0 ∧
    rangeOf (Tests.requestTaken 2 1 [(1, Tests.chain [])] 5 6) (hubView (Tests.requestTaken 2 1 [(1, Tests.chain [])] 5 6) 1) true 0x60000 13312 =
      .ok ((List.range 3).map (fun i => ⟨0x60000 + 4096 * i, 4096, .rc, none⟩) ++ [⟨0x63000, 1024, .rc, none⟩]) ∧
    (Tests.requestTaken 2 1 [(1, Tests.chain [])] 5 6).leafNext < (Tests.requestTaken 2 1 [(1, Tests.chain [])] 5 6).leafLimit ∧
    (Tests.requestTaken 2 1 [(1, Tests.chain [])] 6 6).leafLimit ≤ (Tests.requestTaken 2 1 [(1, Tests.chain [])] 6 6).leafNext ∧
    (Tests.requestTaken 2 1 [(1, Tests.chain [])] 6 6).leafNext / 1024 < 2 ^ 30 ∧ 2 ^ 30 ≤ (Tests.requestTaken 2 1 [(1, Tests.chain [])] (2 ^ 40) 6).leafNext / 1024 ∧
    ownerOf (Tests.requestTaken 2 1 [(1, Tests.chain [])] 6 6) 8 ≠ ownerHost :=
  ⟨wit_inHand_of (by decide +kernel), by decide +kernel, by decide +kernel, by decide +kernel, by decide +kernel,
    by decide +kernel, by decide +kernel, by decide +kernel⟩

/-- The receipt's place is a host page that has not been translated. -/
def Tests.requestingHost : State :=
  Tests.inHand 17 9 (natLe 8 0x40000000 ++ List.replicate 16 9 ++ natLe 4 1 ++ natLe 4 2)
    { modFn 1 (fun f => { f with ats := true, pri := true }) (writeNat 0x3008 8 0x5000000000000003 Tests.site) with chains := [(1, Tests.chain [])] }

theorem wit_receipt_miss : InHand (17, 7) ruleReceiptRequest Tests.requestingHost (Tests.taken 17 Tests.requestingHost) ∧
    (Tests.taken 17 Tests.requestingHost).chains.get? 1 = some (Tests.chain []) ∧
    rangeOf (Tests.taken 17 Tests.requestingHost) (hubView (Tests.taken 17 Tests.requestingHost) 1) true 0x40000000 13312 =
      .miss [0x40000000, 0x40001000, 0x40002000, 0x40003000] ∧ Quiet (Tests.taken 17 Tests.requestingHost) none :=
  ⟨wit_inHand_of (by decide +kernel), by decide +kernel, by decide +kernel, wit_quiet_none _⟩

/-! The fabric, ports and storage. -/

def Tests.exportingAt (base : Nat) : State :=
  Tests.inHand 17 10 (natLe 8 base ++ natLe 8 0x10000 ++ natLe 2 1151 ++ natLe 1 7 ++ natLe 1 1 ++ natLe 4 1) Tests.site
def Tests.exporting : State := Tests.exportingAt 0x10000
def Tests.granting (dev key : Nat) : State :=
  Tests.inHand 17 11 (natLe 4 70 ++ natLe 2 dev ++ natLe 2 4095 ++ natLe 2 key ++ natLe 1 4 ++ natLe 5 0)
    (modPart 0 (fun p => { p with keys := [(4095, [])] }) { Tests.site with devnum := 3, exports := [(70, ⟨0x10000, 0x10000, 3, 0, true, 1, 0, 1⟩)] })

theorem wit_grants : InHand (17, 7) ruleWindowExport Tests.exporting (Tests.taken 17 Tests.exporting) ∧ argAt (Tests.taken 17 Tests.exporting) (17, 7) 0 8 = 0x10000 ∧
    argAt (Tests.taken 17 Tests.exporting) (17, 7) 16 2 = 1151 ∧ argAt (Tests.taken 17 Tests.exporting) (17, 7) 18 1 = 7 ∧
    argAt (Tests.taken 17 Tests.exporting) (17, 7) 19 1 = 1 ∧ ContextOk (Tests.taken 17 Tests.exporting) (17, 7) 20 ∧
    InHand (17, 7) ruleWindowGrant (Tests.granting 1151 4095) (Tests.taken 17 (Tests.granting 1151 4095)) ∧ partOfQueue (Tests.taken 17 (Tests.granting 1151 4095)) 17 = some 0 ∧
    argAt (Tests.taken 17 (Tests.granting 1151 4095)) (17, 7) 6 2 = 4095 ∧ argAt (Tests.taken 17 (Tests.granting 1151 4095)) (17, 7) 8 2 = 4095 ∧
    argAt (Tests.taken 17 (Tests.granting 1151 4095)) (17, 7) 10 1 = 4 ∧ ZeroField (Tests.taken 17 (Tests.granting 1151 4095)) (17, 7) 11 5 ∧
    ((partOf (Tests.taken 17 (Tests.granting 1151 4095)) 0).keys.get? 4095).isSome ∧ InHand (17, 7) ruleWindowGrant (Tests.granting 3 0) (Tests.taken 17 (Tests.granting 3 0)) ∧
    (ownAnswer (Tests.taken 17 (Tests.granting 3 0)) 70 3 0).ok = true ∧ ((partOf (Tests.taken 17 (Tests.granting 3 0)) 0).keys.get? 0).isSome = false ∧
    canonical 0x10000 = true ∧ inWindows 0x10000 = false ∧ inWindows 0xFFFFF00000000000 = true ∧
    InHand (17, 7) ruleWindowExport (Tests.exportingAt 0xFFFFF00000000000) (Tests.taken 17 (Tests.exportingAt 0xFFFFF00000000000)) ∧
    argAt (Tests.taken 17 (Tests.exportingAt 0xFFFFF00000000000)) (17, 7) 0 8 = 0xFFFFF00000000000 :=
  ⟨wit_inHand_of (by decide +kernel), by decide +kernel, by decide +kernel, by decide +kernel, by decide +kernel,
    wit_ctx_of (by decide +kernel), wit_inHand_of (by decide +kernel), by decide +kernel, by decide +kernel, by decide +kernel,
    by decide +kernel, wit_zero_of (by decide +kernel), by decide +kernel, wit_inHand_of (by decide +kernel), by decide +kernel,
    by decide +kernel, by decide +kernel, by decide +kernel, by decide +kernel, wit_inHand_of (by decide +kernel), by decide +kernel⟩

/-- WINDOW_REVOKE by the target's owner, or by the importer's. -/
def Tests.revoking (own : Nat) : State :=
  Tests.inHand 17 12 (natLe 2 (if own = 1 then 0 else 5) ++ natLe 2 0 ++ natLe 1 own ++ natLe 3 0 ++ natLe 4 (if own = 1 then 70 else 0) ++ natLe 4 0)
    (modPart 0 (fun p => { p with fabric := [(0, { (default : FabWin) with valid := true, tdev := 5, gen := 1 })] })
      { Tests.site with devnum := 3, exports := [(70, ⟨0x10000, 0x10000, 3, 0, true, 1, 0, 2 ^ 32 - 1⟩)] })
def Tests.keying : State := Tests.inHand 17 13 (natLe 2 4095 ++ natLe 6 0 ++ List.replicate 1608 0) Tests.site

theorem wit_revokes : InHand (17, 7) ruleWindowRevoke (Tests.revoking 1) (Tests.taken 17 (Tests.revoking 1)) ∧
    ZeroField (Tests.taken 17 (Tests.revoking 1)) (17, 7) 5 3 ∧ ZeroField (Tests.taken 17 (Tests.revoking 1)) (17, 7) 12 4 ∧
    argAt (Tests.taken 17 (Tests.revoking 1)) (17, 7) 4 1 = 1 ∧ argAt (Tests.taken 17 (Tests.revoking 1)) (17, 7) 2 2 = 0 ∧
    exportOk (Tests.taken 17 (Tests.revoking 1)) 17 (argAt (Tests.taken 17 (Tests.revoking 1)) (17, 7) 8 4) = true ∧
    heldFor (Tests.taken 17 (Tests.revoking 1)) 70 = false ∧ InHand (17, 7) ruleWindowRevoke (Tests.revoking 0) (Tests.taken 17 (Tests.revoking 0)) ∧
    argAt (Tests.taken 17 (Tests.revoking 0)) (17, 7) 8 4 = 0 ∧ (fabWin (Tests.taken 17 (Tests.revoking 0)) (0, 0)).valid = true ∧
    (fabWin (Tests.taken 17 (Tests.revoking 0)) (0, 0)).tdev = argAt (Tests.taken 17 (Tests.revoking 0)) (17, 7) 0 2 ∧
    (fabWin (Tests.taken 17 (Tests.revoking 0)) (0, 0)).tdev ≠ (Tests.taken 17 (Tests.revoking 0)).devnum ∧
    InHand (17, 7) ruleKeyInstall Tests.keying (Tests.taken 17 Tests.keying) ∧ argAt (Tests.taken 17 Tests.keying) (17, 7) 0 2 = 4095 ∧
    ZeroField (Tests.taken 17 Tests.keying) (17, 7) 2 6 ∧ (partOf (Tests.taken 17 Tests.keying) 0).suspended = [] :=
  ⟨wit_inHand_of (by decide +kernel), wit_zero_of (by decide +kernel), wit_zero_of (by decide +kernel), by decide +kernel,
    by decide +kernel, by decide +kernel, by decide +kernel, wit_inHand_of (by decide +kernel), by decide +kernel,
    by decide +kernel, by decide +kernel, by decide +kernel, wit_inHand_of (by decide +kernel), by decide +kernel,
    wit_zero_of (by decide +kernel), by decide +kernel⟩

/-- A request made through the entry that is revoked, whose serial number is 9, is under way; and a revocation waits for it. -/
def Tests.revokingLater : State :=
  modAgent 1 (fun g => { g with rc := [⟨0, 5, .store 0x20100 [1, 2] .rc, [], false, some ⟨0, 0, 9, false⟩, 0x20100, 0, 0x10000, none, 0⟩] })
    { Tests.taken 17 (Tests.revoking 0) with revokes := [⟨17, 7, 2, [9]⟩] }

theorem wit_under_way : underWay Tests.revokingLater [9] = true ∧ underWay (Tests.taken 17 (Tests.revoking 0)) [9] = false ∧
    Tests.revokingLater.revokes = [⟨17, 7, 2, [9]⟩] ∧ holdsChain Tests.revokingLater (17, 7) = true ∧
    (∀ r ∈ (Tests.taken 17 (Tests.revoking 0)).revokes, ¬(r.queue = 17 ∧ r.buf = 7)) ∧
    (∀ r ∈ (Tests.taken 17 (Tests.revoking 1)).revokes, ¬(r.queue = 17 ∧ r.buf = 7)) := by
  and_intros <;> decide +kernel

/-- Export 70 of partition 0, which is frozen or not. -/
def Tests.exported (frozen : Bool) : State :=
  modPart 0 (fun p => { p with frozen := frozen }) { Tests.site with exports := [(70, ⟨0x20000, 0x10000, 3, 0, true, 1, 0, 1⟩)] }

theorem wit_peers : (Tests.exported false).exports.get? 70 = some ⟨0x20000, 0x10000, 3, 0, true, 1, 0, 1⟩ ∧ (partOf (Tests.exported false) 0).frozen = false ∧
    (partOf (Tests.exported true) 0).frozen = true ∧ (0xFFF8 + 8 ≤ (0x10000 : DWord).toNat ∧ (0x10000 : DWord).toNat < 0xFFF9 + 8) ∧
    rangeOf (Tests.exported false) (hubView (Tests.exported false) 1) true ((0x20000 : DWord).toNat + 0xFFF8) 8 = .ok [⟨0x2FFF8, 8, .rc, none⟩] ∧
    (∀ e ∈ (Tests.exported false).launches, 6 ≤ e.2.stage) ∧ (Tests.exported false).holds = [] ∧ (Tests.exported false).waits = [] ∧
    Tests.site.heldReqs = [] ∧ Tests.site.exports.get? 70 = none :=
  by and_intros <;> decide +kernel

def Tests.port (f : Port → Port) : State := { Tests.site with stage := 7, ports := [(35, f { (default : Port) with up := true })] }
/-- INJECT on port 35 with the action and the mask given. -/
def Tests.injecting (action mask : Nat) : State :=
  Tests.inHand 0 0x49 (natLe 1 35 ++ natLe 1 7 ++ natLe 1 action ++ natLe 1 0 ++ natLe 4 1 ++ natLe 4 65535 ++ natLe 4 mask ++ natLe 4 4096 ++ natLe 4 0) Tests.site

theorem wit_ports : (Tests.port id).stage = 7 ∧
    keyHolders (modPart 0 (fun p => { p with keys := [(4095, [])] }) { Tests.port id with devnum := 1 }) 8 4095 = [0] ∧
    (partOf (Tests.port id) 0).suspended = [] ∧ (portOf (Tests.port id) 35).up = true ∧ (portOf Tests.site 35).up = false ∧ (portOf (Tests.port fun p => { p with failed := 8 }) 35).failed = 8 ∧
    (portOf (Tests.port fun p => { p with lost := 2 }) 35).lost = 2 ∧ (Tests.site.partitions.get? 0).isSome ∧
    (portOf (Tests.port fun p => { p with tagFails := [(tripleOf 8 4095, 3)] }) 35).tagFails.getD (tripleOf 8 4095) 0 + 1 = 4 ∧
    InHand (0, 7) ruleInject (Tests.injecting 2 1) (Tests.taken 0 (Tests.injecting 2 1)) ∧ argAt (Tests.taken 0 (Tests.injecting 2 1)) (0, 7) 0 1 = 35 ∧
    argAt (Tests.taken 0 (Tests.injecting 2 1)) (0, 7) 1 1 = 7 ∧ ZeroField (Tests.taken 0 (Tests.injecting 2 1)) (0, 7) 3 1 ∧
    ZeroField (Tests.taken 0 (Tests.injecting 2 1)) (0, 7) 20 4 ∧ argAt (Tests.taken 0 (Tests.injecting 2 1)) (0, 7) 8 4 = 65535 ∧
    argAt (Tests.taken 0 (Tests.injecting 2 1)) (0, 7) 12 4 = 1 ∧ argAt (Tests.taken 0 (Tests.injecting 2 1)) (0, 7) 16 4 = 4096 ∧
    InHand (0, 7) ruleInject (Tests.injecting 0 0) (Tests.taken 0 (Tests.injecting 0 0)) ∧
    (portOf (Tests.port fun p => { p with inj := some ⟨0, 1, 1, 1, 1, 1, 0, 0⟩ }) 35).inj = some ⟨0, 1, 1, 1, 1, 1, 0, 0⟩ ∧
    (portOf (Tests.port fun p => { p with inj := some ⟨0, 4, 5, 2, 1, 1, 3, 0⟩ }) 35).inj = some ⟨0, 4, 5, 2, 1, 1, 3, 0⟩ :=
  ⟨by decide +kernel, by decide +kernel, by decide +kernel, by decide +kernel, by decide +kernel, by decide +kernel, by decide +kernel,
    by decide +kernel, by decide +kernel, wit_inHand_of (by decide +kernel), by decide +kernel, by decide +kernel,
    wit_zero_of (by decide +kernel), wit_zero_of (by decide +kernel), by decide +kernel, by decide +kernel, by decide +kernel,
    wit_inHand_of (by decide +kernel), by decide +kernel, by decide +kernel⟩

def Tests.storageBind : State :=
  Tests.inHand 17 14 (natLe 8 0x20000 ++ natLe 8 0x30000 ++ natLe 8 0x40000 ++ natLe 8 0x40008 ++ natLe 2 8 ++ natLe 2 15 ++ natLe 4 1) Tests.site

theorem wit_storage_bind : InHand (17, 7) ruleStorageBind Tests.storageBind (Tests.taken 17 Tests.storageBind) ∧
    isPow2In 8 1024 (argAt (Tests.taken 17 Tests.storageBind) (17, 7) 32 2) = true ∧
    queueIndex (Tests.taken 17 Tests.storageBind) (fnOfQueue (Tests.taken 17 Tests.storageBind) 17) (argAt (Tests.taken 17 Tests.storageBind) (17, 7) 34 2) = some 31 ∧
    ContextOk (Tests.taken 17 Tests.storageBind) (17, 7) 36 ∧ badLeaf (Tests.taken 17 Tests.storageBind) 1 0x20000 512 (fun f => f.kind == .device) = none ∧
    badLeaf (Tests.taken 17 Tests.storageBind) 1 0x30000 512 (fun f => f.w && f.kind == .device) = none ∧
    deviceKey (Tests.taken 17 Tests.storageBind) 1 false 0x40000 = some 0x40000 ∧ deviceKey (Tests.taken 17 Tests.storageBind) 1 true 0x40008 = some 0x40008 :=
  ⟨wit_inHand_of (by decide +kernel), by decide +kernel, by decide +kernel, wit_ctx_of (by decide +kernel), by decide +kernel,
    by decide +kernel, by decide +kernel, by decide +kernel⟩

/-- Pair 80 with one request to serve, of the operation given, and a buffer of queue 31. -/
def Tests.pair : StoragePair := ⟨0x20000, 0x30000, 0x40000, 0x40008, 8, 31, 1, 7, [(1, 8)], []⟩
def Tests.request (op : Nat) : List Byte := natLe 4 op ++ natLe 4 1 ++ natLe 8 0x99 ++ natLe 8 0x100000 ++ natLe 4 4096 ++ List.replicate 36 0
def Tests.serving (op : Nat) : State :=
  writeBytes 0x201C0 (Tests.request op) (writeNat 0x40000 8 8 (modQueue 31 (fun k => { k with enabled := true, mapped := true, avail := [(9, [(0x7000, 64, 2)])] })
    { Tests.site with storage := [(80, Tests.pair)] }))

theorem wit_storage_serve : (Tests.serving 1).Canonical ∧ (Tests.serving 1).storage.get? 80 = some Tests.pair ∧ Tests.pair.served < pairValue (Tests.serving 1) Tests.pair false Tests.pair.subSig ∧
    rangeOf (Tests.serving 1) (hubView (Tests.serving 1) 1) false (0x20000 + 64 * (7 % 8)) 64 = .ok [⟨0x201C0, 64, .rc, none⟩] ∧
    (readPieces (Tests.serving 1) [⟨0x201C0, 64, .rc, none⟩]).length = 64 ∧
    requestCause (Tests.serving 1) Tests.pair (readPieces (Tests.serving 1) [⟨0x201C0, 64, .rc, none⟩]) ((posterOf Tests.pair 7).map fun q => (sqd (Tests.serving 1) q).lid) = none ∧
    queueUp (Tests.serving 1) 31 = true ∧ (queueOf (Tests.serving 1) 31).avail = [(9, [(0x7000, 64, 2)])] ∧
    chainFault (Tests.serving 1) 31 (9, [(0x7000, 64, 2)]) = none ∧ 64 ≤ writableLen [((0x7000 : DWord), 64, 2)] ∧
    (queueOf (Tests.serving 1) 31).lost = false ∧ descWritable (0x7000, 64, 2) = true ∧ writableLen [((0x7000 : DWord), 15, 2)] < 16 ∧
    requestCause (Tests.serving 4) Tests.pair (readPieces (Tests.serving 4) [⟨0x201C0, 64, .rc, none⟩]) ((posterOf Tests.pair 7).map fun q => (sqd (Tests.serving 4) q).lid) = some 0x13 :=
  ⟨by unfold State.Canonical; decide +kernel, by decide +kernel, by decide +kernel, by decide +kernel, by decide +kernel,
    by decide +kernel, by decide +kernel, by decide +kernel, by decide +kernel, by decide +kernel, by decide +kernel, by decide +kernel,
    by decide +kernel, by decide +kernel⟩

/-- The same with a chain of no 16 bytes. -/
def Tests.servingShort : State := modQueue 31 (fun k => { k with avail := [(9, [(0x7000, 15, 2)])] }) (Tests.serving 1)

theorem wit_storage_short : chainFault Tests.servingShort 31 (9, [(0x7000, 15, 2)]) = none ∧ queueUp Tests.servingShort 31 = true ∧
    (queueOf Tests.servingShort 31).avail = [(9, [(0x7000, 15, 2)])] ∧ (queueOf Tests.servingShort 31).lost = false ∧
    rangeOf Tests.servingShort (hubView Tests.servingShort 1) false (0x20000 + 64 * (7 % 8)) 64 = .ok [⟨0x201C0, 64, .rc, none⟩] ∧
    requestCause Tests.servingShort Tests.pair (readPieces Tests.servingShort [⟨0x201C0, 64, .rc, none⟩])
      ((posterOf Tests.pair 7).map fun q => (sqd Tests.servingShort q).lid) = none := by
  and_intros <;> decide +kernel

theorem wit_write_done : rangeOf (Tests.serving 1) (hubView (Tests.serving 1) 1) true (0x30000 + 64 * 7) 16 = .ok [⟨0x301C0, 16, .rc, none⟩] ∧
    (∀ e ∈ (Tests.serving 1).launches, 6 ≤ e.2.stage) ∧ (Tests.serving 1).waits = [] ∧ (agt (Tests.serving 1) (queueAgent 31)).place.onCore = false ∧ (Tests.serving 1).holds = [] ∧
    deviceKey (Tests.serving 1) 1 true Tests.pair.compSig = some 0x40008 ∧ readNat (Tests.serving 1) 0x40008 8 < 2 ^ 64 - 1 ∧ 0x301C0 + 16 ≤ 0x40008 :=
  by and_intros <;> decide +kernel

/-- STORAGE_DONE of the tag and generation given, launch 1 being at generation 6 and the pair having one request out. -/
def Tests.done (gen : Nat) : State :=
  Tests.inHand 17 15 (natLe 4 80 ++ natLe 4 gen ++ natLe 8 0x99 ++ natLe 4 0 ++ natLe 4 4096)
    (modLaunch 1 (fun l => { l with generation := 6 }) { Tests.site with storage := [(80, { Tests.pair with out := [⟨7, 0x99, 6, 1, 0, 0⟩, ⟨6, 0x99, 5, 1, 0, 0⟩] })] })

theorem wit_storage_done : InHand (17, 7) ruleStorageDone (Tests.done 4) (Tests.taken 17 (Tests.done 4)) ∧ ownsPair (Tests.taken 17 (Tests.done 4)) 17 80 = true ∧
    ((Tests.taken 17 (Tests.done 4)).storage.getD 80 default).out.all (fun r => !(r.gen == argAt (Tests.taken 17 (Tests.done 4)) (17, 7) 4 4 && r.tag == 0x99)) = true ∧
    InHand (17, 7) ruleStorageDone (Tests.done 5) (Tests.taken 17 (Tests.done 5)) ∧ bindingLive (Tests.taken 17 (Tests.done 5)) ⟨6, 0x99, 5, 1, 0, 0⟩ = false ∧
    ((Tests.taken 17 (Tests.done 5)).storage.getD 80 default).out.find? (fun r => r.gen == 5 && r.tag == 0x99) = some ⟨6, 0x99, 5, 1, 0, 0⟩ ∧
    InHand (17, 7) ruleStorageDone (Tests.done 6) (Tests.taken 17 (Tests.done 6)) ∧ bindingLive (Tests.taken 17 (Tests.done 6)) ⟨7, 0x99, 6, 1, 0, 0⟩ = true ∧
    ((Tests.taken 17 (Tests.done 6)).storage.getD 80 default).out.find? (fun r => r.gen == 6 && r.tag == 0x99) = some ⟨7, 0x99, 6, 1, 0, 0⟩ :=
  ⟨wit_inHand_of (by decide +kernel), by decide +kernel, by decide +kernel, wit_inHand_of (by decide +kernel), by decide +kernel,
    by decide +kernel, wit_inHand_of (by decide +kernel), by decide +kernel, by decide +kernel⟩

/-! ### Debugging, management, the transport, bring-up and steps (O51 to O55, O58) -/

/-- DEBUG of an operation on launch 1 and the squad given. -/
def Tests.debugging (op g : Nat) : State :=
  Tests.inHand 17 16 (natLe 1 op ++ natLe 3 0 ++ natLe 4 1 ++ natLe 4 g ++ natLe 4 1 ++ natLe 8 0x60000 ++ natLe 8 64 ++ natLe 4 9 ++ natLe 4 0)
    (Tests.withThread fun th => { th with inWave := false, dbg := true })
def Tests.debugTaken (op g : Nat) : State := Tests.taken 17 (Tests.debugging op g)

theorem wit_debug : InHand (17, 7) ruleDebug (Tests.debugging 1 3) (Tests.debugTaken 1 3) ∧ ZeroField (Tests.debugTaken 1 3) (17, 7) 1 3 ∧
    ZeroField (Tests.debugTaken 1 3) (17, 7) 36 4 ∧ launchOk (Tests.debugTaken 1 3) 17 1 = true ∧ argAt (Tests.debugTaken 1 3) (17, 7) 0 1 = 1 ∧
    namedSquads (Tests.debugTaken 1 3) 1 3 = [1] ∧ liveOf (Tests.debugTaken 1 3) 1 = [32, 33] ∧
    InHand (17, 7) ruleDebug (Tests.debugging 2 everySquad) (Tests.debugTaken 2 everySquad) ∧ argAt (Tests.debugTaken 2 everySquad) (17, 7) 0 1 = 2 ∧
    namedSquads (Tests.debugTaken 2 everySquad) 1 everySquad = [1] ∧ InHand (17, 7) ruleDebug (Tests.debugging 3 3) (Tests.debugTaken 3 3) ∧
    (threadsOf (Tests.debugTaken 3 3) 1).filter (steppable (Tests.debugTaken 3 3)) = [32, 33] ∧
    InHand (17, 7) ruleDebug (Tests.debugging 3 2) (Tests.debugTaken 3 2) ∧ namedSquads (Tests.debugTaken 3 2) 1 2 = [] :=
  ⟨wit_inHand_of (by decide +kernel), wit_zero_of (by decide +kernel), wit_zero_of (by decide +kernel), by decide +kernel,
    by decide +kernel, by decide +kernel, by decide +kernel, wit_inHand_of (by decide +kernel), by decide +kernel,
    by decide +kernel, wit_inHand_of (by decide +kernel), by decide +kernel, wit_inHand_of (by decide +kernel), by decide +kernel⟩

theorem wit_debug_more : InHand (17, 7) ruleDebug (Tests.debugging 4 3) (Tests.debugTaken 4 3) ∧ argAt (Tests.debugTaken 4 3) (17, 7) 32 4 = 9 ∧
    InHand (17, 7) ruleDebug (Tests.debugging 5 3) (Tests.debugTaken 5 3) ∧ argAt (Tests.debugTaken 5 3) (17, 7) 16 8 % 16 = 0 ∧
    argAt (Tests.debugTaken 5 3) (17, 7) 24 8 = 64 ∧ namedSquads (Tests.debugTaken 5 3) 1 3 = [1] ∧ (dumpOf (Tests.debugTaken 5 3) 1 3 [1] 64).length = 64 ∧
    rangeOf (Tests.debugTaken 5 3) (hubView (Tests.debugTaken 5 3) (launchOf (Tests.debugTaken 5 3) 1).ctx) true 0x60000 64 = .ok [⟨0x60000, 64, .rc, none⟩] ∧
    Quiet (Tests.debugTaken 5 3) none ∧
    InHand (17, 7) ruleDebug (Tests.debugging 6 3) (Tests.debugTaken 6 3) ∧ launchOk (Tests.debugTaken 6 3) 17 1 = true ∧
    InHand (17, 7) ruleDebug (Tests.debugging 7 3) (Tests.debugTaken 7 3) ∧ ContextOk (Tests.debugTaken 7 3) (17, 7) 12 ∧
    argAt (Tests.debugTaken 7 3) (17, 7) 24 8 = 64 ∧ inWindows (argAt (Tests.debugTaken 7 3) (17, 7) 16 8) = false :=
  ⟨wit_inHand_of (by decide +kernel), by decide +kernel, wit_inHand_of (by decide +kernel), by decide +kernel, by decide +kernel,
    by decide +kernel, by decide +kernel, by decide +kernel, wit_quiet_none _, wit_inHand_of (by decide +kernel), by decide +kernel,
    wit_inHand_of (by decide +kernel), wit_ctx_of (by decide +kernel), by decide +kernel, by decide +kernel⟩

/-- Squad 0 of launch 1 has not been loaded; the threads of squad 1 stand by themselves, with nothing suspended. -/
theorem wit_debug_unloaded :
    0 ∈ unloadedNumbers (modLaunch 1 (fun l => { l with hdr := { l.hdr with clusters := 1 } }) (Tests.debugTaken 1 everySquad)) 1 everySquad ∧
    namedSquads (Tests.debugTaken 1 0) 1 0 = [] ∧ (Tests.debugTaken 2 everySquad).waits = [] ∧
    (∀ u ∈ [32, 33], (thr (Tests.debugTaken 2 everySquad) u).frozen = none ∧ (thr (Tests.debugTaken 2 everySquad) u).susp = none) := by
  and_intros <;> decide +kernel

def Tests.creating : State := Tests.inHand 16 0x40 (natLe 8 0x1000 ++ natLe 4 0xFFFFF ++ natLe 4 0) Tests.site
/-- CONTEXT_DESTROY of context 1, with the requests of its storage pair given. -/
def Tests.destroying (out : List StorageReq) : State :=
  Tests.inHand 16 0x41 (natLe 4 1) { Tests.site with storage := [(80, { Tests.pair with out := out })] }
def Tests.invalidating : State := Tests.inHand 16 0x42 (natLe 8 0x20000 ++ natLe 8 4096 ++ natLe 4 1 ++ natLe 4 0) Tests.site

def Tests.invalidatingWindow : State := Tests.inHand 16 0x42 (natLe 8 0xFFFFF10000000000 ++ natLe 8 4096 ++ natLe 4 1 ++ natLe 4 0) Tests.site

theorem wit_invalidate_window : inWindows (argAt (Tests.taken 16 Tests.invalidating) (16, 7) 0 8) = false ∧
    InHand (16, 7) ruleTlbInvalidate Tests.invalidatingWindow (Tests.taken 16 Tests.invalidatingWindow) ∧
    ContextOk (Tests.taken 16 Tests.invalidatingWindow) (16, 7) 16 ∧ ZeroField (Tests.taken 16 Tests.invalidatingWindow) (16, 7) 20 4 ∧
    inWindows (argAt (Tests.taken 16 Tests.invalidatingWindow) (16, 7) 0 8) = true :=
  ⟨by decide +kernel, wit_inHand_of (by decide +kernel), wit_ctx_of (by decide +kernel), wit_zero_of (by decide +kernel), by decide +kernel⟩

theorem wit_contexts : InHand (16, 7) ruleContextCreate Tests.creating (Tests.taken 16 Tests.creating) ∧ argAt (Tests.taken 16 Tests.creating) (16, 7) 0 8 % 4096 = 0 ∧
    deviceAddrOk (argAt (Tests.taken 16 Tests.creating) (16, 7) 0 8) = true ∧ argAt (Tests.taken 16 Tests.creating) (16, 7) 8 4 + 1 = 2 ^ 20 ∧
    ZeroField (Tests.taken 16 Tests.creating) (16, 7) 12 4 ∧ partOfQueue (Tests.taken 16 Tests.creating) 16 = some 0 ∧
    InHand (16, 7) ruleContextDestroy (Tests.destroying []) (Tests.taken 16 (Tests.destroying [])) ∧ ContextOk (Tests.taken 16 (Tests.destroying [])) (16, 7) 0 ∧
    InHand (16, 7) ruleContextDestroy (Tests.destroying [default]) (Tests.taken 16 (Tests.destroying [default])) ∧
    ((Tests.taken 16 (Tests.destroying [default])).storage.getD 80 default).out ≠ [] ∧
    InHand (16, 7) ruleTlbInvalidate Tests.invalidating (Tests.taken 16 Tests.invalidating) ∧ ContextOk (Tests.taken 16 Tests.invalidating) (16, 7) 16 ∧
    ZeroField (Tests.taken 16 Tests.invalidating) (16, 7) 20 4 :=
  ⟨wit_inHand_of (by decide +kernel), by decide +kernel, by decide +kernel, by decide +kernel, wit_zero_of (by decide +kernel),
    by decide +kernel, wit_inHand_of (by decide +kernel), wit_ctx_of (by decide +kernel), wit_inHand_of (by decide +kernel),
    by decide +kernel, wit_inHand_of (by decide +kernel), wit_ctx_of (by decide +kernel), wit_zero_of (by decide +kernel)⟩

def Tests.regions (q : Nat) : State := Tests.inHand q 0x43 (natLe 8 0x1000000 ++ natLe 8 0x100000 ++ natLe 8 0x2000000 ++ natLe 8 0x100000) Tests.site
def Tests.tolerance : State := Tests.inHand 16 0x44 (natLe 2 15 ++ natLe 2 0 ++ natLe 4 (2 ^ 24 - 1)) Tests.site
/-- CELLAR_GRANT of the whole of every Cellar to partition 7. -/
def Tests.cellarGranting : State := Tests.inHand 0 0x45 (natLe 1 7 ++ natLe 1 0xFF ++ natLe 6 0 ++ natLe 4 0 ++ natLe 4 3072) Tests.site

theorem wit_management : InHand (16, 7) ruleSetRegions (Tests.regions 16) (Tests.taken 16 (Tests.regions 16)) ∧ partOfQueue (Tests.taken 16 (Tests.regions 16)) 16 = some 0 ∧
    InHand (0, 7) ruleSetRegions (Tests.regions 0) (Tests.taken 0 (Tests.regions 0)) ∧ partOfQueue (Tests.taken 0 (Tests.regions 0)) 0 = none ∧
    InHand (16, 7) ruleSetTolerance Tests.tolerance (Tests.taken 16 Tests.tolerance) ∧
    queueIndex (Tests.taken 16 Tests.tolerance) (fnOfQueue (Tests.taken 16 Tests.tolerance) 16) (argAt (Tests.taken 16 Tests.tolerance) (16, 7) 0 2) = some 31 ∧
    ZeroField (Tests.taken 16 Tests.tolerance) (16, 7) 2 2 ∧ argAt (Tests.taken 16 Tests.tolerance) (16, 7) 4 4 + 1 = 2 ^ 24 ∧
    InHand (0, 7) ruleCellarGrant Tests.cellarGranting (Tests.taken 0 Tests.cellarGranting) ∧ argAt (Tests.taken 0 Tests.cellarGranting) (0, 7) 0 1 = 7 ∧
    ZeroField (Tests.taken 0 Tests.cellarGranting) (0, 7) 2 6 ∧
    argAt (Tests.taken 0 Tests.cellarGranting) (0, 7) 8 4 + argAt (Tests.taken 0 Tests.cellarGranting) (0, 7) 12 4 = 3072 ∧
    grantsMeet (Tests.taken 0 Tests.cellarGranting) 7 (diesOf 0xFF) 0 3072 = false :=
  ⟨wit_inHand_of (by decide +kernel), by decide +kernel, wit_inHand_of (by decide +kernel), by decide +kernel,
    wit_inHand_of (by decide +kernel), by decide +kernel, wit_zero_of (by decide +kernel), by decide +kernel,
    wit_inHand_of (by decide +kernel), by decide +kernel, wit_zero_of (by decide +kernel), by decide +kernel, by decide +kernel⟩

/-- PARTITION gives partition 7 cluster 191 and group 63. -/
def Tests.parting : State :=
  Tests.inHand 0 0x46 (natLe 1 7 ++ natLe 7 0 ++ natLe 24 (2 ^ 191) ++ natLe 8 (2 ^ 63)) { Tests.site with launches := [], fifos := [], blocks := [] }
def Tests.routing (cls owner : Nat) : State := Tests.inHand 0 0x47 (natLe 1 cls ++ natLe 1 owner ++ natLe 6 0) Tests.site
/-- The EVENT_ROUTE of buffer 7 has claimed class 9 for the Porters. -/
def Tests.classClaimed : State :=
  { modQueue 0 (fun k => { k with fetched := [(7, [(0x6000, 16, 2)])] }) Tests.site with claimants := [⟨9, 0, 0, 7⟩] }
def Tests.imaging : State :=
  Tests.inHand 0 0x48 (natLe 8 0x100000 ++ natLe 8 2888 ++ natLe 8 (2 ^ 63)) (writeBytes (hostKey 0x100008) (natLe 4 4) Tests.site)

theorem wit_partition : InHand (0, 7) rulePartition Tests.parting (Tests.taken 0 Tests.parting) ∧ argAt (Tests.taken 0 Tests.parting) (0, 7) 0 1 = 7 ∧
    ZeroField (Tests.taken 0 Tests.parting) (0, 7) 1 7 ∧ clustersIn (argAt (Tests.taken 0 Tests.parting) (0, 7) 8 24) = [191] ∧
    (List.range 64).filter (fun g => fld (argAt (Tests.taken 0 Tests.parting) (0, 7) 32 8) g 1 == 1) = [63] ∧
    (Tests.taken 0 Tests.parting).launches = [] ∧ groupsMoved (Tests.taken 0 Tests.parting) 8 [63] = [63] ∧
    groupQueues (Tests.taken 0 Tests.parting) 63 = [] ∧ InHand (0, 7) ruleEventRoute (Tests.routing 9 0) (Tests.taken 0 (Tests.routing 9 0)) ∧
    ZeroField (Tests.taken 0 (Tests.routing 9 0)) (0, 7) 2 6 ∧ ownerAllowed 9 0 = true ∧
    InHand (0, 7) ruleEventRoute (Tests.routing 2 1) (Tests.taken 0 (Tests.routing 2 1)) ∧ ownerAllowed 2 1 = false ∧
    (Tests.routing 9 0).claimants = [] ∧ (Tests.classClaimed.claimants.find? fun x => x.queue == 0 && x.buf == 7) = some ⟨9, 0, 0, 7⟩ ∧
    holdsChain Tests.classClaimed (0, 7) = true :=
  ⟨wit_inHand_of (by decide +kernel), by decide +kernel, wit_zero_of (by decide +kernel), by decide +kernel, by decide +kernel,
    by decide +kernel, by decide +kernel, by decide +kernel, wit_inHand_of (by decide +kernel), wit_zero_of (by decide +kernel),
    by decide +kernel, wit_inHand_of (by decide +kernel), by decide +kernel, by decide +kernel, by decide +kernel, by decide +kernel⟩

theorem wit_image : InHand (0, 7) rulePorterImage Tests.imaging (Tests.taken 0 Tests.imaging) ∧ argAt (Tests.taken 0 Tests.imaging) (0, 7) 8 8 = 2888 ∧
    64 + imageLength (readBytes (Tests.taken 0 Tests.imaging) (hostKey (argAt (Tests.taken 0 Tests.imaging) (0, 7) 0 8))
      (min (argAt (Tests.taken 0 Tests.imaging) (0, 7) 8 8) (bodyLimit 2 + 64 + signatureLen))) + signatureLen = 2888 ∧
    groupQueues (Tests.taken 0 Tests.imaging) 63 = [] :=
  ⟨wit_inHand_of (by decide +kernel), by decide +kernel, by decide +kernel, by decide +kernel⟩

/-- The device is up, function 8 has a group and has agreed or not. -/
def Tests.up (status : Nat) (ats : Bool) : State :=
  { Tests.site with stage := 8, functions := [(8, { Function.reset with groups := [63], status := status, ats := ats, pri := ats, features := 2 ^ 40 - 1 })] }
def Tests.queue (f : Queue → Queue) : State := modQueue 1023 (fun k => f { k with enabled := true, mapped := true }) (Tests.up 8 true)

theorem wit_transport : queueHeld (Tests.up 8 true) 1023 = true ∧ mgmtQueue (Tests.up 8 true) (fnOfQueue (Tests.up 8 true) 1023) ≠ some 1023 ∧
    Tests.site.stage < 8 ∧ 8 ≤ (Tests.up 0 true).stage ∧ fld (fnOf (Tests.up 0 true) 8).status 3 1 = 0 ∧
    acceptable (Tests.up 0 true) 8 (2 ^ 0 + 2 ^ 9 + 2 ^ 32 + 2 ^ 33 + 2 ^ 34 + 2 ^ 36) = true ∧
    acceptable (Tests.up 0 false) 8 (2 ^ 0 + 2 ^ 9 + 2 ^ 32 + 2 ^ 33 + 2 ^ 34 + 2 ^ 36) = false ∧
    (queueOf (Tests.up 8 true) 1023).enabled = false ∧ fld (fnOf (Tests.up 8 true) (fnOfQueue (Tests.up 8 true) 1023)).status 3 1 = 1 ∧
    (queueOf (Tests.queue id) 1023).enabled = true ∧ (queueOf (Tests.queue id) 1023).mapped = true ∧
    15 ∈ (porterOf (modPorter 63 (fun k => { k with armed := [15] }) (Tests.queue id)) (1023 / 16)).armed ∧ 15 ∉ (porterOf (Tests.queue id) (1023 / 16)).armed ∧
    (queueOf (Tests.queue fun k => { k with mapped := false, shadow := true }) 1023).mapped = false ∧
    (porterOf (modPorter 63 (fun k => { k with halted := false }) (Tests.queue fun k => { k with mapped := false, shadow := true })) (1023 / 16)).halted = false ∧
    (queueOf (Tests.up 8 true) 1023).fetched = [] ∧ (queueOf (Tests.up 8 true) 1023).avail = [] ∧
    (queueOf (Tests.queue fun k => { k with shadow := true }) 1023).shadow = true ∧
    mgmtQueue (Tests.up 8 true) 8 = some 1008 ∧ fnOfQueue (Tests.up 8 true) 1008 = 8 ∧
    partOfQueue (Tests.queue id) 1023 = some 7 ∧ (partOf (Tests.queue id) 7).frozen = false :=
  by and_intros <;> decide +kernel

/-- Function 8 has been reset, and its queue is not enabled; a chain whose second buffer cannot be reached, and a ring that can be written
no more. -/
theorem wit_notified : NothingToTell (Tests.queue id) 1023 ∧ NothingToTell (Tests.queue fun k => { k with mapped := false, shadow := true }) 1023 ∧
    ([] : HostStores).foldl hostWrite (Tests.queue id) = Tests.queue id ∧ (queueOf (Tests.up 8 true) 1023).away = false ∧
    (queueOf (modQueue 1023 (fun k => { k with away := true }) (Tests.up 8 true)) 1023).away = true ∧
    4 % 3 = 1 ∧ ([(0x5000, 16, 0), (0x6000, 16, 2)] : Descriptors)[4 / 3]? = some (0x6000, 16, 2) ∧ 3 % 3 = 0 ∧ 5 % 3 = 2 ∧
    Tests.site.Canonical ∧ 0x5000 + [(1 : Byte)].length ≤ 2 ^ 64 :=
  ⟨.inl (by decide +kernel), .inl (by decide +kernel), rfl, by decide +kernel, by decide +kernel, by decide, by decide, by decide, by decide,
    by unfold State.Canonical; decide +kernel, by decide⟩

/-- Partition 0's queue 17 is enabled and holds launch 1, no squad of which has been loaded; the partition is frozen or not. -/
def Tests.resetting (ended frozen : Bool) : State :=
  modPart 0 (fun p => { p with frozen := frozen }) (modQueue 17 (fun k => { k with enabled := true, mapped := true })
    (modLaunch 1 (fun l => { l with queue := 17, ended := ended, blocks := [] }) { Tests.site with squads := [] }))

/-- The same without launches, with a command in hand, or a buffer for records. -/
def Tests.abandoning : State :=
  { modQueue 17 (fun k => { k with fetched := [(7, [(0x5000, 16, 0), (0x6000, 16, 2)])] }) (Tests.resetting true false) with launches := [] }

theorem wit_abandoned : (queueOf Tests.abandoning 17).fetched = [(7, [(0x5000, 16, 0), (0x6000, 16, 2)])] ∧ Tests.abandoning.launches = [] ∧
    isRecordBuffer [(0x5000, 16, 0), (0x6000, 16, 2)] = false ∧ isRecordBuffer [(0x6000, 32, 2)] = true ∧
    (queueOf (Tests.resetting true false) 17).fetched = [] ∧ (queueOf (Tests.resetting false false) 17).fetched = [] ∧
    ∀ q ∈ partQueues (Tests.resetting true true) 0, mgmtQueue (Tests.resetting true true) (fnOfQueue (Tests.resetting true true) q) ≠ some q := by
  and_intros <;> decide +kernel

theorem wit_resets : (∀ q ∈ partQueues (Tests.resetting true true) 0, (fnOf (Tests.resetting true true) (fnOfQueue (Tests.resetting true true) q)).records = []) ∧
    (∀ e ∈ (Tests.resetting true false).launches, e.2.ended = true) ∧ (Tests.resetting false false).launches.keys = [1] ∧
    (launchOf (Tests.resetting false false) 1).queue = 17 ∧ (launchOf (Tests.resetting false false) 1).ended = false ∧
    squadsOf (Tests.resetting false false) 1 = [] ∧ (launchOf (Tests.resetting false false) 1).blocks = [] ∧ 17 / 16 ∈ (fnOf (Tests.resetting true false) 1).groups ∧
    ((Tests.resetting true false).partitions.get? 0).isSome ∧ hasFeature (Tests.resetting true false) 0 11 = true ∧ partQueues (Tests.resetting true true) 0 = [17] ∧
    (partOf (Tests.resetting true true) 0).frozen = true ∧ (Tests.resetting true true).heldReqs = [] ∧
    (∀ e ∈ (Tests.resetting true true).launches, 6 ≤ e.2.stage) ∧ (Tests.resetting true true).holds = [] ∧ (Tests.resetting true true).waits = [] :=
  by and_intros <;> decide +kernel

/-- The stage given; two clusters out of use. -/
def Tests.stage (n : Nat) : State :=
  { State.reset with stage := n, shutDown := some 5, config := { ConfigRecord.reset with disabled := [191] }, mapOuts := [⟨2, 2 ^ 57 + 3 * 256⟩] }

theorem wit_bring_up : ((List.range 9).map fun n => (Tests.stage n).stage) = List.range 9 ∧ clustersOut (Tests.stage 4) = [191, 3] ∧
    191 * 8 + 7 ∈ clusterCores 191 ∧ (0 : Nat) ∉ ([191, 3] : List Nat).flatMap clusterCores ∧ fld (2 ^ 35) 35 1 = 1 ∧
    (Tests.stage 7).shutDown = some 5 ∧ ((.pcieEnable, 8) : Instr × Nat) ∈ [(Instr.powerInputValid, 1), (.strongroomBoot, 2), (.strongroomInit, 3),
      (.hostClassStart, 4), (.hbmTrain, 5), (.porterStart, 6), (.pcieEnable, 8)] ∧ (Tests.stage 8).stage + 1 ≠ 8 :=
  by and_intros <;> decide +kernel

/-- Island 0 is powered, with the target given. -/
def Tests.island (t : Option Nat) : State := { Tests.site with islands := [(0, ⟨4, t, false, 650, []⟩)], throttled := t.isSome }

theorem wit_power : (Tests.island none).islands.get? 0 = some ⟨4, none, false, 650, []⟩ ∧ (Tests.island (some 2)).islands.get? 0 = some ⟨4, some 2, false, 650, []⟩ ∧
    (cor (Tests.island (some 2)) 0).slots ≠ [] ∧ (∀ c ∈ islandCores 0, (cor { Tests.island (some 2) with cores := [] } c).slots = []) ∧
    ((Instr.powerAboveDesign 3601 2 = .powerAboveDesign 3601 2 ∧ 3600 < 3601) ∧ 105 ≤ 105 ∧ 115 ≤ 115 ∧ 8 ≤ 8) ∧
    (Tests.island (some 2)).throttled = true ∧ (Tests.island none).throttled = false ∧ deviceAddrOk (0x1F / 32 * 32) = true ∧ deviceAddrOk (0x1F + 2 - 1) = true ∧
    ({ Tests.site with corrected := [(9, 254)] } : State).corrected.getD 9 0 + 1 = 255 ∧ ({ Tests.site with corrected := [(9, 255)] } : State).corrected.getD 9 0 + 1 = 256 ∧
    Tests.site.cellPhase.getD 7 0 % 1024 < 256 ∧ ({ Tests.site with cellPhase := [(7, 256)] } : State).cellPhase.getD 7 0 % 1024 = 256 :=
  by and_intros <;> decide +kernel

/-- The first place of stack 0's Garret, 1 GiB, in its stack. -/
def Tests.garret : Nat := Config.garretBase 0 % 1556481

/-- Stack 0's patrol stands at that place, where the snapshot of a piece of launch 1 is. -/
def Tests.patrolled : State :=
  { modLaunch 1 (fun l => { l with snapshots := [⟨2, [], [], 0⟩] }) Tests.site with
    patrol := [(0, 3221225472 - Config.patrolStart 0 % 3221225472 + Tests.garret * 2048)] }

theorem wit_turn (x y : Nat) (h : y < 1556481) :
    0 * 2 ^ 37 + (x + (3221225472 - x % 3221225472 + y * 2048)) % 3221225472 * 32 = y * 65536 := by omega
theorem wit_piece (y : Nat) (h : y < 1556481) : y * 65536 % 2 ^ 37 / 65536 = y ∧ y * 65536 / 2 ^ 37 % 8 = 0 := by omega

theorem wit_patrol_place : patrolNext Tests.patrolled 0 = Tests.garret * 65536 := by
  have h : Tests.patrolled.patrol.getD 0 0 = 3221225472 - Config.patrolStart 0 % 3221225472 + Tests.garret * 2048 := rfl
  have g : Tests.garret < 1556481 := Nat.mod_lt _ (by decide)
  have e : stackGranules = 3221225472 := by decide +kernel
  rw [patrolNext, h, e]
  exact wit_turn _ _ g

theorem wit_pieces : stackPieces - garretPieces Tests.patrolled + 1 = 1556481 ∧ 0 < garretPieces Tests.patrolled := by decide +kernel

theorem wit_patrol : slotAt Tests.patrolled (patrolNext Tests.patrolled 0) = some 0 ∧
    ∃ l x, Tests.patrolled.launches.get? 1 = some l ∧ x ∈ l.snapshots ∧ x.slot = 0 := by
  refine ⟨?_, _, _, rfl, List.mem_singleton.2 rfl, rfl⟩
  have g : Tests.garret < 1556481 := Nat.mod_lt _ (by decide)
  have d : homeDie (Tests.garret * 65536) = 0 := (wit_piece _ g).2
  have n : Tests.garret * 65536 % 2 ^ 37 / pieceBytes = Tests.garret := by
    rw [show pieceBytes = 65536 by decide]
    exact (wit_piece _ g).1
  have k : stackPieces - garretPieces Tests.patrolled + 1 = 1556481 := wit_pieces.1
  have c : 0 < garretPieces Tests.patrolled := wit_pieces.2
  simp only [wit_patrol_place, slotAt, garretStart, d, n, k]
  have e : Config.garretBase 0 % 1556481 = Tests.garret := rfl
  rw [e, if_pos ⟨Nat.le_refl _, Nat.lt_add_of_pos_right c⟩, Nat.sub_self]

/-- The next move is the word of slot 0, which is UNOP, an unimplemented word, or one outside memory. -/
def Tests.issuing (w pc : Nat) : State :=
  { modCore 0 (fun c => { c with slots := c.slots.adj 0 fun v => { v with pc := BitVec.ofNat 64 pc } }) (writeNat 0x10000 4 w Tests.site) with agenda := [.issue 0 0] }

theorem wit_step_core : (Tests.issuing 0x80000000 0x10000).agenda = [.issue 0 0] ∧
    ((cor (Tests.issuing 0x80000000 0x10000) 0).slots.get? 0).map (fun v => (v.active, v.slow, v.ending)) = some ([32, 33], none, []) ∧
    fetchAt (Tests.issuing 0x80000000 0x10000) 32 0x10000 = .word 0x80000000 ∧ decode 0x80000000 = .ok (.unop false) ∧
    mayIssue (setCursor 0 0 [32, 33] 0x10000 0x80000000 false (Tests.issuing 0x80000000 0x10000)) 0x80000000 = true ∧
    fetchAt (Tests.issuing 0xFFFFFFFF 0x10000) 32 0x10000 = .word 0xFFFFFFFF ∧ (decode 0xFFFFFFFF).toOption = none ∧
    mayIssue { setCursor 0 0 [32, 33] 0x10000 0x808C1003 false (Tests.issuing 0x808C1003 0x10000) with
      squads := [(1, { (sqd Tests.site 1) with pendS := [2] })] } 0x808C1003 = false ∧
    fetchAt (Tests.issuing 0 0x80000000) 32 0x80000000 = .bad 0x04 none ∧ (0x10002 : DWord).toNat % 4 ≠ 0 :=
  by and_intros <;> decide +kernel

/-- Porter 0 at a program counter, with the word given at its SRAM's beginning. -/
def Tests.porterAt (pc : Word) (w : Nat) (halted : Bool) : State :=
  { writeNat (sramKey 0 0) 4 w (modPorter 0 (fun k => { k with halted := halted, pc := pc }) Tests.site) with agenda := [.porter 0] }

theorem wit_step_porter : (Tests.porterAt 0 0x0005850B true).agenda = [.porter 0] ∧ (porterOf (Tests.porterAt 0 0 true) 0).halted = true ∧
    (porterOf (Tests.porterAt 0x40000 0 false) 0).halted = false ∧ 256 * 1024 < (porterOf (Tests.porterAt 0x40000 0 false) 0).pc.toNat + 4 ∧
    readNat (Tests.porterAt 0 0x0005850B false) (sramKey 0 0) 4 = 0x0005850B ∧ decodePorter 0x0005850B = .ok (.rfetch 10 11) ∧
    readNat (Tests.porterAt 0 0x13 false) (sramKey 0 0) 4 = 0x13 ∧ (decodePorter 0x13).toOption = none :=
  by and_intros <;> decide +kernel

/-- RV32I as the RISC-V manual encodes it: ADDI x1, x0, -1; MRET with mepc 0x40. -/
theorem test_rv_addi : (match step (Tests.porterAt 0 0xFFF00093 false) with
    | .next t => ((porterOf t 0).get 1, (porterOf t 0).pc)
    | _ => (0, 0)) = (0xFFFFFFFF, 4) := by decide +kernel
theorem wit_step_mret : readNat (Tests.porterAt 0 0x30200073 false) (sramKey 0 0) 4 = 0x30200073 ∧
    (porterOf (Tests.porterAt 0 0x30200073 false) 0).halted = false := by decide +kernel

/-- A device physical address outside stack 0's Garret, wherever that lies. -/
def Tests.outside : Nat := if Tests.garret = 0 then 16384 * 65536 else 0

/-- Where a place lies in no Garret of 16,384 pieces from `b` on. -/
theorem wit_no_slot (s : State) (a b : Nat) (h : Config.garretBase (homeDie a) % (stackPieces - garretPieces s + 1) = b)
    (c : garretPieces s = 16384) (o : ¬(b ≤ a % 2 ^ 37 / pieceBytes ∧ a % 2 ^ 37 / pieceBytes < b + 16384)) : slotAt s a = none := by
  simp only [slotAt, garretStart, h]
  rw [c]
  exact if_neg o

theorem wit_outside : Tests.outside < 2 ^ 40 ∧ slotAt Tests.site Tests.outside = none := by
  have k : stackPieces - garretPieces Tests.site + 1 = 1556481 := by decide +kernel
  have c : garretPieces Tests.site = 16384 := by decide +kernel
  have z : homeDie (16384 * 65536) = 0 ∧ homeDie 0 = 0 := by decide +kernel
  have e : ∀ a, homeDie a = 0 → Config.garretBase (homeDie a) % (stackPieces - garretPieces Tests.site + 1) = Tests.garret := by
    intro a h
    rw [h, k]
    rfl
  rw [Tests.outside]
  split
  next h => exact ⟨by decide, wit_no_slot _ _ _ (e _ z.1) c (by rw [h]; decide)⟩
  next h =>
    refine ⟨by decide, wit_no_slot _ _ _ (e _ z.2) c ?_⟩
    intro o
    exact h (Nat.le_zero.1 o.1)

theorem wit_under (y : Nat) (h : y < 1556481) : y * 65536 < 1099511627776 := by omega

/-- In the Garret: the place of the first snapshot of stack 0. -/
theorem wit_garret : Tests.garret * 65536 < 2 ^ 40 ∧ slotAt Tests.patrolled (Tests.garret * 65536) = some 0 := by
  have g : Tests.garret < 1556481 := Nat.mod_lt _ (by decide)
  have h := wit_patrol.1
  rw [wit_patrol_place] at h
  exact ⟨wit_under _ g, h⟩

theorem wit_step_moves : isEvent (.pick 0 0 none) = true ∧ State.reset.agenda = [] ∧ (Tests.site.threads.get? 32).isSome ∧ ¬(2 ^ 44 ≤ 0x20000 ∧ 0x20000 < 2 ^ 45) ∧
    encode (.unop false) ≠ none ∧ ({ Tests.site with agenda := [.upset (.v 32 127)] } : State).agenda = [.upset (.v 32 127)] ∧
    ({ Tests.site with agenda := [.event (.pick 0 0 none)] } : State).agenda = [.event (.pick 0 0 none)] :=
  by and_intros <;> decide +kernel

theorem wit_decoder : Laws.RoundTrip.decoderOf (.unop false) = decode := rfl

end
end

section
/-! SUPPORT. A lane word by the value it writes, and the integer, logic, shift and field values as chapter 7 gives them. -/

namespace Sys2Proof.Machine

/-! ### A lane word by the value it writes -/

/-- A lane word of one source whose value function agrees with `g` at every operand. -/
theorem writesV_lane1_eq {i : Instr} {e : Bool} {vd : Fin 128} {xa : Src} {f g : Word → Word} (hg : ∀ a, f a = g a)
    (h : ∀ s, exec i s = .next (lane1 e vd xa f s)) (hu : usesOf i = use1 vd xa) : WritesV i e vd (of1 xa g) := by
  obtain rfl : f = g := funext hg
  exact writesV_lane1 h hu

/-- A lane word of two sources whose value function agrees with `g` at every pair of operands. -/
theorem writesV_lane2_eq {i : Instr} {e : Bool} {vd : Fin 128} {xa xb : Src} {f g : Word → Word → Word}
    (hg : ∀ a b, f a b = g a b) (h : ∀ s, exec i s = .next (lane2 e vd xa xb f s)) (hu : usesOf i = use2 vd xa xb) :
    WritesV i e vd (of2 xa xb g) := by
  obtain rfl : f = g := funext fun a => funext (hg a)
  exact writesV_lane2 h hu

/-- A lane word that reads its destination and two sources, whose value function agrees with `g`. -/
theorem writesV_lane3_eq {i : Instr} {e : Bool} {vd : Fin 128} {xa xb : Src} {f g : Word → Word → Word → Word}
    (hg : ∀ d a b, f d a b = g d a b) (h : ∀ s, exec i s = .next (lane3 e vd xa xb f s)) (hu : usesOf i = use3 vd xa xb) :
    WritesV i e vd (of3 vd xa xb g) := by
  obtain rfl : f = g := funext fun d => funext fun a => funext (hg d a)
  exact writesV_lane3 h hu

/-- A comparison whose relation agrees with `g`. -/
theorem writesK_laneCmp_eq {i : Instr} {e : Bool} {kd : Fin 8} {xa xb : Src} {f g : Word → Word → Bool}
    (hg : ∀ a b, f a b = g a b) (h : ∀ s, exec i s = .next (laneCmp e kd xa xb f s)) (hu : usesOf i = useCmp kd xa xb) :
    WritesK i e kd fun s sh t => g (src s sh t xa) (src s sh t xb) := by
  obtain rfl : f = g := funext fun a => funext (hg a)
  exact writesK_of ((readsOwn_src xa).map₂ (readsOwn_src xb) f) fun s => by rw [h, hu]; rfl

/-- A predicate operation. -/
theorem writesK_laneKop {i : Instr} {e : Bool} {kd ka kb : Fin 8} {f : Bool → Bool → Bool}
    (h : ∀ s, exec i s = .next (laneKop e kd ka kb f s)) (hu : usesOf i = useKop kd ka kb) :
    WritesK i e kd fun s sh t => f (readK s sh t ka.val) (readK s sh t kb.val) :=
  writesK_of ((readsOwn_readK ka.val).map₂ (readsOwn_readK kb.val) f) fun s => by rw [h, hu]; rfl

/-! ### Integer arithmetic (R141, R142) -/

theorem add_eq_ofNat (a b : Word) : a + b = BitVec.ofNat 32 (a.toNat + b.toNat) := by
  rw [BitVec.ofNat_add, BitVec.ofNat_toNat, BitVec.ofNat_toNat, BitVec.setWidth_eq, BitVec.setWidth_eq]

theorem mul_eq_ofNat (a b : Word) : a * b = BitVec.ofNat 32 (a.toNat * b.toNat) := by
  rw [BitVec.ofNat_mul, BitVec.ofNat_toNat, BitVec.ofNat_toNat, BitVec.setWidth_eq, BitVec.setWidth_eq]

theorem sub_eq_ofInt (a b : Word) : a - b = BitVec.ofInt 32 ((a.toNat : Int) - b.toNat) := by
  apply BitVec.eq_of_toInt_eq
  rw [BitVec.toInt_ofInt, BitVec.toInt_sub]
  simp [BitVec.toInt_eq_toNat_bmod]

theorem add_mul_eq_ofNat (d a b : Word) : d + a * b = BitVec.ofNat 32 (d.toNat + a.toNat * b.toNat) := by
  rw [mul_eq_ofNat, BitVec.ofNat_add, BitVec.ofNat_toNat, BitVec.setWidth_eq]

theorem minS_eq_ofInt (a b : Word) : minS a b = BitVec.ofInt 32 (min a.toInt b.toInt) := by
  unfold minS
  split
  next h => rw [min_eq_right (Int.le_of_lt (BitVec.slt_iff_toInt_lt.mp h)), BitVec.ofInt_toInt]
  next h => rw [min_eq_left (Int.not_lt.mp (mt BitVec.slt_iff_toInt_lt.mpr h)), BitVec.ofInt_toInt]

theorem maxS_eq_ofInt (a b : Word) : maxS a b = BitVec.ofInt 32 (max a.toInt b.toInt) := by
  unfold maxS
  split
  next h => rw [max_eq_right (Int.le_of_lt (BitVec.slt_iff_toInt_lt.mp h)), BitVec.ofInt_toInt]
  next h => rw [max_eq_left (Int.not_lt.mp (mt BitVec.slt_iff_toInt_lt.mpr h)), BitVec.ofInt_toInt]

theorem minU_eq_ofNat (a b : Word) : minU a b = BitVec.ofNat 32 (min a.toNat b.toNat) := by
  unfold minU
  split
  next h => rw [min_eq_right (Nat.le_of_lt (BitVec.ult_iff_lt.mp h)), BitVec.ofNat_toNat, BitVec.setWidth_eq]
  next h => rw [min_eq_left (Nat.not_lt.mp (mt BitVec.ult_iff_lt.mpr h)), BitVec.ofNat_toNat, BitVec.setWidth_eq]

theorem maxU_eq_ofNat (a b : Word) : maxU a b = BitVec.ofNat 32 (max a.toNat b.toNat) := by
  unfold maxU
  split
  next h => rw [max_eq_right (Nat.le_of_lt (BitVec.ult_iff_lt.mp h)), BitVec.ofNat_toNat, BitVec.setWidth_eq]
  next h => rw [max_eq_left (Nat.not_lt.mp (mt BitVec.ult_iff_lt.mpr h)), BitVec.ofNat_toNat, BitVec.setWidth_eq]

/-- The corner of R142 that the model does not name: the quotient 2^31 wraps to the dividend. -/
theorem divS_corners (a b : Word) : divS a b =
    if b = 0 then 0xFFFFFFFF else if a = 0x80000000 ∧ b = 0xFFFFFFFF then 0x80000000
    else BitVec.ofInt 32 (a.toInt.tdiv b.toInt) := by
  unfold divS
  split
  next => rfl
  next =>
    split
    next h => obtain ⟨rfl, rfl⟩ := h; decide
    next => rfl

theorem remS_corners (a b : Word) : remS a b =
    if b = 0 then a else if a = 0x80000000 ∧ b = 0xFFFFFFFF then 0
    else BitVec.ofInt 32 (a.toInt - a.toInt.tdiv b.toInt * b.toInt) := by
  unfold remS
  split
  next => rfl
  next =>
    split
    next h => obtain ⟨rfl, rfl⟩ := h; decide
    next => rw [Int.tmod_def, Int.mul_comm]

theorem remU_eq_sub (a b : Word) :
    remU a b = if b = 0 then a else BitVec.ofNat 32 (a.toNat - a.toNat / b.toNat * b.toNat) := by
  rw [remU, Nat.mod_eq_sub, Nat.mul_comm]

/-! ### Shifts (R143) -/

theorem shiftLeft_eq_ofNat (a : Word) (k : Nat) : a <<< k = BitVec.ofNat 32 (a.toNat * 2 ^ k) := by
  apply BitVec.eq_of_toNat_eq
  rw [BitVec.toNat_shiftLeft, BitVec.toNat_ofNat, Nat.shiftLeft_eq]

theorem ushiftRight_eq_ofNat (a : Word) (k : Nat) : a >>> k = BitVec.ofNat 32 (a.toNat / 2 ^ k) := by
  apply BitVec.eq_of_toNat_eq
  have h : a.toNat / 2 ^ k < 2 ^ 32 := Nat.lt_of_le_of_lt (Nat.div_le_self ..) a.isLt
  rw [BitVec.toNat_ushiftRight, BitVec.toNat_ofNat, Nat.shiftRight_eq_div_pow, Nat.mod_eq_of_lt h]

theorem sshiftRight_eq_ofInt (a : Word) (k : Nat) : a.sshiftRight k = BitVec.ofInt 32 (a.toInt / 2 ^ k) := by
  rw [← BitVec.ofInt_toInt (x := a.sshiftRight k), BitVec.toInt_sshiftRight, Int.shiftRight_eq_div_pow]
  rfl

theorem shl_eq_ofNat (a n : Word) : shl a n = if n.toNat < 32 then BitVec.ofNat 32 (a.toNat * 2 ^ n.toNat) else 0 := by
  rw [shl, shiftLeft_eq_ofNat]

theorem shr_eq_ofNat (a n : Word) : shr a n = if n.toNat < 32 then BitVec.ofNat 32 (a.toNat / 2 ^ n.toNat) else 0 := by
  rw [shr, ushiftRight_eq_ofNat]

/-- Beyond 31 places the sign fills the word, as a shift by 31 places does. -/
theorem sar_eq_ofInt (a n : Word) : sar a n =
    if n.toNat < 32 then BitVec.ofInt 32 (a.toInt / 2 ^ n.toNat) else if a.getLsbD 31 then 0xFFFFFFFF else 0 := by
  unfold sar
  split
  next h => rw [min_eq_left (by omega), sshiftRight_eq_ofInt]
  next h =>
    have hs : a.getLsbD 31 = decide (a.toInt < 0) := by rw [← BitVec.msb_eq_toInt]; rfl
    have hl := a.toInt_lt
    have hg := a.le_toInt
    rw [min_eq_right (by omega), sshiftRight_eq_ofInt, hs]
    by_cases h0 : a.toInt < 0
    · rw [show a.toInt / 2 ^ 31 = -1 by omega]
      simp [h0]
    · rw [show a.toInt / 2 ^ 31 = 0 by omega]
      simp [h0]

end Sys2Proof.Machine
end

section
/-! SUPPORT. O1: integer arithmetic, logic and shifts. -/

open Sys2Proof Sys2Proof.Machine

theorem integerArithmetic : Says.IntegerArithmetic := by
  intro e vd xa xb
  exact ⟨writesV_lane2_eq add_eq_ofNat (fun _ => rfl) rfl,
    writesV_lane2_eq sub_eq_ofInt (fun _ => rfl) rfl,
    writesV_lane2_eq mul_eq_ofNat (fun _ => rfl) rfl,
    writesV_lane2 (f := mulHigh) (fun _ => rfl) rfl,
    writesV_lane2 (f := mulHighU) (fun _ => rfl) rfl,
    writesV_lane3_eq add_mul_eq_ofNat (fun _ => rfl) rfl,
    writesV_lane2_eq minS_eq_ofInt (fun _ => rfl) rfl,
    writesV_lane2_eq maxS_eq_ofInt (fun _ => rfl) rfl,
    writesV_lane2_eq minU_eq_ofNat (fun _ => rfl) rfl,
    writesV_lane2_eq maxU_eq_ofNat (fun _ => rfl) rfl,
    writesV_lane2_eq divS_corners (fun _ => rfl) rfl,
    writesV_lane2 (f := divU) (fun _ => rfl) rfl,
    writesV_lane2_eq remS_corners (fun _ => rfl) rfl,
    writesV_lane2_eq remU_eq_sub (fun _ => rfl) rfl⟩

theorem logicAndShifts : Says.LogicAndShifts := by
  intro e vd xa xb
  exact ⟨writesV_lane2 (fun _ => rfl) rfl,
    writesV_lane2 (fun _ => rfl) rfl,
    writesV_lane2 (fun _ => rfl) rfl,
    writesV_lane2 (fun _ => rfl) rfl,
    writesV_lane2_eq shl_eq_ofNat (fun _ => rfl) rfl,
    writesV_lane2_eq shr_eq_ofNat (fun _ => rfl) rfl,
    writesV_lane2_eq sar_eq_ofInt (fun _ => rfl) rfl,
    writesV_lane1 (f := popCount) (fun _ => rfl) rfl,
    writesV_lane1 (f := leadingZeros) (fun _ => rfl) rfl,
    writesV_lane1 (f := bitReverse) (fun _ => rfl) rfl⟩

/-- Settles O1: each word is one of the lane shapes, with a value that agrees with the integers of R141 to R143. -/
theorem integersLogicAndShifts : Obligations.IntegersLogicAndShifts := ⟨integerArithmetic, logicAndShifts⟩

end

section
/-! SUPPORT. O2: bit fields, immediates, moves and reads of special registers. -/

namespace Sys2Proof.Machine

/-! ### Fields, immediates and moves (R144 to R146) -/

theorem bitExtract_eq (a b : Word) : bitExtract a b =
    (let pos := b.toNat % 32
      let w := min (b.toNat / 2 ^ 8 % 64) (32 - pos)
      let f := a.toNat / 2 ^ pos % 2 ^ w
      if w = 0 then 0 else if b.getLsbD 15 ∧ 2 ^ (w - 1) ≤ f then BitVec.ofInt 32 (f - 2 ^ w) else BitVec.ofNat 32 f) := by
  simp only [bitExtract, fieldWidth, fld, Nat.pow_zero, Nat.div_one, Bool.and_eq_true, decide_eq_true_eq]
  rfl

theorem bitInsert_eq (d a b : Word) : bitInsert d a b =
    (let pos := b.toNat % 32
      let w := min (b.toNat / 2 ^ 8 % 64) (32 - pos)
      let m : Word := BitVec.ofNat 32 ((2 ^ w - 1) * 2 ^ pos)
      (d &&& ~~~m) ||| (a <<< pos &&& m)) := by
  simp only [bitInsert, fieldWidth, fld, Nat.pow_zero, Nat.div_one]
  rfl

theorem add_sext_eq_ofInt (a : Word) (x : BitVec 8) : a + sext x = BitVec.ofInt 32 (a.toNat + x.toInt) := by
  rw [sext, BitVec.signExtend, BitVec.ofInt_add, BitVec.ofInt_natCast, BitVec.ofNat_toNat, BitVec.setWidth_eq]

theorem zext_toNat (x : BitVec 8) : (zext x).toNat = x.toNat := by
  rw [zext, BitVec.zeroExtend, BitVec.toNat_setWidth, Nat.mod_eq_of_lt (by have := x.isLt; omega)]

/-- The shifts by an immediate are the shifts by its zero extension. -/
theorem shl_zext (a : Word) (x : BitVec 8) :
    shl a (zext x) = if x.toNat < 32 then BitVec.ofNat 32 (a.toNat * 2 ^ x.toNat) else 0 := by
  rw [shl_eq_ofNat, zext_toNat]

theorem shr_zext (a : Word) (x : BitVec 8) :
    shr a (zext x) = if x.toNat < 32 then BitVec.ofNat 32 (a.toNat / 2 ^ x.toNat) else 0 := by
  rw [shr_eq_ofNat, zext_toNat]

theorem sar_zext (a : Word) (x : BitVec 8) : sar a (zext x) =
    if x.toNat < 32 then BitVec.ofInt 32 (a.toInt / 2 ^ x.toNat) else if a.getLsbD 31 then 0xFFFFFFFF else 0 := by
  rw [sar_eq_ofInt, zext_toNat]

theorem moveHigh_eq_ofNat (d : Word) (x : BitVec 16) :
    moveHigh d x = BitVec.ofNat 32 (x.toNat * 2 ^ 16 + d.toNat % 2 ^ 16) := by
  apply BitVec.eq_of_toNat_eq
  have hx := x.isLt
  have hhigh : (zext x <<< 16).toNat = x.toNat <<< 16 := by
    rw [BitVec.toNat_shiftLeft, zext, BitVec.zeroExtend, BitVec.toNat_setWidth, Nat.shiftLeft_eq, Nat.shiftLeft_eq]
    omega
  have hlow : (d &&& 0xFFFF).toNat = d.toNat % 2 ^ 16 := by
    rw [BitVec.toNat_and]
    exact Nat.and_two_pow_sub_one_eq_mod d.toNat 16
  rw [moveHigh, BitVec.toNat_or, hhigh, hlow, ← Nat.shiftLeft_add_eq_or_of_lt (by omega), Nat.shiftLeft_eq, BitVec.toNat_ofNat]
  omega

theorem readsOwn_sel (xa xb : Src) : ReadsOwn fun s sh t => if readK s sh t 0 then src s sh t xa else src s sh t xb :=
  (readsOwn_readK 0).map₃ (readsOwn_src xa) (readsOwn_src xb) fun k a b => if k then a else b

/-! ### Special registers (R147) -/

theorem highWord_append_lowWord (x : DWord) : highWord x ++ lowWord x = x := by
  apply BitVec.eq_of_toNat_eq
  have hx := x.isLt
  have hhigh : (highWord x).toNat = x.toNat / 2 ^ 32 := by
    rw [highWord, BitVec.toNat_setWidth, BitVec.toNat_ushiftRight, Nat.shiftRight_eq_div_pow]
    omega
  have hlow : (lowWord x).toNat = x.toNat % 2 ^ 32 := by rw [lowWord, BitVec.toNat_setWidth]
  rw [BitVec.toNat_append, hhigh, hlow, ← Nat.shiftLeft_add_eq_or_of_lt (by omega), Nat.shiftLeft_eq]
  omega

@[simp] theorem phaseOf_actsOn (e : Bool) (s : State) (d : Nat) : phaseOf (actsOn e s) d = phaseOf s d := by
  cases e with
  | false => rfl
  | true => rw [actsOn, if_pos rfl, commitWrites_frame]; rfl

theorem phaseOf_of_onlyThreads {e : Bool} {s t : State} (h : OnlyThreads e s t) (d : Nat) : phaseOf t d = phaseOf s d := by
  obtain ⟨ht, -, -⟩ := h
  rw [ht]
  rfl

/-- sr.cellphase as a lane reads it: the counter of the die its squad stands on. -/
theorem laneSpecial_cellphase (s : State) (t : Nat) :
    laneSpecial s t 0x0C = cellphaseWord (phaseOf s (dieOf (sqd s (squadOf t)).core)) := rfl

theorem writesV_movs {e : Bool} {vd : Fin 128} {idx : BitVec 8} (h : idx ≠ 0x0C) :
    WritesV (.movs e vd idx) e vd (fun s _ t => laneSpecial s t idx.toNat) := by
  have hn : idx.toNat ≠ 0x0C := fun hi => h (BitVec.eq_of_toNat_eq hi)
  refine writesV_of (readsOwn_laneSpecial idx.toNat) fun s => ?_
  show execMovs e vd idx s = _
  rw [execMovs, if_neg hn]
  rfl

/-- A read of sr.cellphase is a lane word of the state in which the die's counter has run on. -/
theorem movs_cellphase {e : Bool} {vd : Fin 128} {s : State} (h : LanesClear (.movs e vd 0x0C) s) :
    ∃ t, exec (.movs e vd 0x0C) s = .next t ∧
      (∀ u ∈ s.cur.threads, ∀ sh, readV t sh u vd.val =
        cellphaseWord (phaseOf t (dieOf (sqd (actsOn e (tickPhase (dieOf s.cur.core) s)) (squadOf u)).core))) ∧
      OtherV [vd.val] s t ∧ OnlyThreads e (tickPhase (dieOf s.cur.core) s) t := by
  obtain ⟨hword, hclear⟩ := h
  obtain ⟨hv, hother, honly⟩ := laneWord_setLanes (e := e) (s := tickPhase (dieOf s.cur.core) s) vd.isLt
    (readsOwn_laneSpecial 0x0C) hword hclear
  refine ⟨_, rfl, fun u hu sh => (hv u hu sh).trans ?_, hother, honly⟩
  rw [laneSpecial_cellphase, phaseOf_actsOn, ← phaseOf_of_onlyThreads honly]
  rfl

end Sys2Proof.Machine

open Sys2Proof Sys2Proof.Machine

theorem bitFields : Says.BitFields := fun _ _ _ _ =>
  ⟨writesV_lane2_eq bitExtract_eq (fun _ => rfl) rfl, writesV_lane3_eq bitInsert_eq (fun _ => rfl) rfl⟩

theorem immediatesAndMoves : Says.ImmediatesAndMoves := by
  intro e vd xa xb i8 i16
  exact ⟨writesV_lane1_eq (fun a => add_sext_eq_ofInt a i8) (fun _ => rfl) rfl,
    writesV_lane1 (fun _ => rfl) rfl,
    writesV_lane1 (fun _ => rfl) rfl,
    writesV_lane1 (fun _ => rfl) rfl,
    writesV_lane1_eq (fun a => shl_zext a i8) (fun _ => rfl) rfl,
    writesV_lane1_eq (fun a => shr_zext a i8) (fun _ => rfl) rfl,
    writesV_lane1_eq (fun a => sar_zext a i8) (fun _ => rfl) rfl,
    writesV_of (readsOwn_const (sext i16)) fun _ => rfl,
    by
      simp only [← moveHigh_eq_ofNat]
      exact writesV_of ((readsOwn_readV vd.val).map fun d => moveHigh d i16) fun _ => rfl,
    writesV_lane1 (fun _ => rfl) rfl,
    writesV_of (readsOwn_sel xa xb) fun _ => rfl⟩

theorem specialRegisterReads : Says.SpecialRegisterReads := by
  refine ⟨fun _ _ _ h => writesV_movs h, fun _ _ _ h => movs_cellphase h, fun s t => ?_⟩
  exact ⟨rfl, rfl, rfl, rfl, rfl, rfl, rfl, rfl, rfl, highWord_append_lowWord _, highWord_append_lowWord _,
    highWord_append_lowWord _, rfl, rfl, rfl, rfl⟩

/-- Settles O2: lane shapes with the values of R144 to R146; MOVS of sr.cellphase acts on the state whose phase
counter has run on. -/
theorem fieldsImmediatesAndMoves : Obligations.FieldsImmediatesAndMoves :=
  ⟨bitFields, immediatesAndMoves, specialRegisterReads⟩

end

section
/-! SUPPORT. O3: comparisons and predicate operations, with their base words. -/

namespace Sys2Proof.Machine

/-! ### Base words (R121, R140) -/

/-- A lane-set word as its parts: set bit, B flag, major opcode, bits [22:0]. -/
theorem setWord_eq_append (b : Bool) {op f : Nat} (ho : op < 128) (hf : f < 2 ^ 23) :
    setWord 0 b op f = 0#1 ++ (BitVec.ofBool b ++ (BitVec.ofNat 7 op ++ BitVec.ofNat 23 f)) := by
  apply BitVec.eq_of_toNat_eq
  have hb := b.toNat_lt
  have h30 : (BitVec.ofNat 7 op ++ BitVec.ofNat 23 f).toNat = op * 2 ^ 23 + f := by
    rw [BitVec.toNat_append, BitVec.toNat_ofNat, BitVec.toNat_ofNat, Nat.mod_eq_of_lt ho, Nat.mod_eq_of_lt hf,
      ← Nat.shiftLeft_add_eq_or_of_lt hf, Nat.shiftLeft_eq]
  have h31 : (BitVec.ofBool b ++ (BitVec.ofNat 7 op ++ BitVec.ofNat 23 f)).toNat = b.toNat * 2 ^ 30 + (op * 2 ^ 23 + f) := by
    rw [BitVec.toNat_append, h30, BitVec.toNat_ofBool, ← Nat.shiftLeft_add_eq_or_of_lt (by omega), Nat.shiftLeft_eq]
  rw [BitVec.toNat_append, h31, setWord, BitVec.toNat_ofNat]
  simp
  omega

/-- The set bit and the major opcode of a lane-set word. -/
theorem setWord_base (b : Bool) {op f : Nat} (ho : op < 128) (hf : f < 2 ^ 23) :
    setWord 0 b op f &&& 0xBF800000 = BitVec.ofNat 32 (op * 2 ^ 23) := by
  have hm : (0xBF800000 : Word) = 1#1 ++ (0#1 ++ (BitVec.allOnes 7 ++ 0#23)) := by decide
  have h0 : BitVec.ofNat 32 (op * 2 ^ 23) = setWord 0 false op 0 := by simp [setWord]
  rw [h0, setWord_eq_append b ho hf, setWord_eq_append false ho (by decide), hm, BitVec.and_append, BitVec.and_append,
    BitVec.and_append, BitVec.and_allOnes, BitVec.and_zero, BitVec.and_zero, BitVec.zero_and]
  rfl

theorem setWord_last (b : Bool) {op f : Nat} (ho : op < 128) (hf : f < 2 ^ 23) : (setWord 0 b op f).getLsbD 30 = b := by
  obtain ⟨-, hb, -, -⟩ := fld_setWord 0 b op f (by decide) ho hf
  rw [BitVec.getLsbD, Nat.testBit_eq_decide_div_mod_eq]
  cases b <;> simpa [fld] using hb

theorem setWord_predicate (b : Bool) {op f : Nat} (ho : op < 128) (hf : f < 2 ^ 23) :
    ((setWord 0 b op f).extractLsb' 16 3).toNat = fld f 16 3 := by
  obtain ⟨-, -, -, hl⟩ := fld_setWord 0 b op f (by decide) ho hf
  rw [BitVec.extractLsb'_toNat, Nat.shiftRight_eq_div_pow]
  generalize (setWord 0 b op f).toNat = w at hl ⊢
  simp only [fld] at hl ⊢
  omega

theorem based_of_setWord {i : Instr} {e : Bool} {op f k : Nat} (h : encode i = some (setWord 0 e op f)) (ho : op < 128)
    (hf : f < 2 ^ 23) (hk : fld f 16 3 = k) : Based i (BitVec.ofNat 32 (op * 2 ^ 23)) e k := by
  rw [Based, h, Option.map_some, setWord_base e ho hf, setWord_last e ho hf, setWord_predicate e ho hf, hk]

theorem base_of_setWord {i : Instr} {e : Bool} {op f : Nat} (h : encode i = some (setWord 0 e op f)) (ho : op < 128)
    (hf : f < 2 ^ 23) : (encode i).map (fun w => w &&& 0xBF800000) = some (BitVec.ofNat 32 (op * 2 ^ 23)) := by
  rw [h, Option.map_some, setWord_base e ho hf]

/-! ### The predicate field of each form -/

theorem encIcmp_kd (cc : ICond) (kd : Fin 8) (xa xb : Src) : fld (encIcmp cc kd xa xb) 16 3 = kd.val := by
  have := xa.code_lt
  have := xb.code_lt
  simp only [encIcmp, fld]
  omega

theorem encFcmp_kd (cc : FCond) (kd : Fin 8) (xa xb : Src) : fld (encFcmp cc kd xa xb) 16 3 = kd.val := by
  have := xa.code_lt
  have := xb.code_lt
  simp only [encFcmp, fld]
  omega

theorem encVtok_kd (kd : Fin 8) (xa : Src) : fld (encVtok kd xa) 16 3 = kd.val := by
  have := xa.code_lt
  simp only [encVtok, fld]
  omega

/-- A predicate operation without E: the function code and the predicates fill the low fields of 0x15000000. -/
theorem setWord_encKop (fn : Nat) (kd ka kb : Fin 8) : setWord 0 false 0x2A (encKop fn kd ka kb) =
    BitVec.ofNat 32 (0x15000000 + fn * 2 ^ 19 + kd.val * 2 ^ 16 + ka.val * 2 ^ 8 + kb.val) := by
  refine congrArg (BitVec.ofNat 32) ?_
  simp only [encKop, Bool.toNat_false]
  omega

theorem setWord_encKnot (fn : Nat) (kd ka : Fin 8) : setWord 0 false 0x2A (encKnot fn kd ka) =
    BitVec.ofNat 32 (0x15000000 + fn * 2 ^ 19 + kd.val * 2 ^ 16 + ka.val * 2 ^ 8) := by
  refine congrArg (BitVec.ofNat 32) ?_
  simp only [encKnot, Bool.toNat_false]
  omega

/-! ### Conditions (R148, R149) -/

theorem icondHolds_eq (cc : ICond) (a b : Word) : icondHolds cc a b =
    match cc with
      | .eq => decide (a = b)
      | .ne => decide (a ≠ b)
      | .lt => decide (a.toInt < b.toInt)
      | .le => decide (a.toInt ≤ b.toInt)
      | .gt => decide (b.toInt < a.toInt)
      | .ge => decide (b.toInt ≤ a.toInt)
      | .ltu => decide (a.toNat < b.toNat)
      | .leu => decide (a.toNat ≤ b.toNat)
      | .gtu => decide (b.toNat < a.toNat)
      | .geu => decide (b.toNat ≤ a.toNat) := by
  cases cc
  case ne => simp only [icondHolds, bne, ne_eq, decide_not]; rfl
  all_goals rfl

/-- With a NaN only NE and UN hold; without one each condition is its relation of the numeric order. -/
theorem fcondHolds_eq (cc : FCond) (a b : Word) : fcondHolds cc a b =
    if (f32 a).isNan ∨ (f32 b).isNan then decide (cc = .ne ∨ cc = .un)
    else match cc with
      | .eq => decide ((f32 a).cmp (f32 b) = 0)
      | .ne => decide ((f32 a).cmp (f32 b) ≠ 0)
      | .lt => decide ((f32 a).cmp (f32 b) < 0)
      | .le => decide ((f32 a).cmp (f32 b) ≤ 0)
      | .gt => decide (0 < (f32 a).cmp (f32 b))
      | .ge => decide (0 ≤ (f32 a).cmp (f32 b))
      | .un => false
      | .ord => true := by
  by_cases h : (f32 a).isNan ∨ (f32 b).isNan
  · have hu : ((f32 a).isNan || (f32 b).isNan) = true := by simpa using h
    rw [if_pos h]
    cases cc <;> simp [fcondHolds, hu]
  · have hu : ((f32 a).isNan || (f32 b).isNan) = false := by simpa using h
    rw [if_neg h]
    cases cc <;> simp [fcondHolds, hu]

theorem wordPred_eq_decide (x : Word) : wordPred x = decide (x ≠ 0) := by
  simp only [wordPred, bne, ne_eq, decide_not]; rfl

end Sys2Proof.Machine

open Sys2Proof Sys2Proof.Machine

/-- Settles O3: the words by their encoders' fields, and each comparison and predicate operation as a lane shape. -/
theorem comparisonsAndPredicates : Obligations.ComparisonsAndPredicates := by
  refine ⟨fun e kd ka kb vd xa xb cc fc => ⟨?_, ?_, ?_, ?_, ?_, ?_⟩, fun e kd xa xb cc => ?_, fun e kd xa xb cc => ?_,
    fun e kd ka kb vd xa => ⟨?_, ?_, ?_, ?_, ?_, ?_, ?_⟩⟩
  · exact based_of_setWord (op := 0x28) rfl (by decide) (encIcmp_lt cc kd xa xb) (encIcmp_kd cc kd xa xb)
  · exact based_of_setWord (op := 0x29) rfl (by decide) (encFcmp_lt fc kd xa xb) (encFcmp_kd fc kd xa xb)
  · simp only [List.forall_mem_cons, List.not_mem_nil, false_implies, implies_true, and_true, ← setWord_encKop]
    exact ⟨rfl, rfl, rfl, rfl⟩
  · rw [← setWord_encKnot]; rfl
  · exact base_of_setWord (op := 0x2B) rfl (by decide) (encKtov_lt vd ka)
  · exact based_of_setWord (op := 0x2C) rfl (by decide) (encVtok_lt kd xa) (encVtok_kd kd xa)
  · exact writesK_laneCmp_eq (icondHolds_eq cc) (fun _ => rfl) rfl
  · exact writesK_laneCmp_eq (fcondHolds_eq cc) (fun _ => rfl) rfl
  · exact writesK_laneKop (f := predAnd) (fun _ => rfl) rfl
  · exact writesK_laneKop (f := predOr) (fun _ => rfl) rfl
  · exact writesK_laneKop (f := predXor) (fun _ => rfl) rfl
  · exact writesK_laneKop (f := predAndn) (fun _ => rfl) rfl
  · exact writesK_laneKop (f := fun a _ => !a) (fun _ => rfl) rfl
  · exact writesV_of ((readsOwn_readK ka.val).map predWord) fun _ => rfl
  · simp only [← wordPred_eq_decide]
    exact writesK_of ((readsOwn_src xa).map wordPred) fun _ => rfl

end

section
/-! SUPPORT. O6: packed elements, dot products and PACK. -/

namespace Sys2Proof.Machine

/-! ### Elements (R101, R106) -/

theorem elem_eq_extract (b i : Nat) (w : Word) : elem b i w = (w.extractLsb' (b * i) b).toNat := by
  rw [elem, fld, BitVec.extractLsb'_toNat, Nat.shiftRight_eq_div_pow]

theorem elemS_eq_extract {b : Nat} (hb : 0 < b) (i : Nat) (w : Word) : elemS b i w = (w.extractLsb' (b * i) b).toInt := by
  have h2 : 2 ^ b = 2 * 2 ^ (b - 1) := by rw [← Nat.pow_succ', Nat.succ_eq_add_one, Nat.sub_add_cancel hb]
  rw [elemS, elem_eq_extract, BitVec.toInt_eq_toNat_cond]
  by_cases h : 2 ^ (b - 1) ≤ (w.extractLsb' (b * i) b).toNat
  · simp only [if_pos h, if_neg (show ¬2 * (w.extractLsb' (b * i) b).toNat < 2 ^ b by omega)]
    push_cast
    rfl
  · simp only [if_neg h, if_pos (show 2 * (w.extractLsb' (b * i) b).toNat < 2 ^ b by omega)]

theorem pack2_eq_append (f : Nat → Nat) : pack2 f = BitVec.ofNat 16 (f 1) ++ BitVec.ofNat 16 (f 0) := by
  apply BitVec.eq_of_toNat_eq
  rw [pack2, BitVec.toNat_append, BitVec.toNat_ofNat, BitVec.toNat_ofNat, BitVec.toNat_ofNat,
    ← Nat.shiftLeft_add_eq_or_of_lt (by omega), Nat.shiftLeft_eq]
  omega

theorem ofNat_emod_toNat (x : Int) : BitVec.ofNat 16 (x % 2 ^ 16).toNat = BitVec.ofInt 16 x := by
  rw [← BitVec.ofInt_natCast, Int.toNat_of_nonneg (by omega)]
  apply BitVec.eq_of_toInt_eq
  rw [BitVec.toInt_ofInt, BitVec.toInt_ofInt]
  exact Int.emod_bmod x (2 ^ 16)

/-! ### Packed, dot and PACK values (R157, R158, R160) -/

theorem packed16_eq (g : Int → Int → Int) (a b : Word) : packed16 g a b = packedElements g a b := by
  simp only [packed16, packedElements, pack2_eq_append, ofNat_emod_toNat, elemS_eq_extract (b := 16) (by decide)]

theorem padd_eq (F : Fmt) (a b : Word) : padd F a b = packedFloats F (fun _ x y => x.add y) 0 a b := by
  simp only [padd, packedFloats, pack2_eq_append, elem_eq_extract]

theorem pmul_eq (F : Fmt) (a b : Word) : pmul F a b = packedFloats F (fun _ x y => x.mul y) 0 a b := by
  simp only [pmul, packedFloats, pack2_eq_append, elem_eq_extract]

theorem pfma_eq (F : Fmt) (d a b : Word) : pfma F d a b = packedFloats F (fun d x y => (x.mul y).add d) d a b := by
  simp only [pfma, packedFloats, pack2_eq_append, elem_eq_extract]

theorem fdp2_eq (F : Fmt) (d a b : Word) : fdp2 F d a b = packedDot F d a b := by
  simp only [fdp2, packedDot, elem_eq_extract]

theorem idp4_eq (d a b : Word) : idp4 d a b = BitVec.ofInt 32 (d.toInt +
    ((List.range 4).map fun i => (a.extractLsb' (8 * i) 8).toInt * (b.extractLsb' (8 * i) 8).toInt).sum) := by
  simp only [idp4, elemS_eq_extract (b := 8) (by decide), BitVec.ofInt_add, BitVec.ofInt_toInt]

theorem udp4_eq (d a b : Word) : udp4 d a b = BitVec.ofNat 32 (d.toNat +
    ((List.range 4).map fun i => (a.extractLsb' (8 * i) 8).toNat * (b.extractLsb' (8 * i) 8).toNat).sum) := by
  simp only [udp4, elem_eq_extract, BitVec.ofNat_add, BitVec.ofNat_toNat, BitVec.setWidth_eq]

theorem packHalves_eq (a b : Word) : packHalves a b = b.extractLsb' 0 16 ++ a.extractLsb' 0 16 := by
  apply BitVec.eq_of_toNat_eq
  have hhigh : (b <<< 16).toNat = b.toNat % 2 ^ 16 * 2 ^ 16 := by
    rw [BitVec.toNat_shiftLeft, Nat.shiftLeft_eq]
    omega
  have hlow : (a &&& 0xFFFF).toNat = a.toNat % 2 ^ 16 := by
    rw [BitVec.toNat_and]
    exact Nat.and_two_pow_sub_one_eq_mod a.toNat 16
  rw [packHalves, BitVec.toNat_or, hhigh, hlow, BitVec.toNat_append, BitVec.extractLsb'_toNat, BitVec.extractLsb'_toNat,
    Nat.shiftRight_zero, Nat.shiftRight_zero, Nat.shiftLeft_eq]

end Sys2Proof.Machine

open Sys2Proof Sys2Proof.Machine

/-- Settles O6: each word is a lane shape whose elements the model cuts out and packs as the statement does. -/
theorem packedAndDotProducts : Obligations.PackedAndDotProducts := by
  intro e vd xa xb
  exact ⟨writesV_lane2_eq (padd_eq fp16) (fun _ => rfl) rfl,
    writesV_lane2_eq (pmul_eq fp16) (fun _ => rfl) rfl,
    writesV_lane3_eq (pfma_eq fp16) (fun _ => rfl) rfl,
    writesV_lane2_eq (padd_eq bf16) (fun _ => rfl) rfl,
    writesV_lane2_eq (pmul_eq bf16) (fun _ => rfl) rfl,
    writesV_lane3_eq (pfma_eq bf16) (fun _ => rfl) rfl,
    writesV_lane2_eq (packed16_eq fun x y => x + y) (fun _ => rfl) rfl,
    writesV_lane2_eq (packed16_eq fun x y => x - y) (fun _ => rfl) rfl,
    writesV_lane2_eq (packed16_eq fun x y => max (-32768) (min 32767 (x + y))) (fun _ => rfl) rfl,
    writesV_lane2_eq (packed16_eq fun x y => max (-32768) (min 32767 (x - y))) (fun _ => rfl) rfl,
    writesV_lane2_eq (packed16_eq max) (fun _ => rfl) rfl,
    writesV_lane2_eq (packed16_eq min) (fun _ => rfl) rfl,
    writesV_lane3_eq idp4_eq (fun _ => rfl) rfl,
    writesV_lane3_eq udp4_eq (fun _ => rfl) rfl,
    writesV_lane3_eq (fdp2_eq fp16) (fun _ => rfl) rfl,
    writesV_lane3_eq (fdp2_eq bf16) (fun _ => rfl) rfl,
    writesV_lane2_eq packHalves_eq (fun _ => rfl) rfl,
    base_of_setWord (op := 0x51) rfl (by decide) (encLr3_lt vd xa xb)⟩

end

section
/-! SUPPORT. Rounding with RNE: the values of a format's magnitudes, and the code that `roundQ` chooses among them (R104). -/

namespace Sys2Proof.Machine

/-! ### The values of magnitudes -/

/-- The value of a magnitude code, were every code finite: the order of the codes is the order of the values. -/
def magValue (F : Fmt) (m : Nat) : ℚ :=
  if m / 2 ^ F.fb = 0 then (m % 2 ^ F.fb : Nat) * (2 : ℚ) ^ F.emin
  else (2 ^ F.fb + m % 2 ^ F.fb : Nat) * (2 : ℚ) ^ (F.emin + (m / 2 ^ F.fb : Nat) - 1)

/-- The code at `q` steps of the binade that begins `k` binades above the subnormals: its value is `q` ulps. The end of a binade
is the beginning of the next. -/
theorem magValue_grid {F : Fmt} {k q : Nat} (hq : q ≤ 2 * 2 ^ F.fb) (hk : k = 0 ∨ 2 ^ F.fb ≤ q) :
    magValue F (k * 2 ^ F.fb + q) = q * (2 : ℚ) ^ (F.emin + k) := by
  unfold magValue
  have hB : 0 < 2 ^ F.fb := Nat.two_pow_pos _
  generalize 2 ^ F.fb = B at *
  have split {j r : Nat} (hr : r < B) (h : k * B + q = r + j * B) : (k * B + q) / B = j ∧ (k * B + q) % B = r := by
    rw [h, Nat.add_mul_div_right _ _ hB, Nat.div_eq_of_lt hr, Nat.add_mul_mod_self_right, Nat.mod_eq_of_lt hr]
    exact ⟨Nat.zero_add j, rfl⟩
  rcases Nat.lt_or_ge q B with h | h
  · obtain rfl : k = 0 := by omega
    obtain ⟨hd, hm⟩ := split (j := 0) h (by omega)
    rw [hd, hm]
    simp
  · rcases Nat.lt_or_ge q (2 * B) with h2 | h2
    · obtain ⟨hd, hm⟩ := split (j := k + 1) (r := q - B) (by omega) (by rw [Nat.add_mul]; omega)
      rw [hd, hm, if_neg (by omega), show B + (q - B) = q by omega,
        show F.emin + ((k + 1 : Nat) : Int) - 1 = F.emin + k by push_cast; ring]
    · obtain rfl : q = 2 * B := by omega
      obtain ⟨hd, hm⟩ := split (j := k + 2) (r := 0) hB (by ring)
      rw [hd, hm, if_neg (by omega), show F.emin + ((k + 2 : Nat) : Int) - 1 = F.emin + k + 1 by push_cast; ring,
        zpow_add_one₀ two_ne_zero]
      push_cast
      ring

/-- Every code stands at a step of a binade before its end. -/
theorem exists_grid (F : Fmt) (m : Nat) :
    ∃ k q, m = k * 2 ^ F.fb + q ∧ q < 2 * 2 ^ F.fb ∧ (k = 0 ∨ 2 ^ F.fb ≤ q) := by
  have hm := Nat.div_add_mod' m (2 ^ F.fb)
  have hr := Nat.mod_lt m (Nat.two_pow_pos F.fb)
  rcases Nat.eq_zero_or_pos (m / 2 ^ F.fb) with h | h
  · rw [h, Nat.zero_mul, Nat.zero_add] at hm
    exact ⟨0, m, by omega, by omega, .inl rfl⟩
  · obtain ⟨j, hj⟩ : ∃ j, m / 2 ^ F.fb = j + 1 := ⟨m / 2 ^ F.fb - 1, by omega⟩
    rw [hj, Nat.succ_mul] at hm
    exact ⟨j, 2 ^ F.fb + m % 2 ^ F.fb, by omega, by omega, .inr (by omega)⟩

theorem magValue_succ {F : Fmt} {k q : Nat} (hq : q < 2 * 2 ^ F.fb) (hk : k = 0 ∨ 2 ^ F.fb ≤ q) :
    magValue F (k * 2 ^ F.fb + q + 1) = magValue F (k * 2 ^ F.fb + q) + (2 : ℚ) ^ (F.emin + k) := by
  rw [Nat.add_assoc, magValue_grid hq (by omega), magValue_grid hq.le hk]
  push_cast
  ring

theorem magValue_strictMono (F : Fmt) : StrictMono (magValue F) := by
  refine strictMono_nat_of_lt_succ fun m => ?_
  obtain ⟨k, q, rfl, hq, hk⟩ := exists_grid F m
  rw [magValue_succ hq hk]
  linarith [zpow_pos (show (0 : ℚ) < 2 by norm_num) (F.emin + k)]

@[simp] theorem magValue_zero (F : Fmt) : magValue F 0 = 0 := by simp [magValue]

theorem magValue_nonneg (F : Fmt) (m : Nat) : 0 ≤ magValue F m := by
  rw [← magValue_zero F]
  exact (magValue_strictMono F).monotone (Nat.zero_le m)

/-! ### The integer nearest a quotient -/

/-- The integer that RNE chooses for `n / d`, over the common denominator: no further than half away, and even on a tie. -/
theorem roundDiv_rne_nat (neg : Bool) (n : Nat) {d : Nat} (hd : 0 < d) :
    2 * n ≤ (2 * roundDiv .rne neg n d + 1) * d ∧ 2 * roundDiv .rne neg n d * d ≤ 2 * n + d ∧
      (2 * n = (2 * roundDiv .rne neg n d + 1) * d ∨ 2 * roundDiv .rne neg n d * d = 2 * n + d →
        roundDiv .rne neg n d % 2 = 0) := by
  have hn := Nat.div_add_mod' n d
  have hr := Nat.mod_lt n hd
  have expand (q : Nat) : (2 * q + 1) * d = 2 * (q * d) + d ∧ 2 * q * d = 2 * (q * d) ∧ (q + 1) * d = q * d + d := by
    refine ⟨?_, ?_, ?_⟩ <;> ring
  obtain ⟨h1, h2, h3⟩ := expand (n / d)
  obtain ⟨h4, h5, -⟩ := expand (n / d + 1)
  unfold roundDiv roundsUp
  simp only [beq_iff_eq, Bool.or_eq_true, Bool.and_eq_true, decide_eq_true_eq]
  split
  next h => rw [h4, h5, h3]; omega
  next h => rw [h1, h2]; omega

/-- `q` is no further than half from `t`, and even where another integer is as near. -/
structure RneInt (t : ℚ) (q : Nat) : Prop where
  le : 2 * t ≤ 2 * q + 1
  ge : 2 * q ≤ 2 * t + 1
  tie : 2 * t = 2 * q + 1 ∨ 2 * q = 2 * t + 1 → q % 2 = 0

theorem RneInt.le_of_lt {t : ℚ} {q N : Nat} (h : RneInt t q) (ht : t < N) : q ≤ N := by
  have hq : (2 * q : ℚ) < 2 * N + 1 := by linarith [h.ge]
  have hq' : 2 * q < 2 * N + 1 := by exact_mod_cast hq
  omega

theorem RneInt.le_of_le {t : ℚ} {q N : Nat} (h : RneInt t q) (ht : (N : ℚ) ≤ t) : N ≤ q := by
  have hq : (2 * N : ℚ) ≤ 2 * q + 1 := by linarith [h.le]
  have hq' : 2 * N ≤ 2 * q + 1 := by exact_mod_cast hq
  omega

theorem roundDiv_rne (neg : Bool) (n : Nat) {d : Nat} (hd : 0 < d) : RneInt ((n : ℚ) / d) (roundDiv .rne neg n d) := by
  obtain ⟨h1, h2, h3⟩ := roundDiv_rne_nat neg n hd
  generalize roundDiv .rne neg n d = q at *
  have hd' : (0 : ℚ) < d := Nat.cast_pos.mpr hd
  have ht : 2 * ((n : ℚ) / d) = (2 * n : Nat) / d := by push_cast; ring
  have hu : 2 * ((n : ℚ) / d) + 1 = (2 * n + d : Nat) / d := by push_cast; field_simp
  have hl : 2 * (q : ℚ) + 1 = (2 * q + 1 : Nat) := by push_cast; ring
  have hq : 2 * (q : ℚ) = (2 * q : Nat) := by push_cast; ring
  refine ⟨?_, ?_, fun h => h3 ?_⟩
  · rw [ht, hl, div_le_iff₀ hd']; exact_mod_cast h1
  · rw [hu, hq, le_div_iff₀ hd']; exact_mod_cast h2
  · rw [hu, ht, hl, hq, div_eq_iff hd'.ne', eq_div_iff hd'.ne'] at h
    exact_mod_cast h

/-! ### The magnitude nearest a value -/

/-- `m` is nearest `v` of the magnitudes, and even where another is as near: `v` lies between the middles of `m` and its
neighbours. -/
structure RneMag (F : Fmt) (v : ℚ) (m : Nat) : Prop where
  le_above : 2 * v ≤ magValue F m + magValue F (m + 1)
  tie_above : 2 * v = magValue F m + magValue F (m + 1) → m % 2 = 0
  ge_below : ∀ p, m = p + 1 → magValue F p + magValue F m ≤ 2 * v
  tie_below : ∀ p, m = p + 1 → 2 * v = magValue F p + magValue F m → m % 2 = 0

theorem rneMag_zero (F : Fmt) : RneMag F 0 0 where
  le_above := by simpa [magValue_zero] using magValue_nonneg F 1
  tie_above _ := rfl
  ge_below p hp := absurd hp (by omega)
  tie_below _ _ _ := rfl

theorem grid_mod_two {F : Fmt} (hfb : 1 ≤ F.fb) (k q : Nat) : (k * 2 ^ F.fb + q) % 2 = q % 2 := by
  obtain ⟨f, hf⟩ := Nat.exists_eq_add_of_le hfb
  rw [hf, Nat.pow_add, Nat.pow_one, show k * (2 * 2 ^ f) + q = q + 2 * (k * 2 ^ f) by ring, Nat.add_mul_mod_self_left]

/-- From a step of a binade, its end included, the next magnitude is at least an ulp above. -/
theorem magValue_add_ulp_le {F : Fmt} {k q : Nat} (hq : q ≤ 2 * 2 ^ F.fb) (hk : k = 0 ∨ 2 ^ F.fb ≤ q) :
    magValue F (k * 2 ^ F.fb + q) + (2 : ℚ) ^ (F.emin + k) ≤ magValue F (k * 2 ^ F.fb + q + 1) := by
  rcases Nat.lt_or_eq_of_le hq with h | rfl
  · exact (magValue_succ h hk).ge
  · have hB := Nat.two_pow_pos F.fb
    rw [show k * 2 ^ F.fb + 2 * 2 ^ F.fb = (k + 1) * 2 ^ F.fb + 2 ^ F.fb by ring, magValue_succ (by omega) (.inr le_rfl)]
    exact add_le_add_right (zpow_le_zpow_right₀ one_le_two (by push_cast; omega)) _

/-- Below a step of a binade the next magnitude is an ulp away, unless the step begins the binade. -/
theorem magValue_pred {F : Fmt} {k q p : Nat} (hq : q ≤ 2 * 2 ^ F.fb) (hk : k = 0 ∨ 2 ^ F.fb ≤ q) (hp : k * 2 ^ F.fb + q = p + 1) :
    magValue F p + (2 : ℚ) ^ (F.emin + k) = magValue F (k * 2 ^ F.fb + q) ∨ (k ≠ 0 ∧ q = 2 ^ F.fb) := by
  by_cases hqB : k = 0 ∨ 2 ^ F.fb < q
  · obtain ⟨r, rfl⟩ : ∃ r, q = r + 1 := ⟨q - 1, by rcases hqB with rfl | hqB <;> omega⟩
    obtain rfl : p = k * 2 ^ F.fb + r := by omega
    exact .inl (magValue_succ hq (by omega)).symm
  · exact .inr (by omega)

/-- A value of the binade `k`, rounded to an integer number of its ulps, is rounded to the nearest magnitude. -/
theorem rneMag_grid {F : Fmt} (hfb : 1 ≤ F.fb) {k q : Nat} {t : ℚ} (hq : q ≤ 2 * 2 ^ F.fb) (hk : k = 0 ∨ 2 ^ F.fb ≤ q)
    (ht : k = 0 ∨ (2 : ℚ) ^ F.fb ≤ t) (h : RneInt t q) : RneMag F (t * (2 : ℚ) ^ (F.emin + k)) (k * 2 ^ F.fb + q) := by
  have hU : (0 : ℚ) < 2 ^ (F.emin + k) := zpow_pos two_pos _
  have hm := magValue_grid hq hk
  have hsucc := magValue_add_ulp_le hq hk
  have hpred p hp := magValue_pred (p := p) hq hk hp
  have hpar := grid_mod_two hfb k q
  generalize (2 : ℚ) ^ (F.emin + k) = U at *
  have hscale {a b : ℚ} (h : a ≤ b) : a * U ≤ b * U := mul_le_mul_of_nonneg_right h hU.le
  have hcancel {a b : ℚ} (h : a * U ≤ b * U) : a ≤ b := le_of_mul_le_mul_right h hU
  have hbegin : k ≠ 0 ∧ q = 2 ^ F.fb → magValue F (k * 2 ^ F.fb + q) ≤ t * U := by
    rintro ⟨hk0, rfl⟩
    rw [hm]
    exact hscale (by push_cast; exact ht.resolve_left hk0)
  constructor
  case le_above => linarith [hscale h.le]
  case tie_above => exact fun he => hpar ▸ h.tie (.inl (le_antisymm h.le (hcancel (by linarith))))
  case ge_below =>
    intro p hp
    have hlt := magValue_strictMono F (show p < k * 2 ^ F.fb + q by omega)
    rcases hpred p hp with hp | hp
    · linarith [hscale h.ge]
    · linarith [hbegin hp]
  case tie_below =>
    intro p hp he
    have hlt := magValue_strictMono F (show p < k * 2 ^ F.fb + q by omega)
    rcases hpred p hp with hp | hp
    · exact hpar ▸ h.tie (.inr (le_antisymm h.ge (hcancel (by linarith))))
    · linarith [hbegin hp]

/-! ### The binade of a quotient -/

/-- The test of `floorLog`: whether the quotient lies below a power of two. -/
theorem div_lt_zpow_iff {n d : Nat} (hd : 0 < d) (l : Int) :
    (if 0 ≤ l then n < d * 2 ^ l.toNat else n * 2 ^ (-l).toNat < d) ↔ (n : ℚ) / d < (2 : ℚ) ^ l := by
  have hd' : (0 : ℚ) < d := Nat.cast_pos.mpr hd
  rw [div_lt_iff₀ hd']
  split
  next h =>
    obtain ⟨k, rfl⟩ := Int.eq_ofNat_of_zero_le h
    rw [Int.toNat_natCast, zpow_natCast, mul_comm]
    norm_cast
  next h =>
    obtain ⟨k, hk⟩ := Int.eq_ofNat_of_zero_le (show 0 ≤ -l by omega)
    obtain rfl : l = -(k : Int) := by omega
    rw [neg_neg, Int.toNat_natCast, zpow_neg, zpow_natCast, inv_mul_eq_div, lt_div_iff₀ (by positivity)]
    norm_cast

theorem floorLog_spec {n d : Nat} (hn : 0 < n) (hd : 0 < d) :
    (2 : ℚ) ^ floorLog n d ≤ (n : ℚ) / d ∧ (n : ℚ) / d < (2 : ℚ) ^ (floorLog n d + 1) := by
  have hd' : (0 : ℚ) < d := Nat.cast_pos.mpr hd
  have hn1 : (2 : ℚ) ^ (n.log2 : Int) ≤ n := by rw [zpow_natCast]; exact_mod_cast Nat.log2_self_le hn.ne'
  have hn2 : (n : ℚ) < (2 : ℚ) ^ ((n.log2 : Int) + 1) := by exact_mod_cast Nat.lt_log2_self (n := n)
  have hd1 : (2 : ℚ) ^ (d.log2 : Int) ≤ d := by rw [zpow_natCast]; exact_mod_cast Nat.log2_self_le hd.ne'
  have hd2 : (d : ℚ) < (2 : ℚ) ^ ((d.log2 : Int) + 1) := by exact_mod_cast Nat.lt_log2_self (n := d)
  have hlow : (2 : ℚ) ^ ((n.log2 : Int) - d.log2 - 1) ≤ (n : ℚ) / d := by
    rw [le_div_iff₀ hd', show (n.log2 : Int) - d.log2 - 1 = n.log2 - (d.log2 + 1) by ring, zpow_sub₀ two_ne_zero,
      div_mul_eq_mul_div, div_le_iff₀ (by positivity)]
    exact mul_le_mul hn1 hd2.le hd'.le (Nat.cast_nonneg n)
  have hhigh : (n : ℚ) / d < (2 : ℚ) ^ ((n.log2 : Int) - d.log2 + 1) := by
    rw [div_lt_iff₀ hd', show (n.log2 : Int) - d.log2 + 1 = n.log2 + 1 - d.log2 by ring, zpow_sub₀ two_ne_zero,
      div_mul_eq_mul_div, lt_div_iff₀ (by positivity)]
    exact mul_lt_mul hn2 hd1 (by positivity) (by positivity)
  unfold floorLog
  simp only [div_lt_zpow_iff hd]
  split
  next h => exact ⟨hlow, by rwa [sub_add_cancel]⟩
  next h => exact ⟨not_lt.mp h, hhigh⟩

/-- The quotient that `roundMag` rounds to an integer: the value in ulps. -/
theorem roundDiv_scaled (neg : Bool) (n : Nat) {d : Nat} (hd : 0 < d) (k : Int) :
    RneInt ((n : ℚ) / d * (2 : ℚ) ^ k)
      (if 0 ≤ k then roundDiv .rne neg (n * 2 ^ k.toNat) d else roundDiv .rne neg n (d * 2 ^ (-k).toNat)) := by
  split
  next h =>
    obtain ⟨j, rfl⟩ := Int.eq_ofNat_of_zero_le h
    have := roundDiv_rne neg (n * 2 ^ j) hd
    rwa [Nat.cast_mul, Nat.cast_pow, Nat.cast_ofNat, mul_div_right_comm, ← zpow_natCast] at this
  next h =>
    obtain ⟨j, hj⟩ := Int.eq_ofNat_of_zero_le (show 0 ≤ -k by omega)
    obtain rfl : k = -(j : Int) := by omega
    have := roundDiv_rne neg n (d := d * 2 ^ j) (by positivity)
    rw [neg_neg, Int.toNat_natCast]
    rwa [Nat.cast_mul, Nat.cast_pow, Nat.cast_ofNat, ← div_div, div_eq_mul_inv _ ((2 : ℚ) ^ j), ← zpow_natCast, ← zpow_neg] at this

/-- In ulps of the binade that `roundMag` takes, a value lies below the binade's end, and from its beginning on unless the binade is
that of the subnormals. -/
theorem ulps_of_binade {F : Fmt} {n d k : Nat} {e : Int} (hn : 0 < n) (hd : 0 < d)
    (hk : max (floorLog n d + e - F.fb) F.emin = F.emin + k) :
    (n : ℚ) / d * 2 ^ (e - (F.emin + k)) < 2 * 2 ^ F.fb ∧ (k = 0 ∨ (2 : ℚ) ^ F.fb ≤ n / d * 2 ^ (e - (F.emin + k))) := by
  obtain ⟨hlow, hhigh⟩ := floorLog_spec hn hd
  constructor
  · refine (mul_lt_mul_of_pos_right hhigh (zpow_pos two_pos (e - (F.emin + k)))).trans_le ?_
    rw [← zpow_add₀ two_ne_zero, ← pow_succ', ← zpow_natCast]
    exact zpow_le_zpow_right₀ one_le_two (by push_cast; omega)
  · rcases Nat.eq_zero_or_pos k with h | h
    · exact .inl h
    · refine .inr (le_trans ?_ (mul_le_mul_of_nonneg_right hlow (by positivity)))
      rw [← zpow_add₀ two_ne_zero, ← zpow_natCast]
      exact zpow_le_zpow_right₀ one_le_two (by omega)

/-- `roundMag` chooses the nearest magnitude: its binade is the value's own, or that of the subnormals. -/
theorem roundMag_rne {F : Fmt} (hfb : 1 ≤ F.fb) (neg : Bool) (n : Nat) {d : Nat} (hd : 0 < d) (e : Int) :
    RneMag F ((n : ℚ) / d * (2 : ℚ) ^ e) (roundMag F .rne neg n d e) := by
  rcases Nat.eq_zero_or_pos n with rfl | hn
  · simpa [roundMag] using rneMag_zero F
  rw [roundMag, if_neg hn.ne']
  simp only []
  obtain ⟨k, hk⟩ : ∃ k : Nat, max (floorLog n d + e - F.fb) F.emin = F.emin + k :=
    ⟨(max (floorLog n d + e - F.fb) F.emin - F.emin).toNat, by omega⟩
  obtain ⟨hlt, hge⟩ := ulps_of_binade hn hd hk
  rw [hk, show F.emin + (k : Int) - F.emin = k by ring, Int.toNat_natCast]
  have hr := roundDiv_scaled neg n hd (e - (F.emin + k))
  generalize (if 0 ≤ e - (F.emin + k) then roundDiv .rne neg (n * 2 ^ (e - (F.emin + k)).toNat) d
    else roundDiv .rne neg n (d * 2 ^ (-(e - (F.emin + k))).toNat)) = q at hr ⊢
  have hv : (n : ℚ) / d * 2 ^ e = (n : ℚ) / d * 2 ^ (e - (F.emin + k)) * 2 ^ (F.emin + k) := by
    rw [mul_assoc, ← zpow_add₀ two_ne_zero, sub_add_cancel]
  rw [hv]
  exact rneMag_grid hfb (hr.le_of_lt (by push_cast; exact hlt)) (hge.imp_right fun hge => hr.le_of_le (by push_cast; exact hge))
    hge hr

/-! ### Codes, signs and places -/

/-- A format of Table 5.1 whose infinity stands right above its largest finite magnitude: each but E4M3. -/
structure Fmt.Ieee (F : Fmt) : Prop where
  frac : 1 ≤ F.fb
  inf : F.infCode = some (F.maxCode + 1)
  normal : 2 ^ F.fb ≤ F.maxCode
  room : F.maxCode + 1 < F.signBit

theorem fp32_ieee : fp32.Ieee := by constructor <;> decide

/-- The sign of a value. -/
def sgn (s : Bool) : ℚ := if s then -1 else 1

/-- The sign of a code, and its magnitude. -/
def codeSign (F : Fmt) (c : Nat) : Bool := c / F.signBit % 2 == 1
def codeMag (F : Fmt) (c : Nat) : Nat := c % F.signBit

theorem signBit_pos (F : Fmt) : 0 < F.signBit := Nat.two_pow_pos _

theorem signed_codeSign {F : Fmt} {m : Nat} (hm : m < F.signBit) (s : Bool) :
    codeSign F (signed F s m) = s ∧ codeMag F (signed F s m) = m := by
  cases s
  · simp [signed, codeSign, codeMag, Nat.div_eq_of_lt hm, Nat.mod_eq_of_lt hm]
  · simp [signed, codeSign, codeMag, Nat.add_div_left _ (signBit_pos F), Nat.div_eq_of_lt hm, Nat.mod_eq_of_lt hm]

theorem signed_lt {F : Fmt} {m : Nat} (hm : m < F.signBit) (s : Bool) :
    signed F s m < 2 * F.signBit ∧ (F.signBit ≤ signed F s m ↔ s = true) := by
  cases s <;> simp [signed] <;> omega

theorem signed_mod_two {F : Fmt} (hfb : 1 ≤ F.fb) (s : Bool) (m : Nat) : signed F s m % 2 = m % 2 := by
  obtain ⟨f, hf⟩ := Nat.exists_eq_add_of_le hfb
  cases s
  · rfl
  · rw [signed, if_pos rfl, Fmt.signBit, hf, show F.eb + (1 + f) = F.eb + f + 1 by ring, Nat.pow_succ', Nat.mul_add_mod]

/-- A code up to the largest finite one decodes to its sign and its magnitude. -/
theorem decodeFP_fin {F : Fmt} {c : Nat} (h : codeMag F c ≤ F.maxCode) :
    ∃ n e, decodeFP F c = .fin (codeSign F c) n e ∧ (n : ℚ) * 2 ^ e = magValue F (codeMag F c) ∧ n < 2 * 2 ^ F.fb := by
  have hfr := Nat.mod_lt (codeMag F c) (Nat.two_pow_pos F.fb)
  unfold codeMag at *
  simp only [decodeFP, if_pos h, magValue]
  split
  next => exact ⟨_, _, rfl, rfl, by omega⟩
  next => exact ⟨_, _, rfl, rfl, by omega⟩

theorem ratOf_fin (s : Bool) (n : Nat) (e : Int) : ratOf (.fin s n e) = some (sgn s * (n * (2 : ℚ) ^ e)) := by
  rw [ratOf, sgn, mul_assoc]

/-- The finite values of a format. -/
theorem ratOf_decodeFP {F : Fmt} {c : Nat} (h : codeMag F c ≤ F.maxCode) :
    ratOf (decodeFP F c) = some (sgn (codeSign F c) * magValue F (codeMag F c)) := by
  obtain ⟨n, e, hd, hv, -⟩ := decodeFP_fin h
  rw [hd, ratOf_fin, hv]

theorem decodeFP_inf {F : Fmt} (hF : F.Ieee) {c : Nat} (h : codeMag F c = F.maxCode + 1) : decodeFP F c = .inf (codeSign F c) := by
  unfold codeMag at h
  simp only [decodeFP, h, hF.inf, if_pos, if_neg (show ¬F.maxCode + 1 ≤ F.maxCode by omega), codeSign]

theorem decodeFP_nan {F : Fmt} (hF : F.Ieee) {c : Nat} (h : F.maxCode + 1 < codeMag F c) : decodeFP F c = .nan := by
  unfold codeMag at h
  simp only [decodeFP, hF.inf, if_neg (show ¬c % F.signBit ≤ F.maxCode by omega), Option.some.injEq,
    if_neg (show ¬c % F.signBit = F.maxCode + 1 by omega)]

theorem extendedOf_eq {F : Fmt} (hF : F.Ieee) : extendedOf F = magValue F (F.maxCode + 1) := by
  have hm := Nat.div_add_mod' F.maxCode (2 ^ F.fb)
  have hr := Nat.mod_lt F.maxCode (Nat.two_pow_pos F.fb)
  obtain ⟨j, hj⟩ : ∃ j, F.maxCode / 2 ^ F.fb = j + 1 :=
    ⟨F.maxCode / 2 ^ F.fb - 1, by have := (Nat.one_le_div_iff (Nat.two_pow_pos F.fb)).mpr hF.normal; omega⟩
  rw [hj, Nat.succ_mul] at hm
  have := magValue_grid (F := F) (k := j) (q := 2 ^ F.fb + F.maxCode % 2 ^ F.fb + 1) (by omega) (by omega)
  rw [show j * 2 ^ F.fb + (2 ^ F.fb + F.maxCode % 2 ^ F.fb + 1) = F.maxCode + 1 by omega] at this
  rw [this, extendedOf, hj, show F.emin + ((j + 1 : Nat) : Int) - 1 = F.emin + j by push_cast; ring]

/-! ### The chosen magnitude, cut at the extended value -/

/-- The middles of the chosen magnitude, cut at the extended value, and of every other magnitude up to it. -/
theorem RneMag.cut {F : Fmt} {v : ℚ} {m K : Nat} (h : RneMag F v m) {j : Nat} (hj : j ≤ K) :
    (min m K < j → 2 * v ≤ magValue F (min m K) + magValue F j ∧
      (2 * v = magValue F (min m K) + magValue F j → min m K % 2 = 0)) ∧
    (j < min m K → magValue F j + magValue F (min m K) ≤ 2 * v ∧
      (2 * v = magValue F j + magValue F (min m K) → min m K % 2 = 0)) := by
  have hmono := magValue_strictMono F
  refine ⟨fun hlt => ?_, fun hlt => ?_⟩
  · have hm : min m K = m := by omega
    rw [hm] at hlt ⊢
    have hnext := hmono.monotone (show m + 1 ≤ j by omega)
    exact ⟨by linarith [h.le_above], fun he => h.tie_above (by linarith [h.le_above])⟩
  · obtain ⟨p, rfl⟩ : ∃ p, m = p + 1 := ⟨m - 1, by omega⟩
    have hd := h.ge_below p rfl
    rcases Nat.lt_or_ge K (p + 1) with hK | hK
    · have hm : min (p + 1) K = K := by omega
      rw [hm] at hlt ⊢
      have hjK := hmono hlt
      have hKp := hmono.monotone (show K ≤ p by omega)
      have hKm := hmono.monotone hK.le
      exact ⟨by linarith, fun he => absurd he (by linarith)⟩
    · have hm : min (p + 1) K = p + 1 := by omega
      rw [hm] at hlt ⊢
      have hprev := hmono.monotone (show j ≤ p by omega)
      exact ⟨by linarith, fun he => h.tie_below p rfl (by linarith)⟩

end Sys2Proof.Machine
end

section
/-! SUPPORT. The code that rounding chooses is `Rounded` in the sense of the statements. -/

namespace Sys2Proof.Rounding

open Sys2Proof.Machine

/-! ### Places -/

/-- The place of a code is decided by what it decodes to. -/
theorem placeOf_eq (F : Fmt) (c : Nat) : placeOf F c =
    match decodeFP F c with
      | .inf s => some (if s then -extendedOf F else extendedOf F)
      | x => ratOf x := rfl

theorem placeOf_of_inf {F : Fmt} {c : Nat} {s : Bool} (h : decodeFP F c = .inf s) :
    placeOf F c = some (if s then -extendedOf F else extendedOf F) := by
  rw [placeOf_eq, h]

theorem placeOf_of_fin {F : Fmt} {c n : Nat} {s : Bool} {e : Int} (h : decodeFP F c = .fin s n e) :
    placeOf F c = some (sgn s * (n * (2 : ℚ) ^ e)) := by
  rw [placeOf_eq, h, ← ratOf_fin]

theorem placeOf_of_nan {F : Fmt} {c : Nat} (h : decodeFP F c = .nan) : placeOf F c = none := by
  rw [placeOf_eq, h]
  rfl

/-- The places that RNE chooses from: the magnitudes up to the extended value, with either sign. -/
theorem placeOf_eq_some_iff {F : Fmt} (hF : F.Ieee) {c : Nat} {y : ℚ} :
    placeOf F c = some y ↔ codeMag F c ≤ F.maxCode + 1 ∧ y = sgn (codeSign F c) * magValue F (codeMag F c) := by
  rcases Nat.lt_trichotomy (codeMag F c) (F.maxCode + 1) with h | h | h
  · obtain ⟨n, e, hd, hv, -⟩ := decodeFP_fin (show codeMag F c ≤ F.maxCode by omega)
    rw [placeOf_of_fin hd, hv, Option.some.injEq, eq_comm, and_iff_right h.le]
  · rw [placeOf_of_inf (decodeFP_inf hF h), extendedOf_eq hF, h, Option.some.injEq, eq_comm, and_iff_right le_rfl, sgn]
    cases codeSign F c <;> simp
  · rw [placeOf_of_nan (decodeFP_nan hF h)]
    simp only [reduceCtorEq, false_iff, not_and]
    omega

/-! ### The nearest code -/

theorem sgn_mul_self (s : Bool) : sgn s * sgn s = 1 := by cases s <;> norm_num [sgn]

theorem sgn_mul_of_ne {s t : Bool} (h : s ≠ t) : sgn s * sgn t = -1 := by cases s <;> cases t <;> simp [sgn] at h ⊢

theorem abs_sgn_mul (s : Bool) (x : ℚ) : |sgn s * x| = |x| := by cases s <;> simp [sgn]

/-- A distance from a value of sign `s` is a distance from its magnitude. -/
theorem abs_sgn_sub (s : Bool) (v z : ℚ) : |sgn s * v - z| = |v - sgn s * z| := by
  rw [← abs_sgn_mul s (v - sgn s * z), mul_sub, ← mul_assoc, sgn_mul_self, one_mul]

/-- No magnitude up to the extended value is nearer than the chosen one, cut there. -/
theorem nearest_magnitude {F : Fmt} {v : ℚ} {m K : Nat} (h : RneMag F v m) {j : Nat} (hj : j ≤ K) :
    |v - magValue F (min m K)| ≤ |v - magValue F j| ∧
    (|v - magValue F (min m K)| = |v - magValue F j| → magValue F (min m K) ≠ magValue F j → min m K % 2 = 0) := by
  obtain ⟨hup, hdown⟩ := h.cut hj
  rcases Nat.lt_trichotomy (min m K) j with hlt | heq | hlt
  · obtain ⟨hle, htie⟩ := hup hlt
    have hy := magValue_strictMono F hlt
    rw [abs_of_nonpos (show v - magValue F j ≤ 0 by linarith), abs_le]
    refine ⟨⟨by linarith, by linarith⟩, fun he _ => htie ?_⟩
    rcases abs_eq_abs.mp (he.trans (abs_of_nonneg (show 0 ≤ -(v - magValue F j) by linarith)).symm) with he | he <;> linarith
  · rw [heq]
    exact ⟨le_rfl, fun _ hne => absurd rfl hne⟩
  · obtain ⟨hle, htie⟩ := hdown hlt
    have hy := magValue_strictMono F hlt
    rw [abs_of_nonneg (show 0 ≤ v - magValue F j by linarith), abs_le]
    refine ⟨⟨by linarith, by linarith⟩, fun he _ => htie ?_⟩
    rcases abs_eq_abs.mp (he.trans (abs_of_nonneg (show 0 ≤ v - magValue F j by linarith)).symm) with he | he <;> linarith

/-- The nearest magnitude, cut at the extended value and with the sign of the value, is the nearest code: a code of the other sign
is no nearer than zero is. -/
theorem nearest_of_rneMag {F : Fmt} (hF : F.Ieee) {v : ℚ} (hv : 0 ≤ v) {m : Nat} (h : RneMag F v m) (s : Bool) :
    Nearest (placeOf F) (sgn s * v) (signed F s (min m (F.maxCode + 1))) := by
  have hK : min m (F.maxCode + 1) < F.signBit := lt_of_le_of_lt (min_le_right ..) hF.room
  obtain ⟨hs, hm⟩ := signed_codeSign hK s
  refine ⟨sgn s * magValue F (min m (F.maxCode + 1)),
    (placeOf_eq_some_iff hF).mpr ⟨by rw [hm]; exact min_le_right .., by rw [hs, hm]⟩, fun c z hz => ?_⟩
  obtain ⟨hc, rfl⟩ := (placeOf_eq_some_iff hF).mp hz
  generalize codeMag F c = j at *
  obtain ⟨hle, htie⟩ := nearest_magnitude h hc
  obtain ⟨hzero, -⟩ := nearest_magnitude h (Nat.zero_le (F.maxCode + 1))
  rw [signed_mod_two hF.frac, abs_sgn_sub, abs_sgn_sub, ← mul_assoc, ← mul_assoc, sgn_mul_self, one_mul]
  by_cases hsame : codeSign F c = s
  · rw [hsame, sgn_mul_self, one_mul]
    exact ⟨hle, fun he hne => htie he fun h => hne (by rw [h])⟩
  · have hopp := sgn_mul_of_ne (Ne.symm hsame)
    have hj := magValue_nonneg F j
    rw [magValue_zero, sub_zero, abs_of_nonneg hv] at hzero
    rw [hopp, neg_one_mul, sub_neg_eq_add, abs_of_nonneg (show 0 ≤ v + magValue F j by linarith)]
    refine ⟨by linarith, fun he hne => htie ?_ fun h => hne ?_⟩
    · have h0 : magValue F j = 0 := by linarith
      rw [he, h0, add_zero, sub_zero, abs_of_nonneg hv]
    · have h0 : magValue F j = 0 := by linarith
      rw [h, h0, mul_zero, mul_zero]

/-- With RNE an overflow is the code right above the largest finite one. -/
theorem roundQ_rne {F : Fmt} (hF : F.Ieee) (s : Bool) (n d : Nat) (e : Int) :
    roundQ F .rne s n d e = signed F s (min (roundMag F .rne s n d e) (F.maxCode + 1)) := by
  simp only [roundQ, overflowCode, hF.inf]
  congr 1
  split <;> omega

theorem rounded_of_rneMag {F : Fmt} (hF : F.Ieee) {v : ℚ} (hv : 0 ≤ v) {m : Nat} (h : RneMag F v m) (s : Bool) :
    Rounded F .rne s (sgn s * v) (signed F s (min m (F.maxCode + 1))) := by
  obtain ⟨hlt, hsign⟩ := signed_lt (lt_of_le_of_lt (min_le_right m (F.maxCode + 1)) hF.room) s
  exact ⟨hlt, hsign, nearest_of_rneMag hF hv h s⟩

/-- ONE ROUNDING WITH RNE: `roundQ` gives the code that R104 asks for. -/
theorem roundQ_rounded {F : Fmt} (hF : F.Ieee) (s : Bool) (n : Nat) {d : Nat} (hd : 0 < d) (e : Int) :
    Rounded F .rne s (sgn s * ((n : ℚ) / d * (2 : ℚ) ^ e)) (roundQ F .rne s n d e) := by
  rw [roundQ_rne hF]
  exact rounded_of_rneMag hF (by positivity) (roundMag_rne hF.frac s n hd e) s

end Sys2Proof.Rounding
end

section
/-! SUPPORT. FP32 words: what they decode to, what an exact value is converted to, and FDIV and FSCALE (R152). -/

namespace Sys2Proof.Rounding

open Sys2Proof.Machine

/-! ### Exact values and the ends of the format -/

/-- A value that is a magnitude is rounded to it. -/
theorem rneMag_exact {F : Fmt} {j m : Nat} (h : RneMag F (magValue F j) m) : m = j := by
  have hmono := magValue_strictMono F
  rcases Nat.lt_trichotomy m j with hlt | heq | hlt
  · linarith [hmono hlt, hmono.monotone (show m + 1 ≤ j by omega), h.le_above]
  · exact heq
  · obtain ⟨p, rfl⟩ : ∃ p, m = p + 1 := ⟨m - 1, by omega⟩
    linarith [hmono hlt, hmono.monotone (show j ≤ p by omega), h.ge_below p rfl]

theorem le_of_rneMag {F : Fmt} {v : ℚ} {m K : Nat} (h : RneMag F v m) (hv : magValue F K ≤ v) : K ≤ m := by
  by_contra hlt
  have hmono := magValue_strictMono F
  linarith [hmono (show m < K by omega), hmono.monotone (show m + 1 ≤ K by omega), h.le_above]

theorem eq_zero_of_rneMag {F : Fmt} {v : ℚ} {m : Nat} (h : RneMag F v m) (hv : 2 * v < magValue F 1) : m = 0 := by
  by_contra hne
  obtain ⟨p, rfl⟩ : ∃ p, m = p + 1 := ⟨m - 1, by omega⟩
  linarith [(magValue_strictMono F).monotone (show 1 ≤ p + 1 by omega), h.ge_below p rfl, magValue_nonneg F p]

/-- Each multiple of an ulp up to the end of its binade is a magnitude. -/
theorem exists_magValue (F : Fmt) (k : Nat) {q : Nat} (hq : q ≤ 2 * 2 ^ F.fb) :
    ∃ j, j ≤ k * 2 ^ F.fb + 2 * 2 ^ F.fb ∧ magValue F j = q * (2 : ℚ) ^ (F.emin + k) := by
  induction k generalizing q with
  | zero => exact ⟨q, by omega, by simpa using magValue_grid (F := F) (k := 0) hq (.inl rfl)⟩
  | succ k ih =>
    rcases Nat.lt_or_ge q (2 ^ F.fb) with h | h
    · obtain ⟨j, hj, hv⟩ := ih (q := 2 * q) (by omega)
      refine ⟨j, hj.trans (by rw [Nat.add_mul]; omega), hv.trans ?_⟩
      rw [show F.emin + ((k + 1 : Nat) : Int) = F.emin + k + 1 by push_cast; ring, zpow_add_one₀ two_ne_zero]
      push_cast
      ring
    · exact ⟨(k + 1) * 2 ^ F.fb + q, by omega, magValue_grid hq (.inr h)⟩

/-! ### FP32 words -/

theorem f32_eq_decode (a : Word) : f32 a = decodeFP fp32 a.toNat := rfl

/-- A word is finite, infinite or a NaN by its magnitude code. -/
theorem f32_cases (a : Word) :
    (codeMag fp32 a.toNat ≤ fp32.maxCode ∧ ∃ n e, f32 a = .fin (codeSign fp32 a.toNat) n e ∧
      (n : ℚ) * 2 ^ e = magValue fp32 (codeMag fp32 a.toNat) ∧ n < 2 ^ 24) ∨
    (codeMag fp32 a.toNat = fp32.maxCode + 1 ∧ f32 a = .inf (codeSign fp32 a.toNat)) ∨
    (fp32.maxCode + 1 < codeMag fp32 a.toNat ∧ f32 a = .nan) := by
  rcases Nat.lt_trichotomy (codeMag fp32 a.toNat) (fp32.maxCode + 1) with h | h | h
  · exact .inl ⟨by omega, decodeFP_fin (by omega)⟩
  · exact .inr (.inl ⟨h, decodeFP_inf fp32_ieee h⟩)
  · exact .inr (.inr ⟨h, decodeFP_nan fp32_ieee h⟩)

/-- A finite FP32 word: its magnitude, and its significand of at most 24 bits. -/
theorem f32_fin {a : Word} {s : Bool} {n : Nat} {e : Int} (h : f32 a = .fin s n e) :
    codeMag fp32 a.toNat ≤ fp32.maxCode ∧ (n : ℚ) * 2 ^ e = magValue fp32 (codeMag fp32 a.toNat) ∧ n < 2 ^ 24 := by
  rcases f32_cases a with ⟨hm, k, g, hf, hv, hk⟩ | ⟨-, hf⟩ | ⟨-, hf⟩
  · rw [h, Num.fin.injEq] at hf
    obtain ⟨-, rfl, rfl⟩ := hf
    exact ⟨hm, hv, hk⟩
  · cases h.symm.trans hf
  · cases h.symm.trans hf

/-- A word is its sign and its magnitude. -/
theorem word_eq_signed (a : Word) : a = BitVec.ofNat 32 (signed fp32 (codeSign fp32 a.toNat) (codeMag fp32 a.toNat)) := by
  apply BitVec.eq_of_toNat_eq
  have ha := a.isLt
  have hs : fp32.signBit = 2 ^ 31 := rfl
  simp only [BitVec.toNat_ofNat, signed, codeSign, codeMag, hs, beq_iff_eq]
  split <;> omega

/-- An infinite word is one of two. -/
theorem f32_inf {a : Word} {s : Bool} (h : f32 a = .inf s) : a = if s then 0xFF800000 else 0x7F800000 := by
  rcases f32_cases a with ⟨-, k, g, hf, -⟩ | ⟨hm, hf⟩ | ⟨-, hf⟩
  · cases h.symm.trans hf
  · rw [word_eq_signed a, hm, ← Num.inf.inj (h.symm.trans hf)]
    cases s <;> rfl
  · cases h.symm.trans hf

theorem code_lt (s : Bool) {m : Nat} (hm : m < fp32.signBit) : signed fp32 s m < 2 ^ 32 := (signed_lt hm s).1

theorem roundQ_fp32_lt (s : Bool) (n d : Nat) (e : Int) : roundQ fp32 .rne s n d e < 2 ^ 32 := by
  rw [roundQ_rne fp32_ieee]
  exact code_lt s (lt_of_le_of_lt (min_le_right ..) fp32_ieee.room)

theorem toNat_ofNat_roundQ (s : Bool) (n d : Nat) (e : Int) :
    (BitVec.ofNat 32 (roundQ fp32 .rne s n d e)).toNat = roundQ fp32 .rne s n d e := by
  rw [BitVec.toNat_ofNat, Nat.mod_eq_of_lt (roundQ_fp32_lt s n d e)]

theorem toF32_fin_toNat (s : Bool) (n : Nat) (e : Int) :
    (toF32 (.fin s n e)).toNat = signed fp32 s (min (roundMag fp32 .rne s n 1 e) (fp32.maxCode + 1)) := by
  rw [← roundQ_rne fp32_ieee]
  exact toNat_ofNat_roundQ s n 1 e

/-- What RNE chooses for an exact value is nearest to it. -/
theorem roundMag_fin (s : Bool) (n : Nat) (e : Int) : RneMag fp32 (n * (2 : ℚ) ^ e) (roundMag fp32 .rne s n 1 e) := by
  simpa using roundMag_rne (F := fp32) fp32_ieee.frac s n one_pos e

theorem toF32_rounded (s : Bool) (n : Nat) (e : Int) :
    Rounded fp32 .rne s (sgn s * (n * (2 : ℚ) ^ e)) (toF32 (.fin s n e)).toNat := by
  rw [toF32_fin_toNat]
  exact rounded_of_rneMag fp32_ieee (by positivity) (roundMag_fin s n e) s

/-- A value that FP32 holds is converted to the word that holds it. -/
theorem toF32_exact {n : Nat} {e : Int} {j : Nat} (hj : j ≤ fp32.maxCode) (h : (n : ℚ) * 2 ^ e = magValue fp32 j) (s : Bool) :
    ∃ k g, f32 (toF32 (.fin s n e)) = .fin s k g ∧ (k : ℚ) * 2 ^ g = n * 2 ^ e := by
  have hr := roundMag_fin s n e
  rw [h] at hr
  have hroom := fp32_ieee.room
  obtain ⟨hs, hm⟩ := signed_codeSign (F := fp32) (show j < fp32.signBit by omega) s
  obtain ⟨k, g, hd, hv, -⟩ := decodeFP_fin (F := fp32) (c := signed fp32 s j) (by rwa [hm])
  rw [f32_eq_decode, toF32_fin_toNat, rneMag_exact hr, min_eq_left (by omega)]
  exact ⟨k, g, by rw [hd, hs], by rw [hv, hm, h]⟩

/-! ### FDIV (R152) -/

theorem fDiv_rounded {a b : Word} {s t : Bool} {n d : Nat} {e f : Int} {x y : ℚ} (ha : f32 a = .fin s n e)
    (hb : f32 b = .fin t d f) (hd : d ≠ 0) (hx : ratOf (f32 a) = some x) (hy : ratOf (f32 b) = some y) :
    Rounded fp32 .rne (s != t) (x / y) (fDiv a b).toNat := by
  rw [ha, ratOf_fin, Option.some.injEq] at hx
  rw [hb, ratOf_fin, Option.some.injEq] at hy
  have hdiv : fDiv a b = BitVec.ofNat 32 (roundQ fp32 .rne (s != t) n d (e - f)) := by
    rw [fDiv, ha, hb]
    exact if_neg hd
  have hq : x / y = sgn (s != t) * ((n : ℚ) / d * 2 ^ (e - f)) := by
    have hs : sgn (s != t) = sgn s / sgn t := by cases s <;> cases t <;> norm_num [sgn]
    have hd' : (d : ℚ) ≠ 0 := Nat.cast_ne_zero.mpr hd
    rw [← hx, ← hy, hs, zpow_sub₀ two_ne_zero, mul_div_mul_comm, mul_div_mul_comm]
  rw [hdiv, toNat_ofNat_roundQ, hq]
  exact roundQ_rounded fp32_ieee (s != t) n (Nat.pos_of_ne_zero hd) (e - f)

/-! ### FSCALE (R152) -/

theorem magValue_infinity : magValue fp32 (fp32.maxCode + 1) = 2 ^ (128 : Int) := by
  have h := magValue_grid (F := fp32) (k := 254) (q := 2 ^ 23) (by decide) (.inr le_rfl)
  rw [show fp32.maxCode + 1 = 254 * 2 ^ fp32.fb + 2 ^ 23 by decide, h, Nat.cast_pow, Nat.cast_ofNat, ← zpow_natCast,
    ← zpow_add₀ two_ne_zero]
  rfl

theorem magValue_one : magValue fp32 1 = 2 ^ (-149 : Int) := by
  have h := magValue_grid (F := fp32) (k := 0) (q := 1) (by decide) (.inl rfl)
  rw [Nat.cast_one, one_mul] at h
  exact h

/-- A finite FP32 value that is not 0 lies between the smallest subnormal and the extended value. -/
theorem f32_fin_bounds {a : Word} {s : Bool} {n : Nat} {e : Int} (h : f32 a = .fin s n e) (hn : n ≠ 0) :
    (2 : ℚ) ^ (-149 : Int) ≤ n * 2 ^ e ∧ (n : ℚ) * 2 ^ e < 2 ^ (128 : Int) := by
  obtain ⟨hm, hv, -⟩ := f32_fin h
  have hpos : (0 : ℚ) < n * 2 ^ e := mul_pos (Nat.cast_pos.mpr (Nat.pos_of_ne_zero hn)) (zpow_pos two_pos e)
  have hm1 : 1 ≤ codeMag fp32 a.toNat := by
    by_contra h0
    rw [hv, show codeMag fp32 a.toNat = 0 by omega, magValue_zero] at hpos
    exact lt_irrefl 0 hpos
  rw [hv, ← magValue_one, ← magValue_infinity]
  exact ⟨(magValue_strictMono fp32).monotone hm1, magValue_strictMono fp32 (by omega)⟩

/-- From the extended value on every value is converted to infinity. -/
theorem toF32_overflow {s : Bool} {n : Nat} {e : Int} (h : (2 : ℚ) ^ (128 : Int) ≤ n * 2 ^ e) :
    (toF32 (.fin s n e)).toNat = signed fp32 s (fp32.maxCode + 1) := by
  rw [toF32_fin_toNat, min_eq_right (le_of_rneMag (roundMag_fin s n e) (by rwa [magValue_infinity]))]

/-- Below half of the smallest subnormal every value is converted to zero. -/
theorem toF32_underflow {s : Bool} {n : Nat} {e : Int} (h : (n : ℚ) * 2 ^ e < 2 ^ (-150 : Int)) :
    (toF32 (.fin s n e)).toNat = signed fp32 s 0 := by
  rw [toF32_fin_toNat, eq_zero_of_rneMag (roundMag_fin s n e), Nat.zero_min]
  rw [magValue_one, show (-149 : Int) = 1 + -150 by norm_num, zpow_add₀ two_ne_zero, zpow_one]
  linarith

theorem toF32_zero (s : Bool) (e : Int) : (toF32 (.fin s 0 e)).toNat = signed fp32 s 0 :=
  toF32_underflow (by rw [Nat.cast_zero, zero_mul]; exact zpow_pos two_pos _)

theorem scaled_le {a b : Int} {n : Nat} (e : Int) (h : a ≤ b) : (n : ℚ) * 2 ^ (e + a) ≤ n * 2 ^ (e + b) :=
  mul_le_mul_of_nonneg_left (zpow_le_zpow_right₀ one_le_two (by omega)) (Nat.cast_nonneg n)

/-- A power beyond ±400 takes any finite value out of range as ±400 does. -/
theorem fScale_eq {a b : Word} {s : Bool} {n : Nat} {e : Int} (ha : f32 a = .fin s n e) :
    fScale a b = toF32 (.fin s n (e + b.toInt)) := by
  have hf : fScale a b = toF32 (.fin s n (e + max (-400) (min 400 b.toInt))) := by rw [fScale, ha, Num.scale]
  rw [hf]
  apply BitVec.eq_of_toNat_eq
  rcases Nat.eq_zero_or_pos n with rfl | hn
  · rw [toF32_zero, toF32_zero]
  obtain ⟨hlow, hhigh⟩ := f32_fin_bounds ha hn.ne'
  rcases lt_or_ge 400 b.toInt with hb | hb
  · have h400 : (2 : ℚ) ^ (128 : Int) ≤ n * 2 ^ (e + 400) := by
      rw [zpow_add₀ two_ne_zero, ← mul_assoc]
      refine le_trans ?_ (mul_le_mul_of_nonneg_right hlow (by positivity))
      rw [← zpow_add₀ two_ne_zero]
      exact zpow_le_zpow_right₀ one_le_two (by norm_num)
    rw [show max (-400) (min 400 b.toInt) = 400 by omega, toF32_overflow h400, toF32_overflow (h400.trans (scaled_le e hb.le))]
  · rcases lt_or_ge b.toInt (-400) with hb' | hb'
    · have h400 : (n : ℚ) * 2 ^ (e + -400) < 2 ^ (-150 : Int) := by
        rw [zpow_add₀ two_ne_zero, ← mul_assoc]
        refine lt_of_lt_of_le (mul_lt_mul_of_pos_right hhigh (by positivity)) ?_
        rw [← zpow_add₀ two_ne_zero]
        exact zpow_le_zpow_right₀ one_le_two (by norm_num)
      rw [show max (-400) (min 400 b.toInt) = -400 by omega, toF32_underflow h400,
        toF32_underflow ((scaled_le e hb'.le).trans_lt h400)]
    · rw [show max (-400) (min 400 b.toInt) = b.toInt by omega]

theorem fScale_rounded {a b : Word} {s : Bool} {n : Nat} {e : Int} {x : ℚ} (ha : f32 a = .fin s n e)
    (hx : ratOf (f32 a) = some x) :
    Rounded fp32 .rne s (x * (2 : ℚ) ^ b.toInt) (fScale a b).toNat := by
  rw [ha, ratOf_fin, Option.some.injEq] at hx
  rw [fScale_eq ha, ← hx, mul_assoc, mul_assoc, ← zpow_add₀ two_ne_zero]
  exact toF32_rounded s n (e + b.toInt)

theorem fScale_inf {a : Word} {s : Bool} (b : Word) (h : f32 a = .inf s) : fScale a b = a := by
  rw [fScale, h, f32_inf h]
  show toF32 (.inf s) = _
  cases s <;> decide

end Sys2Proof.Rounding
end

section
/-! SUPPORT. Rounding to an integer, and FFLOOR, FCEIL, FTRUNC and FRINT (R154). -/

namespace Sys2Proof.Rounding

open Sys2Proof.Machine

/-! ### A quotient rounded to an integer (Table 5.2) -/

theorem roundDiv_le (m : RMode) (s : Bool) (n d : Nat) : roundDiv m s n d ≤ n + 1 := by
  have := Nat.div_le_self n d
  unfold roundDiv
  simp only []
  split <;> omega

theorem roundDiv_one (m : RMode) (s : Bool) (n : Nat) : roundDiv m s n 1 = n := by
  unfold roundDiv
  rw [Nat.div_one, Nat.mod_one]
  cases m <;> simp [roundsUp]

theorem floor_div (n d : Nat) : ⌊(n : ℚ) / d⌋ = (n / d : Nat) := by
  rw [Rat.floor_natCast_div_natCast, Int.natCast_div]

/-- Away from zero the quotient is rounded up as soon as there is a remainder. -/
theorem ceil_div (n : Nat) {d : Nat} (hd : 0 < d) :
    ⌈(n : ℚ) / d⌉ = ((if n % d ≠ 0 then n / d + 1 else n / d : Nat) : Int) := by
  have hd' : (0 : ℚ) < d := Nat.cast_pos.mpr hd
  have hn := Nat.div_add_mod' n d
  have hr := Nat.mod_lt n hd
  rw [Int.ceil_eq_iff, lt_div_iff₀ hd', div_le_iff₀ hd']
  split
  next h =>
    have h1 : n / d * d < n := by omega
    have h2 : n ≤ (n / d + 1) * d := by rw [Nat.succ_mul]; omega
    push_cast
    rw [add_sub_cancel_right]
    exact ⟨by exact_mod_cast h1, by exact_mod_cast h2⟩
  next h =>
    have h1 : n ≤ n / d * d := by omega
    have h2 : n / d * d ≤ n := by omega
    have h2' : ((n / d : Nat) : ℚ) * d ≤ n := by exact_mod_cast h2
    refine ⟨?_, by exact_mod_cast h1⟩
    rw [Int.cast_natCast, sub_mul, one_mul]
    linarith

/-- The integer that RNE chooses is the one no further than half away, and even on a tie. -/
theorem roundedInt_rne {x : ℚ} {N : Int} (hle : 2 * x ≤ 2 * N + 1) (hge : 2 * (N : ℚ) ≤ 2 * x + 1)
    (htie : 2 * x = 2 * N + 1 ∨ 2 * (N : ℚ) = 2 * x + 1 → N % 2 = 0) : roundedInt .rne x = N := by
  have hx : x = ⌊x⌋ + Int.fract x := (Int.floor_add_fract x).symm
  have h0 := Int.fract_nonneg x
  have h1 := Int.fract_lt_one x
  unfold roundedInt
  generalize ⌊x⌋ = f at *
  generalize Int.fract x = r at *
  have hlow : f ≤ N := by
    have : (f : ℚ) < N + 1 := by linarith
    have : f < N + 1 := by exact_mod_cast this
    omega
  have hhigh : N ≤ f + 1 := by
    have : (N : ℚ) < f + 2 := by linarith
    have : N < f + 2 := by exact_mod_cast this
    omega
  simp only []
  rcases (show N = f ∨ N = f + 1 by omega) with rfl | rfl
  · rw [if_neg (show ¬1 / 2 < r by linarith)]
    by_cases hr : r < 1 / 2
    · rw [if_pos hr]
    · rw [if_neg hr, if_pos (htie (.inl (by linarith)))]
  · push_cast at hge htie
    rw [if_neg (show ¬r < 1 / 2 by linarith)]
    by_cases hr : 1 / 2 < r
    · rw [if_pos hr]
    · have := htie (.inr (by linarith))
      rw [if_neg hr, if_neg (by omega)]

/-- Rounding a value of sign `s` under a mode rounds its magnitude as `roundDiv` does. -/
theorem roundedInt_signed (m : RMode) (s : Bool) (n : Nat) {d : Nat} (hd : 0 < d) :
    roundedInt m (sgn s * ((n : ℚ) / d)) = if s then -(roundDiv m s n d : Int) else roundDiv m s n d := by
  have hfloor := floor_div n d
  have hceil := ceil_div n hd
  have hpos : (0 : ℚ) ≤ (n : ℚ) / d := by positivity
  have hs : sgn s * ((n : ℚ) / d) = if s then -((n : ℚ) / d) else (n : ℚ) / d := by cases s <;> simp [sgn]
  rw [hs]
  cases m with
  | rne =>
    obtain ⟨hle, hge, htie⟩ := roundDiv_rne s n hd
    generalize roundDiv .rne s n d = N at *
    cases s with
    | false => exact roundedInt_rne hle hge fun h => (by exact_mod_cast htie h : (N : Int) % 2 = 0)
    | true =>
      simp only [if_true]
      refine roundedInt_rne (by push_cast; linarith) (by push_cast; linarith) fun h => ?_
      have := htie (by push_cast at h; rcases h with h | h <;> [right; left] <;> linarith)
      omega
  | rtz =>
    cases s with
    | false => simp [roundedInt, roundDiv, roundsUp, hfloor, hpos]
    | true =>
      have hr : roundDiv .rtz true n d = n / d := by simp [roundDiv, roundsUp]
      simp only [roundedInt, if_true, hr, Int.ceil_neg, hfloor]
      split
      next h =>
        have h0 : (n : ℚ) / d = 0 := by linarith
        rw [h0, Int.floor_zero] at hfloor
        rw [h0, neg_zero, Int.floor_zero, ← hfloor, neg_zero]
      next => rfl
  | rdn => cases s <;> simp [roundedInt, roundDiv, roundsUp, hfloor, hceil, Int.floor_neg]
  | rup => cases s <;> simp [roundedInt, roundDiv, roundsUp, hfloor, hceil, Int.ceil_neg]

/-- The integer of a finite value is a quotient rounded. -/
theorem roundIntMag_eq_roundDiv (m : RMode) (s : Bool) (n : Nat) (e : Int) :
    ∃ n' d' : Nat, 0 < d' ∧ (n' : ℚ) / d' = n * 2 ^ e ∧ roundIntMag m s n e = roundDiv m s n' d' := by
  unfold roundIntMag
  split
  next h =>
    obtain ⟨k, rfl⟩ := Int.eq_ofNat_of_zero_le h
    exact ⟨n * 2 ^ k, 1, one_pos, by push_cast; rw [div_one, zpow_natCast], by rw [roundDiv_one, Int.toNat_natCast]⟩
  next h =>
    obtain ⟨k, hk⟩ := Int.eq_ofNat_of_zero_le (show 0 ≤ -e by omega)
    obtain rfl : e = -(k : Int) := by omega
    exact ⟨n, 2 ^ k, Nat.two_pow_pos k, by push_cast; rw [zpow_neg, zpow_natCast, div_eq_mul_inv],
      by rw [neg_neg, Int.toNat_natCast]⟩

/-- FP32 holds the integer of each of its finite values: of a value that is one already, and of a fraction, whose integer is at most
2^24. -/
theorem roundIntMag_representable {a : Word} {s : Bool} {n : Nat} {e : Int} (ha : f32 a = .fin s n e) (m : RMode) :
    ∃ j, j ≤ fp32.maxCode ∧ (roundIntMag m s n e : ℚ) * 2 ^ (0 : Int) = magValue fp32 j := by
  obtain ⟨hm, hv, hn⟩ := f32_fin ha
  rw [zpow_zero, mul_one]
  unfold roundIntMag
  split
  next h =>
    refine ⟨_, hm, hv.symm ▸ ?_⟩
    obtain ⟨k, rfl⟩ := Int.eq_ofNat_of_zero_le h
    push_cast
    rw [Int.toNat_natCast, zpow_natCast]
  next h =>
    have hle := roundDiv_le m s n (2 ^ (-e).toNat)
    obtain ⟨j, hj, hjv⟩ := exists_magValue fp32 149 (q := roundDiv m s n (2 ^ (-e).toNat)) (hle.trans hn)
    refine ⟨j, hj.trans (by decide), hjv.symm ▸ ?_⟩
    rw [show fp32.emin + ((149 : Nat) : Int) = 0 by decide, zpow_zero, mul_one]

/-- FFLOOR, FCEIL, FTRUNC AND FRINT OF A FINITE VALUE: the integer of the mode, with the operand's sign. -/
theorem fInt_fin {a : Word} {s : Bool} {n : Nat} {e : Int} {x : ℚ} (m : RMode) (ha : f32 a = .fin s n e)
    (hx : ratOf (f32 a) = some x) :
    ∃ k g, f32 (fInt m a) = .fin s k g ∧ ratOf (.fin s k g) = some (roundedInt m x : ℚ) := by
  rw [ha, ratOf_fin, Option.some.injEq] at hx
  have hf : fInt m a = toF32 (.fin s (roundIntMag m s n e) 0) := by rw [fInt, ha]
  obtain ⟨j, hj, hv⟩ := roundIntMag_representable ha m
  obtain ⟨k, g, hd, hk⟩ := toF32_exact hj hv s
  obtain ⟨n', d', hd', hq, hr⟩ := roundIntMag_eq_roundDiv m s n e
  refine ⟨k, g, by rw [hf, hd], ?_⟩
  rw [ratOf_fin, hk, zpow_zero, mul_one, ← hx, ← hq, roundedInt_signed m s n' hd', ← hr]
  cases s <;> simp [sgn]

end Sys2Proof.Rounding
end

section
/-! SUPPORT. FSQRT: the integer root with a sticky bit compares with each middle of two FP32 values as the root does (R154). -/

namespace Sys2Proof.Rounding

open Sys2Proof.Machine

/-! ### The integer root -/

theorem sqrtBits_spec (k : Nat) {n r : Nat} (hle : r * r ≤ n) (hlt : n < (r + 2 ^ k) * (r + 2 ^ k)) :
    sqrtBits k n r * sqrtBits k n r ≤ n ∧ n < (sqrtBits k n r + 1) * (sqrtBits k n r + 1) := by
  induction k generalizing r with
  | zero => exact ⟨hle, by simpa [sqrtBits] using hlt⟩
  | succ k ih =>
    unfold sqrtBits
    simp only []
    split
    next h => exact ih h (by rwa [show r + 2 ^ k + 2 ^ k = r + 2 ^ (k + 1) by ring])
    next h => exact ih hle (by omega)

theorem isqrt_spec {n : Nat} (hn : n < 2 ^ 160) : isqrt n * isqrt n ≤ n ∧ n < (isqrt n + 1) * (isqrt n + 1) :=
  sqrtBits_spec 80 (Nat.zero_le n) (by rwa [Nat.zero_add, ← Nat.pow_add])

/-- The root of the mantissa `m` in half steps: an odd number of them where the root is no integer. -/
def halfSteps (m : Nat) : Nat := 2 * isqrt m + if isqrt m * isqrt m = m then 0 else 1

/-- An integer is on the same side of the half steps as its square is of the number. -/
theorem halfSteps_compare {m : Nat} (hm : m < 2 ^ 160) (i : Nat) :
    (halfSteps m ≤ 2 * i → m ≤ i * i) ∧ (2 * i ≤ halfSteps m → i * i ≤ m) := by
  obtain ⟨hle, hlt⟩ := isqrt_spec hm
  unfold halfSteps
  generalize isqrt m = r at *
  refine ⟨fun h => ?_, fun h => le_trans (Nat.mul_self_le_mul_self (show i ≤ r by split at h <;> omega)) hle⟩
  split at h
  next heq => exact heq ▸ Nat.mul_self_le_mul_self (by omega)
  next => exact hlt.le.trans (Nat.mul_self_le_mul_self (by omega))

theorem halfSteps_ge {m : Nat} (hm : m < 2 ^ 160) (h : 2 ^ 80 ≤ m) : 2 ^ 41 ≤ halfSteps m := by
  have hlt := (isqrt_spec hm).2
  have hr : 2 ^ 40 ≤ isqrt m := by
    by_contra hr
    have := Nat.mul_self_le_mul_self (show isqrt m + 1 ≤ 2 ^ 40 by omega)
    omega
  unfold halfSteps
  omega

/-! ### Middles of neighbouring magnitudes -/

theorem magValue_succ_le_double (F : Fmt) {m : Nat} (hm : 1 ≤ m) : magValue F (m + 1) ≤ 2 * magValue F m := by
  obtain ⟨k, q, rfl, hq, hk⟩ := exists_grid F m
  have hq1 : 1 ≤ q := by have := Nat.two_pow_pos F.fb; rcases hk with rfl | hk <;> omega
  have hq1' : (1 : ℚ) ≤ q := by exact_mod_cast hq1
  have hU := mul_le_mul_of_nonneg_right hq1' (zpow_pos (two_pos (α := ℚ)) (F.emin + k)).le
  rw [magValue_succ hq hk, magValue_grid hq.le hk]
  linarith

/-- The middle of two neighbouring FP32 magnitudes near a value is a whole number of any unit that is 2^40 times smaller than the
value. -/
theorem middle_eq_nat_mul {p : Nat} {E : Int} (h : (2 : ℚ) ^ (40 + E) ≤ 2 * magValue fp32 (p + 1)) :
    ∃ i : Nat, magValue fp32 p + magValue fp32 (p + 1) = 2 * (i * (2 : ℚ) ^ E) := by
  obtain ⟨k, q, rfl, hq, hk⟩ := exists_grid fp32 p
  have hsucc := magValue_succ hq hk
  rw [magValue_grid hq.le hk] at hsucc ⊢
  rw [hsucc] at h ⊢
  have hemin : fp32.emin = -149 := rfl
  have hE : E + 164 ≤ k := by
    have hq' : (q : ℚ) + 1 ≤ 2 ^ (24 : Int) := by exact_mod_cast hq
    have hb := mul_le_mul_of_nonneg_right hq' (zpow_pos (two_pos (α := ℚ)) (fp32.emin + k)).le
    rw [← zpow_add₀ two_ne_zero] at hb
    have hc : (2 : ℚ) ^ (40 + E) ≤ 2 ^ (1 + (24 + (fp32.emin + k))) := by
      rw [zpow_add₀ two_ne_zero 1, zpow_one]
      linarith
    have := (zpow_le_zpow_iff_right₀ (one_lt_two (α := ℚ))).mp hc
    omega
  obtain ⟨j, hj⟩ := Int.eq_ofNat_of_zero_le (show 0 ≤ (k : Int) - 150 - E by omega)
  refine ⟨(2 * q + 1) * 2 ^ j, ?_⟩
  rw [hemin, show (-149 : Int) + k = 1 + (j + E) by omega, zpow_add₀ two_ne_zero, zpow_one, zpow_add₀ two_ne_zero, zpow_natCast]
  push_cast
  ring

/-! ### The root of a value -/

/-- `v` stands for the root of `x` in units `U`: it is on the same side of each whole number of units as the root is. -/
def StandsForRoot (x v U : ℚ) : Prop := ∀ i : Nat, (v ≤ i * U → x ≤ (i * U) ^ 2) ∧ (i * U ≤ v → (i * U) ^ 2 ≤ x)

/-- The mantissa of `fSqrt`, with 80 or 81 bits below it so that its exponent is even. -/
def rootMantissa (n : Nat) (e : Int) : Nat := n * 2 ^ (80 + (e % 2).toNat)

/-- The exponent of the integer root. -/
def rootExp (e : Int) : Int := (e - e % 2 - 80) / 2

theorem fSqrt_eq {a : Word} {n : Nat} {e : Int} (ha : f32 a = .fin false n e) (hn : n ≠ 0) :
    fSqrt a = toF32 (.fin false (halfSteps (rootMantissa n e)) (rootExp e - 1)) := by
  rw [fSqrt, ha]
  exact if_neg hn

theorem rootMantissa_mul (n : Nat) (e : Int) : (rootMantissa n e : ℚ) * (2 ^ rootExp e) ^ 2 = n * 2 ^ e := by
  obtain ⟨o, ho⟩ := Int.eq_ofNat_of_zero_le (show 0 ≤ e % 2 by omega)
  have hE : ((80 + o : Nat) : Int) + (rootExp e + rootExp e) = e := by
    unfold rootExp
    push_cast
    omega
  rw [rootMantissa, ho, Int.toNat_natCast, Nat.cast_mul, Nat.cast_pow, Nat.cast_ofNat, pow_two, ← zpow_natCast, mul_assoc,
    ← zpow_add₀ two_ne_zero, ← zpow_add₀ two_ne_zero, hE]

theorem rootMantissa_bounds {n : Nat} (e : Int) (hn : n ≠ 0) (hlt : n < 2 ^ 24) :
    2 ^ 80 ≤ rootMantissa n e ∧ rootMantissa n e < 2 ^ 160 := by
  have h81 : 2 ^ (80 + (e % 2).toNat) ≤ 2 ^ 81 := Nat.pow_le_pow_right two_pos (by omega)
  have h80 : 2 ^ 80 ≤ 2 ^ (80 + (e % 2).toNat) := Nat.pow_le_pow_right two_pos (by omega)
  unfold rootMantissa
  constructor
  · exact h80.trans (Nat.le_mul_of_pos_left _ (Nat.pos_of_ne_zero hn))
  · exact lt_of_le_of_lt (Nat.mul_le_mul hlt.le h81) (by norm_num)

theorem halfSteps_standsForRoot {m : Nat} (hm : m < 2 ^ 160) (E : Int) :
    StandsForRoot (m * (2 ^ E) ^ 2) (halfSteps m * (2 : ℚ) ^ (E - 1)) (2 ^ E) := by
  intro i
  obtain ⟨hup, hdown⟩ := halfSteps_compare hm i
  have hU : (0 : ℚ) < 2 ^ E := zpow_pos two_pos E
  have hv : (halfSteps m : ℚ) * 2 ^ (E - 1) = halfSteps m / 2 * 2 ^ E := by
    rw [zpow_sub_one₀ two_ne_zero]
    ring
  rw [hv, mul_pow, mul_le_mul_iff_left₀ hU, mul_le_mul_iff_left₀ hU, mul_le_mul_iff_left₀ (pow_pos hU 2),
    mul_le_mul_iff_left₀ (pow_pos hU 2), div_le_iff₀ two_pos, le_div_iff₀ two_pos, pow_two]
  rw [Nat.mul_comm] at hup hdown
  exact ⟨fun h => by exact_mod_cast hup (by exact_mod_cast h), fun h => by exact_mod_cast hdown (by exact_mod_cast h)⟩

/-- The magnitude nearest a value that stands for a root is nearest the root: the middles on both sides compare with the root as
with the value. -/
theorem middles_of_standsForRoot {x v : ℚ} {E : Int} {m : Nat} (h : StandsForRoot x v (2 ^ E)) (hv : (2 : ℚ) ^ (40 + E) ≤ v)
    (hr : RneMag fp32 v m) {j : Nat} :
    (m < j → x ≤ ((magValue fp32 m + magValue fp32 j) / 2) ^ 2) ∧
    (j < m → ((magValue fp32 m + magValue fp32 j) / 2) ^ 2 ≤ x) := by
  have hmono := magValue_strictMono fp32
  have hup := hr.le_above
  have hm0 := magValue_nonneg fp32 m
  have hj0 := magValue_nonneg fp32 j
  have hms := hmono (Nat.lt_succ_self m)
  refine ⟨fun hlt => ?_, fun hlt => ?_⟩
  · obtain ⟨i, hi⟩ := middle_eq_nat_mul (p := m) (E := E) (by linarith)
    have hnext := hmono.monotone (show m + 1 ≤ j by omega)
    refine ((h i).1 (by linarith)).trans (pow_le_pow_left₀ ?_ (by linarith) 2)
    positivity
  · obtain ⟨p, rfl⟩ : ∃ p, m = p + 1 := ⟨m - 1, by omega⟩
    have hdouble := magValue_succ_le_double fp32 (show 1 ≤ p + 1 by omega)
    obtain ⟨i, hi⟩ := middle_eq_nat_mul (p := p) (E := E) (by linarith)
    have hprev := hmono.monotone (show j ≤ p by omega)
    have hd := hr.ge_below p rfl
    exact (pow_le_pow_left₀ (by positivity) (by linarith) 2).trans ((h i).2 (by linarith))

theorem ratOf_toF32 {n : Nat} {e : Int} (h : roundMag fp32 .rne false n 1 e ≤ fp32.maxCode) :
    ratOf (f32 (toF32 (.fin false n e))) = some (magValue fp32 (roundMag fp32 .rne false n 1 e)) := by
  have hroom := fp32_ieee.room
  obtain ⟨hs, hm⟩ := signed_codeSign (F := fp32) (show roundMag fp32 .rne false n 1 e < fp32.signBit by omega) false
  rw [f32_eq_decode, toF32_fin_toNat, min_eq_left (by omega), ratOf_decodeFP (by rwa [hm]), hs, hm, sgn,
    if_neg Bool.false_ne_true, one_mul]

/-- The root of a finite FP32 value does not overflow. -/
theorem root_le_maxCode {x v : ℚ} {E : Int} {m : Nat} (h : StandsForRoot x v (2 ^ E)) (hE : E ≤ 127) (hx : x < 2 ^ (128 : Int))
    (hr : RneMag fp32 v m) : m ≤ fp32.maxCode := by
  by_contra hlt
  obtain ⟨p, rfl⟩ : ∃ p, m = p + 1 := ⟨m - 1, by omega⟩
  have hinf := (magValue_strictMono fp32).monotone (show fp32.maxCode + 1 ≤ p + 1 by omega)
  have hd := hr.ge_below p rfl
  have hp := magValue_nonneg fp32 p
  obtain ⟨j, hj⟩ := Int.eq_ofNat_of_zero_le (show 0 ≤ 127 - E by omega)
  have hi : ((2 ^ j : Nat) : ℚ) * 2 ^ E = 2 ^ (127 : Int) := by
    rw [Nat.cast_pow, Nat.cast_ofNat, ← zpow_natCast, ← zpow_add₀ two_ne_zero, show (j : Int) + E = 127 by omega]
  have h127 : (2 : ℚ) ^ (128 : Int) = 2 * 2 ^ (127 : Int) := zpow_one_add₀ two_ne_zero 127
  have hsq := (h (2 ^ j)).2 (by rw [hi]; rw [magValue_infinity] at hinf; linarith)
  rw [hi] at hsq
  have hbig : (2 : ℚ) ^ (128 : Int) ≤ (2 ^ (127 : Int)) ^ 2 := by norm_num
  linarith

/-- A finite value that is not negative is a magnitude. -/
theorem magnitude_of_nonneg {c : Nat} {z : ℚ} (hz : ratOf (decodeFP fp32 c) = some z) (h0 : 0 ≤ z) :
    ∃ j, z = magValue fp32 j := by
  rcases Nat.lt_trichotomy (codeMag fp32 c) (fp32.maxCode + 1) with h | h | h
  · rw [ratOf_decodeFP (by omega), Option.some.injEq] at hz
    have hm := magValue_nonneg fp32 (codeMag fp32 c)
    cases hs : codeSign fp32 c with
    | false => exact ⟨codeMag fp32 c, by rw [← hz, hs, sgn, if_neg Bool.false_ne_true, one_mul]⟩
    | true =>
      rw [hs, sgn, if_pos rfl, neg_one_mul] at hz
      exact ⟨codeMag fp32 c, by linarith⟩
  · rw [decodeFP_inf fp32_ieee h] at hz
    cases hz
  · rw [decodeFP_nan fp32_ieee h] at hz
    cases hz

/-- FSQRT OF A POSITIVE VALUE: the FP32 value whose middles with all others lie on the same side of the root as the others do. -/
theorem fSqrt_nearest {a : Word} {n : Nat} {e : Int} {x : ℚ} (ha : f32 a = .fin false n e) (hn : n ≠ 0)
    (hx : ratOf (f32 a) = some x) :
    ∃ y, 0 ≤ y ∧ ratOf (f32 (fSqrt a)) = some y ∧ ∀ c z, ratOf (decodeFP fp32 c) = some z → 0 ≤ z →
      (y < z → x ≤ ((y + z) / 2) ^ 2) ∧ (z < y → ((y + z) / 2) ^ 2 ≤ x) := by
  rw [ha, ratOf_fin, sgn, if_neg Bool.false_ne_true, one_mul, Option.some.injEq] at hx
  obtain ⟨-, -, hlt⟩ := f32_fin ha
  obtain ⟨-, hx128⟩ := f32_fin_bounds ha hn
  obtain ⟨hlow, hhigh⟩ := rootMantissa_bounds e hn hlt
  have hroot := halfSteps_standsForRoot hhigh (rootExp e)
  rw [rootMantissa_mul, hx] at hroot
  have hr := roundMag_fin false (halfSteps (rootMantissa n e)) (rootExp e - 1)
  have hv : (2 : ℚ) ^ (40 + rootExp e) ≤ halfSteps (rootMantissa n e) * 2 ^ (rootExp e - 1) := by
    have hge : (2 : ℚ) ^ (41 : Int) ≤ halfSteps (rootMantissa n e) := by exact_mod_cast halfSteps_ge hhigh hlow
    rw [show 40 + rootExp e = 41 + (rootExp e - 1) by ring, zpow_add₀ two_ne_zero]
    exact mul_le_mul_of_nonneg_right hge (by positivity)
  have hE : rootExp e ≤ 127 := by
    have hn1 : (1 : ℚ) ≤ n := Nat.one_le_cast.mpr (Nat.one_le_iff_ne_zero.mpr hn)
    have he : (2 : ℚ) ^ e < 2 ^ (128 : Int) := (le_mul_of_one_le_left (by positivity) hn1).trans_lt hx128
    have := (zpow_lt_zpow_iff_right₀ (one_lt_two (α := ℚ))).mp he
    unfold rootExp
    omega
  have hm := root_le_maxCode hroot hE (hx ▸ hx128) hr
  refine ⟨_, magValue_nonneg fp32 _, by rw [fSqrt_eq ha hn]; exact ratOf_toF32 hm, fun c z hz hz0 => ?_⟩
  obtain ⟨j, rfl⟩ : ∃ j, z = magValue fp32 j := magnitude_of_nonneg hz hz0
  obtain ⟨habove, hbelow⟩ := middles_of_standsForRoot hroot hv hr (j := j)
  have hmono := magValue_strictMono fp32
  exact ⟨fun h => habove (hmono.lt_iff_lt.mp h), fun h => hbelow (hmono.lt_iff_lt.mp h)⟩

end Sys2Proof.Rounding
end

section
/-! SUPPORT. O5: FP32 arithmetic, FMIN and FMAX, the exact unary functions, and FCLASS. -/

namespace Sys2Proof.Rounding

open Sys2Proof.Machine

/-! ### Special values (R152 to R154) -/

theorem eq_nan_of_isNan {x : Machine.Num} (h : x.isNan) : x = .nan := by
  cases x with
  | nan => rfl
  | inf s => cases h
  | fin s n e => cases h

theorem toF32_inf (s : Bool) : toF32 (.inf s) = if s then 0xFF800000 else 0x7F800000 := by cases s <;> decide

theorem toF32_signedZero (s : Bool) : toF32 (.fin s 0 0) = if s then 0x80000000 else 0 := by cases s <;> decide

theorem fDiv_zero {a b : Word} {s t : Bool} {n : Nat} {e f : Int} (ha : f32 a = .fin s n e) (hb : f32 b = .fin t 0 f) :
    fDiv a b = if n = 0 then 0x7FC00000 else if s != t then 0xFF800000 else 0x7F800000 := by
  rw [fDiv, ha, hb, ← toF32_inf]
  rfl

theorem fDiv_inf_fin {a b : Word} {s t : Bool} {d : Nat} {f : Int} (ha : f32 a = .inf s) (hb : f32 b = .fin t d f) :
    fDiv a b = if s != t then 0xFF800000 else 0x7F800000 := by
  rw [fDiv, ha, hb, ← toF32_inf]

theorem fDiv_fin_inf {a b : Word} {s t : Bool} {n : Nat} {e : Int} (ha : f32 a = .inf s) (hb : f32 b = .fin t n e) :
    fDiv b a = if s != t then 0x80000000 else 0 := by
  rw [fDiv, ha, hb, ← toF32_signedZero, bne_comm]

theorem fDiv_inf_inf {a b : Word} {s t : Bool} (ha : f32 a = .inf s) (hb : f32 b = .inf t) : fDiv a b = 0x7FC00000 := by
  rw [fDiv, ha, hb]
  rfl

theorem fDiv_nan {a b : Word} (h : (f32 a).isNan ∨ (f32 b).isNan) : fDiv a b = 0x7FC00000 := by
  rcases h with h | h
  · rw [fDiv, eq_nan_of_isNan h]
    rfl
  · rw [fDiv, eq_nan_of_isNan h]
    cases f32 a <;> rfl

theorem fScale_nan {a : Word} (b : Word) (h : (f32 a).isNan) : fScale a b = 0x7FC00000 := by
  rw [fScale, eq_nan_of_isNan h]
  rfl

theorem fInt_inf {a : Word} {s : Bool} (m : RMode) (h : f32 a = .inf s) : fInt m a = a := by rw [fInt, h]

theorem fInt_nan {a : Word} (m : RMode) (h : (f32 a).isNan) : fInt m a = 0x7FC00000 := by
  rw [fInt, eq_nan_of_isNan h]
  rfl

theorem fSqrt_zero {a : Word} {s : Bool} {e : Int} (h : f32 a = .fin s 0 e) : fSqrt a = a := by
  rw [fSqrt, h]
  rfl

theorem fSqrt_negative {a : Word} {n : Nat} {e : Int} (h : f32 a = .fin true n e) (hn : n ≠ 0) : fSqrt a = 0x7FC00000 := by
  rw [fSqrt, h]
  exact if_neg hn

theorem fSqrt_nan {a : Word} (h : (f32 a).isNan) : fSqrt a = 0x7FC00000 := by
  rw [fSqrt, eq_nan_of_isNan h]
  rfl

/-! ### FMIN, FMAX, FABS and FCLASS (R153, R154, R156) -/

theorem fMin_eq (a b : Word) : fMin a b =
    if (f32 a).isNan ∧ (f32 b).isNan then 0x7FC00000 else if (f32 a).isNan then b else if (f32 b).isNan then a
    else if fLess b a then b else a := by
  unfold fMin
  cases (f32 a).isNan <;> cases (f32 b).isNan <;> rfl

theorem fMax_eq (a b : Word) : fMax a b =
    if (f32 a).isNan ∧ (f32 b).isNan then 0x7FC00000 else if (f32 a).isNan then b else if (f32 b).isNan then a
    else if fLess a b then b else a := by
  unfold fMax
  cases (f32 a).isNan <;> cases (f32 b).isNan <;> rfl

theorem fAbs_eq (a : Word) : fAbs a = if (f32 a).isNan then 0x7FC00000 else BitVec.ofNat 32 (a.toNat % 2 ^ 31) := by
  have h : a &&& 0x7FFFFFFF = BitVec.ofNat 32 (a.toNat % 2 ^ 31) := by
    apply BitVec.eq_of_toNat_eq
    rw [BitVec.toNat_and, BitVec.toNat_ofNat, Nat.mod_eq_of_lt (by omega)]
    exact Nat.and_two_pow_sub_one_eq_mod a.toNat 31
  rw [fAbs, h]
  rfl

/-- What a word decodes to, by its sign, exponent and fraction fields (R102). -/
theorem f32_eq_fields (a : Word) :
    f32 a =
      if a.toNat / 2 ^ 23 % 2 ^ 8 = 255 then (if a.toNat % 2 ^ 23 = 0 then .inf (decide (2 ^ 31 ≤ a.toNat)) else .nan)
      else if a.toNat / 2 ^ 23 % 2 ^ 8 = 0 then .fin (decide (2 ^ 31 ≤ a.toNat)) (a.toNat % 2 ^ 23) fp32.emin
      else .fin (decide (2 ^ 31 ≤ a.toNat)) (2 ^ 23 + a.toNat % 2 ^ 23) (fp32.emin + (a.toNat / 2 ^ 23 % 2 ^ 8 : Nat) - 1) := by
  have ha := a.isLt
  have hsign : (a.toNat / fp32.signBit % 2 == 1) = decide (2 ^ 31 ≤ a.toNat) := by
    rw [show fp32.signBit = 2 ^ 31 from rfl, Bool.beq_eq_decide_eq, decide_eq_decide]
    omega
  have hx : a.toNat % fp32.signBit / 2 ^ fp32.fb = a.toNat / 2 ^ 23 % 2 ^ 8 := by
    rw [show fp32.signBit = 2 ^ 31 from rfl, show fp32.fb = 23 from rfl]
    omega
  have hf : a.toNat % fp32.signBit % 2 ^ fp32.fb = a.toNat % 2 ^ 23 := by
    rw [show fp32.signBit = 2 ^ 31 from rfl, show fp32.fb = 23 from rfl]
    omega
  have hfin : a.toNat % fp32.signBit ≤ fp32.maxCode ↔ ¬a.toNat / 2 ^ 23 % 2 ^ 8 = 255 := by
    rw [show fp32.signBit = 2 ^ 31 from rfl, show fp32.maxCode = 0x7F7FFFFF from rfl]
    omega
  have hinf : a.toNat / 2 ^ 23 % 2 ^ 8 = 255 → (some (a.toNat % fp32.signBit) = fp32.infCode ↔ a.toNat % 2 ^ 23 = 0) := by
    rw [show fp32.signBit = 2 ^ 31 from rfl, show fp32.infCode = some 0x7F800000 from rfl, Option.some.injEq]
    omega
  rw [f32, decodeFP]
  simp only [hsign, hx, hf, hfin]
  by_cases h : a.toNat / 2 ^ 23 % 2 ^ 8 = 255
  · simp only [h, hinf h, not_true_eq_false, if_false, if_true]
  · simp only [h, not_false_eq_true, if_true, if_false]
    rfl

theorem fClass_eq (a : Word) : fClass a =
    (let neg := decide (2 ^ 31 ≤ a.toNat)
      let x := a.toNat / 2 ^ 23 % 2 ^ 8
      let f := a.toNat % 2 ^ 23
      if x = 255 then (if f = 0 then (if neg then 0x001 else 0x080) else if 2 ^ 22 ≤ f then 0x200 else 0x100)
      else if x = 0 then (if f = 0 then (if neg then 0x008 else 0x010) else (if neg then 0x004 else 0x020))
      else (if neg then 0x002 else 0x040)) := by
  have hquiet : a.getLsbD 22 = decide (2 ^ 22 ≤ a.toNat % 2 ^ 23) := by
    rw [BitVec.getLsbD, Nat.testBit_eq_decide_div_mod_eq, decide_eq_decide]
    omega
  have hfrac := Nat.mod_lt a.toNat (Nat.two_pow_pos 23)
  rw [fClass, f32_eq_fields, hquiet]
  generalize a.toNat % 2 ^ 23 = f at *
  generalize a.toNat / 2 ^ 23 % 2 ^ 8 = x
  generalize decide (2 ^ 31 ≤ a.toNat) = neg
  simp only []
  by_cases hx : x = 255
  · rw [if_pos hx, if_pos hx]
    by_cases hf : f = 0
    · simp only [if_pos hf]
    · simp only [if_neg hf, decide_eq_true_eq]
  · rw [if_neg hx, if_neg hx]
    by_cases h0 : x = 0
    · simp only [if_pos h0, if_pos hfrac]
    · simp only [if_neg h0, if_neg (show ¬2 ^ 23 + f = 0 by omega), if_neg (show ¬2 ^ 23 + f < 2 ^ 23 by omega)]

end Sys2Proof.Rounding

open Sys2Proof Sys2Proof.Machine Sys2Proof.Rounding

theorem floatArithmetic : Says.FloatArithmetic := by
  refine ⟨fun e vd xa xb => ?_, fun a b s n e t d f ha hb => ⟨fun x y hd hx hy => fDiv_rounded ha hb hd hx hy, ?_, ?_⟩,
    fun a b s t ha => ⟨fun d f hb => fDiv_inf_fin ha hb, fun n e hb => fDiv_fin_inf ha hb, fun hb => fDiv_inf_inf ha hb⟩,
    fun a b h => fDiv_nan h, fun a b s n e x ha hx => fScale_rounded ha hx, fun a b s ha => fScale_inf b ha,
    fun a b h => fScale_nan b h, fun m a s n e x ha hx => fInt_fin m ha hx, fun m a s ha => fInt_inf m ha,
    fun m a h => fInt_nan m h, fun a n e x ha hn hx => fSqrt_nearest ha hn hx,
    fun a s n e ha => ⟨?_, ?_⟩, by decide, by decide, fun a h => fSqrt_nan h⟩
  · exact ⟨writesV_lane2 (f := fAdd) (fun _ => rfl) rfl,
      writesV_lane2 (f := fSub) (fun _ => rfl) rfl,
      writesV_lane2 (f := fMul) (fun _ => rfl) rfl,
      writesV_lane3 (f := fFma) (fun _ => rfl) rfl,
      writesV_lane2 (fun _ => rfl) rfl,
      writesV_lane2 (fun _ => rfl) rfl,
      writesV_lane2_eq fMin_eq (fun _ => rfl) rfl,
      writesV_lane2_eq fMax_eq (fun _ => rfl) rfl,
      writesV_lane1_eq fAbs_eq (fun _ => rfl) rfl,
      writesV_lane1 (f := fNeg) (fun _ => rfl) rfl,
      writesV_lane1 (fun _ => rfl) rfl,
      writesV_lane1 (fun _ => rfl) rfl,
      writesV_lane1 (fun _ => rfl) rfl,
      writesV_lane1 (fun _ => rfl) rfl,
      writesV_lane1 (fun _ => rfl) rfl⟩
  · rintro rfl hn
    rw [fDiv_zero ha hb, if_neg hn]
  · rintro rfl rfl
    rw [fDiv_zero ha hb, if_pos rfl]
  · rintro rfl
    exact fSqrt_zero ha
  · rintro hn rfl
    exact fSqrt_negative ha hn

theorem floatClasses : Says.FloatClasses := fun _ _ _ => writesV_lane1_eq fClass_eq (fun _ => rfl) rfl

/-- Settles O5: each value function rounds an exact value once, as `roundQ_rounded`, `fInt_fin` and `fSqrt_nearest` say. -/
theorem floatValuesAndClasses : Obligations.FloatValuesAndClasses := ⟨floatArithmetic, floatClasses⟩

end
